-- ==== Sys2Proof/Word.lean ====
section
/-! DEFINITION. The plain types of the machine: words, bytes, register images, predicates (spec 03 R45-R48, 04 R82). -/
namespace Sys2Proof

/-- A 64-bit scalar register (R45). -/
abbrev Word := BitVec 64
/-- A byte of memory. -/
abbrev Byte := BitVec 8
/-- One 32-bit lane (R46). -/
abbrev Lane := BitVec 32
/-- A predicate register: bit l belongs to lane l (R47). -/
abbrev Pred := BitVec 128
/-- A 512-byte register image or store row, least significant byte first (R46, R54). -/
abbrev Image := BitVec 4096
/-- A format tag (R82). -/
abbrev Tag := BitVec 5
/-- A code address, counted in bundles (R131). -/
abbrev CodeAddr := BitVec 14

/-- A sparse table: pairs of key and value, keys strictly rising; an unlisted key has the default of the table. -/
abbrev Map (α : Type) := List (Nat × α)

end Sys2Proof
end

