-- ==== Sys2Proof/Config.lean ====
section
/-! DEFINITION. What the device fixes (spec 01 R12) and the free values: constants without a body, of which nothing can be
proved but what holds for every value (NOTES.md, Assumptions 7 and 8). -/
namespace Sys2Proof.Config

/-- Cores of the package (R9). -/
def numCores : Nat := 96
/-- Dies of the package (R9). -/
def numDies : Nat := 12
/-- Rows of one core's store (R54). -/
def storeRows : Nat := 131072
/-- Tile slots of one core's store (R54). -/
def storeTiles : Nat := 4096
/-- Clocks of one age tick (R11). -/
def tickClocks : Nat := 2048
/-- Clocks in one microsecond (R11). -/
def clocksPerUs : Nat := 2500
/-- Installed HBM4 capacity in bytes: 24 stacks of 48 GiB (R12). -/
def hbmBytes : Nat := 24 * 48 * 2 ^ 30
/-- Memory requests that one core may have outstanding (R12). -/
def memoryRequests : Nat := 2048
/-- Commands one engine queue holds (R200). -/
def engineQueue : Nat := 16
/-- Spawn sets one die's staging buffer holds (R306). -/
def stagingSets : Nat := 1024

/-- The length in clocks of an event for which the manual gives no offset (R111, R205, R208, R424): the n-th such event of a run.
FREE VALUE (log 7). -/
opaque freeDelay : Nat → Nat
/-- The n-th choice between two permitted outcomes, one bit per granule of a row (R122). FREE VALUE (log 8). -/
opaque freeChoice : Nat → BitVec 8
/-- The n-th 64 KiB page whose bytes the manual calls undefined until written (R308). FREE VALUE (log 8). -/
opaque freePage : Nat → BitVec 524288

/-- The n-th word whose value the manual does not state (R192 for an SC4 element at half a byte). FREE VALUE (log 8). -/
opaque freeWord : Nat → BitVec 64

/-- The n-th row that a remote device sends (R204 kind 0x8). FREE VALUE (log 8). -/
opaque freeRow : Nat → BitVec 4096

/-- What the hottest sensor of a core reads, in °C, in the n-th tick of the device (R64). FREE VALUE (log 8). -/
opaque freeSensor : Nat → Nat → Nat

/-- Redundant lanes of one HBM4 channel (R447). FREE VALUE (log 8). -/
opaque redundantLanes : Nat

/-- Clocks of one scrub period, 24 hours (R446). -/
def scrubClocks : Nat := 216000000000000

end Sys2Proof.Config
end

