-- ==== Sys2Proof/Syntax.lean ====
section
/-! DEFINITION. The instruction set as data: the syllable's head (spec 06 R133), the ten body families (R138) and ONE constructor
for every row of spec/opcode_table.json: first the syllables and, between them in the table's order, the engine operations and
events of the machine, which have no encoding and name the agent they happen to. -/
namespace Sys2Proof

/-- The four slots of a bundle (R129). -/
inductive Slot where
  | a | s | v | x
deriving DecidableEq, Repr

/-- A syllable's head: its slot and its guard (R133, R134). -/
structure Hd where
  slot : Slot
  tt : BitVec 8
  pa : BitVec 5
  pb : BitVec 5
  pc : BitVec 5
deriving DecidableEq, Repr

/-- Family XRR (R138). -/
structure XRR where
  xd : BitVec 6
  xa : BitVec 6
  xb : BitVec 6
  m : BitVec 15
deriving DecidableEq, Repr

/-- Family VRR (R138). -/
structure VRR where
  nd : BitVec 9
  na : BitVec 9
  nb : BitVec 9
  qm : BitVec 2
  m : BitVec 4
deriving DecidableEq, Repr

/-- Family XI (R138). -/
structure XI where
  xd : BitVec 6
  xa : BitVec 6
  imm : BitVec 21
deriving DecidableEq, Repr

/-- Family XL (R138). -/
structure XL where
  xd : BitVec 6
  imm : BitVec 27
deriving DecidableEq, Repr

/-- Family PC-X, `cmp` (R138); z is the field marked zero. -/
structure PCX where
  pd : BitVec 5
  pe : BitVec 5
  cond : BitVec 4
  comb : BitVec 2
  xa : BitVec 6
  xb : BitVec 6
  z : BitVec 5
deriving DecidableEq, Repr

/-- Family PC-I, `cmpi` (R138). -/
structure PCI where
  pd : BitVec 5
  pe : BitVec 5
  cond : BitVec 4
  comb : BitVec 2
  xa : BitVec 6
  imm : BitVec 11
deriving DecidableEq, Repr

/-- Family PC-V, `vcmp` (R138). -/
structure PCV where
  pd : BitVec 5
  pe : BitVec 5
  na : BitVec 9
  nb : BitVec 9
  cond : BitVec 3
  comb : BitVec 2
deriving DecidableEq, Repr

/-- Family PC-T, `ptt` (R138). -/
structure PCT where
  pd : BitVec 5
  tt : BitVec 8
  pa : BitVec 5
  pb : BitVec 5
  pc : BitVec 5
  z : BitVec 5
deriving DecidableEq, Repr

/-- Family BR (R138). -/
structure BR where
  xd : BitVec 6
  z : BitVec 6
  off : BitVec 21
deriving DecidableEq, Repr

/-- Family BR-F, `fork` (R138). -/
structure BRF where
  z : BitVec 1
  offA : BitVec 16
  offE : BitVec 16
deriving DecidableEq, Repr

/-- Family LP (R138): i, the end offset and bits 17:0. -/
structure LP where
  i : BitVec 1
  stop : BitVec 14
  low : BitVec 18
deriving DecidableEq, Repr

/-- Family EC, `ecmd` (R138). -/
structure EC where
  eng : BitVec 4
  xcmd : BitVec 6
  xcount : BitVec 6
  z : BitVec 17
deriving DecidableEq, Repr

/-- Family XF, `xmit` (R138): port, kind, bits 27:19 (a vector name, or xa in bits 27:22), zero, cycle. -/
structure XFM where
  port : BitVec 4
  kind : BitVec 1
  src : BitVec 9
  z : BitVec 3
  cycle : BitVec 16
deriving DecidableEq, Repr

/-- Family XF, `xsel` (R138). -/
structure XFS where
  outp : BitVec 4
  inp : BitVec 4
  z : BitVec 9
  cycle : BitVec 16
deriving DecidableEq, Repr

/-- Family XF, `xred` (R138). -/
structure XFR where
  xa : BitVec 6
  src : BitVec 9
  z : BitVec 2
  cycle : BitVec 16
deriving DecidableEq, Repr

/-- Family TR, `tup` and `tdn` (R138). -/
structure TRS where
  t : BitVec 9
  tbase : BitVec 9
  shape : BitVec 6
  copy : BitVec 1
  qm : BitVec 2
  z : BitVec 6
deriving DecidableEq, Repr

/-- Family TR, `tld` and `tst` (R138): n is the number of lanes minus 1. -/
structure TRL where
  t : BitVec 9
  vn : BitVec 9
  n : BitVec 7
  qm : BitVec 2
  z : BitVec 6
deriving DecidableEq, Repr

/-- Family TR, `tshp` (R138). -/
structure TRH where
  z : BitVec 18
  shape : BitVec 6
  z2 : BitVec 3
  xa : BitVec 6
deriving DecidableEq, Repr

/-- Family TR, `tscl` (R138). -/
structure TRC where
  z : BitVec 24
  mode : BitVec 1
  z2 : BitVec 2
  xa : BitVec 6
deriving DecidableEq, Repr

/-- The body of an instruction that has none: it must be zero (R143). -/
structure NB where
  z : BitVec 33
deriving DecidableEq, Repr

/-- Every row of spec/opcode_table.json, in its order; the rows that only arrive from outside the machine stand last. -/
inductive Instr where
  /-- NOP (R166): Issues a no-op syllable in slot A or S. -/
  | nop (h : Hd) (b : NB)
  /-- ADD (R149): Writes xa + xb modulo 2^64 into xd at latency 1. -/
  | add (h : Hd) (b : XRR)
  /-- SUB (R149): Writes xa − xb modulo 2^64 into xd. -/
  | sub (h : Hd) (b : XRR)
  /-- AND (R149): Writes the bitwise AND of xa and xb into xd. -/
  | and (h : Hd) (b : XRR)
  /-- OR (R149): Writes the bitwise OR of xa and xb into xd. -/
  | or (h : Hd) (b : XRR)
  /-- XOR (R149): Writes the bitwise XOR of xa and xb into xd. -/
  | xor (h : Hd) (b : XRR)
  /-- SHL (R149): Shifts xa left by xb[5:0]. -/
  | shl (h : Hd) (b : XRR)
  /-- SHR (R149): Shifts xa right logically by xb[5:0]. -/
  | shr (h : Hd) (b : XRR)
  /-- SRA (R149): Shifts xa right arithmetically by xb[5:0]. -/
  | sra (h : Hd) (b : XRR)
  /-- MUL (R149): Writes the low 64 bits of xa × xb at latency 3. -/
  | mul (h : Hd) (b : XRR)
  /-- MULH (R149): Writes the high 64 bits of the signed product. -/
  | mulh (h : Hd) (b : XRR)
  /-- MULHU (R149): Writes the high 64 bits of the unsigned product. -/
  | mulhu (h : Hd) (b : XRR)
  /-- MIN (R149): Writes the signed minimum of xa and xb. -/
  | min (h : Hd) (b : XRR)
  /-- MINU (R149): Writes the unsigned minimum of xa and xb. -/
  | minu (h : Hd) (b : XRR)
  /-- MAX (R149): Writes the signed maximum of xa and xb. -/
  | max (h : Hd) (b : XRR)
  /-- MAXU (R149): Writes the unsigned maximum of xa and xb. -/
  | maxu (h : Hd) (b : XRR)
  /-- SEL (R152): Selects xa or xb by bit 0 of a predicate. -/
  | sel (h : Hd) (b : XRR)
  /-- CLZ (R149): Counts the leading zero bits of xa. -/
  | clz (h : Hd) (b : XRR)
  /-- POPC (R149): Counts the one bits of xa. -/
  | popc (h : Hd) (b : XRR)
  /-- BEXT (R153): Extracts a bit field of xa, zero- or sign-extended. -/
  | bext (h : Hd) (b : XRR)
  /-- BINS (R153): Inserts the low bits of xa into a field of xd. -/
  | bins (h : Hd) (b : XRR)
  /-- ADDI (R150): Adds a sign-extended 21-bit immediate to xa. -/
  | addi (h : Hd) (b : XI)
  /-- ANDI (R150): ANDs xa with a sign-extended immediate. -/
  | andi (h : Hd) (b : XI)
  /-- ORI (R150): ORs xa with a sign-extended immediate. -/
  | ori (h : Hd) (b : XI)
  /-- XORI (R150): XORs xa with a sign-extended immediate. -/
  | xori (h : Hd) (b : XI)
  /-- SHLI (R150): Shifts xa left by an immediate 0–63. -/
  | shli (h : Hd) (b : XI)
  /-- SHRI (R150): Shifts xa right logically by an immediate. -/
  | shri (h : Hd) (b : XI)
  /-- SRAI (R150): Shifts xa right arithmetically by an immediate. -/
  | srai (h : Hd) (b : XI)
  /-- MOVI (R151): Writes a sign-extended 27-bit immediate into xd. -/
  | movi (h : Hd) (b : XL)
  /-- MOVHI (R151): Shifts xd left by 27 bits and inserts a 27-bit immediate. -/
  | movhi (h : Hd) (b : XL)
  /-- CMP (R154): Compares two registers and writes broadcast predicate results under comb. -/
  | cmp (h : Hd) (b : PCX)
  /-- CMPI (R154): Compares a register with an immediate and writes broadcast predicate results. -/
  | cmpi (h : Hd) (b : PCI)
  /-- PTT (R155): Computes a per-lane truth table of three predicates into pd. -/
  | ptt (h : Hd) (b : PCT)
  /-- BR (R156): Branches to a PC-relative target and pops loop levels it leaves. -/
  | br (h : Hd) (b : BR)
  /-- CALL (R156): Writes the link into xd and branches. -/
  | call (h : Hd) (b : BR)
  /-- RET (R156): Branches to the address in xa[13:0]. -/
  | ret (h : Hd) (b : XRR)
  /-- BRQ (R36): Pops a branch-outcome queue, stalling while it is empty, and branches on a 1. -/
  | brq (h : Hd) (b : BR)
  /-- BOQ (R157): Pushes bit 0 of a predicate into a branch-outcome queue, stalling while it is full. -/
  | boq (h : Hd) (b : XRR)
  /-- LOOP (R158): Pushes a hardware loop level with a count from a register. -/
  | loop (h : Hd) (b : LP)
  /-- LOOPI (R158): Pushes a hardware loop level with an immediate count. -/
  | loopi (h : Hd) (b : LP)
  /-- REP (R158): Repeats the next bundle n times. -/
  | rep (h : Hd) (b : LP)
  /-- FORK (R162): Ends lockstep and starts both sequencers at their own targets with copied loop stacks. -/
  | fork (h : Hd) (b : BRF)
  /-- JOIN (R35): Waits for both sequencers and issues the join bundle once, resuming lockstep. -/
  | join (h : Hd) (b : XRR)
  /-- SYNCS (R164): Sets a sync bit at the end of its bundle. -/
  | syncs (h : Hd) (b : XI)
  /-- SYNCW (R164): Stalls until a sync bit is set, then clears it. -/
  | syncw (h : Hd) (b : XI)
  /-- HALT (R30): Ends the deck's part of the instance; the instance retires when all its decks have halted. -/
  | halt (h : Hd) (b : XRR)
  /-- MFSR (R178): Reads a special register into xd. -/
  | mfsr (h : Hd) (b : XI)
  /-- MTSR_SLIPW (R34): Writes the slip bound, effective at the next fork. -/
  | mtsrSlipw (h : Hd) (b : XI)
  /-- MTSR_FMODE (R89): Writes the arithmetic and conversion rounding modes. -/
  | mtsrFmode (h : Hd) (b : XI)
  /-- MTSR_FFLAGS (R88): Writes the sticky flags, with same-clock raised flags ORed in. -/
  | mtsrFflags (h : Hd) (b : XI)
  /-- MTSR_CRV (R97): Writes a companding curve register and recomputes the segment starts. -/
  | mtsrCrv (h : Hd) (b : XI)
  /-- MTSR_SDCFG (R75): Writes the core's slot-directory configuration. -/
  | mtsrSdcfg (h : Hd) (b : XI)
  /-- MTSR_TVEC (R179): Writes the trap vector in supervisor mode. -/
  | mtsrTvec (h : Hd) (b : XI)
  /-- FENCE_DECK (R117): Stalls until earlier loads have sampled and stores have performed. -/
  | fenceDeck (h : Hd) (b : XRR)
  /-- FENCE_CORE (R117): Stalls under the same condition as fence.deck. -/
  | fenceCore (h : Hd) (b : XRR)
  /-- FENCE_GANG (R117): Also waits for earlier remote loads to return. -/
  | fenceGang (h : Hd) (b : XRR)
  /-- FENCE_DEVICE (R117): Also waits for every engine command of the sequencer to drain. -/
  | fenceDevice (h : Hd) (b : XRR)
  /-- FENCE_SYSTEM (R117): Also waits for acknowledgement of host and remote-device writes. -/
  | fenceSystem (h : Hd) (b : XRR)
  /-- QPT (R127): Quiescent point: waits for extent accesses to complete and acknowledges pending invalidations. -/
  | qpt (h : Hd) (b : XRR)
  /-- SQ (R173): Square barrier: stalls until the Square completes, then opens a transfer phase of L cycles. -/
  | sq (h : Hd) (b : XRR)
  /-- SQUARE_COMPLETE (R120): The Square completes once all non-halted decks have executed sq and the phase's writes and commands have drained. -/
  | squareComplete (inst : Nat)
  /-- TRANSFER_PHASE_END (R173): At cycle L the gang's routers return to arbitrated mode and all schedule entries are cleared. -/
  | transferPhaseEnd (inst : Nat)
  /-- SEMW (R167): Waits until the semaphore value reaches its target, optionally consuming it. -/
  | semw (h : Hd) (b : XRR)
  /-- SEMA (R167): Adds to a semaphore and releases the sequencer's earlier stores. -/
  | sema (h : Hd) (b : XRR)
  /-- SEMA_ADD_PERFORM (R118): The add takes effect one clock after the earlier stores have performed. -/
  | semaAddPerform (core : Nat) (sem : Nat) (amount : Int) (stores : List Nat)
  /-- SEMT (R167): Sets a semaphore's target. -/
  | semt (h : Hd) (b : XRR)
  /-- SEMR (R167): Reads a semaphore's value and target. -/
  | semr (h : Hd) (b : XRR)
  /-- ALEASE (R41): Requests the array lease and stalls until it is granted. -/
  | alease (h : Hd) (b : XRR)
  /-- LEASE_GRANT (R41): The free lease is granted round-robin to a requesting deck. -/
  | leaseGrant (core : Nat)
  /-- AREL (R170): Releases the lease or withdraws the deck's request. -/
  | arel (h : Hd) (b : XRR)
  /-- SPAWN (R174): Stages a spawn set of a virtual task queue's template and pushes a status word into rq5. -/
  | spawn (h : Hd) (b : XRR)
  /-- CANCEL (R176): Sends cancellation of a group to every Roundabout. -/
  | cancel (h : Hd) (b : XRR)
  /-- XFORK (R177): Reserves a share of an extent's pages and pushes a token into rq5. -/
  | xfork (h : Hd) (b : XRR)
  /-- TRAP (R182): Raises cause 0x22 after its bundle has issued in full. -/
  | trap (h : Hd) (b : XI)
  /-- RFE (R387): Restores the context from the frame, replays squashed syllables, re-injects latches and resumes. -/
  | rfe (h : Hd) (b : XRR)
  /-- WFI (R184): Stalls until an interrupt is pending. -/
  | wfi (h : Hd) (b : XRR)
  /-- WIDX (R180): Extracts field k of the work identifier. -/
  | widx (h : Hd) (b : XI)
  /-- PLIVE (R181): Sets the predicate live mask. -/
  | plive (h : Hd) (b : XRR)
  /-- VLIVE (R181): Sets 64 bits of the vector live mask. -/
  | vlive (h : Hd) (b : XRR)
  /-- LDS_B (R186): Loads a byte from the local store into xd. -/
  | ldsB (h : Hd) (b : XI)
  /-- LDS_H (R186): Loads 16 bits from the local store. -/
  | ldsH (h : Hd) (b : XI)
  /-- LDS_W (R186): Loads 32 bits from the local store. -/
  | ldsW (h : Hd) (b : XI)
  /-- LDS_D (R186): Loads 64 bits from the local store. -/
  | ldsD (h : Hd) (b : XI)
  /-- STS_B (R186): Stores a byte into the local store. -/
  | stsB (h : Hd) (b : XI)
  /-- STS_H (R186): Stores 16 bits into the local store. -/
  | stsH (h : Hd) (b : XI)
  /-- STS_W (R186): Stores 32 bits into the local store. -/
  | stsW (h : Hd) (b : XI)
  /-- STS_D (R186): Stores 64 bits into the local store. -/
  | stsD (h : Hd) (b : XI)
  /-- LDQ (R189): Reads 1–8 consecutive store rows, local or remote, into an operand queue. -/
  | ldq (h : Hd) (b : XRR)
  /-- REMOTE_READ_ARRIVAL (R189): A remote ldq request arrives at the owning core and its rows are sampled there. -/
  | remoteReadArrival (req : Nat)
  /-- REMOTE_READ_RESPONSE (R189): Remote row data reaches the issuing core and becomes poppable in queue order. -/
  | remoteReadResponse (req : Nat) (row : Nat)
  /-- LDQT (R190): Reads one operand-queue entry through a layout handle. -/
  | ldqt (h : Hd) (b : XRR)
  /-- HLD (R191): Loads a 64-byte layout record into a layout-cache entry and returns a handle. -/
  | hld (h : Hd) (b : XI)
  /-- HLD_RECORD_ARRIVAL (R191): A layout record read through the extent path arrives in its cache entry. -/
  | hldRecordArrival (deck : Nat) (entry : Nat) (gen : Nat)
  /-- HIDX (R192): Computes an element address and an in-bounds predicate from a handle. -/
  | hidx (h : Hd) (b : XRR)
  /-- PROBE (R193): Looks up a block in the slot directory, queuing a Tram 1 fill on a miss. -/
  | probe (h : Hd) (b : XI)
  /-- PROBE_FILL (R77): A directory fill copies a block into its way, adds to fillsem and makes the way present. -/
  | probeFill (core : Nat)
  /-- PPIN (R194): Raises a directory way's pin count. -/
  | ppin (h : Hd) (b : XRR)
  /-- PFREE (R194): Lowers a directory way's pin count. -/
  | pfree (h : Hd) (b : XRR)
  /-- TCFG (R195): Requests a new lifetime configuration for a range of tiles. -/
  | tcfg (h : Hd) (b : XRR)
  /-- TCFG_TAKE_EFFECT (R195): After its locks are released a tile takes the new configuration and its rows are re-evaluated. -/
  | tcfgTakeEffect (core : Nat) (tile : Nat)
  /-- TREL (R196): Requests release of a range of tiles. -/
  | trel (h : Hd) (b : XRR)
  /-- TREL_TAKE_EFFECT (R196): After locks and refreshes end, the tile's rows become released and its requests and marks are removed. -/
  | trelTakeEffect (core : Nat) (tile : Nat)
  /-- TAGE (R197): Reads a row's status, and in the .c form clears the tile's lost bit. -/
  | tage (h : Hd) (b : XRR)
  /-- PUB (R198): Requests the published mark for a tile. -/
  | pub (h : Hd) (b : XRR)
  /-- PUB_R (R198): Requests the receivable mark for a tile. -/
  | pubR (h : Hd) (b : XRR)
  /-- TILE_MARK_TAKE_EFFECT (R123): The published or receivable mark takes effect once earlier stores have performed and locks have been released. -/
  | tileMarkTakeEffect (core : Nat) (tile : Nat) (recv : Bool) (stores : List Nat)
  /-- LDK (R199): Loads a 64-bit constant from the instruction store. -/
  | ldk (h : Hd) (b : XL)
  /-- ECMD (R200): Enters an engine command into its engine's queue with an issue number. -/
  | ecmd (h : Hd) (b : EC)
  /-- TRAM_COPY (R204): A Tram copies rows from store to store when it leaves its queue. -/
  | tramCopy (core : Nat) (eng : Nat)
  /-- TRAM_LOAD (R204): A Tram loads rows from an extent into the store. -/
  | tramLoad (core : Nat) (eng : Nat)
  /-- TRAM_STORE_BACK (R204): A Tram writes store rows to an extent's shadow pages. -/
  | tramStoreBack (core : Nat) (eng : Nat)
  /-- TRAM_REMOTE_COPY (R204): A Tram copies rows into a receivable tile of another core. -/
  | tramRemoteCopy (core : Nat) (eng : Nat)
  /-- TRAM_GATHER (R204): A Tram gathers rows through a layout record by an index list. -/
  | tramGather (core : Nat) (eng : Nat)
  /-- TRAM_FILL (R204): A Tram fills rows with a 32-bit value. -/
  | tramFill (core : Nat) (eng : Nat)
  /-- TRAM_BROADCAST (R204): A Tram broadcasts rows to receivable tiles of a core set. -/
  | tramBroadcast (core : Nat) (eng : Nat)
  /-- TRAM_PUT (R204): A Tram puts rows into a receivable tile of a remote device. -/
  | tramPut (core : Nat) (eng : Nat)
  /-- TRAM_GET (R204): A Tram gets rows from a published tile of a remote device. -/
  | tramGet (core : Nat) (eng : Nat)
  /-- ENGINE_COMMAND_RESUME (R426): A command stopped at a page resumes at its faulting row once the response has arrived and the stall wire is low. -/
  | engineCommandResume (core : Nat) (eng : Nat)
  /-- CULVERT_FP32_ADD (R208): The Culvert applies windowed FP32 add updates from a pair list. -/
  | culvertFp32Add (core : Nat)
  /-- CULVERT_I32_ADD (R208): The Culvert applies windowed I32 add updates. -/
  | culvertI32Add (core : Nat)
  /-- CULVERT_FP32_MAX (R208): The Culvert applies windowed FP32 maximum updates. -/
  | culvertFp32Max (core : Nat)
  /-- CULVERT_FP32_MIN (R208): The Culvert applies windowed FP32 minimum updates. -/
  | culvertFp32Min (core : Nat)
  /-- CULVERT_I32_MAX (R208): The Culvert applies windowed I32 maximum updates. -/
  | culvertI32Max (core : Nat)
  /-- CULVERT_I32_MIN (R208): The Culvert applies windowed I32 minimum updates. -/
  | culvertI32Min (core : Nat)
  /-- CULVERT_OR (R208): The Culvert applies windowed bitwise OR updates. -/
  | culvertOr (core : Nat)
  /-- HELD_QUEUE_ENTRY_ENTER (R51): A result that an engine held for a full queue enters the queue once an entry is free. -/
  | heldQueueEntryEnter (core : Nat) (eng : Nat)
  /-- REMOTE_SIGNAL_ARRIVAL (R118): A remote signal adds to a semaphore of the destination core after the command's writes have performed. -/
  | remoteSignalArrival (core : Nat) (sem : Nat)
  /-- XSEL (R209): Writes a transfer-phase schedule entry for a router output. -/
  | xsel (h : Hd) (b : XFS)
  /-- XMIT (R210): Sends one row along the scheduled path, delivered to the receiver at a fixed cycle. -/
  | xmit (h : Hd) (b : XFM)
  /-- XRED (R211): Contributes 128 FP32 lanes to an exact reduction slot. -/
  | xred (h : Hd) (b : XFR)
  /-- XRED_RESULT_DELIVERY (R328): The root rounds each lane and the result enters rq6 of each contributor. -/
  | xredResultDelivery (inst : Nat) (slot : Nat)
  /-- VADD (R219): Adds elements of two vectors. -/
  | vadd (h : Hd) (b : VRR)
  /-- VSUB (R219): Subtracts elements of two vectors. -/
  | vsub (h : Hd) (b : VRR)
  /-- VMUL (R219): Multiplies elements of two vectors. -/
  | vmul (h : Hd) (b : VRR)
  /-- VFMA (R220): Fused multiply-add into vd. -/
  | vfma (h : Hd) (b : VRR)
  /-- VFMS (R220): Fused multiply-subtract of vd. -/
  | vfms (h : Hd) (b : VRR)
  /-- VFNMA (R220): Negated product plus vd, rounded once. -/
  | vfnma (h : Hd) (b : VRR)
  /-- VMIN (R219): Element-wise minimum. -/
  | vmin (h : Hd) (b : VRR)
  /-- VMAX (R219): Element-wise maximum. -/
  | vmax (h : Hd) (b : VRR)
  /-- VABS (R219): Element-wise absolute value. -/
  | vabs (h : Hd) (b : VRR)
  /-- VNEG (R219): Element-wise negation. -/
  | vneg (h : Hd) (b : VRR)
  /-- VABSD (R219): Element-wise absolute difference. -/
  | vabsd (h : Hd) (b : VRR)
  /-- VCMP (R223): Per-lane compare written into two predicates. -/
  | vcmp (h : Hd) (b : PCV)
  /-- VSEL (R225): Per-lane select of va or vb by a predicate. -/
  | vsel (h : Hd) (b : VRR)
  /-- VMOV (R226): Copies an image and its tag. -/
  | vmov (h : Hd) (b : VRR)
  /-- VBCAST (R227): Broadcasts the low bits of a scalar into every element. -/
  | vbcast (h : Hd) (b : VRR)
  /-- VEXT (R228): Extracts one lane into a scalar register. -/
  | vext (h : Hd) (b : VRR)
  /-- VINS (R228): Inserts a scalar into one lane. -/
  | vins (h : Hd) (b : VRR)
  /-- VPERM (R229): Permutes lanes by an index vector. -/
  | vperm (h : Hd) (b : VRR)
  /-- VSLIDE (R229): Slides or rotates lanes by k. -/
  | vslide (h : Hd) (b : VRR)
  /-- VREV (R229): Reverses lanes, and optionally the elements within them. -/
  | vrev (h : Hd) (b : VRR)
  /-- VREDSUM (R230): Sums all elements in a fixed tree. -/
  | vredsum (h : Hd) (b : VRR)
  /-- VREDMAX (R230): Takes the maximum of all elements. -/
  | vredmax (h : Hd) (b : VRR)
  /-- VREDMIN (R230): Takes the minimum of all elements. -/
  | vredmin (h : Hd) (b : VRR)
  /-- VSCAN (R231): Computes an inclusive prefix sum, maximum or minimum. -/
  | vscan (h : Hd) (b : VRR)
  /-- VRCPE (R232): Reciprocal estimate from a table. -/
  | vrcpe (h : Hd) (b : VRR)
  /-- VRSQE (R232): Reciprocal square-root estimate. -/
  | vrsqe (h : Hd) (b : VRR)
  /-- VEXP2E (R232): Base-2 exponential estimate. -/
  | vexp2e (h : Hd) (b : VRR)
  /-- VLOG2E (R232): Base-2 logarithm estimate. -/
  | vlog2e (h : Hd) (b : VRR)
  /-- VCVT (R233): Converts elements between formats under a rounding mode. -/
  | vcvt (h : Hd) (b : VRR)
  /-- VCMPD (R224): Element-wise compare producing a mask vector. -/
  | vcmpd (h : Hd) (b : VRR)
  /-- VEXPND (R229): Expands packed lanes by a predicate. -/
  | vexpnd (h : Hd) (b : VRR)
  /-- VTAG (R226): Copies an image under a new format tag. -/
  | vtag (h : Hd) (b : VRR)
  /-- VTOPK (R235): Selects the top k values and their indices in each group of eight lanes. -/
  | vtopk (h : Hd) (b : VRR)
  /-- VAND (R236): Bitwise AND of two images. -/
  | vand (h : Hd) (b : VRR)
  /-- VOR (R236): Bitwise OR of two images. -/
  | vor (h : Hd) (b : VRR)
  /-- VXOR (R236): Bitwise XOR of two images. -/
  | vxor (h : Hd) (b : VRR)
  /-- VNOT (R236): Bitwise NOT of an image. -/
  | vnot (h : Hd) (b : VRR)
  /-- VSHL (R236): Element-wise left shift. -/
  | vshl (h : Hd) (b : VRR)
  /-- VSHR (R236): Element-wise logical right shift. -/
  | vshr (h : Hd) (b : VRR)
  /-- VSRA (R236): Element-wise arithmetic right shift. -/
  | vsra (h : Hd) (b : VRR)
  /-- VCLZ (R236): Counts leading zeros per element. -/
  | vclz (h : Hd) (b : VRR)
  /-- VPOPC (R236): Counts one bits per element. -/
  | vpopc (h : Hd) (b : VRR)
  /-- VIDX (R227): Writes an index sequence from a scalar base. -/
  | vidx (h : Hd) (b : VRR)
  /-- VDOT4 (R222): Adds a four-way 8-bit dot product into I32 lanes. -/
  | vdot4 (h : Hd) (b : VRR)
  /-- VMADI (R221): Exact integer multiply-add. -/
  | vmadi (h : Hd) (b : VRR)
  /-- VST (R237): Stores one 512-byte row from a vector operand. -/
  | vst (h : Hd) (b : VRR)
  /-- VPOP (R238): Moves a queue entry into a vector register. -/
  | vpop (h : Hd) (b : VRR)
  /-- MVQ (R239): Moves the low 64 bits of a result-queue head entry into xd. -/
  | mvq (h : Hd) (b : XRR)
  /-- MBEG (R255): Opens a matrix chain. -/
  | mbeg (h : Hd) (b : XRR)
  /-- MEND (R255): Closes a chain and passes the lease to a waiting requester. -/
  | mend (h : Hd) (b : XRR)
  /-- MLDB (R256): Loads a B tile into a weight slot with its checksum column. -/
  | mldb (h : Hd) (b : XRR)
  /-- MMA (R257): Streams A rows through a weight slot and accumulates the products. -/
  | mma (h : Hd) (b : XRR)
  /-- CHECKSUM_REPLAY (R440): A row whose checksum comparison failed is replayed in the next free gantry clock. -/
  | checksumReplay (core : Nat)
  /-- MRD (R259): Reads accumulator rows out to the store or vector registers with conversion. -/
  | mrd (h : Hd) (b : XRR)
  /-- MCLR (R258): Clears accumulator rows through the gantry. -/
  | mclr (h : Hd) (b : XRR)
  /-- MSCL (R260): Writes a per-tensor scale register. -/
  | mscl (h : Hd) (b : XRR)
  /-- MCK (R261): Reads, and optionally clears, the deck's checksum status. -/
  | mck (h : Hd) (b : XRR)
  /-- ARRAY_CLOCK_GATE (R251): After 4,096 idle clocks the array becomes clock-gated, so the next grant has a warm-up. -/
  | arrayClockGate (core : Nat)
  /-- TLD (R274): Loads vector lanes into consecutive t-registers. -/
  | tld (h : Hd) (b : TRL)
  /-- TST (R274): Stores consecutive t-registers into vector lanes. -/
  | tst (h : Hd) (b : TRL)
  /-- TSHP (R275): Writes a Trestle shape entry. -/
  | tshp (h : Hd) (b : TRH)
  /-- TSCL (R276): Sets the Trestle mode and base scale S. -/
  | tscl (h : Hd) (b : TRC)
  /-- TUP (R267): Evaluates a subtree upward into td, optionally copying the root to rq7. -/
  | tup (h : Hd) (b : TRS)
  /-- TDN (R268): Pushes a root adjoint down into the leaves' adjoint registers. -/
  | tdn (h : Hd) (b : TRS)
  /-- CSIG (R289): Reads a current or previous Causeway signature. -/
  | csig (h : Hd) (b : XRR)
  /-- CTHR (R285): Configures a Causeway block and its threshold, or changes only the threshold. -/
  | cthr (h : Hd) (b : XRR)
  /-- CSKIP (R287): Decides the skip and forced bits of a block and returns the counts. -/
  | cskip (h : Hd) (b : XRR)
  /-- CMAP (R288): Reads 64 skip or forced bits of a block. -/
  | cmap (h : Hd) (b : XRR)
  /-- CRST (R286): Forgets a Causeway block. -/
  | crst (h : Hd) (b : XRR)
  /-- CAUSEWAY_SERVICE (R280): The Causeway serves the oldest unlocked pending tile, reads its rows and writes its signature. -/
  | causewayService (core : Nat)
  /-- AGE_TICK (R59): At each tick boundary every row's Age increases by 1, saturating. -/
  | ageTick (core : Nat)
  /-- ROW_WARN_POINT (R62): A row's Age reaches its warn point and its warn policy acts once. -/
  | rowWarnPoint (core : Nat) (row : Nat)
  /-- ROW_LIMIT_EXPIRY (R61): A row of class L0–L6 reaches its limit and becomes invalid. -/
  | rowLimitExpiry (core : Nat) (row : Nat)
  /-- L7_REFRESH_OVERDUE (R417): An unserved L7 row reaches the band ceiling and raises a machine check. -/
  | l7RefreshOverdue (core : Nat) (row : Nat)
  /-- REFRESH_REQUEST_ENTER (R68): A refresh request that found the queue full is offered again at a later tick and enters it. -/
  | refreshRequestEnter (core : Nat)
  /-- REFRESH_START (R69): The oldest queued request whose bank is free of locks and refresh starts its refresh. -/
  | refreshStart (core : Nat)
  /-- REFRESH_WRITEBACK (R69): The refresh writes back at its fourth clock and the row becomes valid with Age 0. -/
  | refreshWriteback (core : Nat) (row : Nat)
  /-- BAND_STEP_HOTTER (R67): A core steps to a hotter band and every row is re-evaluated against the new limits. -/
  | bandStepHotter (core : Nat)
  /-- BAND_STEP_COOLER (R64): A core steps to a cooler band with no change of row state. -/
  | bandStepCooler (core : Nat)
  /-- LAUNCH_START (R298): A queued launch starts, resetting runtime words, applying patches and readying count-0 nodes. -/
  | launchStart (graph : Nat)
  /-- TEMP_TABLE_APPLY (R348): At the next tick an accepted table write takes effect and lowered limits re-evaluate rows. -/
  | tempTableApply
  /-- POWER_STATE_CHANGE (R343): A pending power request takes effect once its condition holds. -/
  | powerStateChange (isDie : Bool) (n : Nat)
  /-- CORE_START (R345): A core leaves Off at its staggered start, with clk restarting from 0. -/
  | coreStart (core : Nat)
  /-- TOKEN_ARRIVAL (R299): A dependence token decrements a node's counter, and the node becomes ready or skipped at zero. -/
  | tokenArrival (node : Nat) (skip : Bool)
  /-- LOOP_BODY_END (R20): After the body completes, the loop node reads its predicate word and reruns or completes. -/
  | loopBodyEnd (node : Nat)
  /-- ROUNDABOUT_SELECTION (R302): The Roundabout selects instances from the ready lists and dispatches or holds decks. -/
  | roundaboutSelection (die : Nat)
  /-- DISPATCH (R29): An instance starts on its decks after its extent work, in the dispatch state. -/
  | dispatch (inst : Nat)
  /-- AGING_TICK (R301): An instance waiting age_limit moves up one level or becomes due. -/
  | agingTick (die : Nat)
  /-- PREEMPT_SAVE (R313): At a boundary after drain the victim's decks write their context images. -/
  | preemptSave (inst : Nat)
  /-- PREEMPT_RESUME (R313): A pre-empted instance resumes on its decks with copied-back spills and re-injected latches. -/
  | preemptResume (inst : Nat)
  /-- SPILL_START (R318): When the victim's budget falls to its spill point, its reserved rows are copied to the save slot. -/
  | spillStart (inst : Nat)
  /-- NODE_COMPLETE (R31): Once instances have retired, commands drained and commit is done, tokens are sent. -/
  | nodeComplete (node : Nat)
  /-- SPAWN_SET_ARRIVAL (R306): A committed spawn set reaches its queue's home and enters the ready lists or the ring. -/
  | spawnSetArrival (set : Nat)
  /-- MEWS_RING_RETRY (R306): A held spawn set is retried at a tick for room in a full ring. -/
  | mewsRingRetry (die : Nat)
  /-- QUEUE_RING_DRAIN (R306): A freed resident slot takes a non-resident queue and drains its ring into the ready lists. -/
  | queueRingDrain (die : Nat)
  /-- CANCEL_MESSAGE (R311): A Roundabout removes the group's listed work and asks its running instances to stop. -/
  | cancelMessage (die : Nat) (group : Nat)
  /-- CANCEL_FORCED_STOP (R312): An instance that reaches no boundary within iter_max is stopped and reclaimed. -/
  | cancelForcedStop (inst : Nat)
  /-- ITER_TIMER_HALF (R397): The iteration timer reaches half of iter_max and makes cause 0x20 pending. -/
  | iterTimerHalf (deck : Nat)
  /-- ITER_OVERRUN (R398): The timer reaches iter_max and makes 0x21 reason 1 pending. -/
  | iterOverrun (deck : Nat)
  /-- ITER_OVERRUN_END (R398): A deck's timer reaches twice iter_max and the instance is ended as cancelled. -/
  | iterOverrunEnd (inst : Nat)
  /-- TRAP_ENTRY (R380): At a trap point the deck chooses a candidate, squashes, latches, writes its frame and enters the handler. -/
  | trapEntry (deck : Nat)
  /-- MUTUAL_STALL (R394): Both sequencers stall on each other for 64 clocks and 0x0F kind 2 is raised. -/
  | mutualStall (deck : Nat)
  /-- INVALIDATION_COMPLETE (R428): The device sends the completion once every core has acknowledged. -/
  | invalidationComplete (inval : Nat)
  /-- INVALIDATION_WATCHDOG (R429): After the inval time expires, unacknowledged instances are rolled back. -/
  | invalidationWatchdog (inval : Nat)
  /-- ROLLBACK (R430): Stops the instance's decks, ends its commands, discards its staged state and relists it. -/
  | rollback (inst : Nat)
  /-- HBM_REFRESH (R333): The base die refreshes an HBM4 bank at its interval. -/
  | hbmRefresh (stack : Nat) (ch : Nat) (pc : Nat) (bank : Nat)
  /-- HBM_SCRUB_WRITEBACK (R446): The corrected block is written back unless a demand write has cancelled it. -/
  | hbmScrubWriteback (block : Nat)
  /-- PIN_REPAIR (R447): A pin reaching 64 corrected symbols is swapped to a redundant lane, pausing its channel. -/
  | pinRepair (stack : Nat) (ch : Nat) (pin : Nat)
  /-- PIN_REPAIR_END (R447): The channel pause ends and waiting accesses proceed. -/
  | pinRepairEnd (stack : Nat) (ch : Nat)
  /-- E2E_TIMEOUT (R449): No end-to-end acknowledgement within 65,536 clocks gives the sender a machine check. -/
  | e2eTimeout (inst : Nat) (dest : Nat)
  /-- MESSAGE_RESEND (R449): An unacknowledged Roundabout message is resent. -/
  | messageResend (seq : Nat)
  /-- ENGINE_ROW_PERFORM (R111): A row of a Tram command with no documented offset (HBM4, host, remote core or remote device) arrives and performs at its
  target, or its write is acknowledged; after the last one the command finishes, releases its locks, raises sequence tags and fires its signal and
  completion word. -/
  | engineRowPerform (core : Nat) (eng : Nat) (row : Nat)
  /-- MACHINE_CHECK_HANDLER_TIMEOUT (R432): A doomed deck that has reached neither halt nor rfe 2,048 clocks after entering its 0x23 handler is ended, and
  the instance is rolled back once all its decks have ended. -/
  | machineCheckHandlerTimeout (deck : Nat)
  /-- RESET_DEASSERT (R347): PERST# deassertion runs bring-up to the ready bit. -/
  | resetDeassert
  /-- TRIGGER_WRITE (R298): The host trigger write captures the patch window and queues a launch of a graph. -/
  | triggerWrite (value : Word)
  /-- UPLOAD_WINDOW_WRITE (R338): The host writes data of the selected graph-store slot or context descriptor. -/
  | uploadWindowWrite (die : Nat) (off : Nat) (value : Word)
  /-- HMASK_WRITE (R332): The host writes an HBM4 hash mask, accepted only before the first upload and if well formed. -/
  | hmaskWrite (k : Nat) (value : Word)
  /-- TEMP_TABLE_WRITE (R348): The host writes a temperature-table entry, accepted only inside the programming window. -/
  | tempTableWrite (entry : Nat) (value : Lane)
  /-- REGISTER_WRITE (R2): A host write to a register with no behaviour of its own. -/
  | registerWrite (off : Nat) (value : Word)
  /-- CORE_REQ_RUN (R344): The host requests Run for a core. -/
  | coreReqRun (core : Nat)
  /-- CORE_REQ_GATE (R344): The host requests Gate for a core. -/
  | coreReqGate (core : Nat)
  /-- CORE_REQ_OFF (R344): The host requests Off for a core. -/
  | coreReqOff (core : Nat)
  /-- DIE_REQ_ACTIVE (R344): The host requests Active for a die. -/
  | dieReqActive (die : Nat)
  /-- DIE_REQ_RETAIN (R344): The host requests Retain for a die. -/
  | dieReqRetain (die : Nat)
  /-- DIE_REQ_OFF (R344): The host requests Off for a die. -/
  | dieReqOff (die : Nat)
  /-- PAGE_REQUEST_RESPONSE (R424): A page-request response installs the translation, or for a failure ends the node. -/
  | pageRequestResponse (ctx : Nat) (page : Nat) (answer : Option (Nat × Bool × Bool))
  /-- ATS_INVALIDATE_REQUEST (R428): The host's invalidation request takes effect at each sequencer's next quiescent point. -/
  | atsInvalidateRequest (ctx : Nat) (base : Nat) (len : Nat)
  /-- HBM_REFRESH_INTERVAL_CHANGE (R333): A layer sensor crosses a threshold and its refresh interval changes. -/
  | hbmRefreshIntervalChange (stack : Nat) (layer : Nat) (celsius : Nat)
  /-- LINK_DOWN (R448): A link fails 16 retries in a row and is marked down. -/
  | linkDown (link : Nat)
  /-- THERMAL_TRIP (R452): A die sensor at 125 °C stops the die's cores and rolls back their instances. -/
  | thermalTrip (die : Nat) (celsius : Nat)
  /-- THERMAL_TRIP_CLEAR (R452): A tripped die's hottest sensor reads below 115 °C, so Run requests for its cores are no longer refused. -/
  | thermalTripClear (die : Nat) (celsius : Nat)
  /-- TAP_INSTRUCTION (R350): A boundary-scan instruction is accepted only while every die is Off. One code for each die, in chain order. -/
  | tapInstruction (codes : List Nat)
  /-- ATS_TRANSLATION_COMPLETION (R457): The host's translation agent answers a translation request for a context's page, which the Roundabout installs for
  a pre-dispatch extent or a walker lookup, or finds absent so that a page request is sent and 0x0C is raised. -/
  | atsTranslationCompletion (ctx : Nat) (page : Nat) (answer : Option (Nat × Bool × Bool))
  /-- PEER_PARTIAL_ARRIVAL (R329): A peer device's partials arrive for a bound reduction; the root rounds once all are present.
  The source is the group and the peer's device number. -/
  | peerPartialArrival (source : Nat × Nat) (partials : List (BitVec 320))
  /-- MACHINE_CHECK (R432): Marks the affected instances doomed and makes 0x23 pending on their decks. -/
  | machineCheck (kind : Nat) (core : Nat) (deck : Nat) (detail : Word)
  /-- HBM_SCRUB_READ (R446): The patrol scrubber reads a block and queues a corrected write-back or logs it as uncorrectable. -/
  | hbmScrubRead (block : Nat) (corrected : Bool) (bad : List Nat)
deriving DecidableEq, Repr

end Sys2Proof
end

