-- ==== Sys2Proof/Machine/Fields.lean ====
section
/-! DEFINITION. Bit fields, and which field values of each instruction are valid and which fields are marked zero
(spec 06 R136-R139, 09 R212-R213, 10 R253, 21 R403-R404). -/
namespace Sys2Proof

/-- Bits lo + w − 1 down to lo of n (R2). -/
def bits (n lo w : Nat) : Nat := n / 2 ^ lo % 2 ^ w

/-- Field kind S: a vector source name (R212). -/
def isS (n : BitVec 9) : Bool := decide (n.toNat ≤ 351)
/-- Field kind Dv: a vector register (R212). -/
def isDv (n : BitVec 9) : Bool := decide (n.toNat ≤ 319)
/-- Field kind D: a vector register, or a push to rq0-rq3 (R212). -/
def isD (n : BitVec 9) : Bool := decide (n.toNat ≤ 319) || decide (336 ≤ n.toNat ∧ n.toNat ≤ 339)
/-- Field kind F: a format tag (R82, R212). -/
def isF (t : Nat) : Bool := decide (t ≤ 0x0C)
/-- The integer tags N (R213). -/
def isN (t : Nat) : Bool := decide (0x08 ≤ t ∧ t ≤ 0x0B)
/-- The special-register numbers of R178. -/
def isReadable (n : Nat) : Bool :=
  decide (n ≤ 4) || decide (0x010 ≤ n ∧ n ≤ 0x012) || decide (0x020 ≤ n ∧ n ≤ 0x02F) || n == 0x030 ||
    decide (0x040 ≤ n ∧ n ≤ 0x042)
/-- Both ports name one router (R209). -/
def sameRouter (o i : Nat) : Bool :=
  decide (o ≤ 4 ∧ i ≤ 4) || decide (8 ≤ o ∧ o ≤ 11 ∧ 8 ≤ i ∧ i ≤ 11) || decide (12 ≤ o ∧ o ≤ 15 ∧ 12 ≤ i ∧ i ≤ 15)

/-- Every field of the instruction holds a value that is valid for it (R404). -/
def fieldsValid : Instr → Bool
  | .nop _ _ => true
  | .add _ _ => true
  | .sub _ _ => true
  | .and _ _ => true
  | .or _ _ => true
  | .xor _ _ => true
  | .shl _ _ => true
  | .shr _ _ => true
  | .sra _ _ => true
  | .mul _ _ => true
  | .mulh _ _ => true
  | .mulhu _ _ => true
  | .min _ _ => true
  | .minu _ _ => true
  | .max _ _ => true
  | .maxu _ _ => true
  | .sel _ _ => true
  | .clz _ _ => true
  | .popc _ _ => true
  | .bext _ b => decide (bits b.m.toNat 0 6 + bits b.m.toNat 6 6 + 1 ≤ 64)
  | .bins _ b => decide (bits b.m.toNat 0 6 + bits b.m.toNat 6 6 + 1 ≤ 64)
  | .addi _ _ => true
  | .andi _ _ => true
  | .ori _ _ => true
  | .xori _ _ => true
  | .shli _ b => decide (b.imm.toNat ≤ 63)
  | .shri _ b => decide (b.imm.toNat ≤ 63)
  | .srai _ b => decide (b.imm.toNat ≤ 63)
  | .movi _ _ => true
  | .movhi _ _ => true
  | .cmp _ b => decide (b.cond.toNat < 10) && b.comb != 3 && (b.pd != b.pe || b.pd == 31)
  | .cmpi _ b => decide (b.cond.toNat < 10) && b.comb != 3 && (b.pd != b.pe || b.pd == 31)
  | .ptt _ _ => true
  | .br _ _ => true
  | .call _ _ => true
  | .ret _ _ => true
  | .brq _ _ => true
  | .boq _ _ => true
  | .loop _ b => b.stop != 0 && b.i == 0
  | .loopi _ b => b.stop != 0 && b.i == 1
  | .rep _ _ => true
  | .fork _ _ => true
  | .join _ _ => true
  | .syncs _ b => decide (b.imm.toNat ≤ 15)
  | .syncw _ b => decide (b.imm.toNat ≤ 15)
  | .halt _ _ => true
  | .mfsr _ b => isReadable b.imm.toNat
  | .mtsrSlipw _ b => b.imm == 0x010
  | .mtsrFmode _ b => b.imm == 0x011
  | .mtsrFflags _ b => b.imm == 0x012
  | .mtsrCrv _ b => decide (0x020 ≤ b.imm.toNat ∧ b.imm.toNat ≤ 0x02F)
  | .mtsrSdcfg _ b => b.imm == 0x030
  | .mtsrTvec _ b => b.imm == 0x040
  | .fenceDeck _ b => bits b.m.toNat 0 3 == 0
  | .fenceCore _ b => bits b.m.toNat 0 3 == 1
  | .fenceGang _ b => bits b.m.toNat 0 3 == 2
  | .fenceDevice _ b => bits b.m.toNat 0 3 == 3
  | .fenceSystem _ b => bits b.m.toNat 0 3 == 4
  | .qpt _ _ => true
  | .sq _ _ => true
  | .squareComplete _ => true
  | .transferPhaseEnd _ => true
  | .semw _ _ => true
  | .sema _ _ => true
  | .semaAddPerform _ _ _ _ => true
  | .semt _ _ => true
  | .semr _ _ => true
  | .alease _ _ => true
  | .leaseGrant _ => true
  | .arel _ _ => true
  | .spawn _ b => bits b.m.toNat 13 2 != 3
  | .cancel _ _ => true
  | .xfork _ b => bits b.m.toNat 13 2 != 3
  | .trap _ b => bits b.imm.toNat 20 1 == 0
  | .rfe _ _ => true
  | .wfi _ _ => true
  | .widx _ b => decide (b.imm.toNat ≤ 5)
  | .plive _ _ => true
  | .vlive _ b => decide (bits b.m.toNat 0 3 ≤ 4)
  | .ldsB _ _ => true
  | .ldsH _ _ => true
  | .ldsW _ _ => true
  | .ldsD _ _ => true
  | .stsB _ _ => true
  | .stsH _ _ => true
  | .stsW _ _ => true
  | .stsD _ _ => true
  | .ldq _ _ => true
  | .remoteReadArrival _ => true
  | .remoteReadResponse _ _ => true
  | .ldqt _ _ => true
  | .hld _ _ => true
  | .hldRecordArrival _ _ _ => true
  | .hidx _ _ => true
  | .probe _ _ => true
  | .probeFill _ => true
  | .ppin _ _ => true
  | .pfree _ _ => true
  | .tcfg _ b => bits b.m.toNat 2 2 != 3
  | .tcfgTakeEffect _ _ => true
  | .trel _ _ => true
  | .trelTakeEffect _ _ => true
  | .tage _ _ => true
  | .pub _ b => bits b.m.toNat 0 1 == 0
  | .pubR _ b => bits b.m.toNat 0 1 == 1
  | .tileMarkTakeEffect _ _ _ _ => true
  | .ldk _ b => decide (b.imm.toNat ≤ 65535)
  | .ecmd _ b => decide (b.eng.toNat ≤ 2)
  | .tramCopy _ _ => true
  | .tramLoad _ _ => true
  | .tramStoreBack _ _ => true
  | .tramRemoteCopy _ _ => true
  | .tramGather _ _ => true
  | .tramFill _ _ => true
  | .tramBroadcast _ _ => true
  | .tramPut _ _ => true
  | .tramGet _ _ => true
  | .engineCommandResume _ _ => true
  | .culvertFp32Add _ => true
  | .culvertI32Add _ => true
  | .culvertFp32Max _ => true
  | .culvertFp32Min _ => true
  | .culvertI32Max _ => true
  | .culvertI32Min _ => true
  | .culvertOr _ => true
  | .heldQueueEntryEnter _ _ => true
  | .remoteSignalArrival _ _ => true
  | .xsel _ b => sameRouter b.outp.toNat b.inp.toNat
  | .xmit _ b => decide (1 ≤ b.port.toNat ∧ b.port.toNat ≤ 4) && (b.kind == 1 || isS b.src)
  | .xred _ b => isS b.src
  | .xredResultDelivery _ _ => true
  | .peerPartialArrival _ _ => true
  | .vadd _ b => b.qm != 3 && isD b.nd && isS b.na && isS b.nb && decide (bits b.m.toNat 1 3 ≤ 4)
  | .vsub _ b => b.qm != 3 && isD b.nd && isS b.na && isS b.nb && decide (bits b.m.toNat 1 3 ≤ 4)
  | .vmul _ b => b.qm != 3 && isD b.nd && isS b.na && isS b.nb && decide (bits b.m.toNat 1 3 ≤ 4)
  | .vfma _ b => b.qm != 3 && isDv b.nd && isS b.na && isS b.nb && decide (bits b.m.toNat 1 3 ≤ 4)
  | .vfms _ b => b.qm != 3 && isDv b.nd && isS b.na && isS b.nb && decide (bits b.m.toNat 1 3 ≤ 4)
  | .vfnma _ b => b.qm != 3 && isDv b.nd && isS b.na && isS b.nb && decide (bits b.m.toNat 1 3 ≤ 4)
  | .vmin _ b => b.qm != 3 && isD b.nd && isS b.na && isS b.nb
  | .vmax _ b => b.qm != 3 && isD b.nd && isS b.na && isS b.nb
  | .vabs _ b => b.qm != 3 && isD b.nd && isS b.na
  | .vneg _ b => b.qm != 3 && isD b.nd && isS b.na
  | .vabsd _ b => b.qm != 3 && isD b.nd && isS b.na && isS b.nb && decide (bits b.m.toNat 1 3 ≤ 4)
  | .vcmp _ b => b.comb != 3 && (b.pd != b.pe || b.pd == 31) && isS b.na && isS b.nb
  | .vsel _ b => b.qm != 3 && isD b.nd && isS b.na && isS b.nb
  | .vmov _ b => b.qm != 3 && isD b.nd && isS b.na
  | .vbcast _ b => b.qm != 3 && isD b.nd && isF (bits b.nb.toNat 0 5)
  | .vext _ b => b.qm != 3 && isS b.na
  | .vins _ b => b.qm != 3 && isDv b.nd
  | .vperm _ b => b.qm != 3 && isD b.nd && isS b.na && isS b.nb
  | .vslide _ b => b.qm != 3 && isD b.nd && isS b.na
  | .vrev _ b => b.qm != 3 && isD b.nd && isS b.na
  | .vredsum _ b => b.qm != 3 && isD b.nd && isS b.na && decide (bits b.m.toNat 1 3 ≤ 4)
  | .vredmax _ b => b.qm != 3 && isD b.nd && isS b.na
  | .vredmin _ b => b.qm != 3 && isD b.nd && isS b.na
  | .vscan _ b => b.qm != 3 && isD b.nd && isS b.na && bits b.m.toNat 0 2 != 3
  | .vrcpe _ b => b.qm != 3 && isD b.nd && isS b.na
  | .vrsqe _ b => b.qm != 3 && isD b.nd && isS b.na
  | .vexp2e _ b => b.qm != 3 && isD b.nd && isS b.na
  | .vlog2e _ b => b.qm != 3 && isD b.nd && isS b.na
  | .vcvt _ b => b.qm != 3 && isD b.nd && isS b.na && decide (bits b.nb.toNat 0 5 ≤ 0x0B) && bits b.nb.toNat 5 3 != 5 && bits b.nb.toNat 5 3 != 6
  | .vcmpd _ b => b.qm != 3 && isD b.nd && isS b.na && isS b.nb
  | .vexpnd _ b => b.qm != 3 && isD b.nd && isS b.na
  | .vtag _ b => b.qm != 3 && isD b.nd && isS b.na && isF (bits b.nb.toNat 0 5)
  | .vtopk _ b => b.qm != 3 && decide (b.nd.toNat ≤ 318) && isS b.na
  | .vand _ b => b.qm != 3 && isD b.nd && isS b.na && isS b.nb
  | .vor _ b => b.qm != 3 && isD b.nd && isS b.na && isS b.nb
  | .vxor _ b => b.qm != 3 && isD b.nd && isS b.na && isS b.nb
  | .vnot _ b => b.qm != 3 && isD b.nd && isS b.na
  | .vshl _ b => b.qm != 3 && isD b.nd && isS b.na && (bits b.m.toNat 0 1 == 1 || isS b.nb)
  | .vshr _ b => b.qm != 3 && isD b.nd && isS b.na && (bits b.m.toNat 0 1 == 1 || isS b.nb)
  | .vsra _ b => b.qm != 3 && isD b.nd && isS b.na && (bits b.m.toNat 0 1 == 1 || isS b.nb)
  | .vclz _ b => b.qm != 3 && isD b.nd && isS b.na
  | .vpopc _ b => b.qm != 3 && isD b.nd && isS b.na
  | .vidx _ b => b.qm != 3 && isD b.nd && isN (bits b.nb.toNat 0 5)
  | .vdot4 _ b => b.qm != 3 && isDv b.nd && isS b.na && isS b.nb
  | .vmadi _ b => b.qm != 3 && isDv b.nd && isS b.na && isS b.nb
  | .vst _ b => b.qm != 3 && isS b.nd
  | .vpop _ b => b.qm != 3 && isDv b.nd && decide (320 ≤ b.na.toNat ∧ b.na.toNat ≤ 351)
  | .mvq _ b => bits b.m.toNat 13 2 != 3
  | .mbeg _ _ => true
  | .mend _ _ => true
  | .mldb _ b => decide (1 ≤ bits b.m.toNat 4 5 ∧ bits b.m.toNat 4 5 ≤ 6) && (bits b.m.toNat 9 1 == 0 || decide (3 ≤ bits b.m.toNat 4 5))
  | .mma _ _ => true
  | .checksumReplay _ => true
  | .mrd _ b => decide (bits b.m.toNat 0 5 ≤ 6) && bits b.m.toNat 5 3 != 5 && bits b.m.toNat 5 3 != 6 && bits b.m.toNat 13 2 != 3 && (bits b.m.toNat 12 1 == 0 || bits b.m.toNat 11 1 == 0)
  | .mclr _ b => bits b.m.toNat 0 2 != 3
  | .mscl _ _ => true
  | .mck _ _ => true
  | .arrayClockGate _ => true
  | .tld _ b => isS b.vn && b.qm != 3
  | .tst _ b => isD b.vn && b.qm != 3
  | .tshp _ _ => true
  | .tscl _ _ => true
  | .tup _ b => b.qm != 3
  | .tdn _ _ => true
  | .csig _ _ => true
  | .cthr _ _ => true
  | .cskip _ _ => true
  | .cmap _ _ => true
  | .crst _ _ => true
  | .causewayService _ => true
  | .ageTick _ => true
  | .rowWarnPoint _ _ => true
  | .rowLimitExpiry _ _ => true
  | .l7RefreshOverdue _ _ => true
  | .refreshRequestEnter _ => true
  | .refreshStart _ => true
  | .refreshWriteback _ _ => true
  | .bandStepHotter _ => true
  | .bandStepCooler _ => true
  | .triggerWrite _ => true
  | .launchStart _ => true
  | .uploadWindowWrite _ _ _ => true
  | .hmaskWrite _ _ => true
  | .tempTableWrite _ _ => true
  | .tempTableApply => true
  | .registerWrite _ _ => true
  | .coreReqRun _ => true
  | .coreReqGate _ => true
  | .coreReqOff _ => true
  | .dieReqActive _ => true
  | .dieReqRetain _ => true
  | .dieReqOff _ => true
  | .powerStateChange _ _ => true
  | .coreStart _ => true
  | .resetDeassert => true
  | .tokenArrival _ _ => true
  | .loopBodyEnd _ => true
  | .roundaboutSelection _ => true
  | .dispatch _ => true
  | .agingTick _ => true
  | .preemptSave _ => true
  | .preemptResume _ => true
  | .spillStart _ => true
  | .nodeComplete _ => true
  | .spawnSetArrival _ => true
  | .mewsRingRetry _ => true
  | .queueRingDrain _ => true
  | .cancelMessage _ _ => true
  | .cancelForcedStop _ => true
  | .iterTimerHalf _ => true
  | .iterOverrun _ => true
  | .iterOverrunEnd _ => true
  | .trapEntry _ => true
  | .mutualStall _ => true
  | .pageRequestResponse _ _ _ => true
  | .atsInvalidateRequest _ _ _ => true
  | .invalidationComplete _ => true
  | .invalidationWatchdog _ => true
  | .machineCheck _ _ _ _ => true
  | .rollback _ => true
  | .hbmRefresh _ _ _ _ => true
  | .hbmRefreshIntervalChange _ _ _ => true
  | .hbmScrubRead _ _ _ => true
  | .hbmScrubWriteback _ => true
  | .pinRepair _ _ _ => true
  | .pinRepairEnd _ _ => true
  | .linkDown _ => true
  | .e2eTimeout _ _ => true
  | .messageResend _ => true
  | .thermalTrip _ _ => true
  | .tapInstruction _ => true
  | .engineRowPerform _ _ _ => true
  | .atsTranslationCompletion _ _ _ => true
  | .machineCheckHandlerTimeout _ => true
  | .thermalTripClear _ _ => true

/-- Every field marked zero holds zero (R136). -/
def fieldsZero : Instr → Bool
  | .nop _ b => b.z.toNat == 0
  | .add _ b => b.m.toNat == 0
  | .sub _ b => b.m.toNat == 0
  | .and _ b => b.m.toNat == 0
  | .or _ b => b.m.toNat == 0
  | .xor _ b => b.m.toNat == 0
  | .shl _ b => b.m.toNat == 0
  | .shr _ b => b.m.toNat == 0
  | .sra _ b => b.m.toNat == 0
  | .mul _ b => b.m.toNat == 0
  | .mulh _ b => b.m.toNat == 0
  | .mulhu _ b => b.m.toNat == 0
  | .min _ b => b.m.toNat == 0
  | .minu _ b => b.m.toNat == 0
  | .max _ b => b.m.toNat == 0
  | .maxu _ b => b.m.toNat == 0
  | .sel _ b => bits b.m.toNat 5 10 == 0
  | .clz _ b => b.m.toNat == 0 && b.xb.toNat == 0
  | .popc _ b => b.m.toNat == 0 && b.xb.toNat == 0
  | .bext _ b => b.xb.toNat == 0 && bits b.m.toNat 13 2 == 0
  | .bins _ b => b.xb.toNat == 0 && bits b.m.toNat 12 3 == 0
  | .addi _ _ => true
  | .andi _ _ => true
  | .ori _ _ => true
  | .xori _ _ => true
  | .shli _ _ => true
  | .shri _ _ => true
  | .srai _ _ => true
  | .movi _ _ => true
  | .movhi _ _ => true
  | .cmp _ b => b.z.toNat == 0
  | .cmpi _ _ => true
  | .ptt _ b => b.z.toNat == 0
  | .br _ b => b.xd.toNat == 0 && b.z.toNat == 0
  | .call _ b => b.z.toNat == 0
  | .ret _ b => b.xd.toNat == 0 && b.xb.toNat == 0 && b.m.toNat == 0
  | .brq _ b => b.xd.toNat == 0 && b.z.toNat == 0
  | .boq _ b => b.xd.toNat == 0 && b.xa.toNat == 0 && b.xb.toNat == 0 && bits b.m.toNat 5 10 == 0
  | .loop _ b => bits b.low.toNat 0 12 == 0
  | .loopi _ _ => true
  | .rep _ b => b.i.toNat == 0 && b.stop.toNat == 0
  | .fork _ b => b.z.toNat == 0
  | .join _ b => b.xd.toNat == 0 && b.xa.toNat == 0 && b.xb.toNat == 0 && b.m.toNat == 0
  | .syncs _ b => b.xd.toNat == 0 && b.xa.toNat == 0
  | .syncw _ b => b.xd.toNat == 0 && b.xa.toNat == 0
  | .halt _ b => b.xd.toNat == 0 && b.xa.toNat == 0 && b.xb.toNat == 0 && b.m.toNat == 0
  | .mfsr _ b => b.xa.toNat == 0
  | .mtsrSlipw _ b => b.xd.toNat == 0
  | .mtsrFmode _ b => b.xd.toNat == 0
  | .mtsrFflags _ b => b.xd.toNat == 0
  | .mtsrCrv _ b => b.xd.toNat == 0
  | .mtsrSdcfg _ b => b.xd.toNat == 0
  | .mtsrTvec _ b => b.xd.toNat == 0
  | .fenceDeck _ b => b.xd.toNat == 0 && b.xa.toNat == 0 && b.xb.toNat == 0 && bits b.m.toNat 3 12 == 0
  | .fenceCore _ b => b.xd.toNat == 0 && b.xa.toNat == 0 && b.xb.toNat == 0 && bits b.m.toNat 3 12 == 0
  | .fenceGang _ b => b.xd.toNat == 0 && b.xa.toNat == 0 && b.xb.toNat == 0 && bits b.m.toNat 3 12 == 0
  | .fenceDevice _ b => b.xd.toNat == 0 && b.xa.toNat == 0 && b.xb.toNat == 0 && bits b.m.toNat 3 12 == 0
  | .fenceSystem _ b => b.xd.toNat == 0 && b.xa.toNat == 0 && b.xb.toNat == 0 && bits b.m.toNat 3 12 == 0
  | .qpt _ b => b.xd.toNat == 0 && b.xa.toNat == 0 && b.xb.toNat == 0 && b.m.toNat == 0
  | .sq _ b => b.xd.toNat == 0 && b.xa.toNat == 0 && b.xb.toNat == 0
  | .squareComplete _ => true
  | .transferPhaseEnd _ => true
  | .semw _ b => b.xd.toNat == 0 && b.xa.toNat == 0 && b.xb.toNat == 0 && bits b.m.toNat 7 8 == 0
  | .sema _ b => b.xd.toNat == 0 && b.xb.toNat == 0 && bits b.m.toNat 6 1 == 0
  | .semaAddPerform _ _ _ _ => true
  | .semt _ b => b.xd.toNat == 0 && b.xb.toNat == 0 && bits b.m.toNat 6 9 == 0
  | .semr _ b => b.xa.toNat == 0 && b.xb.toNat == 0 && bits b.m.toNat 6 9 == 0
  | .alease _ b => b.xd.toNat == 0 && b.xa.toNat == 0 && b.xb.toNat == 0 && b.m.toNat == 0
  | .leaseGrant _ => true
  | .arel _ b => b.xd.toNat == 0 && b.xa.toNat == 0 && b.xb.toNat == 0 && b.m.toNat == 0
  | .spawn _ b => bits b.m.toNat 0 8 == 0
  | .cancel _ b => b.xd.toNat == 0 && b.xb.toNat == 0 && b.m.toNat == 0
  | .xfork _ b => b.xd.toNat == 0 && b.xb.toNat == 0 && bits b.m.toNat 0 13 == 0
  | .trap _ b => b.xd.toNat == 0 && b.xa.toNat == 0
  | .rfe _ b => b.xd.toNat == 0 && b.xa.toNat == 0 && b.xb.toNat == 0 && b.m.toNat == 0
  | .wfi _ b => b.xd.toNat == 0 && b.xa.toNat == 0 && b.xb.toNat == 0 && b.m.toNat == 0
  | .widx _ b => b.xa.toNat == 0
  | .plive _ b => b.xd.toNat == 0 && b.xb.toNat == 0 && b.m.toNat == 0
  | .vlive _ b => b.xd.toNat == 0 && b.xb.toNat == 0 && bits b.m.toNat 3 12 == 0
  | .ldsB _ _ => true
  | .ldsH _ _ => true
  | .ldsW _ _ => true
  | .ldsD _ _ => true
  | .stsB _ _ => true
  | .stsH _ _ => true
  | .stsW _ _ => true
  | .stsD _ _ => true
  | .ldq _ b => b.xd.toNat == 0 && (bits b.m.toNat 6 1 == 1 || bits b.m.toNat 7 8 == 0)
  | .remoteReadArrival _ => true
  | .remoteReadResponse _ _ => true
  | .ldqt _ b => b.xd.toNat == 0 && bits b.m.toNat 3 3 == 0 && (bits b.m.toNat 6 1 == 1 || bits b.m.toNat 7 8 == 0)
  | .hld _ b => bits b.imm.toNat 6 15 == 0
  | .hldRecordArrival _ _ _ => true
  | .hidx _ b => bits b.m.toNat 5 10 == 0
  | .probe _ _ => true
  | .probeFill _ => true
  | .ppin _ b => b.xd.toNat == 0 && b.xb.toNat == 0 && b.m.toNat == 0
  | .pfree _ b => b.xd.toNat == 0 && b.xb.toNat == 0 && b.m.toNat == 0
  | .tcfg _ b => b.xd.toNat == 0 && bits b.m.toNat 8 7 == 0 && bits b.m.toNat 7 1 == 0 && bits b.m.toNat 0 1 == 0
  | .tcfgTakeEffect _ _ => true
  | .trel _ b => b.xd.toNat == 0 && b.m.toNat == 0
  | .trelTakeEffect _ _ => true
  | .tage _ b => b.xb.toNat == 0 && bits b.m.toNat 1 14 == 0
  | .pub _ b => b.xd.toNat == 0 && b.xb.toNat == 0 && bits b.m.toNat 1 14 == 0
  | .pubR _ b => b.xd.toNat == 0 && b.xb.toNat == 0 && bits b.m.toNat 1 14 == 0
  | .tileMarkTakeEffect _ _ _ _ => true
  | .ldk _ _ => true
  | .ecmd _ b => b.z.toNat == 0
  | .tramCopy _ _ => true
  | .tramLoad _ _ => true
  | .tramStoreBack _ _ => true
  | .tramRemoteCopy _ _ => true
  | .tramGather _ _ => true
  | .tramFill _ _ => true
  | .tramBroadcast _ _ => true
  | .tramPut _ _ => true
  | .tramGet _ _ => true
  | .engineCommandResume _ _ => true
  | .culvertFp32Add _ => true
  | .culvertI32Add _ => true
  | .culvertFp32Max _ => true
  | .culvertFp32Min _ => true
  | .culvertI32Max _ => true
  | .culvertI32Min _ => true
  | .culvertOr _ => true
  | .heldQueueEntryEnter _ _ => true
  | .remoteSignalArrival _ _ => true
  | .xsel _ b => b.z.toNat == 0
  | .xmit _ b => b.z.toNat == 0 && (b.kind == 0 || bits b.src.toNat 0 3 == 0)
  | .xred _ b => b.z.toNat == 0
  | .xredResultDelivery _ _ => true
  | .peerPartialArrival _ _ => true
  | .vadd _ _ => true
  | .vsub _ _ => true
  | .vmul _ _ => true
  | .vfma _ b => bits b.m.toNat 0 1 == 0
  | .vfms _ b => bits b.m.toNat 0 1 == 0
  | .vfnma _ b => bits b.m.toNat 0 1 == 0
  | .vmin _ b => b.m.toNat == 0
  | .vmax _ b => b.m.toNat == 0
  | .vabs _ b => b.nb.toNat == 0 && bits b.m.toNat 1 3 == 0
  | .vneg _ b => b.nb.toNat == 0 && bits b.m.toNat 1 3 == 0
  | .vabsd _ _ => true
  | .vcmp _ _ => true
  | .vsel _ _ => true
  | .vmov _ b => b.nb.toNat == 0 && b.m.toNat == 0
  | .vbcast _ b => bits b.na.toNat 6 3 == 0 && bits b.nb.toNat 5 4 == 0 && b.m.toNat == 0
  | .vext _ b => bits b.nd.toNat 6 3 == 0 && bits b.nb.toNat 7 2 == 0 && b.m.toNat == 0
  | .vins _ b => bits b.na.toNat 6 3 == 0 && bits b.nb.toNat 7 2 == 0 && b.m.toNat == 0
  | .vperm _ b => b.m.toNat == 0
  | .vslide _ b => bits b.nb.toNat 8 1 == 0 && bits b.m.toNat 1 3 == 0
  | .vrev _ b => b.nb.toNat == 0 && bits b.m.toNat 1 3 == 0
  | .vredsum _ b => b.nb.toNat == 0
  | .vredmax _ b => b.nb.toNat == 0 && b.m.toNat == 0
  | .vredmin _ b => b.nb.toNat == 0 && b.m.toNat == 0
  | .vscan _ b => b.nb.toNat == 0 && bits b.m.toNat 3 1 == 0
  | .vrcpe _ b => b.nb.toNat == 0 && b.m.toNat == 0
  | .vrsqe _ b => b.nb.toNat == 0 && b.m.toNat == 0
  | .vexp2e _ b => b.nb.toNat == 0 && b.m.toNat == 0
  | .vlog2e _ b => b.nb.toNat == 0 && b.m.toNat == 0
  | .vcvt _ b => bits b.nb.toNat 8 1 == 0 && bits b.m.toNat 2 2 == 0
  | .vcmpd _ b => bits b.m.toNat 3 1 == 0
  | .vexpnd _ b => b.nb.toNat == 0
  | .vtag _ b => bits b.nb.toNat 5 4 == 0 && b.m.toNat == 0
  | .vtopk _ b => b.nb.toNat == 0 && bits b.m.toNat 3 1 == 0
  | .vand _ b => b.m.toNat == 0
  | .vor _ b => b.m.toNat == 0
  | .vxor _ b => b.m.toNat == 0
  | .vnot _ b => b.nb.toNat == 0 && b.m.toNat == 0
  | .vshl _ b => bits b.m.toNat 1 3 == 0 && (bits b.m.toNat 0 1 == 0 || bits b.nb.toNat 5 4 == 0)
  | .vshr _ b => bits b.m.toNat 1 3 == 0 && (bits b.m.toNat 0 1 == 0 || bits b.nb.toNat 5 4 == 0)
  | .vsra _ b => bits b.m.toNat 1 3 == 0 && (bits b.m.toNat 0 1 == 0 || bits b.nb.toNat 5 4 == 0)
  | .vclz _ b => b.nb.toNat == 0 && b.m.toNat == 0
  | .vpopc _ b => b.nb.toNat == 0 && b.m.toNat == 0
  | .vidx _ b => bits b.na.toNat 6 3 == 0 && bits b.nb.toNat 5 4 == 0 && b.m.toNat == 0
  | .vdot4 _ b => bits b.m.toNat 1 3 == 0
  | .vmadi _ b => bits b.m.toNat 1 3 == 0
  | .vst _ b => bits b.na.toNat 6 3 == 0 && bits b.nb.toNat 6 3 == 0 && b.m.toNat == 0
  | .vpop _ b => b.nb.toNat == 0 && b.m.toNat == 0
  | .mvq _ b => b.xa.toNat == 0 && b.xb.toNat == 0 && bits b.m.toNat 4 9 == 0
  | .mbeg _ b => b.xd.toNat == 0 && b.xa.toNat == 0 && b.xb.toNat == 0 && b.m.toNat == 0
  | .mend _ b => b.xd.toNat == 0 && b.xa.toNat == 0 && b.xb.toNat == 0 && b.m.toNat == 0
  | .mldb _ b => bits b.m.toNat 11 4 == 0
  | .mma _ _ => true
  | .checksumReplay _ => true
  | .mrd _ _ => true
  | .mclr _ b => b.xd.toNat == 0 && bits b.m.toNat 2 13 == 0
  | .mscl _ b => b.xd.toNat == 0 && b.xb.toNat == 0 && bits b.m.toNat 3 12 == 0
  | .mck _ b => b.xa.toNat == 0 && b.xb.toNat == 0 && bits b.m.toNat 1 14 == 0
  | .arrayClockGate _ => true
  | .tld _ b => b.z.toNat == 0
  | .tst _ b => b.z.toNat == 0
  | .tshp _ b => b.z.toNat == 0 && b.z2.toNat == 0
  | .tscl _ b => b.z.toNat == 0 && b.z2.toNat == 0
  | .tup _ b => b.z.toNat == 0
  | .tdn _ b => b.copy.toNat == 0 && b.qm.toNat == 0 && b.z.toNat == 0
  | .csig _ b => b.xb.toNat == 0 && bits b.m.toNat 1 14 == 0
  | .cthr _ b => b.xd.toNat == 0 && bits b.m.toNat 1 14 == 0
  | .cskip _ b => b.xb.toNat == 0 && b.m.toNat == 0
  | .cmap _ b => b.xb.toNat == 0 && bits b.m.toNat 1 14 == 0
  | .crst _ b => b.xd.toNat == 0 && b.xb.toNat == 0 && b.m.toNat == 0
  | .causewayService _ => true
  | .ageTick _ => true
  | .rowWarnPoint _ _ => true
  | .rowLimitExpiry _ _ => true
  | .l7RefreshOverdue _ _ => true
  | .refreshRequestEnter _ => true
  | .refreshStart _ => true
  | .refreshWriteback _ _ => true
  | .bandStepHotter _ => true
  | .bandStepCooler _ => true
  | .triggerWrite _ => true
  | .launchStart _ => true
  | .uploadWindowWrite _ _ _ => true
  | .hmaskWrite _ _ => true
  | .tempTableWrite _ _ => true
  | .tempTableApply => true
  | .registerWrite _ _ => true
  | .coreReqRun _ => true
  | .coreReqGate _ => true
  | .coreReqOff _ => true
  | .dieReqActive _ => true
  | .dieReqRetain _ => true
  | .dieReqOff _ => true
  | .powerStateChange _ _ => true
  | .coreStart _ => true
  | .resetDeassert => true
  | .tokenArrival _ _ => true
  | .loopBodyEnd _ => true
  | .roundaboutSelection _ => true
  | .dispatch _ => true
  | .agingTick _ => true
  | .preemptSave _ => true
  | .preemptResume _ => true
  | .spillStart _ => true
  | .nodeComplete _ => true
  | .spawnSetArrival _ => true
  | .mewsRingRetry _ => true
  | .queueRingDrain _ => true
  | .cancelMessage _ _ => true
  | .cancelForcedStop _ => true
  | .iterTimerHalf _ => true
  | .iterOverrun _ => true
  | .iterOverrunEnd _ => true
  | .trapEntry _ => true
  | .mutualStall _ => true
  | .pageRequestResponse _ _ _ => true
  | .atsInvalidateRequest _ _ _ => true
  | .invalidationComplete _ => true
  | .invalidationWatchdog _ => true
  | .machineCheck _ _ _ _ => true
  | .rollback _ => true
  | .hbmRefresh _ _ _ _ => true
  | .hbmRefreshIntervalChange _ _ _ => true
  | .hbmScrubRead _ _ _ => true
  | .hbmScrubWriteback _ => true
  | .pinRepair _ _ _ => true
  | .pinRepairEnd _ _ => true
  | .linkDown _ => true
  | .e2eTimeout _ _ => true
  | .messageResend _ => true
  | .thermalTrip _ _ => true
  | .tapInstruction _ => true
  | .engineRowPerform _ _ _ => true
  | .atsTranslationCompletion _ _ _ => true
  | .machineCheckHandlerTimeout _ => true
  | .thermalTripClear _ _ => true

/-- The instruction's opcode and the slots whose map holds it (R143-R145); none for a row without an encoding. -/
def opcodeOf : Instr → Option (Hd × Nat × List Slot)
  | .nop h _ => some (h, 0x00, [.a, .s, .v, .x])
  | .add h _ => some (h, 0x01, [.a, .s])
  | .sub h _ => some (h, 0x02, [.a, .s])
  | .and h _ => some (h, 0x03, [.a, .s])
  | .or h _ => some (h, 0x04, [.a, .s])
  | .xor h _ => some (h, 0x05, [.a, .s])
  | .shl h _ => some (h, 0x06, [.a, .s])
  | .shr h _ => some (h, 0x07, [.a, .s])
  | .sra h _ => some (h, 0x08, [.a, .s])
  | .mul h _ => some (h, 0x09, [.a, .s])
  | .mulh h _ => some (h, 0x0A, [.a, .s])
  | .mulhu h _ => some (h, 0x0B, [.a, .s])
  | .min h _ => some (h, 0x0C, [.a, .s])
  | .minu h _ => some (h, 0x0D, [.a, .s])
  | .max h _ => some (h, 0x0E, [.a, .s])
  | .maxu h _ => some (h, 0x0F, [.a, .s])
  | .sel h _ => some (h, 0x10, [.a, .s])
  | .clz h _ => some (h, 0x11, [.a, .s])
  | .popc h _ => some (h, 0x12, [.a, .s])
  | .bext h _ => some (h, 0x13, [.a, .s])
  | .bins h _ => some (h, 0x14, [.a, .s])
  | .addi h _ => some (h, 0x18, [.a, .s])
  | .andi h _ => some (h, 0x19, [.a, .s])
  | .ori h _ => some (h, 0x1A, [.a, .s])
  | .xori h _ => some (h, 0x1B, [.a, .s])
  | .shli h _ => some (h, 0x1C, [.a, .s])
  | .shri h _ => some (h, 0x1D, [.a, .s])
  | .srai h _ => some (h, 0x1E, [.a, .s])
  | .movi h _ => some (h, 0x1F, [.a, .s])
  | .movhi h _ => some (h, 0x20, [.a, .s])
  | .cmp h _ => some (h, 0x21, [.a, .s])
  | .cmpi h _ => some (h, 0x22, [.a, .s])
  | .ptt h _ => some (h, 0x23, [.a, .s])
  | .br h _ => some (h, 0x40, [.a, .s])
  | .call h _ => some (h, 0x41, [.a, .s])
  | .ret h _ => some (h, 0x42, [.a, .s])
  | .brq h _ => some (h, 0x43, [.a, .s])
  | .boq h _ => some (h, 0x44, [.a, .s])
  | .loop h _ => some (h, 0x45, [.a, .s])
  | .loopi h _ => some (h, 0x46, [.a, .s])
  | .rep h _ => some (h, 0x47, [.a, .s])
  | .fork h _ => some (h, 0x48, [.s])
  | .join h _ => some (h, 0x49, [.a, .s])
  | .syncs h _ => some (h, 0x4A, [.a, .s])
  | .syncw h _ => some (h, 0x4B, [.a, .s])
  | .halt h _ => some (h, 0x4C, [.s])
  | .mfsr h _ => some (h, 0x60, [.s])
  | .mtsrSlipw h _ => some (h, 0x61, [.s])
  | .mtsrFmode h _ => some (h, 0x61, [.s])
  | .mtsrFflags h _ => some (h, 0x61, [.s])
  | .mtsrCrv h _ => some (h, 0x61, [.s])
  | .mtsrSdcfg h _ => some (h, 0x61, [.s])
  | .mtsrTvec h _ => some (h, 0x61, [.s])
  | .fenceDeck h _ => some (h, 0x62, [.a, .s])
  | .fenceCore h _ => some (h, 0x62, [.a, .s])
  | .fenceGang h _ => some (h, 0x62, [.a, .s])
  | .fenceDevice h _ => some (h, 0x62, [.a, .s])
  | .fenceSystem h _ => some (h, 0x62, [.a, .s])
  | .qpt h _ => some (h, 0x64, [.a, .s])
  | .sq h _ => some (h, 0x63, [.s])
  | .squareComplete _ => none
  | .transferPhaseEnd _ => none
  | .semw h _ => some (h, 0x65, [.a, .s])
  | .sema h _ => some (h, 0x66, [.a, .s])
  | .semaAddPerform _ _ _ _ => none
  | .semt h _ => some (h, 0x67, [.a, .s])
  | .semr h _ => some (h, 0x68, [.a, .s])
  | .alease h _ => some (h, 0x69, [.s])
  | .leaseGrant _ => none
  | .arel h _ => some (h, 0x6A, [.s])
  | .spawn h _ => some (h, 0x6B, [.s])
  | .cancel h _ => some (h, 0x6C, [.s])
  | .xfork h _ => some (h, 0x6D, [.s])
  | .trap h _ => some (h, 0x6E, [.s])
  | .rfe h _ => some (h, 0x6F, [.s])
  | .wfi h _ => some (h, 0x70, [.s])
  | .widx h _ => some (h, 0x71, [.s])
  | .plive h _ => some (h, 0x72, [.s])
  | .vlive h _ => some (h, 0x73, [.s])
  | .ldsB h _ => some (h, 0x80, [.a])
  | .ldsH h _ => some (h, 0x81, [.a])
  | .ldsW h _ => some (h, 0x82, [.a])
  | .ldsD h _ => some (h, 0x83, [.a])
  | .stsB h _ => some (h, 0x84, [.a])
  | .stsH h _ => some (h, 0x85, [.a])
  | .stsW h _ => some (h, 0x86, [.a])
  | .stsD h _ => some (h, 0x87, [.a])
  | .ldq h _ => some (h, 0x88, [.a])
  | .remoteReadArrival _ => none
  | .remoteReadResponse _ _ => none
  | .ldqt h _ => some (h, 0x89, [.a])
  | .hld h _ => some (h, 0x8A, [.a])
  | .hldRecordArrival _ _ _ => none
  | .hidx h _ => some (h, 0x8B, [.a])
  | .probe h _ => some (h, 0x8C, [.a])
  | .probeFill _ => none
  | .ppin h _ => some (h, 0x8D, [.a])
  | .pfree h _ => some (h, 0x8E, [.a])
  | .tcfg h _ => some (h, 0x8F, [.a])
  | .tcfgTakeEffect _ _ => none
  | .trel h _ => some (h, 0x90, [.a])
  | .trelTakeEffect _ _ => none
  | .tage h _ => some (h, 0x91, [.a])
  | .pub h _ => some (h, 0x92, [.a])
  | .pubR h _ => some (h, 0x92, [.a])
  | .tileMarkTakeEffect _ _ _ _ => none
  | .ldk h _ => some (h, 0x93, [.a])
  | .ecmd h _ => some (h, 0x94, [.a, .x])
  | .tramCopy _ _ => none
  | .tramLoad _ _ => none
  | .tramStoreBack _ _ => none
  | .tramRemoteCopy _ _ => none
  | .tramGather _ _ => none
  | .tramFill _ _ => none
  | .tramBroadcast _ _ => none
  | .tramPut _ _ => none
  | .tramGet _ _ => none
  | .engineCommandResume _ _ => none
  | .culvertFp32Add _ => none
  | .culvertI32Add _ => none
  | .culvertFp32Max _ => none
  | .culvertFp32Min _ => none
  | .culvertI32Max _ => none
  | .culvertI32Min _ => none
  | .culvertOr _ => none
  | .heldQueueEntryEnter _ _ => none
  | .remoteSignalArrival _ _ => none
  | .xsel h _ => some (h, 0x96, [.a])
  | .xmit h _ => some (h, 0x95, [.a])
  | .xred h _ => some (h, 0x97, [.a])
  | .xredResultDelivery _ _ => none
  | .peerPartialArrival _ _ => none
  | .vadd h _ => some (h, 0x01, [.v])
  | .vsub h _ => some (h, 0x02, [.v])
  | .vmul h _ => some (h, 0x03, [.v])
  | .vfma h _ => some (h, 0x04, [.v])
  | .vfms h _ => some (h, 0x05, [.v])
  | .vfnma h _ => some (h, 0x06, [.v])
  | .vmin h _ => some (h, 0x07, [.v])
  | .vmax h _ => some (h, 0x08, [.v])
  | .vabs h _ => some (h, 0x09, [.v])
  | .vneg h _ => some (h, 0x0A, [.v])
  | .vabsd h _ => some (h, 0x0B, [.v])
  | .vcmp h _ => some (h, 0x0C, [.v])
  | .vsel h _ => some (h, 0x0D, [.v])
  | .vmov h _ => some (h, 0x0E, [.v])
  | .vbcast h _ => some (h, 0x0F, [.v])
  | .vext h _ => some (h, 0x10, [.v])
  | .vins h _ => some (h, 0x11, [.v])
  | .vperm h _ => some (h, 0x12, [.v])
  | .vslide h _ => some (h, 0x13, [.v])
  | .vrev h _ => some (h, 0x14, [.v])
  | .vredsum h _ => some (h, 0x15, [.v])
  | .vredmax h _ => some (h, 0x16, [.v])
  | .vredmin h _ => some (h, 0x17, [.v])
  | .vscan h _ => some (h, 0x18, [.v])
  | .vrcpe h _ => some (h, 0x19, [.v])
  | .vrsqe h _ => some (h, 0x1A, [.v])
  | .vexp2e h _ => some (h, 0x1B, [.v])
  | .vlog2e h _ => some (h, 0x1C, [.v])
  | .vcvt h _ => some (h, 0x1D, [.v])
  | .vcmpd h _ => some (h, 0x1E, [.v])
  | .vexpnd h _ => some (h, 0x1F, [.v])
  | .vtag h _ => some (h, 0x20, [.v])
  | .vtopk h _ => some (h, 0x21, [.v])
  | .vand h _ => some (h, 0x22, [.v])
  | .vor h _ => some (h, 0x23, [.v])
  | .vxor h _ => some (h, 0x24, [.v])
  | .vnot h _ => some (h, 0x25, [.v])
  | .vshl h _ => some (h, 0x26, [.v])
  | .vshr h _ => some (h, 0x27, [.v])
  | .vsra h _ => some (h, 0x28, [.v])
  | .vclz h _ => some (h, 0x29, [.v])
  | .vpopc h _ => some (h, 0x2A, [.v])
  | .vidx h _ => some (h, 0x2B, [.v])
  | .vdot4 h _ => some (h, 0x2C, [.v])
  | .vmadi h _ => some (h, 0x2D, [.v])
  | .vst h _ => some (h, 0x01, [.x])
  | .vpop h _ => some (h, 0x03, [.x])
  | .mvq h _ => some (h, 0x02, [.x])
  | .mbeg h _ => some (h, 0x10, [.x])
  | .mend h _ => some (h, 0x11, [.x])
  | .mldb h _ => some (h, 0x12, [.x])
  | .mma h _ => some (h, 0x13, [.x])
  | .checksumReplay _ => none
  | .mrd h _ => some (h, 0x14, [.x])
  | .mclr h _ => some (h, 0x15, [.x])
  | .mscl h _ => some (h, 0x16, [.x])
  | .mck h _ => some (h, 0x17, [.x])
  | .arrayClockGate _ => none
  | .tld h _ => some (h, 0x20, [.x])
  | .tst h _ => some (h, 0x21, [.x])
  | .tshp h _ => some (h, 0x22, [.x])
  | .tscl h _ => some (h, 0x23, [.x])
  | .tup h _ => some (h, 0x24, [.x])
  | .tdn h _ => some (h, 0x25, [.x])
  | .csig h _ => some (h, 0x30, [.x])
  | .cthr h _ => some (h, 0x31, [.x])
  | .cskip h _ => some (h, 0x32, [.x])
  | .cmap h _ => some (h, 0x33, [.x])
  | .crst h _ => some (h, 0x34, [.x])
  | .causewayService _ => none
  | .ageTick _ => none
  | .rowWarnPoint _ _ => none
  | .rowLimitExpiry _ _ => none
  | .l7RefreshOverdue _ _ => none
  | .refreshRequestEnter _ => none
  | .refreshStart _ => none
  | .refreshWriteback _ _ => none
  | .bandStepHotter _ => none
  | .bandStepCooler _ => none
  | .triggerWrite _ => none
  | .launchStart _ => none
  | .uploadWindowWrite _ _ _ => none
  | .hmaskWrite _ _ => none
  | .tempTableWrite _ _ => none
  | .tempTableApply => none
  | .registerWrite _ _ => none
  | .coreReqRun _ => none
  | .coreReqGate _ => none
  | .coreReqOff _ => none
  | .dieReqActive _ => none
  | .dieReqRetain _ => none
  | .dieReqOff _ => none
  | .powerStateChange _ _ => none
  | .coreStart _ => none
  | .resetDeassert => none
  | .tokenArrival _ _ => none
  | .loopBodyEnd _ => none
  | .roundaboutSelection _ => none
  | .dispatch _ => none
  | .agingTick _ => none
  | .preemptSave _ => none
  | .preemptResume _ => none
  | .spillStart _ => none
  | .nodeComplete _ => none
  | .spawnSetArrival _ => none
  | .mewsRingRetry _ => none
  | .queueRingDrain _ => none
  | .cancelMessage _ _ => none
  | .cancelForcedStop _ => none
  | .iterTimerHalf _ => none
  | .iterOverrun _ => none
  | .iterOverrunEnd _ => none
  | .trapEntry _ => none
  | .mutualStall _ => none
  | .pageRequestResponse _ _ _ => none
  | .atsInvalidateRequest _ _ _ => none
  | .invalidationComplete _ => none
  | .invalidationWatchdog _ => none
  | .machineCheck _ _ _ _ => none
  | .rollback _ => none
  | .hbmRefresh _ _ _ _ => none
  | .hbmRefreshIntervalChange _ _ _ => none
  | .hbmScrubRead _ _ _ => none
  | .hbmScrubWriteback _ => none
  | .pinRepair _ _ _ => none
  | .pinRepairEnd _ _ => none
  | .linkDown _ => none
  | .e2eTimeout _ _ => none
  | .messageResend _ => none
  | .thermalTrip _ _ => none
  | .tapInstruction _ => none
  | .engineRowPerform _ _ _ => none
  | .atsTranslationCompletion _ _ _ => none
  | .machineCheckHandlerTimeout _ => none
  | .thermalTripClear _ _ => none

end Sys2Proof
end

