-- ==== Sys2Proof/WellFormed.lean ====
section
/-! DEFINITION. Well-formed instructions: what a decoder accepts (spec 06 R136). -/
namespace Sys2Proof

/-- The instruction is a syllable of its slot's map, its truth table is not 0x00, every field is valid and every field marked
zero is zero. -/
def Instr.wf (i : Instr) : Bool :=
  match opcodeOf i with
  | none => false
  | some (h, _, slots) => slots.contains h.slot && h.tt != 0 && fieldsValid i && fieldsZero i

end Sys2Proof
end

