-- ==== Sys2Proof/Decode.lean ====
section
/-! DEFINITION. The decoder, total on every 64-bit syllable and 256-bit bundle, and the encoder (spec 06 R129-R146). -/
namespace Sys2Proof

/-- Why a syllable is not an instruction: cause 0x01, or cause 0x02 (R136). -/
inductive Illegal where
  | encoding   -- 0x01
  | nonzero    -- 0x02
deriving DecidableEq, Repr

/-- What a slot of a bundle holds: a no-op that is never decoded (R135), an instruction, or an illegal syllable. -/
inductive Syl where
  | empty
  | ok (i : Instr)
  | bad (e : Illegal)
deriving DecidableEq, Repr

/-- Body layout XRR (R138). -/
def decXRR (y : Nat) : XRR :=
  ⟨BitVec.ofNat 6 (bits y 27 6), BitVec.ofNat 6 (bits y 21 6), BitVec.ofNat 6 (bits y 15 6), BitVec.ofNat 15 (bits y 0 15)⟩
/-- The body word of XRR (R138). -/
def encXRR (b : XRR) : Nat :=
  b.xd.toNat * 2 ^ 27 + b.xa.toNat * 2 ^ 21 + b.xb.toNat * 2 ^ 15 + b.m.toNat

/-- Body layout VRR (R138). -/
def decVRR (y : Nat) : VRR :=
  ⟨BitVec.ofNat 9 (bits y 24 9), BitVec.ofNat 9 (bits y 15 9), BitVec.ofNat 9 (bits y 6 9), BitVec.ofNat 2 (bits y 4 2), BitVec.ofNat 4 (bits y 0 4)⟩
/-- The body word of VRR (R138). -/
def encVRR (b : VRR) : Nat :=
  b.nd.toNat * 2 ^ 24 + b.na.toNat * 2 ^ 15 + b.nb.toNat * 2 ^ 6 + b.qm.toNat * 2 ^ 4 + b.m.toNat

/-- Body layout XI (R138). -/
def decXI (y : Nat) : XI :=
  ⟨BitVec.ofNat 6 (bits y 27 6), BitVec.ofNat 6 (bits y 21 6), BitVec.ofNat 21 (bits y 0 21)⟩
/-- The body word of XI (R138). -/
def encXI (b : XI) : Nat :=
  b.xd.toNat * 2 ^ 27 + b.xa.toNat * 2 ^ 21 + b.imm.toNat

/-- Body layout XL (R138). -/
def decXL (y : Nat) : XL :=
  ⟨BitVec.ofNat 6 (bits y 27 6), BitVec.ofNat 27 (bits y 0 27)⟩
/-- The body word of XL (R138). -/
def encXL (b : XL) : Nat :=
  b.xd.toNat * 2 ^ 27 + b.imm.toNat

/-- Body layout PCX (R138). -/
def decPCX (y : Nat) : PCX :=
  ⟨BitVec.ofNat 5 (bits y 28 5), BitVec.ofNat 5 (bits y 23 5), BitVec.ofNat 4 (bits y 19 4), BitVec.ofNat 2 (bits y 17 2), BitVec.ofNat 6 (bits y 11 6), BitVec.ofNat 6 (bits y 5 6), BitVec.ofNat 5 (bits y 0 5)⟩
/-- The body word of PCX (R138). -/
def encPCX (b : PCX) : Nat :=
  b.pd.toNat * 2 ^ 28 + b.pe.toNat * 2 ^ 23 + b.cond.toNat * 2 ^ 19 + b.comb.toNat * 2 ^ 17 + b.xa.toNat * 2 ^ 11 + b.xb.toNat * 2 ^ 5 + b.z.toNat

/-- Body layout PCI (R138). -/
def decPCI (y : Nat) : PCI :=
  ⟨BitVec.ofNat 5 (bits y 28 5), BitVec.ofNat 5 (bits y 23 5), BitVec.ofNat 4 (bits y 19 4), BitVec.ofNat 2 (bits y 17 2), BitVec.ofNat 6 (bits y 11 6), BitVec.ofNat 11 (bits y 0 11)⟩
/-- The body word of PCI (R138). -/
def encPCI (b : PCI) : Nat :=
  b.pd.toNat * 2 ^ 28 + b.pe.toNat * 2 ^ 23 + b.cond.toNat * 2 ^ 19 + b.comb.toNat * 2 ^ 17 + b.xa.toNat * 2 ^ 11 + b.imm.toNat

/-- Body layout PCV (R138). -/
def decPCV (y : Nat) : PCV :=
  ⟨BitVec.ofNat 5 (bits y 28 5), BitVec.ofNat 5 (bits y 23 5), BitVec.ofNat 9 (bits y 14 9), BitVec.ofNat 9 (bits y 5 9), BitVec.ofNat 3 (bits y 2 3), BitVec.ofNat 2 (bits y 0 2)⟩
/-- The body word of PCV (R138). -/
def encPCV (b : PCV) : Nat :=
  b.pd.toNat * 2 ^ 28 + b.pe.toNat * 2 ^ 23 + b.na.toNat * 2 ^ 14 + b.nb.toNat * 2 ^ 5 + b.cond.toNat * 2 ^ 2 + b.comb.toNat

/-- Body layout PCT (R138). -/
def decPCT (y : Nat) : PCT :=
  ⟨BitVec.ofNat 5 (bits y 28 5), BitVec.ofNat 8 (bits y 20 8), BitVec.ofNat 5 (bits y 15 5), BitVec.ofNat 5 (bits y 10 5), BitVec.ofNat 5 (bits y 5 5), BitVec.ofNat 5 (bits y 0 5)⟩
/-- The body word of PCT (R138). -/
def encPCT (b : PCT) : Nat :=
  b.pd.toNat * 2 ^ 28 + b.tt.toNat * 2 ^ 20 + b.pa.toNat * 2 ^ 15 + b.pb.toNat * 2 ^ 10 + b.pc.toNat * 2 ^ 5 + b.z.toNat

/-- Body layout BR (R138). -/
def decBR (y : Nat) : BR :=
  ⟨BitVec.ofNat 6 (bits y 27 6), BitVec.ofNat 6 (bits y 21 6), BitVec.ofNat 21 (bits y 0 21)⟩
/-- The body word of BR (R138). -/
def encBR (b : BR) : Nat :=
  b.xd.toNat * 2 ^ 27 + b.z.toNat * 2 ^ 21 + b.off.toNat

/-- Body layout BRF (R138). -/
def decBRF (y : Nat) : BRF :=
  ⟨BitVec.ofNat 1 (bits y 32 1), BitVec.ofNat 16 (bits y 16 16), BitVec.ofNat 16 (bits y 0 16)⟩
/-- The body word of BRF (R138). -/
def encBRF (b : BRF) : Nat :=
  b.z.toNat * 2 ^ 32 + b.offA.toNat * 2 ^ 16 + b.offE.toNat

/-- Body layout LP (R138). -/
def decLP (y : Nat) : LP :=
  ⟨BitVec.ofNat 1 (bits y 32 1), BitVec.ofNat 14 (bits y 18 14), BitVec.ofNat 18 (bits y 0 18)⟩
/-- The body word of LP (R138). -/
def encLP (b : LP) : Nat :=
  b.i.toNat * 2 ^ 32 + b.stop.toNat * 2 ^ 18 + b.low.toNat

/-- Body layout EC (R138). -/
def decEC (y : Nat) : EC :=
  ⟨BitVec.ofNat 4 (bits y 29 4), BitVec.ofNat 6 (bits y 23 6), BitVec.ofNat 6 (bits y 17 6), BitVec.ofNat 17 (bits y 0 17)⟩
/-- The body word of EC (R138). -/
def encEC (b : EC) : Nat :=
  b.eng.toNat * 2 ^ 29 + b.xcmd.toNat * 2 ^ 23 + b.xcount.toNat * 2 ^ 17 + b.z.toNat

/-- Body layout XFM (R138). -/
def decXFM (y : Nat) : XFM :=
  ⟨BitVec.ofNat 4 (bits y 29 4), BitVec.ofNat 1 (bits y 28 1), BitVec.ofNat 9 (bits y 19 9), BitVec.ofNat 3 (bits y 16 3), BitVec.ofNat 16 (bits y 0 16)⟩
/-- The body word of XFM (R138). -/
def encXFM (b : XFM) : Nat :=
  b.port.toNat * 2 ^ 29 + b.kind.toNat * 2 ^ 28 + b.src.toNat * 2 ^ 19 + b.z.toNat * 2 ^ 16 + b.cycle.toNat

/-- Body layout XFS (R138). -/
def decXFS (y : Nat) : XFS :=
  ⟨BitVec.ofNat 4 (bits y 29 4), BitVec.ofNat 4 (bits y 25 4), BitVec.ofNat 9 (bits y 16 9), BitVec.ofNat 16 (bits y 0 16)⟩
/-- The body word of XFS (R138). -/
def encXFS (b : XFS) : Nat :=
  b.outp.toNat * 2 ^ 29 + b.inp.toNat * 2 ^ 25 + b.z.toNat * 2 ^ 16 + b.cycle.toNat

/-- Body layout XFR (R138). -/
def decXFR (y : Nat) : XFR :=
  ⟨BitVec.ofNat 6 (bits y 27 6), BitVec.ofNat 9 (bits y 18 9), BitVec.ofNat 2 (bits y 16 2), BitVec.ofNat 16 (bits y 0 16)⟩
/-- The body word of XFR (R138). -/
def encXFR (b : XFR) : Nat :=
  b.xa.toNat * 2 ^ 27 + b.src.toNat * 2 ^ 18 + b.z.toNat * 2 ^ 16 + b.cycle.toNat

/-- Body layout TRS (R138). -/
def decTRS (y : Nat) : TRS :=
  ⟨BitVec.ofNat 9 (bits y 24 9), BitVec.ofNat 9 (bits y 15 9), BitVec.ofNat 6 (bits y 9 6), BitVec.ofNat 1 (bits y 8 1), BitVec.ofNat 2 (bits y 6 2), BitVec.ofNat 6 (bits y 0 6)⟩
/-- The body word of TRS (R138). -/
def encTRS (b : TRS) : Nat :=
  b.t.toNat * 2 ^ 24 + b.tbase.toNat * 2 ^ 15 + b.shape.toNat * 2 ^ 9 + b.copy.toNat * 2 ^ 8 + b.qm.toNat * 2 ^ 6 + b.z.toNat

/-- Body layout TRL (R138). -/
def decTRL (y : Nat) : TRL :=
  ⟨BitVec.ofNat 9 (bits y 24 9), BitVec.ofNat 9 (bits y 15 9), BitVec.ofNat 7 (bits y 8 7), BitVec.ofNat 2 (bits y 6 2), BitVec.ofNat 6 (bits y 0 6)⟩
/-- The body word of TRL (R138). -/
def encTRL (b : TRL) : Nat :=
  b.t.toNat * 2 ^ 24 + b.vn.toNat * 2 ^ 15 + b.n.toNat * 2 ^ 8 + b.qm.toNat * 2 ^ 6 + b.z.toNat

/-- Body layout TRH (R138). -/
def decTRH (y : Nat) : TRH :=
  ⟨BitVec.ofNat 18 (bits y 15 18), BitVec.ofNat 6 (bits y 9 6), BitVec.ofNat 3 (bits y 6 3), BitVec.ofNat 6 (bits y 0 6)⟩
/-- The body word of TRH (R138). -/
def encTRH (b : TRH) : Nat :=
  b.z.toNat * 2 ^ 15 + b.shape.toNat * 2 ^ 9 + b.z2.toNat * 2 ^ 6 + b.xa.toNat

/-- Body layout TRC (R138). -/
def decTRC (y : Nat) : TRC :=
  ⟨BitVec.ofNat 24 (bits y 9 24), BitVec.ofNat 1 (bits y 8 1), BitVec.ofNat 2 (bits y 6 2), BitVec.ofNat 6 (bits y 0 6)⟩
/-- The body word of TRC (R138). -/
def encTRC (b : TRC) : Nat :=
  b.z.toNat * 2 ^ 9 + b.mode.toNat * 2 ^ 8 + b.z2.toNat * 2 ^ 6 + b.xa.toNat

/-- Body layout NB (R143). -/
def decNB (y : Nat) : NB := ⟨BitVec.ofNat 33 (bits y 0 33)⟩
/-- The body word of NB. -/
def encNB (b : NB) : Nat := b.z.toNat

/-- `mtsr`: the register number selects the row (R178); none for a number that is not valid. -/
def decodeMtsr (h : Hd) (b : XI) : Option Instr :=
  if b.imm == 0x010 then some (.mtsrSlipw h b)
  else if b.imm == 0x011 then some (.mtsrFmode h b)
  else if b.imm == 0x012 then some (.mtsrFflags h b)
  else if 0x020 ≤ b.imm.toNat ∧ b.imm.toNat ≤ 0x02F then some (.mtsrCrv h b)
  else if b.imm == 0x030 then some (.mtsrSdcfg h b)
  else if b.imm == 0x040 then some (.mtsrTvec h b)
  else none

/-- `fence`: mod[2:0] selects the scope (R171); none for 5-7. -/
def decodeFence (h : Hd) (b : XRR) : Option Instr :=
  match bits b.m.toNat 0 3 with
  | 0 => some (.fenceDeck h b)
  | 1 => some (.fenceCore h b)
  | 2 => some (.fenceGang h b)
  | 3 => some (.fenceDevice h b)
  | 4 => some (.fenceSystem h b)
  | _ => none

/-- Opcode map A (R143): the instruction an opcode names, before its fields are checked. -/
def decodeA (op : Nat) (h : Hd) (y : Nat) : Option Instr :=
  match op with
  | 0x00 => some (.nop h (decNB y))
  | 0x01 => some (.add h (decXRR y))
  | 0x02 => some (.sub h (decXRR y))
  | 0x03 => some (.and h (decXRR y))
  | 0x04 => some (.or h (decXRR y))
  | 0x05 => some (.xor h (decXRR y))
  | 0x06 => some (.shl h (decXRR y))
  | 0x07 => some (.shr h (decXRR y))
  | 0x08 => some (.sra h (decXRR y))
  | 0x09 => some (.mul h (decXRR y))
  | 0x0A => some (.mulh h (decXRR y))
  | 0x0B => some (.mulhu h (decXRR y))
  | 0x0C => some (.min h (decXRR y))
  | 0x0D => some (.minu h (decXRR y))
  | 0x0E => some (.max h (decXRR y))
  | 0x0F => some (.maxu h (decXRR y))
  | 0x10 => some (.sel h (decXRR y))
  | 0x11 => some (.clz h (decXRR y))
  | 0x12 => some (.popc h (decXRR y))
  | 0x13 => some (.bext h (decXRR y))
  | 0x14 => some (.bins h (decXRR y))
  | 0x18 => some (.addi h (decXI y))
  | 0x19 => some (.andi h (decXI y))
  | 0x1A => some (.ori h (decXI y))
  | 0x1B => some (.xori h (decXI y))
  | 0x1C => some (.shli h (decXI y))
  | 0x1D => some (.shri h (decXI y))
  | 0x1E => some (.srai h (decXI y))
  | 0x1F => some (.movi h (decXL y))
  | 0x20 => some (.movhi h (decXL y))
  | 0x21 => some (.cmp h (decPCX y))
  | 0x22 => some (.cmpi h (decPCI y))
  | 0x23 => some (.ptt h (decPCT y))
  | 0x40 => some (.br h (decBR y))
  | 0x41 => some (.call h (decBR y))
  | 0x42 => some (.ret h (decXRR y))
  | 0x43 => some (.brq h (decBR y))
  | 0x44 => some (.boq h (decXRR y))
  | 0x45 => some (.loop h (decLP y))
  | 0x46 => some (.loopi h (decLP y))
  | 0x47 => some (.rep h (decLP y))
  | 0x49 => some (.join h (decXRR y))
  | 0x4A => some (.syncs h (decXI y))
  | 0x4B => some (.syncw h (decXI y))
  | 0x62 => decodeFence h (decXRR y)
  | 0x64 => some (.qpt h (decXRR y))
  | 0x65 => some (.semw h (decXRR y))
  | 0x66 => some (.sema h (decXRR y))
  | 0x67 => some (.semt h (decXRR y))
  | 0x68 => some (.semr h (decXRR y))
  | 0x80 => some (.ldsB h (decXI y))
  | 0x81 => some (.ldsH h (decXI y))
  | 0x82 => some (.ldsW h (decXI y))
  | 0x83 => some (.ldsD h (decXI y))
  | 0x84 => some (.stsB h (decXI y))
  | 0x85 => some (.stsH h (decXI y))
  | 0x86 => some (.stsW h (decXI y))
  | 0x87 => some (.stsD h (decXI y))
  | 0x88 => some (.ldq h (decXRR y))
  | 0x89 => some (.ldqt h (decXRR y))
  | 0x8A => some (.hld h (decXI y))
  | 0x8B => some (.hidx h (decXRR y))
  | 0x8C => some (.probe h (decXI y))
  | 0x8D => some (.ppin h (decXRR y))
  | 0x8E => some (.pfree h (decXRR y))
  | 0x8F => some (.tcfg h (decXRR y))
  | 0x90 => some (.trel h (decXRR y))
  | 0x91 => some (.tage h (decXRR y))
  | 0x92 => some (if bits y 0 1 == 0 then .pub h (decXRR y) else .pubR h (decXRR y))
  | 0x93 => some (.ldk h (decXL y))
  | 0x94 => some (.ecmd h (decEC y))
  | 0x95 => some (.xmit h (decXFM y))
  | 0x96 => some (.xsel h (decXFS y))
  | 0x97 => some (.xred h (decXFR y))
  | _ => none

/-- Opcode map S (R143): the instruction an opcode names, before its fields are checked. -/
def decodeS (op : Nat) (h : Hd) (y : Nat) : Option Instr :=
  match op with
  | 0x00 => some (.nop h (decNB y))
  | 0x01 => some (.add h (decXRR y))
  | 0x02 => some (.sub h (decXRR y))
  | 0x03 => some (.and h (decXRR y))
  | 0x04 => some (.or h (decXRR y))
  | 0x05 => some (.xor h (decXRR y))
  | 0x06 => some (.shl h (decXRR y))
  | 0x07 => some (.shr h (decXRR y))
  | 0x08 => some (.sra h (decXRR y))
  | 0x09 => some (.mul h (decXRR y))
  | 0x0A => some (.mulh h (decXRR y))
  | 0x0B => some (.mulhu h (decXRR y))
  | 0x0C => some (.min h (decXRR y))
  | 0x0D => some (.minu h (decXRR y))
  | 0x0E => some (.max h (decXRR y))
  | 0x0F => some (.maxu h (decXRR y))
  | 0x10 => some (.sel h (decXRR y))
  | 0x11 => some (.clz h (decXRR y))
  | 0x12 => some (.popc h (decXRR y))
  | 0x13 => some (.bext h (decXRR y))
  | 0x14 => some (.bins h (decXRR y))
  | 0x18 => some (.addi h (decXI y))
  | 0x19 => some (.andi h (decXI y))
  | 0x1A => some (.ori h (decXI y))
  | 0x1B => some (.xori h (decXI y))
  | 0x1C => some (.shli h (decXI y))
  | 0x1D => some (.shri h (decXI y))
  | 0x1E => some (.srai h (decXI y))
  | 0x1F => some (.movi h (decXL y))
  | 0x20 => some (.movhi h (decXL y))
  | 0x21 => some (.cmp h (decPCX y))
  | 0x22 => some (.cmpi h (decPCI y))
  | 0x23 => some (.ptt h (decPCT y))
  | 0x40 => some (.br h (decBR y))
  | 0x41 => some (.call h (decBR y))
  | 0x42 => some (.ret h (decXRR y))
  | 0x43 => some (.brq h (decBR y))
  | 0x44 => some (.boq h (decXRR y))
  | 0x45 => some (.loop h (decLP y))
  | 0x46 => some (.loopi h (decLP y))
  | 0x47 => some (.rep h (decLP y))
  | 0x48 => some (.fork h (decBRF y))
  | 0x49 => some (.join h (decXRR y))
  | 0x4A => some (.syncs h (decXI y))
  | 0x4B => some (.syncw h (decXI y))
  | 0x4C => some (.halt h (decXRR y))
  | 0x60 => some (.mfsr h (decXI y))
  | 0x61 => decodeMtsr h (decXI y)
  | 0x62 => decodeFence h (decXRR y)
  | 0x63 => some (.sq h (decXRR y))
  | 0x64 => some (.qpt h (decXRR y))
  | 0x65 => some (.semw h (decXRR y))
  | 0x66 => some (.sema h (decXRR y))
  | 0x67 => some (.semt h (decXRR y))
  | 0x68 => some (.semr h (decXRR y))
  | 0x69 => some (.alease h (decXRR y))
  | 0x6A => some (.arel h (decXRR y))
  | 0x6B => some (.spawn h (decXRR y))
  | 0x6C => some (.cancel h (decXRR y))
  | 0x6D => some (.xfork h (decXRR y))
  | 0x6E => some (.trap h (decXI y))
  | 0x6F => some (.rfe h (decXRR y))
  | 0x70 => some (.wfi h (decXRR y))
  | 0x71 => some (.widx h (decXI y))
  | 0x72 => some (.plive h (decXRR y))
  | 0x73 => some (.vlive h (decXRR y))
  | _ => none

/-- Opcode map V (R144): the instruction an opcode names, before its fields are checked. -/
def decodeV (op : Nat) (h : Hd) (y : Nat) : Option Instr :=
  match op with
  | 0x00 => some (.nop h (decNB y))
  | 0x01 => some (.vadd h (decVRR y))
  | 0x02 => some (.vsub h (decVRR y))
  | 0x03 => some (.vmul h (decVRR y))
  | 0x04 => some (.vfma h (decVRR y))
  | 0x05 => some (.vfms h (decVRR y))
  | 0x06 => some (.vfnma h (decVRR y))
  | 0x07 => some (.vmin h (decVRR y))
  | 0x08 => some (.vmax h (decVRR y))
  | 0x09 => some (.vabs h (decVRR y))
  | 0x0A => some (.vneg h (decVRR y))
  | 0x0B => some (.vabsd h (decVRR y))
  | 0x0C => some (.vcmp h (decPCV y))
  | 0x0D => some (.vsel h (decVRR y))
  | 0x0E => some (.vmov h (decVRR y))
  | 0x0F => some (.vbcast h (decVRR y))
  | 0x10 => some (.vext h (decVRR y))
  | 0x11 => some (.vins h (decVRR y))
  | 0x12 => some (.vperm h (decVRR y))
  | 0x13 => some (.vslide h (decVRR y))
  | 0x14 => some (.vrev h (decVRR y))
  | 0x15 => some (.vredsum h (decVRR y))
  | 0x16 => some (.vredmax h (decVRR y))
  | 0x17 => some (.vredmin h (decVRR y))
  | 0x18 => some (.vscan h (decVRR y))
  | 0x19 => some (.vrcpe h (decVRR y))
  | 0x1A => some (.vrsqe h (decVRR y))
  | 0x1B => some (.vexp2e h (decVRR y))
  | 0x1C => some (.vlog2e h (decVRR y))
  | 0x1D => some (.vcvt h (decVRR y))
  | 0x1E => some (.vcmpd h (decVRR y))
  | 0x1F => some (.vexpnd h (decVRR y))
  | 0x20 => some (.vtag h (decVRR y))
  | 0x21 => some (.vtopk h (decVRR y))
  | 0x22 => some (.vand h (decVRR y))
  | 0x23 => some (.vor h (decVRR y))
  | 0x24 => some (.vxor h (decVRR y))
  | 0x25 => some (.vnot h (decVRR y))
  | 0x26 => some (.vshl h (decVRR y))
  | 0x27 => some (.vshr h (decVRR y))
  | 0x28 => some (.vsra h (decVRR y))
  | 0x29 => some (.vclz h (decVRR y))
  | 0x2A => some (.vpopc h (decVRR y))
  | 0x2B => some (.vidx h (decVRR y))
  | 0x2C => some (.vdot4 h (decVRR y))
  | 0x2D => some (.vmadi h (decVRR y))
  | _ => none

/-- Opcode map X (R145): the instruction an opcode names, before its fields are checked. -/
def decodeX (op : Nat) (h : Hd) (y : Nat) : Option Instr :=
  match op with
  | 0x00 => some (.nop h (decNB y))
  | 0x01 => some (.vst h (decVRR y))
  | 0x02 => some (.mvq h (decXRR y))
  | 0x03 => some (.vpop h (decVRR y))
  | 0x10 => some (.mbeg h (decXRR y))
  | 0x11 => some (.mend h (decXRR y))
  | 0x12 => some (.mldb h (decXRR y))
  | 0x13 => some (.mma h (decXRR y))
  | 0x14 => some (.mrd h (decXRR y))
  | 0x15 => some (.mclr h (decXRR y))
  | 0x16 => some (.mscl h (decXRR y))
  | 0x17 => some (.mck h (decXRR y))
  | 0x20 => some (.tld h (decTRL y))
  | 0x21 => some (.tst h (decTRL y))
  | 0x22 => some (.tshp h (decTRH y))
  | 0x23 => some (.tscl h (decTRC y))
  | 0x24 => some (.tup h (decTRS y))
  | 0x25 => some (.tdn h (decTRS y))
  | 0x30 => some (.csig h (decXRR y))
  | 0x31 => some (.cthr h (decXRR y))
  | 0x32 => some (.cskip h (decXRR y))
  | 0x33 => some (.cmap h (decXRR y))
  | 0x34 => some (.crst h (decXRR y))
  | 0x94 => some (.ecmd h (decEC y))
  | _ => none

/-- The map of a slot (R130). -/
def decodeMap : Slot → Nat → Hd → Nat → Option Instr
  | .a => decodeA
  | .s => decodeS
  | .v => decodeV
  | .x => decodeX

/-- The head of a syllable word (R133). -/
def decHd (k : Slot) (y : Nat) : Hd :=
  ⟨k, BitVec.ofNat 8 (bits y 56 8), BitVec.ofNat 5 (bits y 51 5), BitVec.ofNat 5 (bits y 46 5), BitVec.ofNat 5 (bits y 41 5)⟩

/-- One syllable of slot k (R135, R136): TT = 0x00 is never decoded; then opcode and field values (0x01); then the fields
marked zero (0x02). -/
def decodeSyl (k : Slot) (y : Nat) : Syl :=
  if bits y 56 8 = 0 then .empty
  else match decodeMap k (bits y 33 8) (decHd k y) y with
    | none => .bad .encoding
    | some i => if !fieldsValid i then .bad .encoding else if !fieldsZero i then .bad .nonzero else .ok i

/-- The four syllables of a bundle word (R129). -/
structure Bundle where
  a : Syl
  s : Syl
  v : Syl
  x : Syl
deriving DecidableEq, Repr

/-- The syllable is a `join` (R163). -/
def Syl.isJoin : Syl → Bool
  | .ok (.join _ _) => true
  | _ => false

/-- A bundle is 32 bytes, slot k at bits 64k + 63 to 64k (R129); a `join` that stands in only one of slots A and S is not
valid (R163, R404). -/
def decodeBundle (w : Nat) : Bundle :=
  let a := decodeSyl .a (bits w 0 64)
  let s := decodeSyl .s (bits w 64 64)
  let v := decodeSyl .v (bits w 128 64)
  let x := decodeSyl .x (bits w 192 64)
  if a.isJoin && !s.isJoin then ⟨.bad .encoding, s, v, x⟩
  else if s.isJoin && !a.isJoin then ⟨a, .bad .encoding, v, x⟩
  else ⟨a, s, v, x⟩

/-- The instruction a syllable holds, if it holds one. -/
def Syl.instr : Syl → Option Instr
  | .ok i => some i
  | _ => none

/-- The first instruction of a bundle in slot order A, S, V, X. -/
def Bundle.first (b : Bundle) : Option Instr :=
  match b.a.instr, b.s.instr, b.v.instr, b.x.instr with
  | some i, _, _, _ => some i
  | none, some i, _, _ => some i
  | none, none, some i, _ => some i
  | none, none, none, r => r

/-- What the decoder reads from the bits of one bundle, the bits above nbits zero (bit 0 of the first word is bit 0). -/
def decodeTableWord (nbits w : Nat) : Option Instr := (decodeBundle (w % 2 ^ nbits)).first

/-- The body word of an instruction (R138); 0 for a row without an encoding. -/
def bodyOf : Instr → Nat
  | .nop _ b => encNB b
  | .add _ b => encXRR b
  | .sub _ b => encXRR b
  | .and _ b => encXRR b
  | .or _ b => encXRR b
  | .xor _ b => encXRR b
  | .shl _ b => encXRR b
  | .shr _ b => encXRR b
  | .sra _ b => encXRR b
  | .mul _ b => encXRR b
  | .mulh _ b => encXRR b
  | .mulhu _ b => encXRR b
  | .min _ b => encXRR b
  | .minu _ b => encXRR b
  | .max _ b => encXRR b
  | .maxu _ b => encXRR b
  | .sel _ b => encXRR b
  | .clz _ b => encXRR b
  | .popc _ b => encXRR b
  | .bext _ b => encXRR b
  | .bins _ b => encXRR b
  | .addi _ b => encXI b
  | .andi _ b => encXI b
  | .ori _ b => encXI b
  | .xori _ b => encXI b
  | .shli _ b => encXI b
  | .shri _ b => encXI b
  | .srai _ b => encXI b
  | .movi _ b => encXL b
  | .movhi _ b => encXL b
  | .cmp _ b => encPCX b
  | .cmpi _ b => encPCI b
  | .ptt _ b => encPCT b
  | .br _ b => encBR b
  | .call _ b => encBR b
  | .ret _ b => encXRR b
  | .brq _ b => encBR b
  | .boq _ b => encXRR b
  | .loop _ b => encLP b
  | .loopi _ b => encLP b
  | .rep _ b => encLP b
  | .fork _ b => encBRF b
  | .join _ b => encXRR b
  | .syncs _ b => encXI b
  | .syncw _ b => encXI b
  | .halt _ b => encXRR b
  | .mfsr _ b => encXI b
  | .mtsrSlipw _ b => encXI b
  | .mtsrFmode _ b => encXI b
  | .mtsrFflags _ b => encXI b
  | .mtsrCrv _ b => encXI b
  | .mtsrSdcfg _ b => encXI b
  | .mtsrTvec _ b => encXI b
  | .fenceDeck _ b => encXRR b
  | .fenceCore _ b => encXRR b
  | .fenceGang _ b => encXRR b
  | .fenceDevice _ b => encXRR b
  | .fenceSystem _ b => encXRR b
  | .qpt _ b => encXRR b
  | .sq _ b => encXRR b
  | .squareComplete _ => 0
  | .transferPhaseEnd _ => 0
  | .semw _ b => encXRR b
  | .sema _ b => encXRR b
  | .semaAddPerform _ _ _ _ => 0
  | .semt _ b => encXRR b
  | .semr _ b => encXRR b
  | .alease _ b => encXRR b
  | .leaseGrant _ => 0
  | .arel _ b => encXRR b
  | .spawn _ b => encXRR b
  | .cancel _ b => encXRR b
  | .xfork _ b => encXRR b
  | .trap _ b => encXI b
  | .rfe _ b => encXRR b
  | .wfi _ b => encXRR b
  | .widx _ b => encXI b
  | .plive _ b => encXRR b
  | .vlive _ b => encXRR b
  | .ldsB _ b => encXI b
  | .ldsH _ b => encXI b
  | .ldsW _ b => encXI b
  | .ldsD _ b => encXI b
  | .stsB _ b => encXI b
  | .stsH _ b => encXI b
  | .stsW _ b => encXI b
  | .stsD _ b => encXI b
  | .ldq _ b => encXRR b
  | .remoteReadArrival _ => 0
  | .remoteReadResponse _ _ => 0
  | .ldqt _ b => encXRR b
  | .hld _ b => encXI b
  | .hldRecordArrival _ _ _ => 0
  | .hidx _ b => encXRR b
  | .probe _ b => encXI b
  | .probeFill _ => 0
  | .ppin _ b => encXRR b
  | .pfree _ b => encXRR b
  | .tcfg _ b => encXRR b
  | .tcfgTakeEffect _ _ => 0
  | .trel _ b => encXRR b
  | .trelTakeEffect _ _ => 0
  | .tage _ b => encXRR b
  | .pub _ b => encXRR b
  | .pubR _ b => encXRR b
  | .tileMarkTakeEffect _ _ _ _ => 0
  | .ldk _ b => encXL b
  | .ecmd _ b => encEC b
  | .tramCopy _ _ => 0
  | .tramLoad _ _ => 0
  | .tramStoreBack _ _ => 0
  | .tramRemoteCopy _ _ => 0
  | .tramGather _ _ => 0
  | .tramFill _ _ => 0
  | .tramBroadcast _ _ => 0
  | .tramPut _ _ => 0
  | .tramGet _ _ => 0
  | .engineCommandResume _ _ => 0
  | .culvertFp32Add _ => 0
  | .culvertI32Add _ => 0
  | .culvertFp32Max _ => 0
  | .culvertFp32Min _ => 0
  | .culvertI32Max _ => 0
  | .culvertI32Min _ => 0
  | .culvertOr _ => 0
  | .heldQueueEntryEnter _ _ => 0
  | .remoteSignalArrival _ _ => 0
  | .xsel _ b => encXFS b
  | .xmit _ b => encXFM b
  | .xred _ b => encXFR b
  | .xredResultDelivery _ _ => 0
  | .peerPartialArrival _ _ => 0
  | .vadd _ b => encVRR b
  | .vsub _ b => encVRR b
  | .vmul _ b => encVRR b
  | .vfma _ b => encVRR b
  | .vfms _ b => encVRR b
  | .vfnma _ b => encVRR b
  | .vmin _ b => encVRR b
  | .vmax _ b => encVRR b
  | .vabs _ b => encVRR b
  | .vneg _ b => encVRR b
  | .vabsd _ b => encVRR b
  | .vcmp _ b => encPCV b
  | .vsel _ b => encVRR b
  | .vmov _ b => encVRR b
  | .vbcast _ b => encVRR b
  | .vext _ b => encVRR b
  | .vins _ b => encVRR b
  | .vperm _ b => encVRR b
  | .vslide _ b => encVRR b
  | .vrev _ b => encVRR b
  | .vredsum _ b => encVRR b
  | .vredmax _ b => encVRR b
  | .vredmin _ b => encVRR b
  | .vscan _ b => encVRR b
  | .vrcpe _ b => encVRR b
  | .vrsqe _ b => encVRR b
  | .vexp2e _ b => encVRR b
  | .vlog2e _ b => encVRR b
  | .vcvt _ b => encVRR b
  | .vcmpd _ b => encVRR b
  | .vexpnd _ b => encVRR b
  | .vtag _ b => encVRR b
  | .vtopk _ b => encVRR b
  | .vand _ b => encVRR b
  | .vor _ b => encVRR b
  | .vxor _ b => encVRR b
  | .vnot _ b => encVRR b
  | .vshl _ b => encVRR b
  | .vshr _ b => encVRR b
  | .vsra _ b => encVRR b
  | .vclz _ b => encVRR b
  | .vpopc _ b => encVRR b
  | .vidx _ b => encVRR b
  | .vdot4 _ b => encVRR b
  | .vmadi _ b => encVRR b
  | .vst _ b => encVRR b
  | .vpop _ b => encVRR b
  | .mvq _ b => encXRR b
  | .mbeg _ b => encXRR b
  | .mend _ b => encXRR b
  | .mldb _ b => encXRR b
  | .mma _ b => encXRR b
  | .checksumReplay _ => 0
  | .mrd _ b => encXRR b
  | .mclr _ b => encXRR b
  | .mscl _ b => encXRR b
  | .mck _ b => encXRR b
  | .arrayClockGate _ => 0
  | .tld _ b => encTRL b
  | .tst _ b => encTRL b
  | .tshp _ b => encTRH b
  | .tscl _ b => encTRC b
  | .tup _ b => encTRS b
  | .tdn _ b => encTRS b
  | .csig _ b => encXRR b
  | .cthr _ b => encXRR b
  | .cskip _ b => encXRR b
  | .cmap _ b => encXRR b
  | .crst _ b => encXRR b
  | .causewayService _ => 0
  | .ageTick _ => 0
  | .rowWarnPoint _ _ => 0
  | .rowLimitExpiry _ _ => 0
  | .l7RefreshOverdue _ _ => 0
  | .refreshRequestEnter _ => 0
  | .refreshStart _ => 0
  | .refreshWriteback _ _ => 0
  | .bandStepHotter _ => 0
  | .bandStepCooler _ => 0
  | .triggerWrite _ => 0
  | .launchStart _ => 0
  | .uploadWindowWrite _ _ _ => 0
  | .hmaskWrite _ _ => 0
  | .tempTableWrite _ _ => 0
  | .tempTableApply => 0
  | .registerWrite _ _ => 0
  | .coreReqRun _ => 0
  | .coreReqGate _ => 0
  | .coreReqOff _ => 0
  | .dieReqActive _ => 0
  | .dieReqRetain _ => 0
  | .dieReqOff _ => 0
  | .powerStateChange _ _ => 0
  | .coreStart _ => 0
  | .resetDeassert => 0
  | .tokenArrival _ _ => 0
  | .loopBodyEnd _ => 0
  | .roundaboutSelection _ => 0
  | .dispatch _ => 0
  | .agingTick _ => 0
  | .preemptSave _ => 0
  | .preemptResume _ => 0
  | .spillStart _ => 0
  | .nodeComplete _ => 0
  | .spawnSetArrival _ => 0
  | .mewsRingRetry _ => 0
  | .queueRingDrain _ => 0
  | .cancelMessage _ _ => 0
  | .cancelForcedStop _ => 0
  | .iterTimerHalf _ => 0
  | .iterOverrun _ => 0
  | .iterOverrunEnd _ => 0
  | .trapEntry _ => 0
  | .mutualStall _ => 0
  | .pageRequestResponse _ _ _ => 0
  | .atsInvalidateRequest _ _ _ => 0
  | .invalidationComplete _ => 0
  | .invalidationWatchdog _ => 0
  | .machineCheck _ _ _ _ => 0
  | .rollback _ => 0
  | .hbmRefresh _ _ _ _ => 0
  | .hbmRefreshIntervalChange _ _ _ => 0
  | .hbmScrubRead _ _ _ => 0
  | .hbmScrubWriteback _ => 0
  | .pinRepair _ _ _ => 0
  | .pinRepairEnd _ _ => 0
  | .linkDown _ => 0
  | .e2eTimeout _ _ => 0
  | .messageResend _ => 0
  | .thermalTrip _ _ => 0
  | .tapInstruction _ => 0
  | .engineRowPerform _ _ _ => 0
  | .atsTranslationCompletion _ _ _ => 0
  | .machineCheckHandlerTimeout _ => 0
  | .thermalTripClear _ _ => 0

/-- The head word of a syllable (R133). -/
def encHd (h : Hd) : Nat := h.tt.toNat * 2 ^ 56 + h.pa.toNat * 2 ^ 51 + h.pb.toNat * 2 ^ 46 + h.pc.toNat * 2 ^ 41

/-- The 64-bit syllable of an instruction (R133); none for a row without an encoding. -/
def encode (i : Instr) : Option Nat :=
  match opcodeOf i with
  | none => none
  | some (h, op, _) => some (encHd h + op * 2 ^ 33 + bodyOf i)

/-- The slot number k of R129. -/
def Slot.idx : Slot → Nat
  | .a => 0
  | .s => 1
  | .v => 2
  | .x => 3

/-- The bundle word that holds one syllable in its slot and canonical no-ops in the others (R129, R135); a `join` stands in
slots A and S. -/
def encodeBundle (i : Instr) : Option Nat :=
  match opcodeOf i, encode i with
  | some (h, op, _), some y =>
    if op = 0x49 ∧ (h.slot = .a ∨ h.slot = .s) then some (y + y * 2 ^ 64) else some (y * 2 ^ (64 * h.slot.idx))
  | _, _ => none

end Sys2Proof
end

