-- ==== Sys2Proof/Machine/Numbers.lean ====
section
/-! DEFINITION. Number formats and exact arithmetic (spec 04 R82-R108): every format is decoded to an exact value, arithmetic is
exact on values, and one rounding brings the result into its format. -/
namespace Sys2Proof.Machine

/-- The flags of `fflags` (R88). -/
def fNX : BitVec 8 := 1
def fUF : BitVec 8 := 2
def fOF : BitVec 8 := 4
def fDZ : BitVec 8 := 8
def fNV : BitVec 8 := 16
def fSAT : BitVec 8 := 64
def fSPZ : BitVec 8 := 128

/-- An exact value: a NaN (signalling or not), an infinity, or ± mag × 2^e; a zero keeps its sign (R85, R86). -/
inductive Val where
  | nan (sig : Bool)
  | inf (neg : Bool)
  | fin (neg : Bool) (mag : Nat) (e : Int)
deriving DecidableEq, Repr

/-- An IEEE-format: exponent bits and fraction bits (R85). -/
structure FFmt where
  eb : Nat
  mb : Nat
deriving DecidableEq, Repr

def fp32 : FFmt := ⟨8, 23⟩
def bf16 : FFmt := ⟨8, 7⟩
def fp16 : FFmt := ⟨5, 10⟩

/-- The exponent bias. -/
def FFmt.bias (f : FFmt) : Int := 2 ^ (f.eb - 1) - 1

/-- The element width in bits of each format tag (R82); 32 for a reserved tag. -/
def tagBits (t : Nat) : Nat :=
  match t with
  | 0x01 | 0x02 | 0x09 => 16
  | 0x03 | 0x05 | 0x0A | 0x0B => 8
  | 0x04 | 0x06 => 6
  | 0x0C => 4
  | _ => 32

/-- The elements of one 512-byte image (R82). -/
def tagElems (t : Nat) : Nat :=
  match tagBits t with
  | 16 => 256
  | 8 => 512
  | 6 => 682
  | 4 => 1024
  | _ => 128

/-- Tag set F of R213. -/
def isFTag (t : Nat) : Bool := decide (t ≤ 2)
/-- Tag set N of R213. -/
def isNTag (t : Nat) : Bool := isN t
/-- The IEEE format of a tag of F. -/
def ffmtOf (t : Nat) : FFmt := if t = 1 then bf16 else if t = 2 then fp16 else fp32

/-- Comparison of a × 2^x with b × 2^y. -/
def cmpScaled (a : Nat) (x : Int) (b : Nat) (y : Int) : Ordering :=
  let g := min x y
  compare (a * 2 ^ (x - g).toNat) (b * 2 ^ (y - g).toNat)

/-- The value of an IEEE code (R85). -/
def decIEEE (f : FFmt) (w : Nat) : Val :=
  let s := bits w (f.eb + f.mb) 1 == 1
  let ex := bits w f.mb f.eb
  let fr := bits w 0 f.mb
  if ex = 2 ^ f.eb - 1 then (if fr = 0 then .inf s else .nan (bits w (f.mb - 1) 1 == 0))
  else if ex = 0 then .fin s fr (1 - f.bias - f.mb)
  else .fin s (fr + 2 ^ f.mb) (ex - f.bias - f.mb)

/-- The canonical NaN (R86). -/
def canonNaN (f : FFmt) : Nat := (2 ^ f.eb - 1) * 2 ^ f.mb + 2 ^ (f.mb - 1)

/-- mag × 2^e on the grid of 2^g: the whole multiple below it, the remainder, and the number of bits of the remainder. -/
def toGrid (mag : Nat) (e g : Int) : Nat × Nat × Nat :=
  if g ≤ e then (mag * 2 ^ (e - g).toNat, 0, 0)
  else
    let k := (g - e).toNat
    (mag / 2 ^ k, mag % 2 ^ k, k)

/-- Whether rounding mode rm takes the neighbour of greater magnitude (R89-R91); u is the stochastic draw. -/
def roundsUp (rm u : Nat) (neg : Bool) (lo rem k : Nat) : Bool :=
  if rem = 0 then false
  else match rm with
    | 0 => decide (2 * rem > 2 ^ k) || (2 * rem == 2 ^ k && lo % 2 == 1)
    | 1 => false
    | 2 => neg
    | 3 => !neg
    | _ => decide (u < 2 ^ 24 * rem / 2 ^ k)

/-- Round(x, fmt, rm) into an IEEE format (R90, R91): the code and the flags it raises. -/
def rndIEEE (f : FFmt) (rm u : Nat) : Val → Nat × BitVec 8
  | .nan _ => (canonNaN f, 0)
  | .inf s => ((if s then 2 ^ (f.eb + f.mb) else 0) + (2 ^ f.eb - 1) * 2 ^ f.mb, 0)
  | .fin s mag e =>
    let sign := if s then 2 ^ (f.eb + f.mb) else 0
    if mag = 0 then (sign, 0) else
    let emin : Int := 1 - f.bias
    let ex : Int := (Nat.log2 mag : Int) + e
    let g := max ex emin - f.mb
    let (lo, rem, k) := toGrid mag e g
    let n := lo + (if roundsUp rm u s lo rem k then 1 else 0)
    let body := if ex < emin then n else (ex - emin).toNat * 2 ^ f.mb + n
    let top := (2 ^ f.eb - 1) * 2 ^ f.mb
    if body ≥ top then
      let toInf := rm == 0 || rm ≥ 4 || (rm == 2 && s) || (rm == 3 && !s)
      (sign + (if toInf then top else top - 1), fOF ||| fNX)
    else
      let tiny := if ex < emin - 1 then true else if ex < emin then
          let (lo', rem', k') := toGrid mag e (ex - f.mb)
          decide (lo' + (if roundsUp rm u s lo' rem' k' then 1 else 0) < 2 ^ (f.mb + 1))
        else false
      (sign + body, if rem = 0 then 0 else if tiny then fUF ||| fNX else fNX)

/-- Length of the run of equal bits at the top of the w-bit number m. -/
def runLen (m : Nat) : Nat → Nat
  | 0 => 0
  | 1 => 1
  | w + 2 => if bits m (w + 1) 1 = bits m w 1 then runLen m (w + 1) + 1 else 1

/-- The magnitude of a tapered code with w magnitude bits: mantissa and exponent (R93, R94). -/
def tapMag (w m : Nat) : Nat × Int :=
  if m = 0 then (0, 0) else
  let r := runLen m w
  let k : Int := if bits m (w - 1) 1 = 1 then (r : Int) - 1 else -(r : Int)
  let rest := w - (r + 1)
  let ebit := if rest ≥ 1 then bits m (rest - 1) 1 else 0
  let nf := rest - 1
  (2 ^ nf + bits m 0 nf, 2 * k + ebit - nf)

/-- Magnitude bits of a tapered format: T8 and T8C 7, T6 and T6C 5. -/
def tapBits (t : Nat) : Nat := if t = 3 ∨ t = 5 then 7 else 5

/-- The value of a tapered code (R93, R94). -/
def decTap (w code : Nat) : Val :=
  let s := bits code w 1 == 1
  let m := bits code 0 w
  if m = 0 then (if s then .nan false else .fin false 0 0)
  else let (a, e) := tapMag w m; .fin s a e

/-- The magnitude of a tapered code in units of the format's least magnitude step: 2^−12 for T8, 2^−8 for T6. -/
def tapUnits (w m : Nat) : Nat :=
  let (a, e) := tapMag w m
  a * 2 ^ (e + (if w = 7 then 12 else 8)).toNat

/-- The largest magnitude code below 2^w whose value is at most mag × 2^e. -/
def tapFloor (w mag : Nat) (e : Int) : Nat :=
  (List.range (2 ^ w)).foldl
    (fun best m => if cmpScaled (tapUnits w m) (if w = 7 then -12 else -8) mag e ≠ .gt then m else best) 0

/-- Round(x, fmt, rm) into T8 or T6 (R90): the code and the flags. -/
def rndTap (w rm u : Nat) : Val → Nat × BitVec 8
  | .nan _ => (2 ^ w, 0)
  | .inf s => ((if s then 2 ^ w else 0) + (2 ^ w - 1), fSAT ||| fNX)
  | .fin s mag e =>
    if mag = 0 then (0, 0) else
    let unit : Int := if w = 7 then -12 else -8
    let sign := if s then 2 ^ w else 0
    match cmpScaled mag e (tapUnits w (2 ^ w - 1)) unit with
    | .gt => (sign + (2 ^ w - 1), fSAT ||| fNX)
    | .eq => (sign + (2 ^ w - 1), 0)
    | .lt =>
      let lo := tapFloor w mag e
      let g := min e unit
      let x := mag * 2 ^ (e - g).toNat
      let a := tapUnits w lo * 2 ^ (unit - g).toNat
      let b := tapUnits w (lo + 1) * 2 ^ (unit - g).toNat
      if x = a then (sign + lo, 0) else
      let up := match rm with
        | 0 => decide (2 * x > a + b) || (2 * x == a + b && lo % 2 == 1)
        | 1 => false
        | 2 => s
        | 3 => !s
        | _ => decide (u < 2 ^ 24 * (x - a) / (b - a))
      let m := if up then lo + 1 else lo
      if m = 0 then (0, fUF ||| fNX) else (sign + m, fNX)

/-- The value of an SP32 word with base scale S (R98). -/
def decSP32 (sc : Nat) (w : Nat) : Val := .fin false (bits w 8 24) (-(24 : Int) - (sc + bits w 0 8))

/-- RoundInt to nearest, ties to even, of mag × 2^e. -/
def rneNat (mag : Nat) (e : Int) : Nat × Bool :=
  let (lo, rem, k) := toGrid mag e 0
  (lo + (if roundsUp 0 0 false lo rem k then 1 else 0), rem != 0)

/-- Round(x, SP32) with base S (R99). -/
def rndSP32 (sc : Nat) : Val → Nat × BitVec 8
  | .nan _ => (0, fNV)
  | .inf true => (0, fNV)
  | .inf false => (0xFFFFFF00, fSAT ||| fNX)
  | .fin s mag e =>
    if mag = 0 then (0, 0) else if s then (0, fNV) else
    if cmpScaled mag e 1 (-(sc : Int)) ≠ .lt then (0xFFFFFF00, fSAT ||| fNX)
    else
      -- 2^-(S+d+1) ≤ x < 2^-(S+d)
      let ex : Int := (Nat.log2 mag : Int) + e
      let d := (-(ex + 1) - sc).toNat
      if d ≤ 255 then
        let (f, ine) := rneNat mag (e + sc + d + 24)
        let fl := if ine then fNX else 0
        if f = 2 ^ 24 then (if d = 0 then (0xFFFFFF00, fSAT ||| fNX) else (2 ^ 23 * 256 + (d - 1), fl))
        else (f * 256 + d, fl)
      else
        let (f, ine) := rneNat mag (e + sc + 279)
        if f = 0 then (0, fSPZ ||| fNX) else (f * 256 + 255, if ine then fNX else 0)

/-- The value of an integer format's code (R100). -/
def intOf (t w : Nat) : Int :=
  let b := tagBits t
  if t = 0x0B then w % 2 ^ b else if bits w (b - 1) 1 = 1 then (w % 2 ^ b : Int) - 2 ^ b else (w % 2 ^ b : Int)

/-- Least and greatest integer of an integer format (R100). -/
def intMin (t : Nat) : Int := if t = 0x0B then 0 else -(2 ^ (tagBits t - 1))
def intMax (t : Nat) : Int := if t = 0x0B then 255 else 2 ^ (tagBits t - 1) - 1

/-- The code of z modulo 2^width, or of z clamped to the range (R218). -/
def intCode (t : Nat) (sat : Bool) (z : Int) : Nat :=
  let z := if sat then max (intMin t) (min (intMax t) z) else z
  (z % (2 ^ tagBits t : Int)).toNat

/-- An integer as an exact value. -/
def Val.ofInt (z : Int) : Val := .fin (decide (z < 0)) z.natAbs 0

/-- A conversion into an integer format (R100). -/
def rndInt (t rm u : Nat) : Val → Nat × BitVec 8
  | .nan _ => (0, fNV)
  | .inf s => (intCode t true (if s then intMin t else intMax t), fNV)
  | .fin s mag e =>
    let (lo, rem, k) := toGrid mag e 0
    let n : Nat := lo + (if roundsUp rm u s lo rem k then 1 else 0)
    let z : Int := if s then -(n : Int) else n
    if z < intMin t ∨ z > intMax t then (intCode t true z, fNV)
    else (intCode t false z, if rem = 0 then 0 else fNX)

/-- The nv flag of a signalling NaN operand (R86, R87). -/
def Val.snan : Val → BitVec 8
  | .nan true => fNV
  | _ => 0

def Val.isNaN : Val → Bool
  | .nan _ => true
  | _ => false

/-- The value with its sign inverted. -/
def Val.neg : Val → Val
  | .nan q => .nan q
  | .inf s => .inf (!s)
  | .fin s m e => .fin (!s) m e

/-- The magnitude. -/
def Val.abs : Val → Val
  | .nan q => .nan q
  | .inf _ => .inf false
  | .fin _ m e => .fin false m e

/-- The signed mantissa of a finite value over exponent g (g at most its exponent). -/
def signedMant (s : Bool) (m : Nat) (e g : Int) : Int :=
  let n : Int := m * 2 ^ (e - g).toNat
  if s then -n else n

/-- The exact sum under the zero-sign and infinity rules of R86; rdn is "the mode is toward −∞". A zero added to −0 is that zero in every
mode, as "x + (−0) is x for every x" and R107 have it; DEDUCED: the clause on zeros of opposite signs yields to it (NOTES.md, Assumption 112). -/
def Val.add (rdn : Bool) (a b : Val) : Val × BitVec 8 :=
  match a, b with
  | .nan p, .nan q => (.nan false, (Val.nan p).snan ||| (Val.nan q).snan)
  | .nan p, _ => (.nan false, (Val.nan p).snan)
  | _, .nan q => (.nan false, (Val.nan q).snan)
  | .inf s, .inf t => if s = t then (.inf s, 0) else (.nan false, fNV)
  | .inf s, .fin .. => (.inf s, 0)
  | .fin .., .inf t => (.inf t, 0)
  | .fin s m e, .fin t n f =>
    let g := min e f
    let z := signedMant s m e g + signedMant t n f g
    if z = 0 then (.fin (if m = 0 ∧ n = 0 then s && t else rdn) 0 0, 0)
    else (.fin (decide (z < 0)) z.natAbs g, 0)

/-- The exact product (R86). -/
def Val.mul (a b : Val) : Val × BitVec 8 :=
  match a, b with
  | .nan p, .nan q => (.nan false, (Val.nan p).snan ||| (Val.nan q).snan)
  | .nan p, _ => (.nan false, (Val.nan p).snan)
  | _, .nan q => (.nan false, (Val.nan q).snan)
  | .inf s, .inf t => (.inf (s != t), 0)
  | .inf s, .fin t n _ => if n = 0 then (.nan false, fNV) else (.inf (s != t), 0)
  | .fin s m _, .inf t => if m = 0 then (.nan false, fNV) else (.inf (s != t), 0)
  | .fin s m e, .fin t n f => (.fin (s != t) (m * n) (e + f), 0)

/-- The exact fused a × b + c, rounded nowhere (R86, R220). -/
def Val.fma (rdn : Bool) (a b c : Val) : Val × BitVec 8 :=
  let (p, f1) := a.mul b
  let (r, f2) := p.add rdn c
  (r, f1 ||| f2 ||| c.snan)

/-- Order of two values that are not NaN; −0 equals +0. -/
def Val.cmp : Val → Val → Option Ordering
  | .nan _, _ => none
  | _, .nan _ => none
  | .inf s, .inf t => some (if s = t then .eq else if s then .lt else .gt)
  | .inf s, .fin .. => some (if s then .lt else .gt)
  | .fin .., .inf t => some (if t then .gt else .lt)
  | .fin s m e, .fin t n f =>
    let g := min e f
    some (compare (signedMant s m e g) (signedMant t n f g))

def Val.lt (a b : Val) : Bool := a.cmp b == some .lt
def Val.le (a b : Val) : Bool := a.cmp b == some .lt || a.cmp b == some .eq

/-- The smaller (max = false) or larger value; −0 is below +0; a NaN operand gives NaN (R219, R208). -/
def Val.minmax (mx : Bool) (a b : Val) : Val × BitVec 8 :=
  let fl := a.snan ||| b.snan
  if a.isNaN || b.isNaN then (.nan false, fl)
  else
    let below := match a.cmp b with
      | some .lt => true
      | some .eq => (match a, b with | .fin true 0 _, .fin false 0 _ => true | _, _ => false)
      | _ => false
    (if below != mx then a else b, fl)

/-- The value of an element code of format t (R85, R93, R94, R98, R100, SC4 as an integer); sc is the base scale of SP32. -/
def decElem (t sc w : Nat) : Val :=
  match t with
  | 0x00 => decIEEE fp32 w
  | 0x01 => decIEEE bf16 w
  | 0x02 => decIEEE fp16 w
  | 0x03 | 0x05 => decTap 7 w
  | 0x04 | 0x06 => decTap 5 w
  | 0x07 => decSP32 sc w
  | _ => Val.ofInt (intOf t w)

/-- Round(v, fmt, rm) for any format a conversion may name (R90, R99, R100). -/
def rndElem (t sc rm u : Nat) (v : Val) : Nat × BitVec 8 :=
  match t with
  | 0x00 => rndIEEE fp32 rm u v
  | 0x01 => rndIEEE bf16 rm u v
  | 0x02 => rndIEEE fp16 rm u v
  | 0x03 | 0x05 => rndTap 7 rm u v
  | 0x04 | 0x06 => rndTap 5 rm u v
  | 0x07 => rndSP32 sc v
  | _ => rndInt t rm u v

/-- Round(v, FP32, rne) as a value. -/
def rne32 (v : Val) : Val := decIEEE fp32 (rndIEEE fp32 0 0 v).1

/-- Mix(state, e) of R91. -/
def mix (state e : Nat) : Nat :=
  let z := (state ^^^ (e * 0x6A5D39E1 % 2 ^ 32)) % 2 ^ 32
  let z := z ^^^ (z / 2 ^ 15)
  let z := (z * 0xB3C42F97) % 2 ^ 32
  let z := z ^^^ (z / 2 ^ 13)
  bits z 8 24

/-- Step() of the deck's LFSR (R91). -/
def lfsrStep (st : BitVec 32) : BitVec 32 :=
  if st.getLsbD 0 then (st >>> 1) ^^^ 0x80200003 else st >>> 1

/-- The LFSR's state at dispatch (R91). -/
def lfsrSeed (wid : Word) (deckid : Nat) : BitVec 32 :=
  let s := wid.setWidth 32 ^^^ (wid >>> 32).setWidth 32 ^^^ BitVec.ofNat 32 (deckid * 0x6A5D39E1)
  if s = 0 then 1 else s

/-- A companding curve: breakpoints and slopes of the sixteen segments (R96). -/
structure Curve where
  x : List Val
  s : List Int
  y : List Val
deriving DecidableEq, Repr

/-- The segment starts y[k] of R97. -/
def curveStarts (x : List Val) (s : List Int) : List Val :=
  (List.range 15).foldl (fun ys k =>
    let yk := ys.getD k (.fin false 0 0)
    let d := rne32 (((x.getD (k + 1) (.inf false)).add false (x.getD k (.fin false 0 0)).neg).1)
    let m := (d.mul (.fin false 1 (s.getD k 0))).1
    ys ++ [rne32 (yk.add false m).1]) [.fin false 0 0]

/-- The curve held in crv0-crv15 (R96): bits 63:32 the breakpoint, bits 31:27 the slope. -/
def curveOf (crv : List Word) : Curve :=
  let x := crv.map (fun w => decIEEE fp32 (bits w.toNat 32 32))
  let s := crv.map (fun w => let n := bits w.toNat 27 5; if n ≥ 16 then (n : Int) - 32 else (n : Int))
  ⟨x, s, curveStarts x s⟩

/-- The largest index k with l[k] ≤ a (R97). -/
def lastLe (l : List Val) (a : Val) : Nat :=
  ((List.range 16).filter (fun k => (l.getD k (.nan false)).le a)).getLast?.getD 0

/-- One direction of the curve: from + 2^slope × Round(|v| − origin), with the sign of v (R97). -/
def alongCurve (origin start : Val) (slope : Int) (v : Val) : Val :=
  let a := rne32 (v.abs.add false origin.neg).1
  let r := rne32 (start.add false (a.mul (.fin false 1 slope)).1).1
  match v with
  | .fin true .. => r.neg
  | _ => r

/-- C(x) of R97. -/
def Curve.fwd (c : Curve) (v : Val) : Val :=
  match v with
  | .fin .. =>
    let k := lastLe c.x v.abs
    alongCurve (c.x.getD k (.fin false 0 0)) (c.y.getD k (.fin false 0 0)) (c.s.getD k 0) v
  | _ => v

/-- C⁻¹(v) of R97. -/
def Curve.inv (c : Curve) (v : Val) : Val :=
  match v with
  | .fin .. =>
    let k := lastLe c.y v.abs
    alongCurve (c.y.getD k (.fin false 0 0)) (c.x.getD k (.fin false 0 0)) (-(c.s.getD k 0)) v
  | _ => v

/-- An array operand: an exact multiple of 2^−12 (T8, T8C) or 2^−8 (T6, T6C), or the NaN code (R103). -/
inductive Opnd where
  | nan
  | units (z : Int)
deriving DecidableEq, Repr

/-- The array operand of a tapered element code (R103); cv is the lease holder's curve. -/
def arrayOpnd (t : Nat) (cv : Curve) (code : Nat) : Opnd :=
  let w := tapBits t
  let unit : Int := if w = 7 then -12 else -8
  let lim : Nat := if w = 7 then 4096 * 2 ^ 12 else 256 * 2 ^ 8
  let v := decTap w code
  let v := if t = 5 ∨ t = 6 then cv.inv v else v
  match v with
  | .fin s m e =>
    let n := min lim (rneNat m (e - unit)).1
    .units (if s then -(n : Int) else n)
  | _ => .nan

/-- Nearest integer to a / b, ties away from zero (R106), for b > 0. -/
def rndDiv (a : Int) (b : Nat) : Int :=
  let n : Int := ((2 * a.natAbs + b) / (2 * b) : Nat)
  if a < 0 then -n else n

/-- The greatest n below 2^k for which p holds, p being true below some bound: binary search. -/
def search (p : Nat → Bool) : Nat → Nat → Nat
  | 0, acc => acc
  | k + 1, acc => search p k (if p (acc + 2 ^ k) then acc + 2 ^ k else acc)

/-- RoundInt(2^24 / u) for u = (128 + i)/128 (R106). -/
def tabRcp (i : Nat) : Int := rndDiv (2 ^ 24 * 128) (128 + i)
/-- RoundInt(2^24 × u^(−1/2)) for u = 2^q (128 + i)/128: n with (2n − 1)² u ≤ 2^50 (R106). -/
def tabRsq (q i : Nat) : Int :=
  search (fun n => decide ((2 * n - 1) ^ 2 * 2 ^ q * (128 + i) ≤ 2 ^ 50 * 128)) 25 0
/-- RoundInt(2^23 × 2^(j/128)): n with (2n − 1)^128 ≤ 2^(24·128 + j) (R106). -/
def tabExp (j : Nat) : Int := search (fun n => decide ((2 * n - 1) ^ 128 ≤ 2 ^ (24 * 128 + j))) 25 0
/-- The first k binary digits of log2 of x / 2^128 in [1, 2): repeated squaring in 128-bit fixed point. -/
def logBits (x : Nat) : Nat → Nat
  | 0 => 0
  | k + 1 =>
    let y := x * x / 2 ^ 128
    if y ≥ 2 ^ 129 then 2 ^ k + logBits (y / 2) k else logBits y k
/-- RoundInt(2^24 × log2 u) for u = (128 + i)/128 (R106): 40 digits, then rounded. -/
def tabLog (i : Nat) : Int :=
  if i ≥ 128 then 2 ^ 24 else Int.ofNat ((logBits ((128 + i) * 2 ^ 121) 40 + 2 ^ 15) / 2 ^ 16)

/-- RoundInt(2^P × (F(u + w) − F(u))): c1 is rounded from the exact difference (R106). For `vrcpe` the difference is rational. -/
def difRcp (i : Nat) : Int := rndDiv (-(2 ^ 24 * 128 : Int)) ((128 + i) * (129 + i))
/-- c1 of `vrsqe`: the nearest integer to 2^24 (u'^(−1/2) − u^(−1/2)), found at 40 further bits. -/
def difRsq (q i : Nat) : Int :=
  let f (k : Nat) : Nat := search (fun n => decide (n ^ 2 * 2 ^ q * (128 + k) ≤ 2 ^ 128 * 128)) 65 0
  rndDiv ((f (i + 1) : Int) - f i) (2 ^ 40)
/-- c1 of `vexp2e`, found at 40 further bits. -/
def difExp (j : Nat) : Int :=
  let f (k : Nat) : Nat := search (fun n => decide (n ^ 128 ≤ 2 ^ (63 * 128 + k))) 65 0
  rndDiv ((f (j + 1) : Int) - f j) (2 ^ 40)
/-- c1 of `vlog2e`, found at 40 further bits. -/
def difLog (i : Nat) : Int :=
  let f (k : Nat) : Nat := if k ≥ 128 then 2 ^ 64 else logBits ((128 + k) * 2 ^ 121) 64
  rndDiv ((f (i + 1) : Int) - f i) (2 ^ 40)

/-- y × 2^e as a value. -/
def Val.ofScaled (y : Int) (e : Int) : Val := .fin (decide (y < 0)) y.natAbs e

/-- A finite non-zero value as 2^E × 1.m with 23 fraction bits, for an FP32 value. -/
def normParts (m : Nat) (e : Int) : Int × Nat :=
  let l := Nat.log2 m
  ((l : Int) + e, bits (m * 2 ^ 23 / 2 ^ l) 0 23)

/-- The four estimates (R106). -/
inductive Est where
  | rsq | rcp | log2 | exp2
deriving DecidableEq, Repr

/-- The estimate of one FP32 code: the result code and its flags (R106, R232). A signalling NaN raises nv (R86). -/
def estimate (k : Est) (w : Nat) : Nat × BitVec 8 :=
  let v := decIEEE fp32 w
  let pinf := 0x7F800000
  let ninf := 0xFF800000
  let nan := canonNaN fp32
  match k, v with
  | _, .nan q => (nan, (Val.nan q).snan)
  | .rsq, .inf s => if s then (nan, fNV) else (0, 0)
  | .rcp, .inf s => (if s then 0x80000000 else 0, 0)
  | .log2, .inf s => if s then (nan, fNV) else (pinf, 0)
  | .exp2, .inf s => (if s then 0 else pinf, 0)
  | .exp2, .fin s m e =>
    if m = 0 then (0x3F800000, 0)
    else if !s && cmpScaled m e 128 0 != .lt then (pinf, fOF ||| fNX)
    else if s && cmpScaled m e 150 0 == .gt then (0, fUF ||| fNX)
    else
      -- x = n + g with g in [0, 1), in units of 2^-23 or finer
      let z : Int := if s then -(m : Int) else m
      let sh := (max 0 (-e)).toNat
      let num := z * 2 ^ (max 0 e).toNat
      let n := num / (2 ^ sh : Int)
      let fr := (num - n * 2 ^ sh).toNat
      let j := fr * 128 / 2 ^ sh
      let t : Nat := (fr * 128 - j * 2 ^ sh) * 2 ^ 16 / 2 ^ sh
      rndIEEE fp32 0 0 (Val.ofScaled (tabExp j + (difExp j * t) / 2 ^ 16) (n - 23))
  | kk, .fin s m e =>
    if m = 0 then
      match kk with
      | .log2 => (ninf, fDZ)
      | _ => (if s then ninf else pinf, fDZ)
    else
      let (ex, mant) := normParts m e
      let i := bits mant 16 7
      let t : Nat := bits mant 0 16
      match kk with
      | .rcp =>
        let y := tabRcp i + (difRcp i * t) / 2 ^ 16
        let r := Val.ofScaled y (-24 - ex)
        rndIEEE fp32 0 0 (if s then r.neg else r)
      | .rsq =>
        if s then (nan, fNV) else
        let q := (ex % 2).toNat
        let y := tabRsq q i + (difRsq q i * t) / 2 ^ 16
        ((rndIEEE fp32 0 0 (Val.ofScaled y (-24 - (ex - q) / 2))).1, 0)
      | _ =>
        if s then (nan, fNV) else
        let y := tabLog i + (difLog i * t) / 2 ^ 16
        rndIEEE fp32 0 0 ((Val.ofInt ex).add false (Val.ofScaled y (-24))).1

end Sys2Proof.Machine
end

