-- ==== Sys2Proof/Machine/State.lean ====
section
/-! DEFINITION. The machine's state as plain data, the reasons a step can stop, and the state after reset (INVENTORY.md, State). -/
namespace Sys2Proof.Machine

/-- All memory of the machine as one list of bytes: addresses strictly rising, no entry equal to 0x00, which is what an
unlisted address reads as (NOTES.md, Assumptions 1 and 2). -/
abbrev Memory := List Host.Cell

/-- Which part of a clock the machine is in (NOTES.md, Assumption 6): events at its start, then points and landings; what follows from
them; the issue of bundles; what ends the clock. -/
inductive Phase where
  | events | settle | issue | finish
deriving DecidableEq, Repr

/-- A hardware loop level (R158). -/
structure Level where
  start : CodeAddr
  stop : CodeAddr
  rem : BitVec 32
deriving DecidableEq, Repr

/-- A queue entry: its number, contents, format tag, whether its data has arrived, and whether it came from silently expired rows
and is not yet poppable (R48, R50, R188). -/
structure QEntry where
  id : Nat
  data : Image
  tag : Tag
  arrived : Bool
  zeroed : Bool
deriving DecidableEq, Repr

/-- A vector register: image and format tag (R46). -/
structure VReg where
  data : Image
  tag : Tag
deriving DecidableEq, Repr

/-- Where a result in flight lands (R315, R383). -/
inductive Dest where
  | x (r : Nat)
  | v (r : Nat)
  | p (r : Nat)
  | t (r : Nat)
  | tAdj (r : Nat) (sp : Bool) (c : Val)   -- an adjoint update of `tdn`, added when it lands in its mode (R268)
  | oq (q : Nat) (id : Nat)
  | rq (q : Nat) (id : Nat)
  | flags
  | spr (n : Nat)
deriving DecidableEq, Repr

/-- A result in flight: landing clock, slot of the instruction (0 A to 3 X; 4 a delivery of `xmit`), issue order, destination,
lane or bit mask, data, tag and flags (R38, R217, R315). -/
structure Latch where
  land : Nat
  rank : Nat
  seq : Nat
  dest : Dest
  mask : Pred
  data : Image
  tag : Tag
  flags : BitVec 8
deriving DecidableEq, Repr

/-- A revocable access syllable (R385): issue order, the syllable, its bundle, captured operands, queue entries, the checks
still to come, the `ldq` rows already poppable at its issue, the handle of an
`hld`, its first failed check (cause, info, address), and what an `hld` has read of a local record. -/
structure Revoc where
  seq : Nat
  ex : Bool
  syl : Nat
  pc : CodeAddr
  xa : Word
  xb : Word
  ids : List Nat
  left : Nat
  done : Nat
  key : Nat
  failed : Option (Nat × Word × Word)
  record : BitVec 512
deriving DecidableEq, Repr

/-- A layout-cache entry (R72): generation, record, and whether the record has arrived. -/
structure LEntry where
  gen : BitVec 6
  record : BitVec 512
  arrived : Bool
deriving DecidableEq, Repr

/-- A trap chosen or waiting to be taken: cause, `tinfo`, fault address (R382, R384), its order in R378, and whether the bundle
that raised it has issued (`trap`, R182). -/
structure Trap where
  cause : Nat
  info : Word
  addr : Word
  order : Nat
deriving DecidableEq, Repr

/-- A trap entry that waits for revocable syllables to pass or fail (R380): the candidate and the trap point's clock. -/
structure TrapWait where
  trap : Trap
  ct : Nat
deriving DecidableEq, Repr

/-- A fault an engine or the array has made pending on a deck (R377, R400): engine 0-2, or 3 for the array. -/
structure Pending where
  eng : Nat
  num : Nat
  cause : Nat
  info : Word
  addr : Word
deriving DecidableEq, Repr

/-- A syllable that `rfe` issues again (R386, R387): its clock, word, address, rows done, captured operands. -/
structure Again where
  at_ : Nat
  syl : Nat
  pc : CodeAddr
  done : Nat
  xa : Word
  xb : Word
deriving DecidableEq, Repr

/-- A kernel of an instance on one deck (R23): addresses, trip count, and where it stands: 0 not entered, 1 level 0 in use,
2 ended. -/
structure Kernel where
  kernel : CodeAddr
  epilogue : CodeAddr
  trip : Nat
  stage : Nat
deriving DecidableEq, Repr

/-- An open matrix chain (R249): commands so far and the accumulation kind fixed by its first `mma` (true tapered). -/
structure Chain where
  cmds : Nat
  kind : Option Bool
deriving DecidableEq, Repr

/-- What the bundles of this clock do at its end (R36, R37): sync bits set and cleared, outcome bits pushed and popped. -/
structure Edge where
  syncSet : BitVec 16
  syncClr : BitVec 16
  pushAE : List Bool
  pushEA : List Bool
  popAE : Bool
  popEA : Bool
deriving DecidableEq, Repr

/-- Registers and queue entries, whose words of 32 bits carry parity (R437). -/
inductive RegFile where
  | x | p | v | t | entry
deriving DecidableEq, Repr

/-- A word of 32 bits of a register, or of a queue entry by its number (R437). -/
structure Place where
  file : RegFile
  num : Nat
  word : Nat
deriving DecidableEq, Repr

/-- A Parapet that differs from its deck (R442): its own scalar registers, predicates and loop stacks, its own results in flight, and the results of the deck
that it has computed itself, by issue order. -/
structure Parapet where
  x : Map Word
  p : Map Pred
  loopsA : List Level
  loopsE : List Level
  own : List Latch
  skip : List Nat
deriving DecidableEq, Repr

/-- A deck: both sequencers, registers, queues, modes and what is in flight (R13, R29). -/
structure Deck where
  inst : Option Nat
  halted : Bool
  pcA : CodeAddr
  pcE : CodeAddr
  nextA : Nat
  nextE : Nat
  lostAt : Option Nat          -- the clock lost after the last taken branch of its execute sequencer (R156, R376)
  loopsA : List Level
  loopsE : List Level
  fork : Bool
  sup : Bool
  slip : Int
  slipBound : Nat
  waitA : Option Nat
  waitE : Option Nat
  x : Map Word
  p : Map Pred
  v : Map VReg
  oq : Map (List QEntry)
  rq : Map (List QEntry)
  aToE : List Bool
  eToA : List Bool
  sync : BitVec 16
  edge : Edge
  lcache : Map LEntry
  t : Map Lane
  shapes : Map Word
  tmode : Bool
  tscale : BitVec 16
  treeCount : Nat
  treeBusy : Map Nat
  ms : Map Lane
  fmode : Word
  fflags : BitVec 8
  slipw : Word
  lfsr : BitVec 32
  crv : Map Word
  tvec : CodeAddr
  tcause : BitVec 8
  tinfo : Word
  wid : Word
  plive : BitVec 32
  vlive : BitVec 320
  ckChecked : BitVec 32
  ckFail : Bool
  ckPend : Nat
  ckRow : BitVec 10
  chain : Option Chain
  latches : List Latch
  revoc : List Revoc
  ldsWait : List (Nat × Nat)   -- issue order and register of each `lds` not yet landed (R187)
  ldsHeld : List Nat           -- the registers whose `lds` results the trap frame holds as latches
  heldIds : List Nat           -- the queue entry each latch of the trap frame fills
  pendTrap : Option Trap       -- a `trap` whose bundle has issued (R182)
  stalledAt : Option Nat       -- the clock in which its bundle last stalled
  hold : Bool                  -- issues nothing: a trap entry or return is under way
  wire : Option Nat            -- between trap point and return clock: some 0, or some r once `rfe` has issued (R396)
  again : List Again
  pend20 : Bool
  pend21 : Nat
  pend23 : Bool
  engFaults : List Pending
  arrFaults : List Pending
  nointCount : Map Nat         -- per pending interrupt, the bundles issued in `.noint` regions since it became pending (R391)
  timer : Nat
  kern : Option Kernel
  irq : Option Trap            -- the interrupt that was pending when this clock began (R377, R378)
  trapWait : Option TrapWait
  overrunEnd : Bool            -- its execute sequencer, or in lockstep the deck, has passed over the kernel's end bundle (R405)
  overrunA : Bool              -- its access sequencer has, in fork mode
  boundary : Bool
  atSq : Option Nat
  frozen : Option Nat          -- stopped at a boundary for a pre-emption: the clock of its next bundle; results that land later are held (R313)
  iters : Nat                  -- kernel-iteration boundaries passed (R24)
  checkedAt : Option Nat       -- when its handler of 0x23 was entered (R432)
  parity : List Place          -- words with bad parity (R437)
  par : Option Parapet         -- its Parapet; none while that equals the deck (R442)
deriving DecidableEq, Repr

/-- The state of a store row (R61, R416). -/
inductive RowSt where
  | valid | warned | queued | refreshing | invalid | released
deriving DecidableEq, Repr

/-- A row's Milestone record: its state, the core's tick count at which its Age was 0 (R59), and whether its overdue refresh has raised a
machine check since then (R417). -/
structure RowMeta where
  st : RowSt
  base : Nat
  overdue : Bool
deriving DecidableEq, Repr

/-- A tile slot's record: format tag, sequence tag, configuration byte, lost bit, who configured it (deck and instance), the
engines (0-2; 3 the Causeway) that lock it, and its published and receivable marks (R56, R57, R60, R63, R84, R123, R198). -/
structure Tile where
  tag : Tag
  seqTag : BitVec 8
  cfg : BitVec 8
  lost : Bool
  owner : Option (Nat × Nat)
  locks : List Nat
  published : Bool
  receivable : Bool
deriving DecidableEq, Repr

/-- A `tcfg` or `trel` waiting to take effect on a tile (R195, R196). -/
inductive TileReq where
  | cfg (b : BitVec 8) (deck : Nat) (inst : Option Nat)
  | rel
deriving DecidableEq, Repr

/-- A semaphore (R167): value, target, what consuming waits took in this clock, the value before this clock's adds with
their sum (R168), and what the remote signals added to it release: per core, the clock up to which its writes are ordered before an access that
acquires the semaphore (R118, R122). -/
structure Sem where
  value : BitVec 16
  target : BitVec 16
  used : Nat
  base : Nat
  sum : Int
  rel : Map Nat
deriving DecidableEq, Repr

/-- A weight slot (R246): mode (a format tag), columns loaded, scales present; the loaded columns of 512 elements each: array operands
of the tapered modes times their block scale, in units of 2^−20 (R103), element codes of the other modes; the hidden checksum column (R261); the codes and
block scales as loaded (R316), with the curve they were decoded through. Columns not listed are zero. -/
structure WSlot where
  mode : Nat
  n : Nat
  scaled : Bool
  cols : List (List Opnd)
  ck : List Int
  img : Nat
  simg : Nat
  cv : Curve
deriving DecidableEq, Repr

/-- An engine command (R141, R200): its word, count, report bit, issuing deck and sequencer, issue number and clock, a resolved layout record, the
directory way a fill is for with its block and tile, the stores it waits for (R114), the instance, user mode at issue, the clock of the quiescent point
whose translations it uses (R127), and whether its wait byte has been satisfied. -/
structure Cmd where
  word : Word
  count : Nat
  report : Bool
  deck : Nat
  ex : Bool
  num : BitVec 32
  at_ : Nat
  layout : Option (BitVec 512)
  way : Option (Nat × Nat × Nat)
  stores : List Nat
  inst : Option Nat
  user : Bool
  view : Nat
  waited : Bool
deriving DecidableEq, Repr

/-- A command that has left its queue: leave clock; rows or windows not yet under way and those under way; source rows sampled (with
twice the source tile's tag, plus 1 for silent zeros); rows performed; rows skipped; a fault (cause, address, row), whether it is
pending on a deck, or its page requested, and whether it has been taken or needs no taking; the page it stands at, with the clock it
reached it; a fault at a later row, found before that page faulted; the tiles whose tag it has set (core × 4096 + tile); and when the rows under way
to another core or device were sent (R449). -/
structure Running where
  cmd : Cmd
  leave : Nat
  todo : List Nat
  launched : List Nat
  got : List (Nat × Image × Nat)
  done : Nat
  skipped : List Nat
  fault : Option (Nat × Word × Nat)
  raised : Bool
  taken : Bool
  page : Option (Nat × Nat)
  behind : Option (Nat × Word × Nat)
  tagged : List Nat
  sent : List (Nat × Nat)
deriving DecidableEq, Repr

/-- An entry an engine holds for a full queue (R51): deck, result queue, contents. -/
structure Held where
  deck : Nat
  q : Nat
  data : Image
  tag : Tag
deriving DecidableEq, Repr

/-- An end-to-end acknowledgement on its way back (R449): instance, destination core, when what it acknowledges was sent, when it arrives, and the
outputs it passes. -/
structure Ack where
  inst : Nat
  dest : Nat
  sentAt : Nat
  till : Nat
  route : List (Nat × Nat)
deriving DecidableEq, Repr

/-- One engine of a core: queue, the clock its head came to the head (R141), current command, commands entered so far, held entries, commands whose
writes have performed, the clock from which it is free, when the last write is acknowledged, the command it waits for until then (R200,
R201), the instances whose Roundabout copies go through it ahead of its queue (R308, R318), and the acknowledgements still to come (R449). -/
structure Engine where
  queue : List Cmd
  headAt : Nat
  cur : Option Running
  count : BitVec 32
  held : List Held
  ending : List Running
  freeAt : Nat
  acking : List Cmd
  ahead : List Nat
  acks : List Ack
deriving DecidableEq, Repr

/-- A way of the slot directory (R76): tag (block and context), state 0 empty, 1 filling, 2 present, pin count, last use. -/
structure Way where
  block : Nat
  ctx : Nat
  st : Nat
  pin : Nat
  used : Nat
deriving DecidableEq, Repr

/-- A signature (R278): A and S as FP32 codes, and its valid bit. -/
structure Sig where
  a : Lane
  s : Lane
  valid : Bool
deriving DecidableEq, Repr

/-- A configured Causeway block (R277, R278); `num` tells one configuration of a block from the next. -/
structure Block where
  num : Nat
  desc : Word
  theta : Lane
  cur : Map Sig
  prev : Map Sig
  skip : BitVec 1024
  forced : BitVec 1024
deriving DecidableEq, Repr

/-- A pending mark of a watched tile (R279): block, index, and the clock it became pending. -/
structure PendTile where
  block : Nat
  idx : Nat
  at_ : Nat
deriving DecidableEq, Repr

/-- The Causeway's current service (R280): block, its configuration, index, tile, start clock, the tile's tag at the start, the row to read
next, the sums so far, whether every row read so far was valid, and the clock in which the signature is written once it is known. -/
structure Service where
  block : Nat
  num : Nat
  idx : Nat
  tile : Nat
  start : Nat
  tag : Tag
  row : Nat
  a : Lane
  s : Lane
  ok : Bool
  stop : Option Nat
deriving DecidableEq, Repr

/-- A schedule entry of a router output (R209): the router (die × 16 + quadrant × 4 + router), ports, cycle, writing deck. -/
structure Sched where
  router : Nat
  outp : Nat
  inp : Nat
  cycle : Nat
  deck : Nat
deriving DecidableEq, Repr

/-- A tile as a matrix instruction met it at its first read (R247, R439): tile, format tag, sequence tag, and whether it was read for its
scales. -/
structure Seen where
  tile : Nat
  tag : Tag
  seqTag : BitVec 8
  scale : Bool
deriving DecidableEq, Repr

/-- An `mldb` under way (R256): deck and instance, issue number; slot, format, columns; first row, rows, row to read next; the image and the scale image
read so far; scale tile, scale row to read next; expected sequence tag, tiles met; bundle, curve, the clock of its documented completion. -/
structure Load where
  deck : Nat
  inst : Option Nat
  num : Nat
  slot : Nat
  fmt : Nat
  n : Nat
  row : Nat
  rows : Nat
  k : Nat
  img : Nat
  scale : Option Nat
  sk : Nat
  simg : Nat
  want : Option (BitVec 8)
  seen : List Seen
  pc : CodeAddr
  cv : Curve
  doneAt : Nat
deriving DecidableEq, Repr

/-- An `mma` under way (R257): deck and instance; issue number and clock; slot, first accumulator row; first source row; the rows still to
read, each with its source rows; scale tile, the scale row held with its image; expected sequence tag, tiles met; bundle, curve; and
whether it is the replay of one row (R440). -/
structure Gantry where
  deck : Nat
  inst : Option Nat
  num : Nat
  at_ : Nat
  slot : Nat
  acc0 : Nat
  row : Nat
  todo : List (Nat × List Nat)
  scale : Option Nat
  held : Option (Nat × Image)
  want : Option (BitVec 8)
  seen : List Seen
  pc : CodeAddr
  cv : Curve
  replay : Bool
  ready : Nat
deriving DecidableEq, Repr

/-- A row of an `mrd` (R259): deck and instance, issue clock; accumulator row, cells in a row, column base; sequenced cells; format,
rounding mode, scale, LFSR state, curve; row number; destination register or store row; whether it carries the tile's tag, the number
of its `mrd`, and whether that writes the tile whole. -/
structure ReadOut where
  deck : Nat
  inst : Option Nat
  at_ : Nat
  accRow : Nat
  width : Nat
  cb : Nat
  seqn : Bool
  fmt : Nat
  rm : Nat
  ms : Lane
  lfsr : BitVec 32
  cv : Curve
  j : Nat
  toReg : Bool
  dst : Nat
  tagged : Bool
  num : Nat
  whole : Bool
deriving DecidableEq, Repr

/-- A replay of a checksum row (R440): its `mma`, the row's number and source rows, and its perform clock once placed. -/
structure Replay where
  g : Gantry
  i : Nat
  srcs : List Nat
  perf : Option Nat
  at_ : Nat
deriving DecidableEq, Repr

/-- A power-state word (R342): current and requested state, refused bit. -/
structure Power where
  cur : Nat
  req : Nat
  err : Bool
deriving DecidableEq, Repr

/-- A write of a store row that another core may race with (R121, R122): row, perform clock, the core of the writer, the granules written, and the row as
it was before. -/
structure Version where
  row : Nat
  at_ : Nat
  core : Nat
  grans : BitVec 8
  old : Image
deriving DecidableEq, Repr

/-- One core (R13). -/
structure Core where
  power : Power
  regions : List (CodeAddr × CodeAddr)   -- the `.noint` regions loaded with the code: first and last bundle (R391)
  clkBase : Nat
  ticks : Nat
  rows : Map RowMeta
  tiles : Map Tile
  tileReqs : List (Nat × Nat × TileReq)   -- tile, first clock, request
  unlocks : List (Nat × Nat × Bool)       -- tile, engine, written whole: locks that end at the start of the next clock
  refreshQ : List Nat
  offered : List Nat
  notes : List (Nat × Bool)   -- events of this tick still to be pushed: row, missed (R63, R418)
  refreshing : List (Nat × Nat)
  band : Nat
  sensor : Nat
  reevalEnd : Nat
  pendBits : List (Nat × Nat)   -- granule, engine (R421)
  badGran : List Nat
  weak : List Nat              -- granules with an error that the check corrects (R435)
  badCells : List Nat          -- accumulator cells with bad parity (R437)
  acc : Map (BitVec 128)
  slots : Map WSlot
  loadFree : Nat
  gantryFree : Nat
  readFree : Nat
  cleared : Map Nat
  leaseHolder : Option Nat
  leaseReq : List Nat
  leaseLast : Nat
  arrayUsed : Nat
  gated : Bool
  warmUntil : Nat
  replays : List Replay
  misRows : List Nat
  sems : Map Sem
  engines : Map Engine
  sdcfg : Word
  ways : Map Way
  walker : List (Nat × Nat)
  blocks : Map Block
  pendTiles : List PendTile
  service : Option Service
  code : List Nat              -- the code images its instruction store holds (R28)
  hist : List Version          -- writes that may still race, newest first (R122)
  seen : Map Nat               -- per other core, the clock up to which its writes are ordered before what this core reads now (R118)
  sched : List Sched
deriving DecidableEq, Repr

/-- A staged or travelling spawn set (R174, R306): queue, generation, base, patch of an argument word, priority, groups, context, the
spawning die, whether the Mews agent stages it, its place in the order of spawns, the commit clock, and its entry in the save area or in its ring. -/
structure SpawnSet where
  id : Nat
  queue : Nat
  gen : Nat
  base : Word
  patch : Option (Nat × Word)
  prio : Nat
  groups : List Nat
  ctx : Nat
  die : Nat
  mews : Bool
  at_ : Nat
  ready : Nat
  slot : Nat
deriving DecidableEq, Repr

/-- One die: power word, trip, hottest sensor, rbcfg, upload select word, resident queues (context × 2^20 + number), sets held for a full
ring, the sets whose entries stand in the rings of non-resident queues, oldest first, and per queue the entries its ring has taken so far
(R290-R306, R452). -/
structure Die where
  power : Power
  tripped : Bool
  sensor : Nat
  rbcfg : BitVec 16
  select : BitVec 32
  resident : List Nat
  heldSets : List SpawnSet
  rings : List SpawnSet
  tails : Map Nat
deriving DecidableEq, Repr

/-- An extent as declared and resolved for an instance (R79, R294, R307). -/
structure Ext where
  num : Nat
  base : Nat
  len : Nat
  access : Nat
  lazy_ : Bool
  whole : Bool
  share : Option Nat
deriving DecidableEq, Repr

/-- A pre-empted deck whose context image stands in its save slot (R314-R316; NOTES.md, Assumption 82): number, length of the image, whether it had
halted; and what the image does not name: where it stands in its kernel, the queue entries its latches fill (queue and number), whose latches are
`lds` results, completion words still held for its full rq4, the configured Causeway blocks, the curves of companded weight slots. -/
structure Saved where
  deck : Nat
  len : Nat
  halted : Bool
  kern : Option Kernel
  iters : Nat
  ids : List Nat
  reserved : List (Nat × Nat)
  lds : List Nat
  held : List (Nat × Held)
  blocks : Map Nat
  curves : Map Curve
deriving DecidableEq, Repr

/-- A page that the Roundabout copies into a shadow (R308): where it lies, the shadow's place, and which of its bytes extents written whole leave
undefined: ranges, from the first byte below the second. -/
structure PageCopy where
  src : Nat
  dst : Nat
  undef : List (Nat × Nat)
deriving DecidableEq, Repr

/-- Where an instance stands: listed; placed and preparing; running; stopped at a boundary for its save; pre-empted and listed; retired;
stopped, so that its node ends as cancelled; done with. -/
inductive InstSt where
  | ready | preparing | running | saving | preempted | retired | cancelled | ended
deriving DecidableEq, Repr


/-- A transfer phase of a gang (R173, R324): the clock of its cycle 0 and its length L. -/
structure Xfer where
  q : Nat
  len : Nat
deriving DecidableEq, Repr

/-- A contribution to an exact reduction (R211, R326): slot, contributing deck, cycle, and whether its result has come due. -/
structure Contrib where
  slot : Nat
  deck : Nat
  cycle : Nat
  done : Bool
deriving DecidableEq, Repr

/-- A result that waits at the root for the partials of peer devices (R329): slot, contributors, the sums so far by register, the clock of the Square
that opened its phase, and the messages still to come, by group and device. -/
structure Bound where
  slot : Nat
  decks : List Nat
  parts : Map (BitVec 320)
  since : Option Nat
  missing : List (Nat × Nat)
deriving DecidableEq, Repr

/-- An instance (R26-R31, R298-R318). -/
structure Inst where
  die : Nat
  node : Nat
  graph : Option Nat
  ctx : Nat
  wid : Word
  widths : List Nat
  idx : Nat
  kind : Nat
  prio : Nat
  level : Nat
  readyAt : Nat
  waitFrom : Nat
  due : Bool
  st : InstSt
  decks : List Nat
  args : List Word
  exts : List Ext
  groups : List Nat
  doomed : Bool
  trip : Nat
  iterMax : Nat
  stopAt : Option Nat
  preemptFor : Option Nat
  dispatchedAt : Nat
  wasDue : Bool
  staged : List SpawnSet
  shares : List (Nat × Nat)
  rollbacks : Nat
  debug : Bool
  squareAt : Option Nat
  xfer : Option Xfer
  contribs : List Contrib
  bound : List Bound
  sentParts : Map (BitVec 320)   -- per register of a bound group, what the root has sent to its peers in this phase (R329)
  peerParts : Map (BitVec 320)   -- and what it has added of theirs
  resv : Option (Nat × Nat)
  spawnSet : Option Nat
  queue : Option Nat      -- the queue of its spawn set (R305)
  saved : List Saved
  budget : Option Nat
  spills : List (Nat × Nat × Nat)    -- rows still to be spilled: core, row, place in the save slot (R318)
  spilled : List (Nat × Nat × Nat)   -- rows that have been
  slot : Option Nat                  -- its slot in the save area of its context (R313)
  words : List Word       -- its record, patched, as it stood when the instance became ready (R291-R298)
  extWords : List Word    -- the extent record it names (R294)
  placed : Bool           -- its translations and shadow pages are there (R308)
  copies : List PageCopy  -- shadow pages still to be copied
  prepared : Bool         -- the copies have performed
  refs : List Nat         -- the shares it holds a reference to (R310)
  holds : List Nat        -- decks kept free for it (R302, R303)
  invalUs : Nat           -- the invalidation watchdog in microseconds, sampled at dispatch (R420)
  pool : Nat              -- the size of the shadow pool, sampled at dispatch (R420)
  views : Map Nat      -- per sequencer (2 × deck + side), the clock of its last quiescent point (R127)
deriving DecidableEq, Repr

/-- A translation the Roundabouts hold (R457): context, 64 KiB virtual page, host memory or HBM4, physical base of that 64 KiB, whether it is a piece of
a page of 2 MiB (R79), and the clock from which an invalidation has withdrawn it (R428). -/
structure Trans where
  ctx : Nat
  page : Nat
  host : Bool
  base : Nat
  big : Bool
  till : Option Nat
deriving DecidableEq, Repr

/-- A committed page (R309): from a clock on, new translations of the page resolve to a shadow page, whose place in the model's memory it gives. -/
structure Remap where
  ctx : Nat
  page : Nat
  place : Nat
  since : Nat
deriving DecidableEq, Repr

/-- A deck's `hld` that waits for a translation (R425): deck, entry, generation, context, virtual address, clock of its issue, and the clock of the
quiescent point whose translations it uses (R127). -/
structure ExtWait where
  deck : Nat
  entry : Nat
  gen : Nat
  ctx : Nat
  va : Nat
  at_ : Nat
  view : Nat
deriving DecidableEq, Repr

/-- A shadow page (R308): the node it belongs to, context, virtual page, its place in the model's memory, and the instances that map it. -/
structure Shadow where
  node : Nat
  ctx : Nat
  page : Nat
  place : Nat
  owners : List Nat
deriving DecidableEq, Repr

/-- The shadow pool of a context (R296, R308, R309): how many of its pages have been handed out in order, and the places that have come back since,
each with the clock from which no new translation refers to it. -/
structure Pool where
  used : Nat
  back : List (Nat × Nat)
deriving DecidableEq, Repr

/-- The code image of a graph (R28, R391): its bundles by number, its `.noint` regions. -/
structure CodeImage where
  bundles : List (Nat × BitVec 256)
  regions : List (CodeAddr × CodeAddr)
deriving DecidableEq, Repr

/-- A share of an extent's pages (R310): identifier, context, base, length, pages (by page number: place in the model's memory), references, formed. -/
structure Share where
  id : Nat
  ctx : Nat
  base : Nat
  len : Nat
  pages : List (Nat × Nat)
  refs : Nat
  formed : Bool
deriving DecidableEq, Repr

/-- A running launch (R298): its graph, the context on each die, its nodes; the overlay of patches, and of words uploaded since with what they held before
(reference, word, value); the nodes a token has marked to be skipped (R19); and the rollbacks so far, by node and index tuple (R433). -/
structure Launch where
  graph : Nat
  ctxs : Map Nat
  nodes : List Nat
  overlay : List (Nat × Nat × Word)
  skips : List Nat
  rolls : List (Nat × Word)
deriving DecidableEq, Repr

/-- A remote `ldq` in flight (R189): issuing deck, revocable syllable, owning core, first row, rows, queue, entries, issue
clock, expected sequence tag, address word, how many rows have been sampled, and those whose response is still to come. -/
structure Remote where
  id : Nat
  deck : Nat
  seq : Nat
  core : Nat
  row : Nat
  rows : Nat
  q : Nat
  ids : List Nat
  issued : Nat
  want : Option (BitVec 8)
  addr : Word
  sampled : Nat
  data : List (Nat × Image × Nat × Word)   -- per row: what the sample found: 0 data, 1 silent zeros, else a cause with its info
deriving DecidableEq, Repr

/-- A flit of `xmit` on its way (R325): transfer number, flit number, router, input port, gang cycle at that router's outputs. -/
structure Flit where
  xid : Nat
  k : Nat
  router : Nat
  inp : Nat
  at_ : Nat
deriving DecidableEq, Repr

/-- A row sent by `xmit` (R210): its number, gang, data and tag, the destination register or store row, and per receiving core
the flits received. -/
structure Xrow where
  xid : Nat
  inst : Nat
  data : Image
  tag : Tag
  dst : Nat
  isReg : Bool
  deck : Nat
  got : List (Nat × Nat)
deriving DecidableEq, Repr

/-- Scheduled traffic that fails its check (R448): a flit of a transfer, by their numbers; an exact sum on its way to the root, by instance and
slot. -/
inductive LineError where
  | flit (xid k : Nat)
  | sum (inst slot : Nat)
deriving DecidableEq, Repr

/-- A latch of a frame under way whose row of an `mrd` is still to be sampled: the command's number, the landing clock, the place among the latches, the trap
point's clock (R383). -/
structure OpenRow where
  num : Nat
  land : Nat
  place : Nat
  ct : Nat
deriving DecidableEq, Repr

/-- An access to a store bank or to the array at its point (R110, R111): what happens there. -/
inductive Act where
  | write (row : Nat) (mask : BitVec 512) (data : Image) (tag : Option Tag)
  | ldsRead (id addr size rd : Nat)
  | ldqRead (id row q ent : Nat) (want : Option (BitVec 8)) (addr : Word)
  | ldqtRead (id q ent : Nat) (words : List Nat) (elems : List (Nat × Nat)) (w : Nat) (img : Image) (tag : Tag)
      (want : Option (BitVec 8 × Nat)) (silent : Bool)
  | hldRead (id entry gen addr part : Nat)
  | rmtRead (req r : Nat)
  | peerRead (device row : Nat)
  | engRead (eng r : Nat) (rows : List Nat) (wAt : Nat)
  | engWrite (src eng r dstRow : Nat) (data : Option Image) (tag : Option Tag)
  | updates (r fn base : Nat) (us : List (Nat × BitVec 32))
  | arrive (row : Nat) (data : Image) (tag : Tag)
  | frame (dk : Nat) (row : Nat) (rows : List Image) (open_ : List OpenRow)
  | copyOut (inst row k : Nat)
  | copyIn (inst row k : Nat)
  | mldbRead (l : Load)
  | mldbDone (slot : Nat) (w : Option WSlot)
  | mmaRead (g : Gantry)
  | mmaRow (g : Gantry) (i : Nat) (srcs : List Nat) (adds : Option (List (Int × Bool) × Int))
  | clrRow (accRow width : Nat)
  | mrdRow (m : ReadOut)
  | mrdWrite (m : ReadOut) (img : Image)
  | cwRead (row : Nat)
  | xmitRead (xid : Nat) (row : Nat)
  | status (q id : Nat) (data : Image)
  | semt (sem : Nat) (v : BitVec 16)
  | pin (way : Nat) (up : Bool)
  | clearLost (tile : Nat)
  | blockCfg (blk : Nat) (cfg : Option (Word × Lane))
  | blockTheta (blk : Nat) (v : Lane)
  | blockDecide (blk num : Nat) (skip forced : BitVec 1024) (cur : Map Sig)
deriving DecidableEq, Repr

/-- A timed access: clock, core, the deck and sequencer that made it (or an engine), its priority (R346), its issue order. -/
structure Micro where
  at_ : Nat
  core : Nat
  deck : Nat
  ex : Bool
  prio : Nat
  seq : Nat
  act : Act
deriving DecidableEq, Repr

/-- A remote signal under way (R31, R118): instance, destination core and semaphore, and per core the clock up to which its writes are ordered
before an acquire of it; when it was sent (R449). -/
structure Signal where
  inst : Nat
  core : Nat
  sem : Nat
  rel : Map Nat
  sentAt : Nat
deriving DecidableEq, Repr

/-- A packet of arbitrated traffic under way (R321, R322, R324): the outputs it has still to pass, each with its router, its port (16 for a port
without a number) and the clocks of its link; the clock from which it stands at the first; the earliest clock of its arrival, a free length more, the
latest clock; the event of its arrival, which comes about with the last packet of its number; and whether other traffic has shared an output of its
route with it (R323). -/
structure Packet where
  id : Nat
  left : List (Nat × Nat × Nat)
  at_ : Nat
  floor : Nat
  late : Nat
  stop : Nat
  ev : Instr
  loaded : Bool
deriving DecidableEq, Repr

/-- What a peer device sends here (R340): a row of a put, and the signal of one; a request for a row of a get: its device, core and row. -/
inductive FromPeer where
  | put (core row : Nat) (data : Image) (tag : Tag)
  | signal (core sem : Nat)
  | get (device core row : Nat)
deriving DecidableEq, Repr

/-- The device on its way from the deassertion of PERST# to ready (R347): the clock in which each die turns Active, and that of ready. -/
structure Boot where
  dies : List Nat
  readyAt : Nat
deriving DecidableEq, Repr

/-- An entry of the error log (R434). -/
structure LogEntry where
  kind : Nat
  die : Nat
  core : Nat
  deck : Nat
  node : Nat
  time : Nat
  detail : Word
deriving DecidableEq, Repr

/-- An invalidation in progress (R428): number, context, range, arrival, and the instances that must still pass a quiescent point. -/
structure Inval where
  id : Nat
  ctx : Nat
  base : Nat
  len : Nat
  at_ : Nat
  waiting : List (Nat × Nat)
deriving DecidableEq, Repr

/-- A message to the host or a peer, in order of issue: kind (0 MSI-X, 1 page request, 2 invalidation completion, 3 put row, 4 get request, 5 peer partial,
6 host word, 7 peer signal, 8 a row that a peer's get has read (in 3 and 8 the row's tag stands above its bits), 9 no row for a peer: its third word is the
cause, or 0 for a row that is Invalid under the silent policy), and three words. -/
structure Msg where
  kind : Nat
  a : Nat
  b : Nat
  c : Nat
deriving DecidableEq, Repr

/-- A Roundabout message not yet acknowledged (R449): sequence number, the event it brings about, when it was sent, from which die to which. -/
structure Unacked where
  seq : Nat
  ev : Instr
  sentAt : Nat
  src : Nat
  dst : Nat
deriving DecidableEq, Repr

/-- The memory side of HBM4 (R333-R335, R345, R444-R447): channel pauses (stack × 32 + channel, end clock), bank holds ((stack × 32 + channel) ×
32 + pseudo-channel × 16 + bank, end clock), the stacks still to start, the earliest clock of the next start of one, the accesses that wait at the memory
routers in order of their arrival with the blocks they touch, refresh interval class of each layer (stack × 16 + layer), blocks stored compressed with
the first 256 bytes of their homes, uncorrectable granules and those with an error that the check corrects (by place in the model's memory, in units of 512
and 64 bytes), corrected symbols of each pin
(scrub period × 4096 + count), redundant lanes used per channel, scrub write-backs queued, blocks whose patrol read waits with the clock in which it
fell due, and the banks that have served demand accesses in this clock (R346). -/
structure Hbm where
  pause : Map Nat
  hold : Map Nat
  starting : List Nat
  nextStack : Nat
  queue : List (List Nat × Instr)
  interval : Map Nat
  compressed : Map (BitVec 2048)
  badGran : List Nat
  weak : List Nat
  symbols : Map Nat
  lanesUsed : Map Nat
  scrubs : List Nat
  patrol : List (Nat × Nat)
  busy : List Nat
deriving DecidableEq, Repr

/-- The bundle being issued: deck, sequencer (lockstep: none; fork: some true for execute), address, what its syllables decided. -/
structure Issue where
  deck : Nat
  side : Option Bool
  pc : CodeAddr
  target : Option CodeAddr
  popLoops : Bool
  taken : Bool
  stall : Bool
  waitOther : Bool
  raised : Option Trap
  halts : Bool
  forks : Option (CodeAddr × CodeAddr)
  joins : Bool
  freeing : List Nat
  returned : Bool
  releases : Bool
  seq0 : Nat
  anew : Option Again
deriving DecidableEq, Repr

/-- The whole machine (INVENTORY.md, State). -/
structure State where
  clock : Nat
  phase : Phase
  issue : Issue
  agenda : List (Nat × Instr)
  micro : List Micro
  seq : Nat
  free : Nat
  mem : Memory
  decks : Map Deck
  cores : Map Core
  dies : Map Die
  insts : Map Inst
  nextInst : Nat
  nextSet : Nat
  trans : List Trans
  remap : List Remap
  extWait : List ExtWait
  shadows : List Shadow
  atsReq : List (Nat × Nat)
  pageReq : List (Nat × Nat × Option Nat)
  invals : List Inval
  shares : List Share
  nextShare : Nat
  pools : Map Pool         -- per context
  images : Map CodeImage   -- per graph: the code its nodes run
  cancels : List (Nat × List Nat)   -- groups being cancelled, with the dies the message has not reached (R311)
  hostWrites : List (Nat × Nat × Word)   -- completions of cancelled nodes still to be written: context, address, value (R312)
  launches : List Launch
  launchQ : List (Nat × List (Nat × Nat × Word))
  ignored : Nat
  uploaded : Bool
  graphTable : Map Word
  patchWin : Map Word
  tempTable : Map (BitVec 16)
  tempPending : List (Nat × BitVec 16)
  hmask : Map Word
  ready : Bool
  winErr : Bool
  log : List LogEntry
  logCount : Nat
  corrected : Map (BitVec 32)
  viaduct : Map Word
  partials : Map (BitVec 320)   -- the partial registers, by router × 4096 + register (R326)
  peers : List (Nat × Nat × List (BitVec 320))   -- partials of peers that no result has taken yet: group, device, its 128 registers (R329)
  packets : List Packet
  inbound : List FromPeer
  remotes : List Remote
  flits : List Flit
  xrows : List Xrow
  lineErrors : List LineError   -- flits and sums of transfer phases that fail their check when their turn comes
  hbm : Hbm
  linksDown : List Nat
  unacked : List Unacked
  answered : List Nat          -- instances a deck or engine of which had asked for a page that the host has answered for in this clock (R427)
  signals : List Signal   -- remote signals under way (R31, R118)
  flying : List SpawnSet   -- committed sets on their way to their queue's home (R299, R306)
  msgs : List Msg
  starting : List Nat
  nextStart : Nat
  tap : List Nat   -- the instruction registers of the dies' test access ports, in chain order; none after test logic reset (R350)
  boot : Option Boot
  readyClock : Nat
deriving DecidableEq, Repr

/-- Why the machine stops. Both are raised by memory operations of Machine/Ops.lean. -/
inductive Fault where
  /-- An access reaches a physical HBM4 address at or above the installed capacity, which R331 gives no location: raised by a dispatch, a gather, a
  fetch of a record, or at the end of a clock for any access that stands at a memory router. Safe: the spec gives such an address no effect. -/
  | noSuchAddress (pa : Nat)
deriving DecidableEq, Repr

/-- Why an instruction has no meaning. -/
inductive Refusal where
  /-- The instruction has no meaning in this model yet: raised by an arm of exec only. Safe. -/
  | notModelled (mnemonic : String)
deriving DecidableEq, Repr

/-- A core in Off (R342, R343): store rows released, nothing configured, deck 3 counting as the last lease holder (R41). -/
def Core.reset : Core :=
  { power := ⟨2, 2, false⟩, regions := [], clkBase := 0, ticks := 0, rows := [], tiles := [], tileReqs := [], unlocks := [], refreshQ := [], offered := [], notes := [],
    refreshing := [], band := 0, sensor := 40, reevalEnd := 0, pendBits := [], badGran := [], weak := [], badCells := [], acc := [], slots := [],
    loadFree := 0, gantryFree := 0, readFree := 0, cleared := [], leaseHolder := none, leaseReq := [],
    leaseLast := 3, arrayUsed := 0, gated := false, warmUntil := 0, replays := [], misRows := [], sems := [], engines := [],
    sdcfg := 0, ways := [], walker := [], blocks := [], pendTiles := [], service := none, code := [], hist := [], seen := [],
    sched := [] }

/-- A deck with no instance: the values of R29, PCs 0 (NOTES.md, Assumption 4). -/
def Deck.reset : Deck :=
  { inst := none, halted := true, pcA := 0, pcE := 0, nextA := 0, nextE := 0, lostAt := none, loopsA := [], loopsE := [], fork := false,
    sup := false, slip := 0, slipBound := 64, waitA := none, waitE := none, x := [], p := [], v := [], oq := [], rq := [],
    aToE := [], eToA := [], sync := 0, edge := ⟨0, 0, [], [], false, false⟩, lcache := [], t := [], shapes := [], tmode := false, tscale := 0, treeCount := 0,
    treeBusy := [], ms := [], fmode := 0, fflags := 0, slipw := 64, lfsr := 1, crv := [], tvec := 0, tcause := 0, tinfo := 0,
    wid := 0, plive := BitVec.allOnes 32, vlive := BitVec.allOnes 320, ckChecked := 0, ckFail := false, ckPend := 0,
    ckRow := 0, chain := none, latches := [], revoc := [], ldsWait := [], ldsHeld := [],
    heldIds := [], pendTrap := none, stalledAt := none, hold := false, wire := none, again := [], pend20 := false, pend21 := 0, pend23 := false,
    engFaults := [], arrFaults := [], nointCount := [], timer := 0, kern := none, irq := none, trapWait := none, overrunEnd := false, overrunA := false,
    boundary := false, atSq := none,
    frozen := none, iters := 0, checkedAt := none, parity := [], par := none }

/-- A die at ready (R342, R347): Active. -/
def Die.reset : Die :=
  { power := ⟨0, 0, false⟩, tripped := false, sensor := 40, rbcfg := 1000, select := 0, resident := [],
    heldSets := [], rings := [], tails := [] }

/-- No bundle is being issued. -/
def Issue.idle : Issue :=
  { deck := 0, side := none, pc := 0, target := none, popLoops := false, taken := false, stall := false, waitOther := false,
    raised := none, halts := false, forks := none, joins := false, freeing := [], returned := false, releases := false, seq0 := 0, anew := none }

/-- HBM4 at ready. -/
def Hbm.reset : Hbm :=
  { pause := [], hold := [], starting := [], nextStack := 0, queue := [], interval := [], compressed := [], badGran := [], weak := [], symbols := [], lanesUsed := [], scrubs := [], patrol := [], busy := [] }

/-- The machine after reset: the device at ready (R2, R347), every core Off, nothing uploaded, nothing running. -/
def State.reset : State :=
  { clock := 0, phase := .events, issue := Issue.idle, agenda := [], micro := [], seq := 0, free := 0, mem := [], decks := [],
    cores := [], dies := [], insts := [], nextInst := 0, nextSet := 0, trans := [], remap := [], extWait := [], shadows := [], atsReq := [],
    pageReq := [], invals := [], shares := [], nextShare := 0, pools := [], images := [], cancels := [], hostWrites := [], launches := [], launchQ := [], ignored := 0, uploaded := false,
    graphTable := [], patchWin := [], tempTable := [], tempPending := [], hmask := [], ready := true, winErr := false, log := [],
    logCount := 0, corrected := [], viaduct := [], partials := [], peers := [], packets := [], inbound := [], remotes := [], flits := [], xrows := [], lineErrors := [], hbm := Hbm.reset,
    linksDown := [], unacked := [], answered := [], signals := [], flying := [], msgs := [], starting := [], nextStart := 0, tap := [], boot := none, readyClock := 0 }

end Sys2Proof.Machine
end

