-- ==== Sys2Proof/Machine/Maps.lean ====
section
/-! DEFINITION. Sparse tables (`Map`) and memory as one list of cells: reading, writing, their canonical form. -/
namespace Sys2Proof.Machine

/-- The entry of key k, or the table's default. -/
def mget {α : Type} (d : α) : Map α → Nat → α
  | [], _ => d
  | (a, v) :: m, k => if a = k then v else mget d m k

/-- The entry of key k, if the table lists one. -/
def mfind {α : Type} : Map α → Nat → Option α
  | [], _ => none
  | (a, v) :: m, k => if a = k then some v else mfind m k

/-- Set key k, keeping the keys in rising order. -/
def mput {α : Type} : Map α → Nat → α → Map α
  | [], k, v => [(k, v)]
  | (a, x) :: m, k, v =>
    if k < a then (k, v) :: (a, x) :: m else if a = k then (k, v) :: m else (a, x) :: mput m k v

/-- Remove key k. -/
def mdel {α : Type} (m : Map α) (k : Nat) : Map α := m.filter fun p => !(p.1 == k)

/-- Set key k of a table that does not list its default. -/
def mset {α : Type} [DecidableEq α] (d : α) (m : Map α) (k : Nat) (v : α) : Map α :=
  if v = d then mdel m k else mput m k v

/-- Change the entry of key k. -/
def mmod {α : Type} (d : α) (m : Map α) (k : Nat) (f : α → α) : Map α := mput m k (f (mget d m k))

/-- One byte of memory; an unlisted address reads as 0x00 (NOTES.md, Assumption 2). -/
def Memory.byte (m : Memory) (a : Nat) : Byte := mget 0 m a

/-- n bytes from address a, least significant first (R2), as one number. -/
def Memory.read (m : Memory) (a n : Nat) : Nat :=
  match m with
  | [] => 0
  | c :: m => (if a ≤ c.1 ∧ c.1 < a + n then c.2.toNat * 256 ^ (c.1 - a) else 0) + Memory.read m a n

/-- The cells of n bytes of w from address a; bytes of 0x00 are not listed. -/
def Memory.cells (a : Nat) : Nat → Nat → Memory
  | 0, _ => []
  | n + 1, w =>
    if w % 256 = 0 then Memory.cells (a + 1) n (w / 256)
    else (a, BitVec.ofNat 8 w) :: Memory.cells (a + 1) n (w / 256)

/-- Write the low n bytes of w at address a, least significant first. -/
def Memory.write (m : Memory) (a n w : Nat) : Memory :=
  m.filter (fun c => decide (c.1 < a)) ++ Memory.cells a n w ++ m.filter (fun c => decide (a + n ≤ c.1))

/-- The canonical form of memory: addresses strictly rising, no byte equal to 0x00. -/
def Memory.wf (m : Memory) : Bool :=
  decide (m.Pairwise fun p q => p.1 < q.1) && m.all fun c => c.2 != 0

/-- Where core c's store lies in the model's memory (NOTES.md, Assumption 1). -/
def storeBase (c : Nat) : Nat := c * 2 ^ 26
/-- Where core c's instruction store lies. -/
def istoreBase (c : Nat) : Nat := 2 ^ 33 + c * 2 ^ 19
/-- Where die d's graph store lies. -/
def graphBase (d : Nat) : Nat := 2 ^ 34 + d * 2 ^ 23
/-- Where context x's descriptor lies. -/
def ctxBase (x : Nat) : Nat := 2 ^ 35 + 32 * x
/-- Where physical address pa of HBM4 lies. -/
def hbmBase (pa : Nat) : Nat := 2 ^ 41 + pa
/-- Where byte a of host memory lies. -/
def hostBase (a : Nat) : Nat := 2 ^ 60 + a

end Sys2Proof.Machine
end

