-- ==== Sys2Proof/Machine/Frame.lean ====
section
/-! DEFINITION. The context image of a deck (spec 13 R314, R315, R460; spec 20 R382): its bytes as one number, and the deck read
back from them. -/
namespace Sys2Proof.Machine

/-- A list of w-byte values, the first at the lowest address. -/
def packBytes (w : Nat) : List Nat → Nat
  | [] => 0
  | x :: xs => x % 256 ^ w + 256 ^ w * packBytes w xs

/-- Value v at byte offset o. -/
def putAt (o v : Nat) : Nat := v * 256 ^ o

/-- n bytes of image w from offset o. -/
def getAt (w o n : Nat) : Nat := w / 256 ^ o % 256 ^ n

/-- The registers of a live mask, in increasing number (R181); p31 is constant. -/
def livePreds (m : BitVec 32) : List Nat := (List.range 31).filter fun n => m.getLsbD n
def liveVecs (m : BitVec 320) : List Nat := (List.range 320).filter fun n => m.getLsbD n

/-- Register images and tags read as zero with tag 0 where nothing is listed (R29). -/
def VReg.zero : VReg := ⟨0, 0⟩

/-- Default contents of a layout-cache entry: generation 0, an all-zero record (R29). -/
def LEntry.zero : LEntry := ⟨0, 0, true⟩

/-- The reset contents of crv k (R96). -/
def crvReset (k : Nat) : Word := if k = 0 then 0 else 0x7F80000000000000

/-- The checksum status word (R261). -/
def Deck.ckWord (d : Deck) : Word :=
  BitVec.ofNat 64 (d.ckChecked.toNat * 2 ^ 32 + (if d.ckFail then 2 ^ 31 else 0) + (if d.ckPend = 0 then 0 else 2 ^ 30) +
    d.ckRow.toNat)

/-- One loop level as stored (R460). -/
def Level.word (l : Level) : Nat := l.start.toNat + l.stop.toNat * 2 ^ 16 + l.rem.toNat * 2 ^ 32

/-- A loop stack as stored: level 0 first; the list holds the top level first. -/
def loopWords (ls : List Level) : Nat := packBytes 8 ((ls.reverse.take 4).map Level.word)

/-- A branch-outcome queue as stored (R460). -/
def outcomeWord (q : List Bool) : Nat :=
  ((q.take 16).foldr (fun b acc => (if b then 1 else 0) + 2 * acc) 0) + (min q.length 16) * 2 ^ 16

/-- Occupancy and tags of one queue (R314, offset 0x0680). -/
def queueWord (q : List QEntry) : Nat :=
  q.length % 16 + 16 * (q.foldr (fun e acc => e.tag.toNat + 32 * acc) 0)

/-- The kind and number of a latch's destination (R315). -/
def Dest.code : Dest → Nat
  | .x r => 0 + 16 * r
  | .v r => 1 + 16 * r
  | .p r => 2 + 16 * r
  | .t r => 3 + 16 * r
  | .tAdj r _ _ => 3 + 16 * r
  | .oq q _ => 4 + 16 * q
  | .rq q _ => 4 + 16 * q
  | .flags => 5
  | .spr n => 6 + 16 * n

/-- A latch as stored (R315). -/
def Latch.bytes (l : Latch) (ct : Nat) : Nat :=
  l.dest.code + (l.land - ct) % 256 * 2 ^ 16 + l.tag.toNat * 2 ^ 24 + l.flags.toNat * 2 ^ 32 + (l.rank % 4) * 2 ^ 40 +
    putAt 16 l.mask.toNat + putAt 32 l.data.toNat

/-- The queue reservation a latch fills, else 0. -/
def Dest.qid : Dest → Nat
  | .rq _ id => id
  | .oq _ id => id
  | _ => 0

/-- A latch read back, to land at r + remaining (R387); id is the queue reservation it fills. -/
def Latch.ofBytes (w r seq id : Nat) : Latch :=
  let num := bits w 4 9
  let dest := match bits w 0 3 with
    | 0 => .x num
    | 1 => .v num
    | 2 => .p num
    | 3 => .t num
    | 4 => .rq num id
    | 5 => .flags
    | _ => .spr num
  { land := r + bits w 16 8, rank := bits w 40 2, seq := seq, dest := dest, mask := BitVec.ofNat 128 (getAt w 16 16),
    data := BitVec.ofNat 4096 (getAt w 32 512), tag := BitVec.ofNat 5 (bits w 24 5), flags := BitVec.ofNat 8 (bits w 32 8) }

/-- A replay entry as stored (R386): syllable, address and rows done, captured operands. -/
def Again.bytes (a : Again) : Nat :=
  a.syl % 2 ^ 64 + putAt 8 (a.pc.toNat + a.done % 8 * 2 ^ 24) + putAt 16 a.xa.toNat + putAt 24 a.xb.toNat

/-- A replay entry read back, for clock c. -/
def Again.ofBytes (w c : Nat) : Again :=
  { at_ := c, syl := getAt w 0 8, pc := BitVec.ofNat 14 (getAt w 8 8), done := bits (getAt w 8 8) 24 3,
    xa := BitVec.ofNat 64 (getAt w 16 8), xb := BitVec.ofNat 64 (getAt w 24 8) }

/-- Bytes of the fixed part (R314). -/
def fixedBytes : Nat := 0x2300

/-- What an image records beside the deck itself: node, lease, kind of image, replay entries, fault address. -/
structure Extra where
  node : Nat
  lease : Bool
  lreq : Bool
  trap : Bool
  arr : Bool
  core : Bool
  ct : Nat
  again : List Again
  addr : Word

/-- The entries of all queues, oq0 head first to rq7 tail. -/
def Deck.queueEntries (d : Deck) : List QEntry :=
  (List.range 8).flatMap (fun q => mget [] d.oq q) ++ (List.range 8).flatMap (fun q => mget [] d.rq q)

/-- The 256-byte header (R315, R382). -/
def Deck.header (d : Deck) (e : Extra) : Nat :=
  let b := fun (c : Bool) (k : Nat) => if c then 2 ^ k else 0
  let w2 := d.pcA.toNat + d.pcE.toNat * 2 ^ 16 + b d.fork 32 + b d.sup 33 + b e.lease 34 + b e.lreq 35
  let w3 := (d.slip % 2048).toNat + d.slipBound * 2 ^ 16
  let nQ := if e.trap then 0 else d.queueEntries.length
  let w4 := d.latches.length + nQ * 2 ^ 8 + (liveVecs d.vlive).length * 2 ^ 16 + b e.core 32 + b e.arr 33
  packBytes 8 ([d.wid.toNat, e.node, w2, w3, w4, d.plive.toNat] ++ (List.range 5).map (fun i => bits d.vlive.toNat (64 * i) 64) ++
    [e.again.length, d.tvec.toNat, d.tcause.toNat, d.tinfo.toNat, e.addr.toNat])

/-- The fixed part (R314, R460). -/
def Deck.fixedPart (d : Deck) (e : Extra) : Nat :=
  d.header e +
  putAt 0x100 (packBytes 8 ((List.range 64).map fun r => if r = 0 then 0 else (mget 0 d.x r).toNat)) +
  putAt 0x300 (packBytes 16 ((livePreds d.plive).map fun r => (mget 0 d.p r).toNat)) +
  putAt 0x500 (packBytes 8 [d.fmode.toNat, d.fflags.toNat, d.slipw.toNat, d.ckWord.toNat, d.lfsr.toNat]) +
  putAt 0x528 (packBytes 4 ((List.range 8).map fun r => (mget 0x3F800000 d.ms r).toNat)) +
  putAt 0x548 (packBytes 8 ((List.range 16).map fun r => (mget (crvReset r) d.crv r).toNat)) +
  putAt 0x600 (loopWords d.loopsA) + putAt 0x620 (loopWords d.loopsE) +
  putAt 0x640 (d.loopsA.length + d.loopsE.length * 2 ^ 8) + putAt 0x648 (outcomeWord d.aToE) + putAt 0x650 (outcomeWord d.eToA) +
  putAt 0x658 d.sync.toNat +
  putAt 0x680 (packBytes 8 ((List.range 8).map (fun q => queueWord (mget [] d.oq q)) ++
    (List.range 8).map fun q => queueWord (mget [] d.rq q))) +
  putAt 0x700 (packBytes 1 ((List.range 320).map fun r => (mget VReg.zero d.v r).tag.toNat)) +
  putAt 0x840 (packBytes 1 ((List.range 64).map fun r => (mget LEntry.zero d.lcache r).gen.toNat)) +
  putAt 0x880 (packBytes 64 ((List.range 64).map fun r => (mget LEntry.zero d.lcache r).record.toNat)) +
  putAt 0x1880 (packBytes 4 ((List.range 512).map fun r => (mget 0 d.t r).toNat)) +
  putAt 0x2080 (packBytes 8 ((List.range 64).map fun r => (mget 0 d.shapes r).toNat)) +
  putAt 0x2280 (packBytes 8 [if d.tmode then 1 else 0, d.tscale.toNat, d.treeCount])

/-- The whole image without a core part, and its length in bytes. -/
def Deck.image (d : Deck) (e : Extra) : Nat × Nat :=
  let qs := if e.trap then [] else d.queueEntries
  let vs := liveVecs d.vlive
  let oL := fixedBytes
  let oQ := oL + 544 * d.latches.length
  let oV := oQ + 512 * qs.length
  let oR := oV + 512 * vs.length
  (d.fixedPart e + putAt oL (packBytes 544 (d.latches.map fun l => l.bytes e.ct)) +
    putAt oQ (packBytes 512 (qs.map fun q => q.data.toNat)) +
    putAt oV (packBytes 512 (vs.map fun r => (mget VReg.zero d.v r).data.toNat)) +
    putAt oR (packBytes 32 (e.again.map Again.bytes)),
   oR + 32 * e.again.length)

/-- Rows an image of n bytes fills (R381). -/
def imageRows (n : Nat) : Nat := (n + 511) / 512

/-- A table rebuilt from n values, its default not listed. -/
def rebuild {α : Type} [DecidableEq α] (d : α) (n : Nat) (f : Nat → α) : Map α :=
  (List.range n).foldl (fun m k => mset d m k (f k)) []

/-- A loop stack read back (R460), top first. -/
def loopsOf (w depth : Nat) : List Level :=
  ((List.range depth).map fun k =>
    let x := getAt w (8 * k) 8
    { start := BitVec.ofNat 14 x, stop := BitVec.ofNat 14 (bits x 16 14), rem := BitVec.ofNat 32 (bits x 32 32) : Level }).reverse

/-- A branch-outcome queue read back. -/
def outcomesOf (w : Nat) : List Bool := (List.range (bits w 16 5)).map fun i => bits w i 1 == 1

/-- Write a special register of a deck (R178): fields marked reserved read zero. -/
def Deck.writeSpr (d : Deck) (n : Nat) (w : Word) : Deck :=
  if n = 0x010 then { d with slipw := if bits w.toNat 0 10 = 0 then 1 else BitVec.ofNat 64 (bits w.toNat 0 10) }
  else if n = 0x011 then { d with fmode := (w &&& 0x18) ||| (if bits w.toNat 5 3 > 4 then 0 else w &&& 0xE0) }
  else if n = 0x012 then { d with fflags := w.setWidth 8 &&& 0xDF }
  else if n = 0x040 then { d with tvec := w.setWidth 14 }
  else if 0x020 ≤ n ∧ n ≤ 0x02F then
    let brk := bits w.toNat 32 32
    let brk' := if n = 0x020 ∨ brk ≥ 0x80000000 ∨ brk > 0x7F800000 then 0 else brk
    let sl := bits w.toNat 27 5
    let sl' := if 8 < sl ∧ sl < 16 then 8 else if 16 ≤ sl ∧ sl < 24 then 24 else sl
    { d with crv := mset (crvReset (n - 0x020)) d.crv (n - 0x020) (BitVec.ofNat 64 (brk' * 2 ^ 32 + sl' * 2 ^ 27)) }
  else d

/-- The special registers that a deck may write, as an image holds them: number and offset. -/
def sprPlaces : List (Nat × Nat) :=
  [(0x010, 0x510), (0x011, 0x500), (0x012, 0x508)] ++ (List.range 16).map fun k => (0x020 + k, 0x548 + 8 * k)

/-- What `tinfo` can hold beside a cause: its reserved fields read zero (R3, R384). -/
def tinfoField (cause : Nat) (w : Word) : Word :=
  if cause = 0x20 then 0 else if cause = 0x21 then w &&& 0xFF else if cause = 0x22 then w &&& 0x1FFFFF
  else if w.getLsbD 63 then w &&& 0xE0000000FFFFFFFF else w &&& 0x7FFFFF0000073FFF

/-- The deck with every item of the fixed part, the live vectors and the latches of image w (R387): not the queues, the checksum
status, nor what belongs to the core. Reserved fields of registers read zero (R3). Latches land at r + remaining. -/
def Deck.restore (d : Deck) (w r seq : Nat) : Deck :=
  let h := fun k => getAt w (8 * k) 8
  let plive := BitVec.ofNat 32 (h 5)
  let vlive := BitVec.ofNat 320 (getAt w 48 40)
  let nL := bits (h 4) 0 8
  let nQ := bits (h 4) 8 7
  let ps := livePreds plive
  let vs := liveVecs vlive
  let oV := fixedBytes + 544 * nL + 512 * nQ
  { sprPlaces.foldl (fun (d : Deck) q => d.writeSpr q.1 (BitVec.ofNat 64 (getAt w q.2 8))) { d with slipw := 0, crv := [] } with
    wid := BitVec.ofNat 64 (h 0), pcA := BitVec.ofNat 14 (h 2), pcE := BitVec.ofNat 14 (bits (h 2) 16 14),
    fork := bits (h 2) 32 1 == 1, sup := bits (h 2) 33 1 == 1,
    slip := (let s := bits (h 3) 0 11; if s ≥ 1024 then (s : Int) - 2048 else (s : Int)), slipBound := bits (h 3) 16 10,
    plive := plive, vlive := vlive, tvec := BitVec.ofNat 14 (h 12), tcause := BitVec.ofNat 8 (h 13), 
    tinfo := tinfoField (h 13 % 256) (BitVec.ofNat 64 (h 14)),
    x := rebuild 0 64 fun k => BitVec.ofNat 64 (getAt w (0x100 + 8 * k) 8),
    p := (ps.zipIdx).foldl (fun m q => mset 0 m q.1 (BitVec.ofNat 128 (getAt w (0x300 + 16 * q.2) 16))) [],
    lfsr := BitVec.ofNat 32 (getAt w 0x520 8),
    ms := rebuild 0x3F800000 8 fun k => BitVec.ofNat 32 (getAt w (0x528 + 4 * k) 4),
    loopsA := loopsOf (getAt w 0x600 32) (bits (getAt w 0x640 8) 0 3),
    loopsE := loopsOf (getAt w 0x620 32) (bits (getAt w 0x640 8) 8 3),
    aToE := outcomesOf (getAt w 0x648 8), eToA := outcomesOf (getAt w 0x650 8), sync := BitVec.ofNat 16 (getAt w 0x658 8),
    v := (vs.zipIdx).foldl (fun m q =>
      mset VReg.zero m q.1 ⟨BitVec.ofNat 4096 (getAt w (oV + 512 * q.2) 512), BitVec.ofNat 5 (getAt w (0x700 + q.1) 1)⟩) [],
    lcache := rebuild LEntry.zero 64 fun k =>
      ⟨BitVec.ofNat 6 (getAt w (0x840 + k) 1), BitVec.ofNat 512 (getAt w (0x880 + 64 * k) 64), true⟩,
    t := rebuild 0 512 fun k => BitVec.ofNat 32 (getAt w (0x1880 + 4 * k) 4),
    shapes := rebuild 0 64 fun k => BitVec.ofNat 64 (getAt w (0x2080 + 8 * k) 8 % 2 ^ 62),
    tmode := getAt w 0x2280 8 % 2 == 1, tscale := BitVec.ofNat 16 (getAt w 0x2288 8), treeCount := getAt w 0x2290 8,
    latches := (List.range nL).map fun k => Latch.ofBytes (getAt w (fixedBytes + 544 * k) 544) r (seq + k) (d.heldIds.getD k 0) }

end Sys2Proof.Machine
end

