-- ==== Sys2Proof/Machine/Routes.lean ====
section
/-! DEFINITION. The fabric's routers, routes and unloaded latencies (spec 14 R319-R323). A router is die × 16 + quadrant × 4 + r, with
r = 0, 1 the core routers, 2 the memory router, 3 the edge router. -/
namespace Sys2Proof.Machine

/-- Links and routers entered from router a to router b of one quadrant (R322): a link of 2 clocks and a router of 6. -/
def quadHop (a b : Nat) : Nat := if a = b then 0 else 8

/-- The router that holds the span between quadrants q and q' (R320). -/
def spanHolder (q q' : Nat) : Nat := (q ^^^ q') - 1

/-- From router (q, r) to router (q', r') of one die: over one span when the quadrants differ (R321). -/
def dieHop (q r q' r' : Nat) : Nat :=
  if q = q' then quadHop r r'
  else quadHop r (spanHolder q q') + 22 + quadHop (spanHolder q q') r'

/-- The quadrant whose edge router leads from die a toward die b: columns first, then rows (R320, R321). -/
def exitQuadrant (a b : Nat) : Nat :=
  if b % 4 < a % 4 then 0 else if a % 4 < b % 4 then 1 else if b / 4 < a / 4 then 2 else 3

/-- The die across port 15 of quadrant q (R320), if there is one. -/
def dieAcross (a q : Nat) : Option Nat :=
  match q with
  | 0 => if a % 4 = 0 then none else some (a - 1)
  | 1 => if a % 4 = 3 then none else some (a + 1)
  | 2 => if a / 4 = 0 then none else some (a - 4)
  | _ => if a / 4 = 2 then none else some (a + 4)

/-- Clocks from leaving the source router to leaving the destination router, at most `fuel` die-to-die links. -/
def hops (fuel : Nat) (a q r b q' r' : Nat) : Nat :=
  match fuel with
  | 0 => 0
  | fuel + 1 =>
    if a = b then dieHop q r q' r'
    else
      let e := exitQuadrant a b
      match dieAcross a e with
      | none => 0
      | some a' => dieHop q r e 3 + 46 + hops fuel a' (e ^^^ 1) 3 b q' r'

/-- Path delay D between two core routers along the minimal route (R325, R328). -/
def pathDelay (c c' : Nat) : Nat := hops 8 (c / 8) (c / 2 % 4) (c % 2) (c' / 8) (c' / 2 % 4) (c' % 2)

/-- Unloaded latency L between two cores (R322). -/
def coreLatency (c c' : Nat) : Nat := 6 + pathDelay c c'

/-- Unloaded latency between the edge routers of quadrant 0 of two dies (R299); 0 inside one die. -/
def dieLatency (a b : Nat) : Nat := if a = b then 0 else 6 + hops 8 a 0 3 b 0 3

/-- Unloaded round trip of a remote access (R323). -/
def roundTrip (c c' : Nat) : Nat := max 400 (coreLatency c c' + coreLatency c' c + 22)

/-! ### Routes (R319-R321): outputs in order, each with its router, its port and the clocks of its link -/

/-- The port of router r of a quadrant that leads to its router r' (R319). -/
def portTo (r r' : Nat) : Nat :=
  match r, r' with
  | 0, 1 => 1
  | 1, 0 => 1
  | 2, 0 => 8
  | 2, 1 => 9
  | 2, _ => 10
  | 3, 0 => 12
  | 3, 1 => 13
  | 3, _ => 14
  | _, k => k

def quadRoute (die q r r' : Nat) : List (Nat × Nat × Nat) := if r = r' then [] else [(die * 16 + q * 4 + r, portTo r r', 2)]

/-- From router r of quadrant q over the one span to quadrant q', as far as the router that holds it there (R320). -/
def spanRoute (die q r q' : Nat) : List (Nat × Nat × Nat) :=
  let k := spanHolder q q'
  quadRoute die q r k ++ [(die * 16 + q * 4 + k, if k = 2 then 11 else 4, 16)]

/-- Inside one die; by way of quadrant m, if the route is not the minimal one (R321). -/
def dieRoute (die q r q' r' : Nat) (m : Option Nat) : List (Nat × Nat × Nat) :=
  if q = q' then quadRoute die q r r'
  else match m with
    | none => spanRoute die q r q' ++ quadRoute die q' (spanHolder q q') r'
    | some m => spanRoute die q r m ++ spanRoute die m (spanHolder q m) q' ++ quadRoute die q' (spanHolder m q') r'

/-- From router (q, r) of die a to router (q', r') of die b, by at most `fuel` die-to-die links. -/
def routeOf (fuel : Nat) (a q r b q' r' : Nat) (m : Option Nat) : List (Nat × Nat × Nat) :=
  match fuel with
  | 0 => []
  | fuel + 1 =>
    if a = b then dieRoute a q r q' r' m
    else
      let e := exitQuadrant a b
      match dieAcross a e with
      | none => []
      | some a' => dieRoute a q r e 3 m ++ (a * 16 + e * 4 + 3, 15, 40) :: routeOf fuel a' (e ^^^ 1) 3 b q' r' none

/-- From router g to router g'. -/
def route (g g' : Nat) (m : Option Nat) : List (Nat × Nat × Nat) := routeOf 8 (g / 16) (g / 4 % 4) (g % 4) (g' / 16) (g' / 4 % 4) (g' % 4) m

/-- The router of core c. -/
def coreRouter (c : Nat) : Nat := c / 8 * 16 + c / 2 % 4 * 4 + c % 2

/-- The edge router of die d through which its Roundabout sends (R319). -/
def dieRouter (d : Nat) : Nat := 16 * d + 3

/-- The edge router that Viaduct port v attaches to (R339), and the one of the host port. -/
def viaductRouter (v : Nat) : Nat := if v < 12 then 16 * v + 15 else 16 * ([0, 3, 8, 11].getD (v - 12) 0) + 11
def hostRouter : Nat := 11

/-- The memory router that fronts channel ch of stack k (R10, R331). -/
def memoryRouter (stack ch : Nat) : Nat := stack / 2 * 16 + (2 * (stack % 2) + ch / 16) * 4 + 2

/-- The quadrant in which a packet from router g to router g' leaves its source die, or ends there (R321). -/
def crossTo (g g' : Nat) : Nat := if g / 16 = g' / 16 then g' / 4 % 4 else exitQuadrant (g / 16) (g' / 16)

/-- The quadrants of a non-minimal route between q and q', in rising order (R321). -/
def detours (q q' : Nat) : List Nat := if q = q' then [] else (List.range 4).filter fun m => m != q && m != q'

/-- The router a port number of core c names (R319). -/
def portRouter (c p : Nat) : Nat := c / 8 * 16 + c / 2 % 4 * 4 + (if p ≤ 4 then c % 2 else if p ≤ 11 then 2 else 3)

/-- Where a flit that leaves router g by port p arrives: router, its input port, clocks of the link. None: it leaves the package, or
the port has no link; port 0 leads into the core (R319, R320). -/
def linkOf (g p : Nat) : Option (Nat × Nat × Nat) :=
  let base := g / 4 * 4
  let q := g / 4 % 4
  let r := g % 4
  let across := fun k => g / 16 * 16 + (q ^^^ k) * 4 + r
  match r, p with
  | 0, 1 => some (base + 1, 1, 2)
  | 1, 1 => some (base, 1, 2)
  | 0, 2 => some (base + 2, 8, 2)
  | 1, 2 => some (base + 2, 9, 2)
  | 0, 3 => some (base + 3, 12, 2)
  | 1, 3 => some (base + 3, 13, 2)
  | 0, 4 => some (across 1, 4, 16)
  | 1, 4 => some (across 2, 4, 16)
  | 2, 8 => some (base, 2, 2)
  | 2, 9 => some (base + 1, 2, 2)
  | 2, 10 => some (base + 3, 14, 2)
  | 2, 11 => some (across 3, 11, 16)
  | 3, 12 => some (base, 3, 2)
  | 3, 13 => some (base + 1, 3, 2)
  | 3, 14 => some (base + 2, 10, 2)
  | 3, 15 => (dieAcross (g / 16) q).map fun d => (d * 16 + (q ^^^ 1) * 4 + 3, 15, 40)
  | _, _ => none

end Sys2Proof.Machine
end

