-- ==== Sys2Proof/Machine/Ops.lean ====
section
/-! DEFINITION. The named operations over decks, cores, registers, queues, the store, the agenda and the log, taking a trap and
the return from one. -/
namespace Sys2Proof.Machine

/-! ### Parts of the state -/

def State.getDeck (s : State) (n : Nat) : Deck := mget Deck.reset s.decks n
def State.setDeck (s : State) (n : Nat) (d : Deck) : State := { s with decks := mput s.decks n d }
def State.modDeck (s : State) (n : Nat) (f : Deck → Deck) : State := s.setDeck n (f (s.getDeck n))
def State.getCore (s : State) (n : Nat) : Core := mget Core.reset s.cores n
def State.setCore (s : State) (n : Nat) (c : Core) : State := { s with cores := mput s.cores n c }
def State.modCore (s : State) (n : Nat) (f : Core → Core) : State := s.setCore n (f (s.getCore n))
def State.getDie (s : State) (n : Nat) : Die := mget Die.reset s.dies n
def State.setDie (s : State) (n : Nat) (d : Die) : State := { s with dies := mput s.dies n d }
def State.modDie (s : State) (n : Nat) (f : Die → Die) : State := s.setDie n (f (s.getDie n))

/-- The deck whose bundle is being issued, and its core. -/
def State.dn (s : State) : Nat := s.issue.deck
def State.cn (s : State) : Nat := s.issue.deck / 4
def State.dk (s : State) : Deck := s.getDeck s.issue.deck
def State.setDk (s : State) (d : Deck) : State := s.setDeck s.issue.deck d
def State.modDk (s : State) (f : Deck → Deck) : State := s.modDeck s.issue.deck f
def State.ck (s : State) : Core := s.getCore s.cn
def State.modCk (s : State) (f : Core → Core) : State := s.modCore s.cn f
def State.modIssue (s : State) (f : Issue → Issue) : State := { s with issue := f s.issue }

/-- An instance no table lists: never created. -/
def Inst.absent : Inst :=
  { die := 0, node := 0, graph := none, ctx := 0, wid := 0, widths := [], idx := 0, kind := 0, prio := 0, level := 0, readyAt := 0,
    waitFrom := 0, due := false, st := .ended, decks := [], args := [], exts := [], groups := [], doomed := false, trip := 0,
    iterMax := 100, stopAt := none, preemptFor := none, dispatchedAt := 0, wasDue := false, staged := [], shares := [],
    rollbacks := 0, debug := false, squareAt := none, xfer := none, contribs := [], bound := [], sentParts := [], peerParts := [],
    resv := none, spawnSet := none, queue := none, saved := [], budget := none, spills := [], spilled := [], slot := none, words := [], extWords := [], placed := false,
    copies := [], prepared := false, refs := [],
    holds := [], invalUs := 100, pool := 0, views := [] }

def State.getInst (s : State) (n : Nat) : Inst := mget Inst.absent s.insts n
def State.setInst (s : State) (n : Nat) (i : Inst) : State := { s with insts := mput s.insts n i }
def State.modInst (s : State) (n : Nat) (f : Inst → Inst) : State := s.setInst n (f (s.getInst n))

/-- The instance of the issuing deck. -/
def State.inst (s : State) : Inst := match s.dk.inst with | some n => s.getInst n | none => Inst.absent

/-! ### Guards and registers -/

/-- Guard(l) for every lane (R6, R134, R135). -/
def Deck.getP (d : Deck) (r : BitVec 5) : Pred := if r = 31 then BitVec.allOnes 128 else mget 0 d.p r.toNat
def Deck.getX (d : Deck) (r : BitVec 6) : Word := if r = 0 then 0 else mget 0 d.x r.toNat

/-- One truth table over three predicates, lane by lane (R6, R155). -/
def truth (tt : BitVec 8) (a b c : Pred) : Pred :=
  (List.range 8).foldl (fun acc i =>
    if tt.getLsbD i then
      acc ||| ((if i / 4 % 2 = 1 then a else ~~~a) &&& (if i / 2 % 2 = 1 then b else ~~~b) &&& (if i % 2 = 1 then c else ~~~c))
    else acc) 0

/-- Guard(l) of a syllable, for every lane (R134, R135). -/
def Deck.guard (d : Deck) (h : Hd) : Pred :=
  if h.tt = 0xFF then BitVec.allOnes 128 else truth h.tt (d.getP h.pa) (d.getP h.pb) (d.getP h.pc)

/-- Guard(0). -/
def State.guard0 (s : State) (h : Hd) : Bool := (s.dk.guard h).getLsbD 0

/-- A scalar register of the issuing deck, read at issue (R132). -/
def State.x (s : State) (r : BitVec 6) : Word := s.dk.getX r

/-- An `lds` into one of these registers, issued before number `seq0`, has not landed, so a reader interlocks (R187). -/
def Deck.waitsLds (d : Deck) (seq0 : Nat) (rs : List (BitVec 6)) : Bool :=
  rs.any fun r => r != 0 && d.ldsWait.any fun w => w.2 == r.toNat && decide (w.1 < seq0)

/-- A register of the bundle being issued waits for the `lds` of an earlier bundle; its own bundle's `lds` holds nothing up (R132). -/
def State.waitsLds (s : State) (rs : List (BitVec 6)) : Bool := s.dk.waitsLds s.issue.seq0 rs

/-! ### Bundle outcomes -/

/-- The bundle cannot issue in this clock. -/
def State.stalled (s : State) : State := s.modIssue fun i => { i with stall := true }

/-- The bundle stalls and only the deck's other sequencer can end that (R394). -/
def State.stalledOther (s : State) : State := s.modIssue fun i => { i with stall := true, waitOther := true }

/-- A deck in lockstep mode; in fork mode each sequencer acts for itself (R32, R33). -/
def State.lockstep (s : State) : Bool := !s.dk.fork

/-- A control instruction in slot A acts only in fork mode (R32). -/
def State.controls (s : State) (h : Hd) : Bool := s.dk.fork || h.slot != .a

/-! ### Results in flight -/

/-- Rank of a slot in the same-clock rules (R38, R217). -/
def rankOf : Slot → Nat
  | .a => 0
  | .s => 1
  | .v => 2
  | .x => 3

/-- A latch for deck n. -/
def State.addLatch (s : State) (n : Nat) (l : Latch) : State :=
  { s.modDeck n (fun d => { d with latches := d.latches ++ [{ l with seq := s.seq }] }) with seq := s.seq + 1 }

/-- A result of the syllable h, landing at issue + lat (R38). -/
def State.result (s : State) (h : Hd) (lat : Nat) (dest : Dest) (mask : Pred) (data : Image) (tag : Tag) : State :=
  s.addLatch s.dn { land := s.clock + lat, rank := rankOf h.slot, seq := 0, dest := dest, mask := mask, data := data, tag := tag,
                    flags := 0 }

/-- A scalar result (R38); x0 discards it (R45). -/
def State.writeX (s : State) (h : Hd) (lat : Nat) (r : BitVec 6) (v : Word) : State :=
  if r = 0 then s else s.result h lat (.x r.toNat) (BitVec.allOnes 128) (v.setWidth 4096) 0

/-- A predicate result (R38); p31 discards it (R47). -/
def State.writeP (s : State) (h : Hd) (lat : Nat) (r : BitVec 5) (v : Pred) : State :=
  if r = 31 then s else s.result h lat (.p r.toNat) (BitVec.allOnes 128) (v.setWidth 4096) 0

/-- Flags raised by a result, set when it lands (R88). -/
def State.raiseFlags (s : State) (h : Hd) (lat : Nat) (f : BitVec 8) : State :=
  if f = 0 then s else
    s.addLatch s.dn { land := s.clock + lat, rank := rankOf h.slot, seq := 0, dest := .flags, mask := 0, data := 0, tag := 0,
                      flags := f }

/-- The bits of an image that belong to the lanes of a mask (R215). -/
def laneBits (m : Pred) : Image :=
  if m = BitVec.allOnes 128 then BitVec.allOnes 4096 else
    BitVec.ofNat 4096 ((List.range 128).foldr (fun l acc => (if m.getLsbD l then 0xFFFFFFFF else 0) + 2 ^ 32 * acc) 0)

/-- Merge the enabled lanes of new into old. -/
def mergeLanes (m : Pred) (old new : Image) : Image := (old &&& ~~~laneBits m) ||| (new &&& laneBits m)

/-- The value of a t-register in a Trestle mode with a base, and the code of a value rounded to nearest (R264). -/
def tVal (sp : Bool) (base : Nat) (w : Lane) : Val := if sp then decSP32 base w.toNat else decIEEE fp32 w.toNat
def tCode (sp : Bool) (base : Nat) (v : Val) : Nat × BitVec 8 := if sp then rndSP32 base v else rndIEEE fp32 0 0 v

/-- A packed 6-bit image has zeros in bits 4095:4092 (R82). -/
def packRow (t : Tag) (data : Image) : Image := if t = 0x04 ∨ t = 0x06 then data &&& BitVec.ofNat 4096 (2 ^ 4092 - 1) else data

/-- Mark a reserved queue entry as arrived (R50, R216). -/
def arrive (q : List QEntry) (id : Nat) (data : Image) (tag : Tag) : List QEntry :=
  q.map fun e => if e.id = id && !e.arrived then { e with data := packRow tag data, tag := tag, arrived := true } else e

/-- The format tag 0x1F, which no format has, stands in a latch for "the register keeps its tag" (R228, `vins`). -/
def keepTag : Tag := 0x1F

/-- A result lands (R38, R217): the register or queue entry takes it. -/
def Deck.land (d : Deck) (l : Latch) : Deck :=
  match l.dest with
  | .x r => { d with x := if r = 0 then d.x else mset 0 d.x r (l.data.setWidth 64), ldsWait := d.ldsWait.filter (·.1 != l.seq) }
  | .v r =>
    let o := mget VReg.zero d.v r
    let t := if l.tag = keepTag then o.tag else l.tag
    { d with fflags := d.fflags ||| l.flags, v := mset VReg.zero d.v r ⟨mergeLanes l.mask o.data (packRow t l.data), t⟩ }
  | .p r => if r = 31 then d else
    { d with p := mset 0 d.p r ((mget 0 d.p r &&& ~~~l.mask) ||| (l.data.setWidth 128 &&& l.mask)) }
  | .t r =>
    { d with fflags := d.fflags ||| l.flags,
             t := (List.range 128).foldl (fun t i => if l.mask.getLsbD i then mset 0 t (r + i) (l.data.extractLsb' (32 * i) 32) else t) d.t }
  | .tAdj r sp c =>
    let z := (tVal sp 0 (mget 0 d.t r)).add false c
    let o := tCode sp 0 z.1
    { d with t := mset 0 d.t r (BitVec.ofNat 32 o.1), fflags := d.fflags ||| l.flags ||| z.2 ||| o.2 }
  | .oq q id => { d with oq := mset [] d.oq q (arrive (mget [] d.oq q) id l.data l.tag) }
  | .rq q id => { d with rq := mset [] d.rq q (arrive (mget [] d.rq q) id l.data l.tag) }
  | .flags => { d with fflags := d.fflags ||| l.flags }
  | .spr n => d.writeSpr n (l.data.setWidth 64)

/-- Insert a latch in the order in which same-clock writes apply: by slot, then by issue (R38). -/
def insertLatch (l : Latch) : List Latch → List Latch
  | [] => [l]
  | m :: ms => if l.rank < m.rank ∨ (l.rank = m.rank ∧ l.seq < m.seq) then l :: m :: ms else m :: insertLatch l ms

/-- Every result of deck n due by clock c lands, unless a trap or a save has captured it (R313, R383). -/
def State.landDeck (s : State) (n c : Nat) : State :=
  let d := s.getDeck n
  if d.trapWait.isSome then s else
    let c := match d.frozen with | some t => min t c | none => c
    let due := d.latches.filter (fun l => l.land ≤ c)
    if due.isEmpty then s else
      let order := due.foldl (fun acc l => insertLatch l acc) []
      let d' := order.foldl (fun d l => d.land l) { d with latches := d.latches.filter (fun l => !(l.land ≤ c)) }
      let s' := s.setDeck n d'
      order.foldl (fun s l => match l.dest with
        | .spr 0x030 => s.modCore (n / 4) fun k => { k with sdcfg := l.data.setWidth 64 &&& 0x3F1FFFFF }
        | _ => s) s'

/-! ### The agenda and timed accesses -/

/-- Insert an event behind those of the same clock. -/
def insertEvent (t : Nat) (i : Instr) : List (Nat × Instr) → List (Nat × Instr)
  | [] => [(t, i)]
  | e :: es => if t < e.1 then (t, i) :: e :: es else e :: insertEvent t i es

/-- An event that falls in clock t. -/
def State.post (s : State) (t : Nat) (i : Instr) : State := { s with agenda := insertEvent t i s.agenda }

/-- An access whose point is clock t, with the bank priority of R346. -/
def State.access (s : State) (t core deck : Nat) (ex : Bool) (prio : Nat) (act : Act) : State :=
  { s with micro := s.micro ++ [⟨t, core, deck, ex, prio, s.seq, act⟩], seq := s.seq + 1 }

/-- Priority of a deck's accesses to a bank: decks 0-3, access sequencer first (R346). -/
def deckPrio (deck : Nat) (ex : Bool) : Nat := 2 * (deck % 4) + (if ex then 1 else 0)
/-- Priorities of Tram 0, Tram 1, the Culvert, the Causeway, remote accesses and the Roundabout's copies (R346). -/
def engPrio (e : Nat) : Nat := 8 + e
def causewayPrio : Nat := 11
def remotePrio : Nat := 12
def copyPrio : Nat := 13

/-- A syllable of slot A belongs to the access sequencer (R129). -/
def isEx (h : Hd) : Bool := h.slot != .a

/-- A write that has not performed: its issue order, deck and sequencer. -/
def Micro.isStore (m : Micro) : Bool :=
  match m.act with
  | .write .. => true
  | .mrdRow m => !m.toReg
  | .mrdWrite .. => true
  | _ => false

/-- The stores that the sequencer issued before this bundle and that have not performed (R114, R116, R118). -/
def State.earlierStores (s : State) (ex : Bool) : List Nat :=
  (s.micro.filter fun m => m.isStore && m.deck == s.dn && decide (m.seq < s.issue.seq0) && (!s.dk.fork || m.ex == ex)).map (·.seq)

/-- Some of these stores have not performed. -/
def State.storesPending (s : State) (ids : List Nat) : Bool := s.micro.any fun m => m.isStore && ids.contains m.seq

/-- A fresh length for an event with no documented offset (NOTES.md, Assumption 7). -/
def State.delay (s : State) : Nat × State := (Config.freeDelay s.free, { s with free := s.free + 1 })

/-- The cores of an instance. -/
def Inst.coresOf (x : Inst) : List Nat := (x.decks.map (· / 4)).eraseDups

/-- The entry of the gang's cores in force at an output in cycle t (R209): the latest cycle, of one cycle the lowest deck, of one deck the
last one written. The entries of gangs that share a quadrant's memory and edge routers stand apart, each for its own gang (NOTES.md, Assumption 118). -/
def State.entryAt (s : State) (x : Inst) (g out : Nat) (t : Nat) : Option Nat :=
  let es := (x.coresOf.flatMap fun c => (s.getCore c).sched).filter fun e => e.router == g && e.outp == out && decide (e.cycle ≤ t)
  (es.foldl (fun (best : Option Sched) e =>
    match best with
    | none => some e
    | some b => if b.cycle < e.cycle ∨ (b.cycle = e.cycle ∧ e.deck ≤ b.deck) then some e else best) none).map (·.inp)

/-! ### Arbitrated traffic (R321-R324) -/

/-- An output carries scheduled flits only: an entry of an open phase is in force there (R324). -/
def State.outputHeld (s : State) (g out : Nat) : Bool :=
  s.insts.any fun (p : Nat × Inst) => match p.2.xfer with
    | some x => decide (x.q + 1 ≤ s.clock) && (s.entryAt p.2 g out (s.clock - (x.q + 1))).isSome
    | none => false

/-- A route from router g to router g': the minimal one, or, where the credits of its span call for it, one by way of another quadrant; which, is a free
choice (R321; NOTES.md, Assumption 119). -/
def State.path (s : State) (g g' : Nat) : List (Nat × Nat × Nat) × State :=
  let ms := detours (g / 4 % 4) (crossTo g g')
  if ms.isEmpty then (route g g' none, s)
  else
    let w := Config.freeChoice s.free
    (route g g' (if w.getLsbD 0 then ms[if w.getLsbD 1 then 1 else 0]? else none), { s with free := s.free + 1 })

/-- Packets set out along these routes; ev comes about when all of them have arrived, at clock `floor` or later, a free length `late` after, at clock
`stop` at the latest (R322; NOTES.md, Assumption 7). -/
def State.carry (s : State) (routes : List (List (Nat × Nat × Nat))) (floor stop : Nat) (ev : Instr) : State :=
  let (late, s) := s.delay
  let rs := routes.filter fun r => !r.isEmpty
  if rs.isEmpty then s.post (min stop (max s.clock floor + late)) ev
  else { s with packets := s.packets ++ rs.map (fun r => (⟨s.seq, r, s.clock + 6, floor, late, stop, ev, false⟩ : Packet)), seq := s.seq + 1 }

/-- A clock without a bound. -/
def farOff : Nat := 2 ^ 64

/-- The event is a remote load's request or response, whose unloaded time R323 fixes. -/
def isRemoteLoad : Instr → Bool
  | .remoteReadArrival _ | .remoteReadResponse _ _ => true
  | _ => false

/-- A packet that has still to pass an output that another one has too does not go unloaded (R323). -/
def State.load (s : State) (p : Packet) : Packet :=
  { p with loaded := p.loaded || s.packets.any fun q => q.id != p.id && q.left.any fun a => p.left.any fun b => a.1 == b.1 && a.2.1 == b.2.1 }

/-- A packet moves on past an output that carries no schedule and whose die has its clocks; one that has passed its last output has arrived (R322, R324,
R343). -/
def State.movePacket (s : State) (p : Packet) : Option Packet :=
  match p.left with
  | [] => none
  | (g, out, link) :: rest =>
    if p.stop ≤ s.clock then none
    else if s.clock < p.at_ ∨ s.outputHeld g out ∨ (s.getDie (g / 16)).power.cur = 2 then some p
    else if rest.isEmpty then none else some { p with left := rest, at_ := s.clock + link + 6 }

/-- The packets in a new clock. A remote load that no other traffic has met takes exactly its unloaded time (R323). -/
def State.movePackets (s : State) : State :=
  let ps := s.packets.map s.load
  let next := ps.filterMap s.movePacket
  let here := ps.filter fun p => (s.movePacket p).isNone
  let done := here.foldl (fun (acc : List Packet) p => if acc.any fun q => q.id == p.id then acc else acc ++ [p]) []
  (done.filter fun p => !next.any fun q => q.id == p.id).foldl
    (fun (s : State) p =>
      s.post (min (max s.clock p.stop) (max s.clock p.floor + (if p.loaded || !isRemoteLoad p.ev then p.late else 0))) p.ev) { s with packets := next }

/-- Events of this kind are called off, those on their way with a packet and those that wait at a memory router too. -/
def State.callOff (s : State) (off : Instr → Bool) : State :=
  { s with agenda := s.agenda.filter (fun e => !off e.2), packets := s.packets.filter (fun p => !off p.ev),
           hbm := { s.hbm with queue := s.hbm.queue.filter fun q => !off q.2 } }

/-- An event is under way already. -/
def State.awaits (s : State) (ev : Instr) : Bool :=
  s.agenda.any (fun e => e.2 == ev) || s.packets.any (fun p => p.ev == ev) || s.hbm.queue.any fun q => q.2 == ev

/-! ### The store -/

def RowMeta.reset : RowMeta := ⟨.released, 0, false⟩
def Tile.reset : Tile :=
  { tag := 0, seqTag := 0, cfg := 0x60, lost := false, owner := none, locks := [], published := false, receivable := false }
def Sem.reset : Sem := ⟨0, 0, 0, 0, 0, []⟩

def Core.row (c : Core) (n : Nat) : RowMeta := mget RowMeta.reset c.rows n
def Core.setRow (c : Core) (n : Nat) (r : RowMeta) : Core := { c with rows := mset RowMeta.reset c.rows n r }
def Core.tile (c : Core) (t : Nat) : Tile := mget Tile.reset c.tiles t
def Core.setTile (c : Core) (t : Nat) (x : Tile) : Core := { c with tiles := mset Tile.reset c.tiles t x }
def Core.modTile (c : Core) (t : Nat) (f : Tile → Tile) : Core := c.setTile t (f (c.tile t))
def Core.sem (c : Core) (n : Nat) : Sem := mget Sem.reset c.sems n
def Core.setSem (c : Core) (n : Nat) (x : Sem) : Core := { c with sems := mset Sem.reset c.sems n x }

/-- The bank of row n (R54). -/
def bankOf (n : Nat) : Nat := 4 * (n / 32 % 16) + n % 4

/-- The four banks of tile t hold no lock of an engine (R56, R69). -/
def Core.bankLocked (c : Core) (b : Nat) : Bool := c.tiles.any fun p => !p.2.locks.isEmpty && 4 * (p.1 % 16) ≤ b && b < 4 * (p.1 % 16) + 4
def Core.tileBanksLocked (c : Core) (t : Nat) : Bool := c.tiles.any fun p => !p.2.locks.isEmpty && p.1 % 16 == t % 16

/-- Age(n) (R59). -/
def Core.age (c : Core) (n : Nat) : Nat := min 0xFFFF (c.ticks - (c.row n).base)

/-- Row n of core c's store. -/
def State.rowImage (s : State) (c n : Nat) : Image := BitVec.ofNat 4096 (Memory.read s.mem (storeBase c + 512 * n) 512)

/-- Tile t lies in the slot directory's region (R75, R76). -/
def Core.inDirectory (c : Core) (t : Nat) : Bool :=
  let base := bits c.sdcfg.toNat 0 12
  let sets := bits c.sdcfg.toNat 12 9
  decide (base ≤ t ∧ t < base + 8 * sets)

/-- What a reader meets in row n (R419): data, released, invalid under the trap policy, invalid under the silent policy. -/
inductive Meet where
  | data | released | trap | silent
deriving DecidableEq, Repr

/-- The row's state and its tile's policy decide (R61, R78, R419). -/
def Core.meet (c : Core) (n : Nat) : Meet :=
  match (c.row n).st with
  | .released => .released
  | .invalid => if (c.tile (n / 32)).cfg.getLsbD 1 || c.inDirectory (n / 32) then .silent else .trap
  | _ => .data

/-- Some granule of row n read here is uncorrectable (R435): the granules lo to hi. -/
def Core.badIn (c : Core) (n lo hi : Nat) : Bool := c.badGran.any fun g => decide (8 * n + lo ≤ g ∧ g ≤ 8 * n + hi)

/-- Corrected errors are counted for a die; the count saturates (R434). -/
def State.countErrors (s : State) (die n : Nat) : State :=
  if n = 0 then s else { s with corrected := mset 0 s.corrected die (BitVec.ofNat 32 (min (2 ^ 32 - 1) ((mget 0 s.corrected die).toNat + n))) }

/-- A read of granules lo to hi of row n of core c: an error that the check corrects is counted and stays where it is (R434, R435). -/
def State.correct (s : State) (c n lo hi : Nat) : State :=
  s.countErrors (c / 8) ((s.getCore c).weak.countP fun g => decide (8 * n + lo ≤ g ∧ g ≤ 8 * n + hi))

/-- A mask of bytes covers the whole row. -/
def wholeMask : BitVec 512 := BitVec.allOnes 512

/-- The bits of an image under a byte mask. -/
def byteBits (m : BitVec 512) : Image :=
  if m = wholeMask then BitVec.allOnes 4096 else
    BitVec.ofNat 4096 ((List.range 512).foldr (fun l acc => (if m.getLsbD l then 0xFF else 0) + 256 * acc) 0)

/-- n bytes from offset o. -/
def byteRange (o n : Nat) : BitVec 512 := BitVec.ofNat 512 ((2 ^ n - 1) * 2 ^ o)

/-- The whole-row part of a write: the row becomes valid with Age 0 and loses its refresh request (R59, R61, R416). Pending bits are those of
engine writes and stay (R421). -/
def Core.wholeWrite (c : Core) (n : Nat) : Core :=
  { (c.setRow n ⟨.valid, c.ticks, false⟩) with
    refreshQ := c.refreshQ.filter (· != n), offered := c.offered.filter (· != n),
    badGran := c.badGran.filter (fun g => !(8 * n ≤ g && g < 8 * n + 8)), weak := c.weak.filter fun g => !(8 * n ≤ g && g < 8 * n + 8) }

/-- A deck of another core than c runs an instance, which may read c's store. -/
def State.readElsewhere (s : State) (c : Nat) : Bool :=
  s.insts.any fun p => (p.2.st == .running || p.2.st == .preparing || p.2.st == .saving) && p.2.decks.any fun n => n / 4 != c

/-- The bytes of a granule of row n under a mask. -/
def granMask (mask : BitVec 512) (n g : Nat) : BitVec 64 := mask.extractLsb' (64 * (g - 8 * n)) 64

/-- The granules of a row that a mask of bytes touches. -/
def granules (mask : BitVec 512) : BitVec 8 :=
  BitVec.ofNat 8 ((List.range 8).foldr (fun g acc => (if granMask mask 0 g = 0 then 0 else 1) + 2 * acc) 0)

/-- A write by core `src` to row n of core c performs (R59, R61): the bytes of the mask, and the tile's tag if the write carries one (R84). A granule written
whole is correct again; one written in part is merged, which corrects what can be corrected (R436) and counts it (R434).
What the row held before is kept for readers that may race with the write (R122). -/
def State.performFrom (s : State) (src c n : Nat) (mask : BitVec 512) (data : Image) (tag : Option Tag) : State :=
  let old := s.rowImage c n
  let s := s.countErrors (c / 8) ((s.getCore c).weak.countP fun g => decide (8 * n ≤ g ∧ g < 8 * n + 8) && granMask mask n g != 0 && granMask mask n g != BitVec.allOnes 64)
  let races := src != c || s.readElsewhere c
  let new := (old &&& ~~~byteBits mask) ||| (data &&& byteBits mask)
  let s := { s with mem := Memory.write s.mem (storeBase c + 512 * n) 512 new.toNat }
  s.modCore c fun k =>
    let k := if races then { k with hist := (⟨n, s.clock, src, granules mask, old⟩ : Version) :: k.hist } else k
    let k := if mask = wholeMask then k.wholeWrite n else
      { k with badGran := k.badGran.filter (fun g => !(8 * n ≤ g && g < 8 * n + 8 && granMask mask n g == BitVec.allOnes 64)),
               weak := k.weak.filter fun g => !(8 * n ≤ g && g < 8 * n + 8 && granMask mask n g != 0) }
    match tag with
    | some t => k.modTile (n / 32) fun x => { x with tag := t }
    | none => k

/-- A write by core c's own agents (R82). -/
def State.performWrite (s : State) (c n : Nat) (mask : BitVec 512) (data : Image) (tag : Option Tag) : State :=
  s.performFrom c c n mask (match tag with | some t => packRow t data | none => data) tag

/-- Bytes of a row are stored, with a tag of their own or under the tile's: a row of a packed 6-bit image keeps its zeros (R82). -/
def State.storeBytes (s : State) (c n : Nat) (mask : BitVec 512) (data : Image) (tag : Option Tag) : State :=
  s.performWrite c n mask (packRow (tag.getD ((s.getCore c).tile (n / 32)).tag) data) tag

/-! ### What a reader may see (R121, R122) -/

/-- The last phase boundary of an instance: its dispatch or its last Square (R119). -/
def Inst.phaseAt (x : Inst) : Nat := max x.dispatchedAt (x.squareAt.getD 0)

/-- Per granule the first or the second contents, as the bit of the choice says. -/
def mixGranules (choice : BitVec 8) (old new : Image) : Image :=
  BitVec.ofNat 4096 ((List.range 8).foldr (fun g acc => (if choice.getLsbD g then bits new.toNat (512 * g) 512 else bits old.toNat (512 * g) 512) +
    2 ^ 512 * acc) 0)

/-- The versions of a row that race with a read by core rc whose last phase boundary is clock b, newest first, each with the granules in which it may
be returned: those of other cores' writes after b that nothing orders before the read. In a granule that a write of its own or an ordered one has
touched nothing older may be returned; `open_` are the granules without one. -/
def racing (rc b : Nat) (seen : Map Nat) : BitVec 8 → List Version → List (BitVec 8 × Version)
  | _, [] => []
  | open_, v :: vs =>
    if v.at_ ≤ b ∨ v.core = rc ∨ v.at_ ≤ mget 0 seen v.core then racing rc b seen (open_ &&& ~~~v.grans) vs
    else if open_ &&& v.grans = 0 then racing rc b seen open_ vs
    else (open_ &&& v.grans, v) :: racing rc b seen open_ vs

/-- Row `row` of core c as core rc reads it in a phase that began at clock b (R121-R125): the current contents where no write races with the read or the
tile is published; else, granule by granule, the contents at the boundary or after one of the racing
writes, at a free choice (NOTES.md, Assumption 8). Ordering by a semaphore is kept core by core (Assumption 114). -/
def State.seenRow (s : State) (rc b c row : Nat) : Image × State :=
  let k := s.getCore c
  if k.hist.isEmpty then (s.rowImage c row, s) else
    let vs := racing rc b (s.getCore rc).seen 0xFF (k.hist.filter fun v => v.row == row)
    if c ≠ rc ∧ (k.tile (row / 32)).published then (s.rowImage c row, s)
    else vs.foldl (fun (q : Image × State) v =>
      (mixGranules (Config.freeChoice q.2.free ||| ~~~v.1) v.2.old q.1, { q.2 with free := q.2.free + 1 })) (s.rowImage c row, s)

/-- The same for a read by core rc on behalf of an instance. -/
def State.rowFor (s : State) (inst : Option Nat) (rc c row : Nat) : Image × State :=
  s.seenRow rc (match inst with | some i => (s.getInst i).phaseAt | none => s.clock) c row

/-- The same for a read by a deck of core c of its own store. -/
def State.ownRow (s : State) (n c row : Nat) : Image × State := s.rowFor (s.getDeck n).inst c c row

/-- Core c joins what a signal releases to what is ordered before its reads (R118). -/
def Core.acquire (k : Core) (rel : Map Nat) : Core :=
  if rel.isEmpty then k else { k with seen := rel.foldl (fun m p => mput m p.1 (max p.2 (mget 0 m p.1))) k.seen }

/-! ### Messages, log, machine checks -/

/-- The number of entries of the error log and the entry itself (R434). -/
def State.logError (s : State) (kind core deck node : Nat) (detail : Word) : State :=
  { s with log := (s.log ++ [⟨kind, core / 8, core, deck % 4, node, (s.clock - s.readyClock) / Config.tickClocks, detail⟩]),
           logCount := s.logCount + 1 }

/-- A message to the host or a peer. -/
def State.send (s : State) (kind a b c : Nat) : State := { s with msgs := s.msgs ++ [⟨kind, a, b, c⟩] }

/-- The lease and request of deck n are given up; its open chain closes (R43). -/
def State.dropLease (s : State) (n : Nat) : State :=
  (s.modCore (n / 4) fun k =>
    { k with leaseReq := k.leaseReq.filter (· != n % 4),
             leaseHolder := if k.leaseHolder = some (n % 4) then none else k.leaseHolder,
             arrayUsed := if k.leaseHolder = some (n % 4) then max k.arrayUsed s.clock else k.arrayUsed }).modDeck n
    fun d => { d with chain := none }

/-- A deck stops where it stands, without a context (R312, R430, R432). -/
def State.stopDeck (s : State) (n : Nat) : State :=
  (s.dropLease n).modDeck n fun d =>
    { d with halted := true, latches := [], revoc := [], ldsWait := [], trapWait := none, hold := false, wire := none, again := [],
             sup := false, pend20 := false, pend21 := 0, pend23 := false, atSq := none, frozen := none, checkedAt := none, pendTrap := none }

/-- A machine check reaches instance i: it is doomed, 0x23 becomes pending on its running decks, and a deck in supervisor mode
ends at once (R432). -/
def State.checkInst (s : State) (i : Nat) : State :=
  let x := s.getInst i
  if x.st = .running ∨ x.st = .preparing ∨ x.st = .saving ∨ x.st = .preempted ∨ x.st = .retired then
    x.decks.foldl (fun s n =>
      let d := s.getDeck n
      if d.halted || d.inst != some i then s else if d.sup || d.trapWait.isSome && d.sup then s.stopDeck n
      else s.modDeck n fun d => { d with pend23 := true }) (s.modInst i fun x => { x with doomed := true })
  else s

/-- A machine check of the instance on deck n, with its log entry (R432, R434). -/
def State.checkDeck (s : State) (kind n : Nat) (detail : Word) : State :=
  let i := (s.getDeck n).inst
  let node := match i with | some i => (s.getInst i).node | none => 0
  let s := s.logError kind (n / 4) n node detail
  match i with
  | some i => s.checkInst i
  | none => s

/-! ### Engines, waits and quiescent points -/

/-- An engine nothing has entered. -/
def Engine.reset : Engine := ⟨[], 0, none, 0, [], [], 0, [], [], []⟩
def Core.engine (c : Core) (e : Nat) : Engine := mget Engine.reset c.engines e
def Core.setEngine (c : Core) (e : Nat) (x : Engine) : Core := { c with engines := mset Engine.reset c.engines e x }

/-- The command has a signal to fire: its own, or that of a directory fill (R118, R193). -/
def Cmd.signals (c : Cmd) : Bool := c.way.isSome || c.word.getLsbD 55

/-- The commands an engine has not finished: those queued, that under way, those whose writes have performed and whose signal is still to
fire. -/
def Engine.cmds (e : Engine) : List Cmd :=
  (match e.cur with | some r => [r.cmd] | none => []) ++ (e.ending.map (·.cmd)).filter Cmd.signals ++ e.queue

/-- The commands of core c that have not drained (R31). -/
def Core.cmds (c : Core) : List Cmd := (List.range 3).flatMap fun e => (c.engine e).cmds

/-- An engine releases the locks of the tiles it holds; the sequence tag rises of a tile whose last row has performed in this very clock (R422). Such a tile's
lock is that of no engine any more, which the number 9 says. -/
def Core.dropLocks (c : Core) (e : Nat) : Core :=
  { c with tiles := (c.tiles.map fun p => (p.1, { p.2 with locks := p.2.locks.filter (· != e) })).filter fun p => p.2 != Tile.reset,
           unlocks := c.unlocks.map fun u => if u.2.1 = e then (u.1, 9, u.2.2) else u }

/-- The mark of an engine's write in the pending bits of a core: its own engines 0-2, those of other cores above (R421). -/
def pendMark (src eng c : Nat) : Nat := if src = c then eng else 16 + 4 * src + eng

/-- The command an engine is performing ends here (R312, R458): rows performed stay, nothing else is performed, no signal and no
completion word, its locks and pending bits go. -/
def State.endCommand (s : State) (c e : Nat) : State :=
  let k := s.getCore c
  match (k.engine e).cur with
  | none => s
  | some r =>
    let s := s.modCore c fun k =>
      let k := (k.dropLocks e).setEngine e { k.engine e with cur := none, freeAt := s.clock }
      match r.cmd.way with
      | some (w, _, _) => { k with ways := k.ways.filter fun p => p.1 != w }
      | none => k
    { s.callOff (fun ev => match ev with | .engineRowPerform c' e' _ => c' == c && e' == e | _ => false) with
      cores := s.cores.map fun (p : Nat × Core) => (p.1, { p.2 with pendBits := p.2.pendBits.filter fun g => g.2 != pendMark c e p.1 }),
      micro := s.micro.filter fun m => !(m.core == c && (match m.act with
        | .engRead g .. => g == e
        | .updates .. => e == 2
        | _ => false)) && (match m.act with
        | .engWrite c' g .. => !(c' == c && g == e)
        | _ => true) }

/-- The deck takes the fault of an engine (R426, R458): a page fault is marked taken, any other ends its command. -/
def State.engineFaultTaken (s : State) (n : Nat) (p : Pending) : State :=
  let s := s.modDeck n fun d => { d with engFaults := d.engFaults.filter (· != p) }
  if p.cause = 0x0C then
    s.modCore (n / 4) fun k => k.setEngine p.eng { k.engine p.eng with cur := (k.engine p.eng).cur.map fun r => { r with taken := true } }
  else s.endCommand (n / 4) p.eng

/-- A command word's operation reaches an extent (R203): loads, store-backs, gathers through an extent record, probe fills. -/
def Cmd.touchesExtent (c : Cmd) : Bool :=
  c.way.isSome || bits c.word.toNat 44 4 == 1 || bits c.word.toNat 44 4 == 2 ||
    (bits c.word.toNat 44 4 == 4 && (match c.layout with | some r => bits r.toNat 126 2 == 1 | none => false))

/-- Commands of a sequencer of deck n, issued before clock t: of both, unless the deck is in fork mode (R114). -/
def State.ownCmds (s : State) (n : Nat) (ex : Bool) (t : Nat) : List Cmd :=
  (s.getCore (n / 4)).cmds.filter fun c => c.deck == n && (!(s.getDeck n).fork || c.ex == ex) && decide (c.at_ < t)

/-- A write of such a command to the host or a remote device is still to be acknowledged at its port (R117, R201). -/
def State.ackPending (s : State) (n : Nat) (ex : Bool) : Bool :=
  (List.range 3).any fun e =>
    let q := (s.getCore (n / 4)).engine e
    decide (s.clock < q.freeAt) && q.acking.any fun c => c.deck == n && (!(s.getDeck n).fork || c.ex == ex)

/-- Every load of the sequencer in an earlier bundle has sampled, a remote one at the owning core; with `remote`, remote loads have returned their
data (R117). -/
def State.loadsDone (s : State) (n : Nat) (ex remote : Bool) : Bool :=
  let d := s.getDeck n
  (d.fork && ex) ||
    (d.revoc.all (fun r => r.left == 0 || r.failed.isSome || decide (s.issue.seq0 ≤ r.seq) ||
        (!remote && s.remotes.any fun q => q.deck == n && q.seq == r.seq && q.sampled == q.rows)) &&
      (!remote || s.remotes.all fun q => q.deck != n || decide (s.issue.seq0 ≤ q.seq)))

/-- The extent accesses that the sequencer issued with numbers below `seq0` have completed, and its commands from before clock t that touch an extent
have drained (R127). -/
def State.extentsDone (s : State) (n : Nat) (ex : Bool) (seq0 t : Nat) : Bool :=
  let d := s.getDeck n
  ((d.fork && ex) || d.revoc.all fun r => !(bits r.syl 33 8 == 0x8A) || r.left == 0 || decide (seq0 ≤ r.seq)) &&
    (s.ownCmds n ex t).all fun c => !c.touchesExtent

/-- The sequencers of deck n that pass a quiescent point together: both in lockstep mode. -/
def Deck.sequencers (d : Deck) (n : Nat) (ex : Bool) : List Nat :=
  if d.fork then [2 * n + (if ex then 1 else 0)] else [2 * n, 2 * n + 1]

/-- Deck n's sequencers have passed a quiescent point (R127, R428). -/
def State.passQuiescent (s : State) (n : Nat) (ex : Bool) : State :=
  let gone := (s.getDeck n).sequencers n ex
  let s := match (s.getDeck n).inst with
    | some i => s.modInst i fun x => { x with views := gone.foldl (fun m q => mput m q s.clock) x.views }
    | none => s
  { s with invals := s.invals.map fun v => { v with waiting := v.waiting.filter fun w => !gone.contains w.2 } }

/-- A quiescent point of both sequencers of deck n (R127), which at a kernel-iteration boundary they pass as the next bundle is tried: accesses after it
use the new translations, what is still under way the old ones. While an invalidation waits for them, the deck does not come to it before they have drained
(`State.mayIssue`, `State.haltWaits`; NOTES.md, Assumption 20). -/
def State.quiesce (s : State) (n : Nat) : State :=
  (s.passQuiescent n false).passQuiescent n true

/-- The stall wire of instance i (R427): a deck lies between its trap point and its return, or a page one of its decks or engines
has faulted on is still requested, the clock of the host's answer included. -/
def State.wireRaised (s : State) (i : Nat) : Bool :=
  let x := s.getInst i
  x.kind == 2 && (x.decks.any (fun n => match (s.getDeck n).wire with | some 0 => true | some r => decide (s.clock < r) | none => false) ||
    s.answered.contains i || s.pageReq.any fun p => p.2.2 == some i)

/-- The cycle of a gang's transfer phase that this clock is, when one is open (R324): cycle 0 is the clock after the Square. -/
def State.cycle (s : State) (i : Nat) : Option Int :=
  match (s.getInst i).xfer with
  | some x => some ((s.clock : Int) - (x.q + 1))
  | none => none

/-! ### Taking a trap (R376-R386) -/

/-- `tinfo` of a synchronous or late cause (R384). DESIGN CHOICE: a detail of cause 0x12 that names register 512 sets detail bit 9 (NOTES.md, Assumption
125). -/
def tinfoOf (late : Bool) (slot : Nat) (pc : CodeAddr) (detail : Nat) : Word :=
  BitVec.ofNat 64 (detail * 2 ^ 40 + (if late then 2 ^ 18 else 0) + slot * 2 ^ 16 + pc.toNat)

/-- The first row of deck n's frame area in its core's store (R381). -/
def frameRow (n : Nat) : Nat := 32 * (4032 + 16 * (n % 4))
/-- A tile slot that belongs to some deck's frame area (R381). -/
def isFrameTile (t : Nat) : Bool := decide (4032 ≤ t)

/-- A revocable syllable that is still to pass or fail. -/
def Revoc.open (r : Revoc) : Bool := r.left != 0 && r.failed.isNone

/-- The oldest failed revocable syllable. -/
def Deck.oldestFailure (d : Deck) : Option Revoc := d.revoc.find? fun r => r.failed.isSome

/-- Poppable rows of a queue reservation list: those of ids no longer waiting. -/
def Deck.entriesOf (d : Deck) : List QEntry := (List.range 8).flatMap fun q => mget [] d.oq q

/-- Remove the reservations in ids that are not yet poppable (R386). -/
def dropUnpoppable (ids : List Nat) : Bool → List QEntry → List QEntry
  | _, [] => []
  | run, e :: es =>
    let run' := run && e.arrived
    if ids.contains e.id && !run' then dropUnpoppable ids run' es else e :: dropUnpoppable ids run' es

/-- Squash the faulting syllable and every revocable syllable issued after it: reservations, accesses and results go, and each
becomes a replay entry (R386), but for a load whose eight rows are all poppable, which the entry's `done` cannot say (NOTES.md, Assumption 31). -/
def State.squash (s : State) (n : Nat) (from_ : Nat) : State × List Again :=
  let d := s.getDeck n
  let gone := d.revoc.filter fun r => decide (from_ ≤ r.seq)
  let seqs := gone.map (·.seq)
  let ids := gone.flatMap (·.ids)
  let oq := d.oq.map fun p => (p.1, dropUnpoppable ids true p.2)
  let left := (oq.flatMap (·.2)).map (·.id)
  let mine := fun (a : Act) => match a with
    | .ldsRead q .. => seqs.contains q
    | .ldqRead q .. => seqs.contains q
    | .ldqtRead q .. => seqs.contains q
    | .hldRead q .. => seqs.contains q
    | _ => false
  let s := { s with micro := s.micro.filter (fun m => !mine m.act), remotes := s.remotes.filter fun r => !(r.deck = n && seqs.contains r.seq) }
  let s := s.setDeck n { d with
    oq := oq.filter (fun p => !p.2.isEmpty), revoc := d.revoc.filter fun r => !(decide (from_ ≤ r.seq)),
    latches := d.latches.filter fun l => !seqs.contains l.seq, ldsWait := d.ldsWait.filter fun w => !seqs.contains w.1 }
  let again := gone.filterMap fun r =>
    let kept := (r.ids.filter left.contains).length
    -- rows already popped count as poppable
    let popped := r.ids.filter fun i => !(d.entriesOf.any fun e => e.id = i)
    let done := kept + popped.length
    if !r.ids.isEmpty && done = r.ids.length && r.done + done = 8 && r.failed.isNone then none
    else some { at_ := 0, syl := r.syl, pc := r.pc, done := r.done + done, xa := r.xa, xb := r.xb }
  (s, again)

/-- A fault of an engine or of the array is pending (R377, R400). -/
def Deck.faultPending (d : Deck) : Bool := !d.engFaults.isEmpty || !d.arrFaults.isEmpty

/-- Insert a latch by landing clock, then in the order in which same-clock writes apply. -/
def insertLanding (l : Latch) : List Latch → List Latch
  | [] => [l]
  | m :: ms =>
    if l.land < m.land ∨ (l.land = m.land ∧ (l.rank < m.rank ∨ (l.rank = m.rank ∧ l.seq < m.seq))) then l :: m :: ms
    else m :: insertLanding l ms

/-- The latches of a trap: results landing after c_t, in landing order, a Trestle adjoint update as the value it writes (R383). -/
def Deck.capture (d : Deck) : List Latch :=
  let ord := d.latches.foldl (fun acc l => insertLanding l acc) []
  (ord.foldl (fun (acc : List Latch × Deck) l =>
    let d' := acc.2.land l
    match l.dest with
    | .tAdj r _ _ =>
      let f := ({ acc.2 with fflags := 0 }.land l).fflags
      (acc.1 ++ [{ l with dest := .t r, mask := 1, data := (mget 0 d'.t r).setWidth 4096, flags := f }], d')
    | .v r => let t := (mget VReg.zero d'.v r).tag; (acc.1 ++ [{ l with tag := t, data := packRow t l.data }], d')
    | .rq .. => (acc.1 ++ [{ l with data := packRow l.tag l.data }], d')
    | _ => (acc.1 ++ [l], d')) ([], d)).1

/-- The rows of an image of `len` bytes. -/
def imageRowList (w len : Nat) : List Image := (List.range (imageRows len)).map fun k => BitVec.ofNat 4096 (getAt w (512 * k) 512)

/-- The handler of deck n starts in the next clock (R380); for a machine check its 2,048 clocks begin (R432). -/
def State.startHandler (s : State) (n : Nat) : State :=
  s.modDeck n fun d =>
    { d with hold := false, nextA := s.clock + 1, nextE := s.clock + 1, checkedAt := if d.tcause = 0x23 then some (s.clock + 1) else none }

/-- Row k of deck n's frame is written (R380, R381). -/
def State.writeFrameRow (s : State) (n k : Nat) (img : Image) : State := s.performWrite (n / 4) (frameRow n + k) wholeMask img none

/-- The rows of the frame from row k on, of which the first is due: it is written; the next follows in the next clock, and after the last
the handler starts. `open_` are its latches whose rows of an `mrd` are still to be sampled. -/
def State.frameStep (s : State) (n k : Nat) (open_ : List OpenRow) : List Image → State
  | [] => s.startHandler n
  | img :: rest =>
    let s := s.writeFrameRow n k img
    if rest.isEmpty then s.startHandler n else s.access (s.clock + 1) (n / 4) n true (deckPrio n true) (.frame n (k + 1) rest open_)

/-- The image is written from clock b on (R380). -/
def State.startFrame (s : State) (n b : Nat) (rows : List Image) (open_ : List OpenRow) : State :=
  s.access b (n / 4) n true (deckPrio n true) (.frame n 0 rows open_)

/-- A latch takes its place in the rows of an image that are still to be written, the first of which is row k. -/
def putLatch (rows : List Image) (k i : Nat) (bytes : Nat) : List Image :=
  let o := 8 * (fixedBytes + 544 * i - 512 * k)
  let old := rows.foldr (fun r acc => r.toNat + 2 ^ 4096 * acc) 0
  let new := old % 2 ^ o + 2 ^ o * (bytes + 2 ^ 4352 * (old / 2 ^ (o + 4352)))
  (List.range rows.length).map fun j => BitVec.ofNat 4096 (new / 2 ^ (4096 * j))

/-- A result of a row of an `mrd` that is sampled after the trap point of its deck goes into the image under way (R383). -/
def State.intoFrame (s : State) (n : Nat) (l : Latch) : State :=
  { s with micro := s.micro.map fun m => match m.act with
      | .frame n' k rows open_ =>
        (match (if n' = n then open_.find? fun o => o.land == l.land && o.num == l.seq else none) with
        | some o => { m with act := .frame n k (putLatch rows k o.place (l.bytes o.ct)) (open_.filter (· != o)) }
        | none => m)
      | _ => m }

/-- A result of deck n belongs to an image under way. -/
def State.isOpen (s : State) (n : Nat) (l : Latch) : Bool :=
  s.micro.any fun m => match m.act with
    | .frame n' _ _ open_ => n' == n && open_.any fun o => o.land == l.land && o.num == l.seq
    | _ => false

/-- The results of rows of an `mrd` of deck n that are still to be sampled, their values open: a vector and flags 4 clocks after a row's point, or the
flags of a store row 8 clocks after it (R259). -/
def State.unsampled (s : State) (n : Nat) : List Latch :=
  s.micro.filterMap fun m => match m.act with
    | .mrdRow q =>
      if q.deck = n then some (if q.toReg then ⟨m.at_ + 4, 3, q.num, .v q.dst, BitVec.allOnes 128, 0, BitVec.ofNat 5 q.fmt, 0⟩
        else ⟨m.at_ + 8, 3, q.num, .flags, 0, 0, 0, 0⟩)
      else none
    | _ => none

/-- Where they stand among the latches of a trap at clock ct. -/
def openRows (lat rows : List Latch) (ct : Nat) : List OpenRow :=
  (lat.zipIdx.filter fun p => rows.any fun r => r.land == p.1.land && r.seq == p.1.seq && r.dest == p.1.dest).map fun p => ⟨p.1.seq, p.1.land, p.2, ct⟩

/-- What the bundles of this clock do at its end (R36, R37). -/
def Deck.applyEdge (d : Deck) : Deck :=
  { d with
    sync := (d.sync &&& ~~~d.edge.syncClr) ||| d.edge.syncSet,
    aToE := d.aToE.drop (if d.edge.popAE then 1 else 0) ++ d.edge.pushAE, eToA := d.eToA.drop (if d.edge.popEA then 1 else 0) ++ d.edge.pushEA,
    edge := ⟨0, 0, [], [], false, false⟩ }

/-- The failed syllable and every younger one are squashed (R380, R385). -/
def State.squashFrom (s : State) (n : Nat) (failure : Option Revoc) : State × List Again :=
  match failure with
  | some r => s.squash n r.seq
  | none => (s, [])

/-- A late fault of an engine has been taken (R409). -/
def State.engineTrapTaken (s : State) (n : Nat) (p : Option Pending) : State :=
  match p with
  | some p => s.engineFaultTaken n p
  | none => s

/-- Entry proper, once every revocable syllable has passed or failed (R380): the candidate gives way to the oldest failure if it is of
order 3 or lower, an array late fault to a failure of an older syllable; squash, capture, image, status, and the frame's writes from
clock b, into which the rows of an `mrd` that are sampled later go as they come. -/
def State.enterTrap (s : State) (n : Nat) : State :=
  let d := s.getDeck n
  match d.trapWait with
  | none => s
  | some w =>
    if d.revoc.any Revoc.open then s else
    let failure := d.oldestFailure
    let arr := d.arrFaults.find? fun p => decide (w.trap.order = 2) && p.cause == w.trap.cause && p.info == w.trap.info
    let failed := failure.bind fun r => r.failed.map fun f => (r.seq, (⟨f.1, f.2.1, f.2.2, 2⟩ : Trap))
    let chosen := match failed, arr with
      | some (q, f), some p => if p.num < q then w.trap else f
      | some (_, f), none => if 2 ≤ w.trap.order then f else w.trap
      | none, _ => w.trap
    let (s, again) := s.squashFrom n failure
    let d := (s.getDeck n).applyEdge
    let rows := s.unsampled n
    let lat := { d with latches := d.latches ++ rows }.capture
    let core := s.getCore (n / 4)
    let node := match d.inst with | some i => (s.getInst i).node | none => 0
    let d1 := { d with latches := lat, tcause := BitVec.ofNat 8 chosen.cause, tinfo := chosen.info }
    let (img, len) := d1.image ⟨node, core.leaseHolder == some (n % 4), core.leaseReq.contains (n % 4), true, false, false, w.ct, again, chosen.addr⟩
    let d2 := { d1 with
      latches := [], heldIds := lat.map (fun l => l.dest.qid),
      ldsHeld := lat.filterMap fun l => if d.ldsWait.any (fun q => q.1 = l.seq) then (match l.dest with | .x r => some r | _ => none) else none,
      ldsWait := [], revoc := [], trapWait := none, hold := true, sup := true, fork := false, slip := 0, loopsA := [], loopsE := [],
      pendTrap := if chosen.cause = 0x22 then none else d.pendTrap, waitA := none, waitE := none, atSq := none,
      irq := none,
      overrunEnd := d.overrunEnd && !(chosen.cause == 0x10 && bits chosen.info.toNat 16 2 == 1),
      overrunA := d.overrunA && !(chosen.cause == 0x10 && bits chosen.info.toNat 16 2 == 0),
      pend20 := d.pend20 && !(chosen.cause == 0x20 && chosen.order == 5), pend21 := if chosen.cause = 0x21 ∧ chosen.order = 4 then 0 else d.pend21,
      pend23 := d.pend23 && !(chosen.cause == 0x23),
      arrFaults := if arr.any (fun p => p.info == chosen.info) then d.arrFaults.filter (fun p => some p != arr) else d.arrFaults,
      pcA := d.tvec, pcE := d.tvec,
      par := d.par.map fun p => { p with loopsA := [], loopsE := [], own := [], skip := [] } }
    let s := s.setDeck n d2
    let s := if chosen.order = 3 then s.engineTrapTaken n (d.engFaults.find? fun p => p.info == chosen.info) else s
    s.startFrame n (max (w.ct + 16) (s.clock + 1)) (imageRowList img len) (openRows lat rows w.ct)

/-- Deck n takes trap t at its trap point in this clock (R376, R380). In supervisor mode a synchronous or late cause is a double
fault: the deck stops issuing and its instance takes a machine check (R379, R402). -/
def State.takeTrap (s : State) (n : Nat) (t : Trap) : State :=
  let d := s.getDeck n
  if d.sup then
    let s := s.modDeck n fun d => { d with hold := true }
    s.checkDeck 0x07 n (d.pcE.setWidth 64)
  else
    (s.setDeck n { d with trapWait := some ⟨t, s.clock⟩, hold := true, wire := some 0 }).enterTrap n

/-- A synchronous cause of the syllable h (R400): nothing of its bundle takes effect and its deck takes the trap. -/
def State.raiseInfo (s : State) (cause : Nat) (info addr : Word) (order : Nat) : State :=
  let t : Trap := ⟨cause, info, addr, order⟩
  (s.modIssue fun i => { i with raised := some t }).takeTrap s.dn t

def State.raise (s : State) (h : Hd) (cause detail : Nat) (addr : Word) : State :=
  s.raiseInfo cause (tinfoOf false (rankOf h.slot) s.issue.pc detail) addr 6

/-! ### Return from a trap (R387) -/

/-- The image of deck n's frame, read from its frame tiles. -/
def State.frameImage (s : State) (n len : Nat) : Nat := Memory.read s.mem (storeBase (n / 4) + 512 * frameRow n) len

/-- Length in bytes of the image whose fixed part is w. -/
def frameLength (w : Nat) : Nat :=
  let h := fun k => getAt w (8 * k) 8
  fixedBytes + 544 * bits (h 4) 0 8 + 512 * bits (h 4) 8 7 + 512 * (liveVecs (BitVec.ofNat 320 (getAt w 48 40))).length +
    32 * bits (h 11) 0 7

/-- Records that a deck has asked for come to nothing. -/
def State.dropFetches (s : State) (n : Nat) : State :=
  { s.callOff (fun ev => match ev with | .hldRecordArrival d _ _ => d == n | _ => false) with extWait := s.extWait.filter fun w => w.deck != n }

/-- What the handler's own `lds` and `hld` have in flight is dropped at its return, as its latches are; its loads into operand queues go on, since the
queues stay live (R388; NOTES.md, Assumption 26). -/
def State.dropReads (s : State) (n : Nat) : State :=
  let gone := ((s.getDeck n).revoc.filter fun r => r.ids.isEmpty).map (·.seq)
  let s := s.dropFetches n
  { s with micro := s.micro.filter fun m => match m.act with
      | .ldsRead q .. => !gone.contains q
      | .hldRead q .. => !gone.contains q
      | _ => true }

/-- `rfe` at this clock: the context returns from the frame, squashed syllables issue again just before the resumed bundle, and
latches land at their remaining distance from it. -/
def State.trapReturn (s : State) (n : Nat) : State :=
  let s := s.dropReads n
  let d := s.getDeck n
  let w0 := s.frameImage n fixedBytes
  let len := frameLength w0
  let w := s.frameImage n len
  let nR := bits (getAt w 88 8) 0 7
  let rows := imageRows len
  let r := s.clock + 16 + rows + nR
  let d' := d.restore w r s.seq
  let again := (List.range nR).map fun j => Again.ofBytes (getAt w (len - 32 * nR + 32 * j) 32) (r - nR + j)
  let d' := { d' with
    revoc := d.revoc.filter fun r => !r.ids.isEmpty,
    ldsWait := (d'.latches.filterMap fun l => match l.dest with
      | .x q => if d.ldsHeld.contains q && l.rank = 0 then some (l.seq, q) else none
      | _ => none),
    ldsHeld := [], heldIds := [], again := again, par := none, nextA := r, nextE := r, wire := some r, hold := false }
  { s.setDeck n d' with seq := s.seq + bits (getAt w 32 8) 0 8 }

/-! ### Queues -/

/-- Entries of a result queue that are free, those in `extra` of them about to be popped (R216). -/
def Deck.rqRoom (d : Deck) (q : Nat) : Bool := decide ((mget [] d.rq q).length < 4)

/-- A new tail entry of result queue q of deck n whose data is there (R51). -/
def State.pushRq (s : State) (n q : Nat) (data : Image) (tag : Tag) : State :=
  { s.modDeck n (fun d => { d with rq := mset [] d.rq q (mget [] d.rq q ++ [⟨s.seq, data, tag, true, false⟩]) }) with seq := s.seq + 1 }

/-- A 64-bit word as a queue entry: tag I32, lanes 0 and 1 (R63, R175, R202). -/
def wordEntry (w : Word) : Image := w.setWidth 4096
def tagI32 : Tag := 0x08

/-- What takes an operand from its name (R49, R53): the register, the head that is peeked, or the head that is popped. -/
def Deck.takeSrc (d : Deck) (n : Nat) : Option (VReg × Deck) :=
  if n < 320 then some (mget VReg.zero d.v n, d)
  else
    let q := n % 8
    if n < 336 then
      match mget [] d.oq q with
      | e :: es => if e.arrived then some (⟨e.data, e.tag⟩, if n < 328 then { d with oq := mset [] d.oq q es } else d) else none
      | [] => none
    else
      match mget [] d.rq q with
      | e :: es => if e.arrived then some (⟨e.data, e.tag⟩, if n < 344 then { d with rq := mset [] d.rq q es } else d) else none
      | [] => none

/-- The pop name of a queue name (R411). -/
def popName (n : Nat) : Nat := if 328 ≤ n ∧ n < 336 ∨ 344 ≤ n then n - 8 else n

/-- A source name is a queue. -/
def isQueueName (n : Nat) : Bool := decide (320 ≤ n)

/-- p30 under queue mode suppress (R52), at issue + 1. -/
def State.writeP30 (s : State) (h : Hd) (v : Bool) : State :=
  s.result h 1 (.p 30) (BitVec.allOnes 128) (if v then (BitVec.allOnes 128).setWidth 4096 else 0) 0

/-- A queue condition failed (R52): stall, suppress or trap. In fork mode only the other sequencer can end a stall on an operand queue that
waits for no entry (R394). -/
def State.queueFail (s : State) (h : Hd) (qm : Nat) (cause name : Nat) : State :=
  if qm = 0 then
    if cause = 0x04 ∧ name < 328 ∧ s.dk.fork && (mget [] s.dk.oq (name - 320)).all (·.arrived) then s.stalledOther else s.stalled
  else if qm = 1 then s.writeP30 h true else s.raise h cause name 0

/-- Bank b is held by a refresh, which takes it for 4 clocks (R69). -/
def Core.refreshHolds (k : Core) (clock b : Nat) : Bool := k.refreshing.any fun r => bankOf r.1 == b && decide (clock < r.2 + 4)

end Sys2Proof.Machine
end

