-- ==== Sys2Proof/Machine/Scalar.lean ====
section
/-! DEFINITION. The scalar and predicate instructions of spec 07: R147-R155, R166. -/
namespace Sys2Proof.Machine

/-- The outcome of a meaning that always gives a next state. -/
abbrev Out := Host.Outcome State Fault Refusal

/-- A syllable decided by Guard(0) alone (R134, R147): disabled it does nothing; enabled it waits for an `lds` into a register it
reads (R187) and then acts. -/
def State.scalar (s : State) (h : Hd) (srcs : List (BitVec 6)) (f : State → State) : State :=
  if s.guard0 h then (if s.waitsLds srcs then s.stalled else f s) else s

/-- A register form: xd := f xa xb at the given latency (R149). -/
def State.alu (s : State) (h : Hd) (lat : Nat) (b : XRR) (f : Word → Word → Word) : State :=
  s.scalar h [b.xa, b.xb] fun s => s.writeX h lat b.xd (f (s.x b.xa) (s.x b.xb))

/-- An immediate form: xd := f xa imm21, sign-extended (R150). -/
def State.aluImm (s : State) (h : Hd) (b : XI) (f : Word → Word → Word) : State :=
  s.scalar h [b.xa] fun s => s.writeX h 1 b.xd (f (s.x b.xa) (b.imm.signExtend 64))

/-- Shifts use bits 5:0 of the amount (R149). -/
def shiftL (a b : Word) : Word := a <<< (b.toNat % 64)
def shiftR (a b : Word) : Word := a >>> (b.toNat % 64)
def shiftA (a b : Word) : Word := a.sshiftRight (b.toNat % 64)
/-- The high halves of the 128-bit products (R149). -/
def mulHigh (a b : Word) : Word := BitVec.ofInt 64 (a.toInt * b.toInt / 2 ^ 64)
def mulHighU (a b : Word) : Word := BitVec.ofNat 64 (a.toNat * b.toNat / 2 ^ 64)
/-- Leading zeros and one bits of a word (R149). -/
def leadingZeros (a : Word) : Word := if a = 0 then 64 else BitVec.ofNat 64 (63 - a.toNat.log2)
def onesOf (a : Word) : Word := BitVec.ofNat 64 ((List.range 64).countP a.getLsbD)
/-- Minimum and maximum, signed and unsigned (R149). -/
def minS (a b : Word) : Word := if a.slt b then a else b
def minU (a b : Word) : Word := if a.ult b then a else b
def maxS (a b : Word) : Word := if a.slt b then b else a
def maxU (a b : Word) : Word := if a.ult b then b else a

/-- The field f of R153, extended. -/
def extract (a : Word) (lsb width : Nat) (signed : Bool) : Word :=
  let f := bits a.toNat lsb width
  if signed && f ≥ 2 ^ (width - 1) then BitVec.ofInt 64 ((f : Int) - 2 ^ width) else BitVec.ofNat 64 f

/-- xd with the low bits of xa in the field (R153). -/
def insertField (d a : Word) (lsb width : Nat) : Word :=
  let m := BitVec.ofNat 64 ((2 ^ width - 1) * 2 ^ lsb)
  (d &&& ~~~m) ||| ((a <<< lsb) &&& m)

/-- One scalar condition of R139. -/
def condition (c : Nat) (a b : Word) : Bool :=
  match c with
  | 0 => a == b
  | 1 => a != b
  | 2 => a.slt b
  | 3 => !a.slt b
  | 4 => a.ult b
  | 5 => !a.ult b
  | 6 => !b.slt a
  | 7 => b.slt a
  | 8 => !b.ult a
  | _ => b.ult a

/-- pd and pe after the comb rule of R139, for the condition c in each lane. -/
def combine (comb : Nat) (pd pe c : Pred) : Pred × Pred :=
  if comb = 1 then (pd &&& c, pe &&& ~~~c) else if comb = 2 then (pd ||| c, pe ||| ~~~c) else (c, ~~~c)

/-- Broadcast compare: pd and pe take the result at latency 2 (R154). -/
def State.compare (s : State) (h : Hd) (pd pe : BitVec 5) (comb : Nat) (c : Bool) : State :=
  let r := combine comb (s.dk.getP pd) (s.dk.getP pe) (if c then BitVec.allOnes 128 else 0)
  (s.writeP h 2 pd r.1).writeP h 2 pe r.2

def execNop (_h : Hd) (_b : NB) (s : State) : Out := .next s
def execAdd (h : Hd) (b : XRR) (s : State) : Out := .next (s.alu h 1 b (· + ·))
def execSub (h : Hd) (b : XRR) (s : State) : Out := .next (s.alu h 1 b (· - ·))
def execAnd (h : Hd) (b : XRR) (s : State) : Out := .next (s.alu h 1 b (· &&& ·))
def execOr (h : Hd) (b : XRR) (s : State) : Out := .next (s.alu h 1 b (· ||| ·))
def execXor (h : Hd) (b : XRR) (s : State) : Out := .next (s.alu h 1 b (· ^^^ ·))
def execShl (h : Hd) (b : XRR) (s : State) : Out := .next (s.alu h 1 b shiftL)
def execShr (h : Hd) (b : XRR) (s : State) : Out := .next (s.alu h 1 b shiftR)
def execSra (h : Hd) (b : XRR) (s : State) : Out := .next (s.alu h 1 b shiftA)
def execMul (h : Hd) (b : XRR) (s : State) : Out := .next (s.alu h 3 b (· * ·))
def execMulh (h : Hd) (b : XRR) (s : State) : Out := .next (s.alu h 3 b mulHigh)
def execMulhu (h : Hd) (b : XRR) (s : State) : Out := .next (s.alu h 3 b mulHighU)
def execMin (h : Hd) (b : XRR) (s : State) : Out := .next (s.alu h 1 b minS)
def execMinu (h : Hd) (b : XRR) (s : State) : Out := .next (s.alu h 1 b minU)
def execMax (h : Hd) (b : XRR) (s : State) : Out := .next (s.alu h 1 b maxS)
def execMaxu (h : Hd) (b : XRR) (s : State) : Out := .next (s.alu h 1 b maxU)
/-- R152: bit 0 of pn chooses. -/
def execSel (h : Hd) (b : XRR) (s : State) : Out :=
  .next (s.alu h 1 b fun x y => if (s.dk.getP (BitVec.ofNat 5 (bits b.m.toNat 0 5))).getLsbD 0 then x else y)
def execClz (h : Hd) (b : XRR) (s : State) : Out := .next (s.alu h 1 b fun x _ => leadingZeros x)
def execPopc (h : Hd) (b : XRR) (s : State) : Out := .next (s.alu h 1 b fun x _ => onesOf x)
/-- R153: lsb in mod[5:0], width − 1 in mod[11:6], sign in mod[12]. -/
def execBext (h : Hd) (b : XRR) (s : State) : Out :=
  .next (s.alu h 1 b fun x _ => extract x (bits b.m.toNat 0 6) (bits b.m.toNat 6 6 + 1) (b.m.getLsbD 12))
/-- R153: xd is read at issue. -/
def execBins (h : Hd) (b : XRR) (s : State) : Out :=
  .next (s.scalar h [b.xd, b.xa] fun s =>
    s.writeX h 1 b.xd (insertField (s.x b.xd) (s.x b.xa) (bits b.m.toNat 0 6) (bits b.m.toNat 6 6 + 1)))
def execAddi (h : Hd) (b : XI) (s : State) : Out := .next (s.aluImm h b (· + ·))
def execAndi (h : Hd) (b : XI) (s : State) : Out := .next (s.aluImm h b (· &&& ·))
def execOri (h : Hd) (b : XI) (s : State) : Out := .next (s.aluImm h b (· ||| ·))
def execXori (h : Hd) (b : XI) (s : State) : Out := .next (s.aluImm h b (· ^^^ ·))
def execShli (h : Hd) (b : XI) (s : State) : Out := .next (s.aluImm h b shiftL)
def execShri (h : Hd) (b : XI) (s : State) : Out := .next (s.aluImm h b shiftR)
def execSrai (h : Hd) (b : XI) (s : State) : Out := .next (s.aluImm h b shiftA)
/-- R151. -/
def execMovi (h : Hd) (b : XL) (s : State) : Out := .next (s.scalar h [] fun s => s.writeX h 1 b.xd (b.imm.signExtend 64))
/-- R151: xd is read at issue. -/
def execMovhi (h : Hd) (b : XL) (s : State) : Out :=
  .next (s.scalar h [b.xd] fun s => s.writeX h 1 b.xd ((s.x b.xd <<< 27) + b.imm.setWidth 64))
/-- R154. -/
def execCmp (h : Hd) (b : PCX) (s : State) : Out :=
  .next (s.scalar h [b.xa, b.xb] fun s => s.compare h b.pd b.pe b.comb.toNat (condition b.cond.toNat (s.x b.xa) (s.x b.xb)))
/-- R154: imm11 is sign-extended before any comparison. -/
def execCmpi (h : Hd) (b : PCI) (s : State) : Out :=
  .next (s.scalar h [b.xa] fun s => s.compare h b.pd b.pe b.comb.toNat (condition b.cond.toNat (s.x b.xa) (b.imm.signExtend 64)))
/-- R155: the table acts in every lane. -/
def execPtt (h : Hd) (b : PCT) (s : State) : Out :=
  .next (s.scalar h [] fun s => s.writeP h 2 b.pd (truth b.tt (s.dk.getP b.pa) (s.dk.getP b.pb) (s.dk.getP b.pc)))

end Sys2Proof.Machine
end

