-- ==== Sys2Proof/Machine/Control.lean ====
section
/-! DEFINITION. Branches, loops, fork and join, sync bits, halt, special registers, semaphores, leases, fences, the Square, traps
and live masks (spec 02 R32-R41, spec 07 R148-R184). -/
namespace Sys2Proof.Machine

/-- A branch target (R140). -/
def State.target (s : State) (off : BitVec 21) : CodeAddr := s.issue.pc + (off.signExtend 64).setWidth 14

/-- A taken branch from a to t pops the levels it leaves (R160). -/
def popLevels (t : CodeAddr) : List Level → List Level
  | [] => []
  | l :: ls => if (l.stop - l.start).ult (t - l.start) then popLevels t ls else l :: ls

/-- The loop stack of the sequencer that acts. -/
def State.loops (s : State) (h : Hd) : List Level := if s.dk.fork && h.slot == .a then s.dk.loopsA else s.dk.loopsE

/-- Level 0 belongs to the kernel (R23). -/
def Deck.inKernel (d : Deck) : Bool := match d.kern with | some k => k.stage == 1 | none => false

/-- A taken branch: the next address, and whether loop levels are popped; popping level 0 of a kernel is a loop fault
(R405); a handler has empty stacks of its own (R380). -/
def State.jump (s : State) (h : Hd) (t : CodeAddr) (pops : Bool) : State :=
  if pops && s.dk.inKernel && !s.dk.sup && !(s.loops h).isEmpty && (popLevels t (s.loops h)).isEmpty then s.raise h 0x10 2 0
  else s.modIssue fun i => { i with target := some t, popLoops := pops, taken := true }

/-- A loop setup with n repetitions of the bundles up to `stop` (R158). DESIGN CHOICE: one that stands in the top level's end bundle with four levels occupied
reports detail 0b01 (NOTES.md, Assumption 124). -/
def State.setupLoop (s : State) (h : Hd) (n : Nat) (stop : CodeAddr) : State :=
  let ls := s.loops h
  if ls.head?.any (fun l => l.stop == s.issue.pc) then s.raise h 0x10 1 0
  else if n = 0 then s.jump h (stop + 1) true
  else if ls.length ≥ 4 then s.raise h 0x10 0 0
  else
    let l : Level := ⟨s.issue.pc + 1, stop, BitVec.ofNat 32 (n - 1)⟩
    s.modDk fun d =>
      if d.fork then (if h.slot = .a then { d with loopsA := l :: d.loopsA } else { d with loopsE := l :: d.loopsE })
      else { d with loopsA := l :: d.loopsA, loopsE := l :: d.loopsE }

/-- A control instruction: in slot A it acts only in fork mode (R32). -/
def State.control (s : State) (h : Hd) (srcs : List (BitVec 6)) (f : State → State) : State :=
  if s.controls h then s.scalar h srcs f else s

def execBr (h : Hd) (b : BR) (s : State) : Out := .next (s.control h [] fun s => s.jump h (s.target b.off) true)
/-- R156: the link at latency 1; the loop stack stays. -/
def execCall (h : Hd) (b : BR) (s : State) : Out :=
  .next (s.control h [] fun s => (s.writeX h 1 b.xd ((s.issue.pc + 1).setWidth 64)).jump h (s.target b.off) false)
def execRet (h : Hd) (b : XRR) (s : State) : Out := .next (s.control h [b.xa] fun s => s.jump h ((s.x b.xa).setWidth 14) false)

/-- The queue `brq` pops in this slot: slot A the E-to-A queue (R36). -/
def State.outcomes (s : State) (h : Hd) : List Bool := if h.slot = .a then s.dk.eToA else s.dk.aToE

def execBrq (h : Hd) (b : BR) (s : State) : Out :=
  .next (s.control h [] fun s =>
    match s.outcomes h with
    | [] => s.stalledOther
    | bit :: _ =>
      let s := s.modDk fun d =>
        if h.slot = .a then { d with edge := { d.edge with popEA := true } } else { d with edge := { d.edge with popAE := true } }
      if bit then s.jump h (s.target b.off) true else s)

/-- The A-to-E queue in the list of queues that later syllables of a bundle free. -/
def outcomeQueue : Nat := 8

/-- R36, R157: the push takes effect at the end of the bundle, a pop of the same clock at its start; a full queue stalls. -/
def execBoq (h : Hd) (b : XRR) (s : State) : Out :=
  .next (s.scalar h [] fun s =>
    let bit := (s.dk.getP (BitVec.ofNat 5 (bits b.m.toNat 0 5))).getLsbD 0
    let d := s.dk
    if h.slot = .a then
      if 16 + (if d.edge.popAE || s.issue.freeing.contains outcomeQueue then 1 else 0) ≤ d.aToE.length + d.edge.pushAE.length then s.stalledOther
      else s.setDk { d with edge := { d.edge with pushAE := d.edge.pushAE ++ [bit] } }
    else
      if 16 + (if d.edge.popEA then 1 else 0) ≤ d.eToA.length + d.edge.pushEA.length then s.stalledOther
      else s.setDk { d with edge := { d.edge with pushEA := d.edge.pushEA ++ [bit] } })

/-- R158: the count register, capped at 2^32 − 1. -/
def execLoop (h : Hd) (b : LP) (s : State) : Out :=
  .next (s.control h [BitVec.ofNat 6 (bits b.low.toNat 12 6)] fun s =>
    s.setupLoop h (min (s.x (BitVec.ofNat 6 (bits b.low.toNat 12 6))).toNat 0xFFFFFFFF) (s.issue.pc + b.stop))
def execLoopi (h : Hd) (b : LP) (s : State) : Out :=
  .next (s.control h [] fun s => s.setupLoop h b.low.toNat (s.issue.pc + b.stop))
def execRep (h : Hd) (b : LP) (s : State) : Out :=
  .next (s.control h [] fun s => s.setupLoop h b.low.toNat (s.issue.pc + 1))

/-- R33, R162. -/
def execFork (h : Hd) (b : BRF) (s : State) : Out :=
  .next (s.scalar h [] fun s =>
    if s.dk.fork then s.raise h 0x0F 1 0
    else s.modIssue fun i => { i with forks := some (i.pc + (b.offA.signExtend 64).setWidth 14, i.pc + (b.offE.signExtend 64).setWidth 14) })

/-- Both sequencers stand at this bundle (R35). -/
def State.bothHere (s : State) : Bool :=
  s.dk.pcA == s.dk.pcE && decide (s.dk.nextA ≤ s.clock) && decide (s.dk.nextE ≤ s.clock)

/-- R35, R116, R163, R393: no effect in lockstep mode; in fork mode it waits for the other sequencer and for every earlier store, and only then are the
stacks compared (R376). A join bundle whose `join` is guarded off in one slot rejoins when both sequencers stand at it in one clock; the side with
the guarded-off `join` may pass alone before that. DESIGN CHOICE: R35 and R163 do not speak of guards (NOTES.md, Assumption 113). -/
def execJoin (h : Hd) (_b : XRR) (s : State) : Out :=
  .next (s.scalar h [] fun s =>
    if s.lockstep then s
    else if !s.bothHere then s.stalledOther
    else if s.storesPending (s.earlierStores true ++ s.earlierStores false) then s.stalled
    else if s.dk.loopsA != s.dk.loopsE then s.raise h 0x0F 0 0
    else s.modIssue fun i => { i with joins := true })

def execSyncs (h : Hd) (b : XI) (s : State) : Out :=
  .next (s.scalar h [] fun s =>
    s.modDk fun d => { d with edge := { d.edge with syncSet := d.edge.syncSet ||| (1 <<< b.imm.toNat) } })
def execSyncw (h : Hd) (b : XI) (s : State) : Out :=
  .next (s.scalar h [] fun s =>
    if s.dk.sync.getLsbD b.imm.toNat then
      s.modDk fun d => { d with edge := { d.edge with syncClr := d.edge.syncClr ||| (1 <<< b.imm.toNat) } }
    else s.stalledOther)

/-- R30, R165, R393, R405: the deck halts at the end of the bundle. -/
def execHalt (h : Hd) (_b : XRR) (s : State) : Out :=
  .next (s.scalar h [] fun s =>
    if s.dk.fork then s.raise h 0x0F 1 0
    else if s.dk.chain.isSome then s.raise h 0x0E 0 0
    else s.modIssue fun i => { i with halts := true })

/-- The value of a special register (R178, R179). -/
def State.readSpr (s : State) (n : Nat) : Word :=
  let d := s.dk
  match n with
  | 0x000 => d.wid
  | 0x001 => BitVec.ofNat 64 (s.dn % 4)
  | 0x002 => BitVec.ofNat 64 s.cn
  | 0x003 => BitVec.ofNat 64 (s.clock - s.ck.clkBase)
  | 0x004 => BitVec.ofNat 64 s.ck.band
  | 0x010 => d.slipw
  | 0x011 => d.fmode
  | 0x012 => d.fflags.setWidth 64
  | 0x030 => s.ck.sdcfg
  | 0x040 => d.tvec.setWidth 64
  | 0x041 => d.tcause.setWidth 64
  | 0x042 => d.tinfo
  | n => mget (crvReset (n - 0x020)) d.crv (n - 0x020)

/-- Registers that only supervisor mode may name (R148, R178). -/
def isSupervisorReg (n : Nat) : Bool := decide (0x040 ≤ n)

def execMfsr (h : Hd) (b : XI) (s : State) : Out :=
  .next (s.scalar h [] fun s =>
    if isSupervisorReg b.imm.toNat && !s.dk.sup then s.raise h 0x11 0 0
    else s.writeX h 1 b.xd (s.readSpr b.imm.toNat))

/-- xa goes into special register n, for bundles that issue at issue + 1 or later (R178). -/
def State.setSpr (s : State) (h : Hd) (b : XI) (n : Nat) : State :=
  s.scalar h [b.xa] fun s =>
    if isSupervisorReg n && !s.dk.sup then s.raise h 0x11 0 0
    else s.result h 1 (.spr n) 0 ((s.x b.xa).setWidth 4096) 0

def execMtsrSlipw (h : Hd) (b : XI) (s : State) : Out := .next (s.setSpr h b 0x010)
def execMtsrFmode (h : Hd) (b : XI) (s : State) : Out := .next (s.setSpr h b 0x011)
def execMtsrFflags (h : Hd) (b : XI) (s : State) : Out := .next (s.setSpr h b 0x012)
def execMtsrCrv (h : Hd) (b : XI) (s : State) : Out := .next (s.setSpr h b b.imm.toNat)
def execMtsrSdcfg (h : Hd) (b : XI) (s : State) : Out := .next (s.setSpr h b 0x030)
def execMtsrTvec (h : Hd) (b : XI) (s : State) : Out := .next (s.setSpr h b 0x040)

/-- R117: stalls until the loads and stores of earlier bundles have sampled and performed, and what else the scope waits for has come about. -/
def State.fence (s : State) (h : Hd) (remote cmds acks : Bool) : State :=
  s.scalar h [] fun s =>
    if s.storesPending (s.earlierStores (isEx h)) || !s.loadsDone s.dn (isEx h) remote || (cmds && !(s.ownCmds s.dn (isEx h) s.clock).isEmpty) ||
      (acks && s.ackPending s.dn (isEx h)) then s.stalled else s

def execFenceDeck (h : Hd) (_b : XRR) (s : State) : Out := .next (s.fence h false false false)
def execFenceCore (h : Hd) (_b : XRR) (s : State) : Out := .next (s.fence h false false false)
def execFenceGang (h : Hd) (_b : XRR) (s : State) : Out := .next (s.fence h true false false)
def execFenceDevice (h : Hd) (_b : XRR) (s : State) : Out := .next (s.fence h true true false)
/-- It also waits for the acknowledgements of the commands' host and remote writes (R201). -/
def execFenceSystem (h : Hd) (_b : XRR) (s : State) : Out := .next (s.fence h true true true)

/-- R127, R172: what earlier bundles issued has completed. -/
def execQpt (h : Hd) (_b : XRR) (s : State) : Out :=
  .next (s.scalar h [] fun s => if s.extentsDone s.dn (isEx h) s.issue.seq0 s.clock then s.passQuiescent s.dn (isEx h) else s.stalled)

/-- R173: stalls until the Square completes, in whose clock the bundle issues. -/
def execSq (h : Hd) (b : XRR) (s : State) : Out :=
  .next (s.scalar h [] fun s =>
    if s.dk.fork then s.raise h 0x0F 1 0
    else if s.inst.squareAt = some s.clock then s.modDk fun d => { d with atSq := none }
    else (s.modDk fun d => { d with atSq := some (bits b.m.toNat 0 15) }).stalled)

/-- A phase boundary of core c (R119, R123, R198): its marks end. -/
def Core.phaseBoundary (c : Core) : Core :=
  { c with tiles := (c.tiles.map fun p => (p.1, { p.2 with published := false, receivable := false })).filter fun p => p.2 != Tile.reset }

/-- The versions that no running instance may still race with are forgotten: those from before the last boundary of every one (R121). -/
def State.forgetVersions (s : State) : State :=
  let b := (s.insts.filter fun p => p.2.st == .running || p.2.st == .preparing || p.2.st == .saving || p.2.st == .preempted).foldl
    (fun (m : Nat) p => min m p.2.phaseAt) s.clock
  { s with cores := s.cores.map fun (p : Nat × Core) => (p.1, { p.2 with hist := p.2.hist.filter fun v => decide (b < v.at_) }) }

/-- A deck whose bundle stalled in this clock stands at issue again in this clock; in fork mode that of its execute sequencer. -/
def State.rearm (s : State) (n : Nat) : State :=
  s.modDeck n fun d =>
    if d.stalledAt = some s.clock then
      { d with nextA := if !d.fork ∧ d.nextA = s.clock + 1 then s.clock else d.nextA, nextE := if d.nextE = s.clock + 1 then s.clock else d.nextE }
    else d

/-- A transfer phase ends (R173, R209, R325): the routers return to arbitrated mode, every entry is cleared, and flits under way are lost. -/
def State.endPhase (s : State) (i : Nat) : State :=
  let x := s.getInst i
  let s := s.setInst i { x with xfer := none }
  let s := x.coresOf.foldl (fun s c => s.modCore c fun k => { k with sched := [] }) s
  let ids := (s.xrows.filter fun r => r.inst = i).map (·.xid)
  { s with xrows := s.xrows.filter (fun r => r.inst != i), flits := s.flits.filter fun f => !ids.contains f.xid }

/-- R120, R173, R324, R326: the Square of an instance completes in this clock; with L > 0 a superstep gang's transfer phase opens, with no entry
in force and every partial register zero. -/
def execSquareComplete (inst : Nat) (s : State) : Out :=
  let s := s.endPhase inst
  let x := s.getInst inst
  let live := x.decks.filter fun n => !(s.getDeck n).halted
  let len := live.foldl (fun m n => max m ((s.getDeck n).atSq.getD 0)) 0
  let s := s.modInst inst fun x =>
    { x with squareAt := some s.clock, xfer := if x.kind = 2 ∧ len > 0 then some ⟨s.clock, len⟩ else none, contribs := [], sentParts := [], peerParts := [] }
  let routers := x.coresOf.map coreRouter
  let s := { s with partials := s.partials.filter fun p => !routers.contains (p.1 / 4096) }
  let s := (x.coresOf.foldl (fun s c => s.modCore c Core.phaseBoundary) s).forgetVersions
  .next { (live.foldl (fun s n => s.rearm n) s) with phase := .issue }

/-- R173, R209: at cycle L. -/
def execTransferPhaseEnd (inst : Nat) (s : State) : Out := .next (s.endPhase inst)

/-- R167, R168: a wait compares the value at the start of the clock; a consuming wait what earlier consumers of the clock left. It acquires what the
adds have released (R118). -/
def execSemw (h : Hd) (b : XRR) (s : State) : Out :=
  .next (s.scalar h [] fun s =>
    let n := bits b.m.toNat 0 6
    let x := s.ck.sem n
    if b.m.getLsbD 6 then
      if x.target.toNat ≤ x.value.toNat then
        s.modCk fun k => (k.setSem n { x with value := x.value - x.target, used := x.used + x.target.toNat }).acquire x.rel
      else s.stalled
    else if x.target.toNat ≤ x.value.toNat + x.used then s.modCk fun k => k.acquire x.rel else s.stalled)

/-- R118, R167: the add performs at issue + 1 or a clock after the sequencer's earlier stores. -/
def execSema (h : Hd) (b : XRR) (s : State) : Out :=
  .next (s.scalar h [b.xa] fun s =>
    s.post (s.clock + 1) (.semaAddPerform s.cn (bits b.m.toNat 0 6) (((s.x b.xa).setWidth 16).toInt + bits b.m.toNat 7 8)
      (s.earlierStores (isEx h))))

/-- R168: all adds of one clock are summed and the new value is clamped once. -/
def Sem.add (x : Sem) (k : Int) : Sem :=
  { x with sum := x.sum + k, value := BitVec.ofNat 16 (min 65535 (x.base + (x.sum + k)).toNat) }

/-- k is added to semaphore n of core c (R118, R168). -/
def State.semAdd (s : State) (c n : Nat) (k : Int) : State := s.modCore c fun q => q.setSem n ((q.sem n).add k)

def execSemaAddPerform (core sem : Nat) (amount : Int) (stores : List Nat) (s : State) : Out :=
  .next (if s.storesPending stores then s.post (s.clock + 1) (.semaAddPerform core sem amount stores) else s.semAdd core sem amount)

def execSemt (h : Hd) (b : XRR) (s : State) : Out :=
  .next (s.scalar h [b.xa] fun s =>
    s.access (s.clock + 1) s.cn s.dn (isEx h) 0 (.semt (bits b.m.toNat 0 6) ((s.x b.xa).setWidth 16)))
def execSemr (h : Hd) (b : XRR) (s : State) : Out :=
  .next (s.scalar h [] fun s =>
    let x := s.ck.sem (bits b.m.toNat 0 6)
    s.writeX h 1 b.xd (BitVec.ofNat 64 (x.value.toNat + x.used + x.target.toNat * 2 ^ 16)))

/-- R41, R170: the request stands while the deck stalls. -/
def execAlease (h : Hd) (_b : XRR) (s : State) : Out :=
  .next (s.scalar h [] fun s =>
    if s.ck.leaseHolder = some (s.dn % 4) then s
    else (s.modCk fun k => if k.leaseReq.contains (s.dn % 4) then k else { k with leaseReq := k.leaseReq ++ [s.dn % 4] }).stalled)

/-- The first requester after the last holder, in increasing deck number, wrapping from 3 to 0 (R41). -/
def Core.nextLease (c : Core) : Option Nat := ([1, 2, 3, 4].map fun i => (c.leaseLast + i) % 4).find? fun d => c.leaseReq.contains d

/-- The lease goes to deck d of its core; after a gated array it warms up for 64 clocks (R251). -/
def Core.giveLease (c : Core) (d clock : Nat) : Core :=
  { c with leaseHolder := some d, leaseLast := d, leaseReq := c.leaseReq.filter (· != d),
           warmUntil := if c.gated then clock + 64 else c.warmUntil, gated := false }

/-- R41: the free lease is granted; a deck whose `alease` or matrix instruction waits for it issues in this clock. -/
def execLeaseGrant (core : Nat) (s : State) : Out :=
  let c := s.getCore core
  .next (match c.leaseHolder, c.nextLease with
    | none, some d => { (s.setCore core (c.giveLease d s.clock)).rearm (4 * core + d) with phase := .issue }
    | _, _ => s)

/-- R41, R170, R413: the lease is given up at the end of the bundle; without it, the request is withdrawn. -/
def execArel (h : Hd) (_b : XRR) (s : State) : Out :=
  .next (s.scalar h [] fun s =>
    if s.dk.chain.isSome then s.raise h 0x0E 0 0 else s.modIssue fun i => { i with releases := true })

/-- R182: the trap is taken at the next bundle; in supervisor mode it is a double fault there (R402). -/
def execTrap (h : Hd) (b : XI) (s : State) : Out :=
  .next (s.scalar h [] fun s =>
    s.modDk fun d => { d with pendTrap := some ⟨0x22, BitVec.ofNat 64 (bits b.imm.toNat 0 20), 0, if d.sup then 7 else 6⟩ })

/-- R183, R387; a deck of a doomed instance ends here (R432). -/
def execRfe (h : Hd) (_b : XRR) (s : State) : Out :=
  .next (s.scalar h [] fun s =>
    if !s.dk.sup then s.raise h 0x11 0 0
    else if s.dk.fork then s.raise h 0x0F 1 0
    else if s.inst.doomed && s.dk.tcause == 0x23 then (s.stopDeck s.dn).modIssue fun i => { i with returned := true }
    else (s.trapReturn s.dn).modIssue fun i => { i with returned := true })

/-- R184, R379. -/
def execWfi (h : Hd) (_b : XRR) (s : State) : Out :=
  .next (s.scalar h [] fun s => if s.dk.pend20 || s.dk.pend21 != 0 || s.dk.pend23 then s else s.stalled)

/-- Field k of the work identifier (R27, R180). -/
def widField (wid : Word) (widths : List Nat) (k : Nat) : Word :=
  BitVec.ofNat 64 (bits wid.toNat (widths.take k).sum (widths.getD k 0))
def execWidx (h : Hd) (b : XI) (s : State) : Out :=
  .next (s.scalar h [] fun s => s.writeX h 1 b.xd (widField s.dk.wid s.inst.widths b.imm.toNat))

def execPlive (h : Hd) (b : XRR) (s : State) : Out :=
  .next (s.scalar h [b.xa] fun s => s.modDk fun d => { d with plive := (s.x b.xa).setWidth 32 })
def execVlive (h : Hd) (b : XRR) (s : State) : Out :=
  .next (s.scalar h [b.xa] fun s =>
    let o := 64 * bits b.m.toNat 0 3
    s.modDk fun d => { d with vlive := (d.vlive &&& ~~~((BitVec.allOnes 64).setWidth 320 <<< o)) ||| ((s.x b.xa).setWidth 320 <<< o) })

end Sys2Proof.Machine
end

