-- ==== Sys2Proof/Machine/Extents.lean ====
section
/-! DEFINITION. Virtual addresses, extents, shadow pages and translations (spec 03 R79-R81, R457; spec 13 R307-R310; spec 22 R424). -/
namespace Sys2Proof.Machine

/-- Bytes of a page as the model keeps translations: 64 KiB; a 2 MiB page is 32 of them (R79). -/
def pageBytes : Nat := 65536

/-- The clock of the last quiescent point of a sequencer of an instance (R127). -/
def Inst.viewAt (x : Inst) (seqr : Nat) : Nat := mget x.dispatchedAt x.views seqr

/-- The page of the context's address space that page p of an instance is: above 2^41 stand the pages of shares (NOTES.md, Assumption 9). -/
def plainPage (p : Nat) : Nat := p % 2 ^ 41

/-- Where page `page` of context ctx lies for a reader whose translations date from clock v, inside node `node` if it shadows it
(R126, R308, R309, R310, R428). -/
def State.resolvePage (s : State) (node ctx page v : Nat) : Option Nat :=
  match s.shadows.find? (fun h => h.node == node && h.ctx == ctx && h.page == page) with
  | some h => some h.place
  | none =>
    let page := plainPage page
    match (s.remap.filter fun r => r.ctx == ctx && r.page == page && decide (r.since ≤ v)).getLast? with
    | some r => some r.place
    | none =>
      match s.trans.find? (fun t => t.ctx == ctx && t.page == page && (match t.till with | some c => decide (v < c) | none => true)) with
      | some t => some (if t.host then hostBase t.base else hbmBase t.base)
      | none => none

/-- A place in the model's memory that no HBM4 location answers to (R331). -/
def noSuchPlace (a : Nat) : Option Nat := if 2 ^ 41 + Config.hbmBytes ≤ a ∧ a < 2 ^ 60 then some (a - 2 ^ 41) else none

/-- The pieces of n bytes from virtual address va: within one page, or split at the boundary; address and length. -/
def pieces (va n : Nat) : List (Nat × Nat) :=
  let k := pageBytes - va % pageBytes
  if n ≤ k then [(va, n)] else [(va, k), (va + k, n - k)]

/-- The pages that n bytes from va touch. -/
def pagesOf (va n : Nat) : List Nat := (pieces va n).map fun p => p.1 / pageBytes

/-- Every piece translates. -/
def State.mapped (s : State) (node ctx v va n : Nat) : Bool := (pagesOf va n).all fun p => (s.resolvePage node ctx p v).isSome

/-- The first page of n bytes from va that has no translation. -/
def State.missing (s : State) (node ctx v va n : Nat) : Option Nat := (pagesOf va n).find? fun p => (s.resolvePage node ctx p v).isNone

/-- n bytes at virtual address va, pages without a translation reading as zero. -/
def State.readVA (s : State) (node ctx v va n : Nat) : Nat :=
  (pieces va n).foldr (fun p acc =>
    (match s.resolvePage node ctx (p.1 / pageBytes) v with
     | some b => Memory.read s.mem (b + p.1 % pageBytes) p.2
     | none => 0) + 256 ^ p.2 * acc) 0

/-- A place that lies in HBM4. -/
def inHbm (a : Nat) : Bool := decide (2 ^ 41 ≤ a ∧ a < 2 ^ 60)

/-- Fields of given widths packed from bit 0 on: their bits, and how many. -/
def packFields (fs : List (Nat × Nat)) : Nat × Nat := fs.foldr (fun f acc => (f.1 % 2 ^ f.2 + 2 ^ f.2 * acc.1, f.2 + acc.2)) (0, 0)

/-- The fields of one group of 16 codes of a compressed block (R334): z, w, emin, the mask where some code is 0x0000, and sign, exponent and fraction of
each code that is not. -/
def groupFields (codes : List Nat) : List (Nat × Nat) :=
  let z := codes.contains 0
  let vs := codes.filter (· != 0)
  let es := vs.map fun c => bits c 7 8
  let emin := if vs.isEmpty then 0 else es.foldl min 255
  let w := ((List.range 9).find? fun w => decide (es.foldl max 0 - emin < 2 ^ w)).getD 8
  [(if z then 1 else 0, 1), (w, 4), (emin, 8)] ++
    (if z then [((codes.foldr (fun c acc => (if c = 0 then 0 else 1) + 2 * acc) 0), 16)] else []) ++
    vs.flatMap fun c => [(bits c 15 1, 1), (bits c 7 8 - emin, w), (bits c 0 7, 7)]

/-- The image of a compressed block of BF16 codes, if its groups take at most 2,048 bits: the first 256 bytes of its home (R334). -/
def codeBlock (img : Image) : Option (BitVec 2048) :=
  let code := fun (k : Nat) => (img.extractLsb' (16 * k) 16).toNat
  let (w, n) := packFields ((List.range 16).flatMap fun g => groupFields ((List.range 16).map fun i => code (16 * g + i)))
  if n ≤ 2048 then some (BitVec.ofNat 2048 w) else none

/-- How many bits the next n groups of a coded block take, from bit p on; none where a width lies above 8 (R334). -/
def codedEnd (img : Nat) : Nat → Nat → Option Nat
  | 0, p => some p
  | n + 1, p =>
    let w := bits img (p + 1) 4
    if 8 < w then none
    else if bits img p 1 = 1 then codedEnd img n (p + 29 + (8 + w) * (List.range 16).countP fun i => bits img (p + 13 + i) 1 == 1)
    else codedEnd img n (p + 13 + (8 + w) * 16)

/-- A coded block that does not decode is uncorrectable (R445). -/
def undecodable (img : BitVec 2048) : Bool :=
  match codedEnd img.toNat 16 0 with
  | some n => decide (2048 < n)
  | none => true

/-- A read of n bytes at place a reads granule g: of a compressed block the first four, whichever bytes are wanted (R335, R445). -/
def Hbm.reads (h : Hbm) (a n g : Nat) : Bool :=
  if (mfind h.compressed (g / 8)).isSome then decide (g % 8 < 4 ∧ a < 512 * (g / 8) + 512 ∧ 512 * (g / 8) < a + n) else decide (a < 64 * g + 64 ∧ 64 * g < a + n)

/-- Block b is stored compressed and is uncorrectable as a whole (R445). -/
def Hbm.lostBlock (h : Hbm) (b : Nat) : Bool :=
  match mfind h.compressed b with
  | some img => undecodable img || h.badGran.any fun g => g / 8 == b && decide (g % 8 < 4)
  | none => false

/-- What a write of n bytes at place a does to its blocks (R334, R335, R436, R445, R446): a whole granule is correct again, and an error that can be corrected
is; a compressed block is stored raw, and is uncorrectable if it was so and is only partly written; and a queued write-back of the scrubber is
cancelled. -/
def Hbm.wrote (h : Hbm) (a n : Nat) : Hbm :=
  let meets := fun (b : Nat) => decide (a < 512 * b + 512 ∧ 512 * b < a + n)
  let coded := fun (b : Nat) => meets b && (mfind h.compressed b).isSome
  let lost := fun (b : Nat) => meets b && h.lostBlock b && !(decide (a ≤ 512 * b ∧ 512 * b + 512 ≤ a + n))
  { h with
    badGran := (h.badGran.filter fun g => !coded (g / 8) && !(decide (a ≤ 64 * g ∧ 64 * g + 64 ≤ a + n))) ++
      ((h.compressed.map (·.1)).filter lost).flatMap fun b => (List.range 8).map (8 * b + ·),
    weak := h.weak.filter fun g => !coded (g / 8) && !(decide (a < 64 * g + 64 ∧ 64 * g < a + n)),
    compressed := h.compressed.filter fun b => !meets b.1, scrubs := h.scrubs.filter fun b => !meets b }

/-- hmask k, 2^k + 2^(k + 14) after reset (R332). -/
def State.hashMask (s : State) (k : Nat) : Nat := (mget (BitVec.ofNat 64 (2 ^ k + 2 ^ (k + 14))) s.hmask k).toNat

/-- The parity of the low n bits. -/
def parity : Nat → Nat → Nat
  | 0, _ => 0
  | n + 1, x => (x % 2 + parity n (x / 2)) % 2

/-- Where a physical address lies (R331): stack, channel, pseudo-channel, bank, row, byte in the page. -/
structure HbmPlace where
  stack : Nat
  ch : Nat
  pc : Nat
  bank : Nat
  row : Nat
  byte : Nat
deriving DecidableEq, Repr

def State.hbmPlace (s : State) (pa : Nat) : HbmPlace :=
  let b := pa / 512
  let q := b / 3
  let sel := fun k => parity 30 (q &&& s.hashMask k)
  let num := fun lo n => ((List.range n).map fun k => sel (lo + k) * 2 ^ k).sum
  { stack := 2 * (4 * (b % 3) + num 0 2) + sel 2, ch := num 3 5, pc := sel 8, bank := num 9 4, row := q / 2 ^ 14,
    byte := 512 * bits q 13 1 + pa % 512 }

/-- A corrected symbol is counted for the die and attributed to its pin (R434, R444, R447): which of the channel's 64 pins it is, is a free value
(NOTES.md, Assumption 8). At 64 within one scrub period the pin fails. -/
def State.countSymbol (s : State) (h : HbmPlace) : State :=
  let pin := (Config.freeWord s.free).toNat % 64
  let key := (h.stack * 32 + h.ch) * 64 + pin
  let period := s.clock / Config.scrubClocks
  let old := mget 0 s.hbm.symbols key
  let n := if old / 4096 = period then old % 4096 + 1 else 1
  let s := { s.countErrors (h.stack / 2) 1 with free := s.free + 1, hbm := { s.hbm with symbols := mput s.hbm.symbols key (period * 4096 + n) } }
  if n = 64 then { s with agenda := (s.clock, .pinRepair h.stack h.ch pin) :: s.agenda } else s

/-- The bank of an HBM4 place: (stack × 32 + channel) × 32 + pseudo-channel × 16 + bank. -/
def HbmPlace.key (h : HbmPlace) : Nat := (h.stack * 32 + h.ch) * 32 + h.pc * 16 + h.bank

/-- A demand access is served at a place of HBM4 in this clock (R346). -/
def State.useBank (s : State) (a : Nat) : State :=
  { s with hbm := { s.hbm with busy := (s.hbmPlace (a - 2 ^ 41)).key :: s.hbm.busy.filter (· != (s.hbmPlace (a - 2 ^ 41)).key) } }

/-- A granule with an error that the check corrects is read and merged by a write of n bytes at place a, which does not cover it whole (R436). -/
def Hbm.merges (h : Hbm) (a n g : Nat) : Bool :=
  h.reads a n g && !(if (mfind h.compressed (g / 8)).isSome then decide (a ≤ 512 * (g / 8) ∧ 512 * (g / 8) + 512 ≤ a + n) else decide (a ≤ 64 * g ∧ 64 * g + 64 ≤ a + n))

/-- n bytes at place a are written; the errors that a merge corrects are counted (R434, R436). -/
def State.store (s : State) (a n w : Nat) : State :=
  let s := { s with mem := Memory.write s.mem a n w }
  if !inHbm a then s else
    let ws := s.hbm.weak.filter (s.hbm.merges a n)
    let s := ws.foldl (fun s g => s.countSymbol (s.hbmPlace (64 * g - 2 ^ 41))) (s.useBank a)
    { s with hbm := s.hbm.wrote a n }

/-- Write n bytes at virtual address va where it translates. -/
def State.writeVA (s : State) (node ctx v va n w : Nat) : State :=
  ((pieces va n).foldl (fun (q : State × Nat) p =>
    (match q.1.resolvePage node ctx (p.1 / pageBytes) v with
     | some b => q.1.store (b + p.1 % pageBytes) p.2 (q.2 % 256 ^ p.2)
     | none => q.1, q.2 / 256 ^ p.2)) (s, w)).1

/-- A whole row of a store-back: a 512-byte block of BF16 codes is stored compressed where it fits (R334). -/
def State.writeRowVA (s : State) (node ctx v va : Nat) (img : Image) (tag : Tag) : State :=
  let s := s.writeVA node ctx v va 512 img.toNat
  match s.resolvePage node ctx (va / pageBytes) v with
  | some b =>
    let a := b + va % pageBytes
    match (if inHbm a && a % 512 == 0 && tag == 0x01 then codeBlock img else none) with
    | some coded => { s with hbm := { s.hbm with compressed := mput s.hbm.compressed (a / 512) coded } }
    | none => s
  | none => s

/-- Some byte of the range lies at a physical address that has no location (R331). -/
def State.badPlace (s : State) (node ctx v va n : Nat) : Option Nat :=
  (pieces va n).findSome? fun p =>
    match s.resolvePage node ctx (p.1 / pageBytes) v with
    | some b => noSuchPlace (b + p.1 % pageBytes + p.2 - 1)
    | none => none

/-- Committed memory as the Roundabouts read it: record words, trip counts, guard words, queue descriptors (R19, R22). -/
def State.readCommitted (s : State) (ctx va n : Nat) : Nat := s.readVA (2 ^ 40) ctx s.clock va n

/-- Extent k of an instance (R79). -/
def Inst.ext (x : Inst) (k : Nat) : Option Ext := x.exts.find? fun e => e.num == k

/-- The node key under which an instance's shadows stand: its spawn set's or its record's (R308). -/
def Inst.shadowNode (x : Inst) : Nat := match x.spawnSet with | some n => 2 ^ 32 + n | none => x.node

/-- The translation agent is asked for a page, unless it has been already (R424, R457). -/
def State.askPage (s : State) (ctx page : Nat) : State :=
  let page := plainPage page
  if s.atsReq.contains (ctx, page) || s.pageReq.any (fun p => p.1 == ctx && p.2.1 == page) then s
  else { s with atsReq := s.atsReq ++ [(ctx, page)] }

/-! ### HBM4 places (R331-R333, R344, R447) -/

/-- An access to physical address pa waits: its die is not Active, its stack has not started, its channel pauses, or its bank refreshes (R333, R344, R345,
R447). One at an address that no location answers to waits, and ends the run (`noLocation`). -/
def State.placeWaits (s : State) (pa : Nat) : Bool :=
  let h := s.hbmPlace pa
  decide (Config.hbmBytes ≤ pa) || (s.getDie (h.stack / 2)).power.cur != 0 || s.hbm.starting.contains h.stack || decide (s.clock < mget 0 s.hbm.pause (h.stack * 32 + h.ch)) ||
    decide (s.clock < mget 0 s.hbm.hold h.key)

/-- A granule of HBM4 in the range is uncorrectable, or lies in an uncorrectable compressed block (R444, R445): its physical address. -/
def State.badHbm (s : State) (node ctx v va n : Nat) : Option Nat :=
  (pieces va n).findSome? fun p =>
    match s.resolvePage node ctx (p.1 / pageBytes) v with
    | some b =>
      let a := b + p.1 % pageBytes
      if inHbm a then
        match s.hbm.badGran.find? (s.hbm.reads a p.2) with
        | some g => some (64 * g - 2 ^ 41)
        | none => ((s.hbm.compressed.map (·.1)).find? fun b => decide (a < 512 * b + 512 ∧ 512 * b < a + p.2) && s.hbm.lostBlock b).map fun b => 512 * b - 2 ^ 41
      else none
    | none => none

/-- A read of n bytes at a place of HBM4: errors that the check corrects are counted and stay where they are (R444). -/
def State.correctAt (s : State) (a n : Nat) : State :=
  if inHbm a then (s.hbm.weak.filter (s.hbm.reads a n)).foldl (fun s g => s.countSymbol (s.hbmPlace (64 * g - 2 ^ 41))) (s.useBank a) else s

/-- The same for n bytes at a virtual address. -/
def State.correctHbm (s : State) (node ctx v va n : Nat) : State :=
  (pieces va n).foldl (fun (s : State) p => match s.resolvePage node ctx (p.1 / pageBytes) v with
    | some b => s.correctAt (b + p.1 % pageBytes) p.2
    | none => s) s

/-- The 512-byte blocks of HBM4 that n bytes at virtual address va touch. -/
def State.blocksOf (s : State) (node ctx v va n : Nat) : List Nat :=
  (pieces va n).flatMap fun p =>
    match s.resolvePage node ctx (p.1 / pageBytes) v with
    | some b =>
      let a := b + p.1 % pageBytes
      if inHbm a then (List.range ((a - 2 ^ 41 + p.2 - 1) / 512 + 1 - (a - 2 ^ 41) / 512)).map ((a - 2 ^ 41) / 512 + ·) else []
    | none => []

/-- An access to these blocks waits at a memory router: one of them cannot be served now, or an access that came before waits for it (R335). -/
def State.mustQueue (s : State) (blocks : List Nat) : Bool :=
  blocks.any fun b => s.placeWaits (512 * b) || s.hbm.queue.any fun q => q.1.contains b

/-- It joins those that wait. -/
def State.joinQueue (s : State) (blocks : List Nat) (ev : Instr) : State := { s with hbm := { s.hbm with queue := s.hbm.queue ++ [(blocks, ev)] } }

/-- An access that has come to a memory router names an address at which HBM4 has no location (R8, R331): the run ends with a fault of its own
(NOTES.md, Assumption 110). -/
def State.noLocation (s : State) : Option Nat :=
  s.hbm.queue.findSome? fun q => (q.1.find? fun b => decide (Config.hbmBytes ≤ 512 * b)).map (512 * ·)

/-- Some block of n bytes at virtual address va cannot be served now. -/
def State.memoryWaits (s : State) (node ctx v va n : Nat) : Bool := s.mustQueue (s.blocksOf node ctx v va n)

/-- An access of a Roundabout to n bytes of virtual memory comes about as event ev once it is served: it waits at its memory router in order of
arrival (R335), or is tried again in the next clock where a translation is missing. -/
def State.waitFor (s : State) (ctx va n : Nat) (ev : Instr) : State :=
  if s.mapped (2 ^ 40) ctx s.clock va n then s.joinQueue (s.blocksOf (2 ^ 40) ctx s.clock va n) ev else s.post (s.clock + 1) ev

/-- The waiting accesses in a new clock, in order of arrival: those whose blocks can be served and are not waited for by an earlier one come about
ahead of what falls in this clock (R335). -/
def State.serveQueue (s : State) : State :=
  let (left, go) := s.hbm.queue.foldl (fun (acc : List (List Nat × Instr) × List Instr) q =>
    if q.1.any fun b => s.placeWaits (512 * b) || acc.1.any fun p => p.1.contains b then (acc.1 ++ [q], acc.2) else (acc.1, acc.2 ++ [q.2])) ([], [])
  { s with hbm := { s.hbm with queue := left }, agenda := go.map (fun e => (s.clock, e)) ++ s.agenda }

/-! ### Routes to memory and to cores (R10, R321, R331, R339) -/

/-- The router through which a place in memory is reached: the memory router of its channel, or the host port's edge router (R10, R331, R339). -/
def State.routerOf (s : State) (place : Nat) : Nat :=
  if inHbm place then
    let h := s.hbmPlace (place - 2 ^ 41)
    memoryRouter h.stack h.ch
  else hostRouter

/-- The places of the pieces of n bytes from a virtual address. -/
def State.placesOf (s : State) (node ctx v va n : Nat) : List Nat :=
  (pieces va n).filterMap fun p => (s.resolvePage node ctx (p.1 / pageBytes) v).map (· + p.1 % pageBytes)

/-- From a core to a router, and, if data comes back, from there to the core. -/
def State.trip (s : State) (core g : Nat) (back : Bool) : List (Nat × Nat × Nat) × State :=
  let (there, s) := s.path (coreRouter core) g
  if back then
    let (home, s) := s.path g (coreRouter core)
    (there ++ home ++ [(coreRouter core, 0, 0)], s)
  else (there ++ [(g, 16, 0)], s)

/-- From one core to another. -/
def State.toCore (s : State) (c c' : Nat) : List (Nat × Nat × Nat) × State :=
  if c = c' then ([], s)
  else
    let (r, s) := s.path (coreRouter c) (coreRouter c')
    (r ++ [(coreRouter c', 0, 0)], s)

/-- Trips to several ends. -/
def State.trips (s : State) {α : Type} (one : State → α → List (Nat × Nat × Nat) × State) (ends : List α) : List (List (Nat × Nat × Nat)) × State :=
  ends.foldl (fun (q : List (List (Nat × Nat × Nat)) × State) e => let r := one q.2 e; (q.1 ++ [r.1], r.2)) ([], s)

/-! ### Shadow pools (R296, R308, R309; NOTES.md, Assumption 9) -/

/-- Word k of a context descriptor (R296, R420). -/
def State.ctxWord (s : State) (ctx k : Nat) : Nat := Memory.read s.mem (ctxBase ctx + 8 * k) 8

def Pool.reset : Pool := ⟨0, []⟩
def State.pool (s : State) (ctx : Nat) : Pool := mget Pool.reset s.pools ctx
def State.setPool (s : State) (ctx : Nat) (p : Pool) : State := { s with pools := mset Pool.reset s.pools ctx p }

/-- The pages of 64 KiB that lie in one page of the context with page p at translations of clock v: 32 in a page of 2 MiB (R79). -/
def State.pageGroup (s : State) (ctx p v : Nat) : List Nat :=
  if s.trans.any fun t => t.ctx == ctx && t.page == p && t.big && (match t.till with | some c => decide (v < c) | none => true) then
    (List.range 32).map (p / 32 * 32 + ·)
  else [p]

/-- The virtual page of page k of the pool, and where it lies once it is translated. -/
def State.poolPage (s : State) (ctx k : Nat) : Nat := s.ctxWord ctx 2 % 2 ^ 57 / pageBytes + k
def State.poolPlace (s : State) (ctx k : Nat) : Option Nat := s.resolvePage (2 ^ 40) ctx (s.poolPage ctx k) s.clock
def State.poolSize (s : State) (ctx : Nat) : Nat := bits (s.ctxWord ctx 3) 0 32

/-- A place that new translations have not named since clock `since` is still in use: as a shadow, in a share, as the source of a copy to come, or by an
older translation of an instance, a command or a fetch (R309). -/
def State.placeUsed (s : State) (ctx place since : Nat) : Bool :=
  s.shadows.any (fun h => h.place == place) || s.insts.any (fun p => p.2.copies.any fun c => c.src == place) || s.shares.any (fun h => h.pages.any fun p => p.2 == place) ||
    s.insts.any (fun p => p.2.ctx == ctx && (p.2.st == .running || p.2.st == .saving) &&
      p.2.decks.any fun n => (s.getDeck n).inst == some p.1 && (decide (p.2.viewAt (2 * n) < since) || decide (p.2.viewAt (2 * n + 1) < since))) ||
    s.cores.any (fun k => k.2.cmds.any fun c => decide (c.view < since) && (match c.inst with | some i => (s.getInst i).ctx == ctx | none => false)) ||
    s.extWait.any fun w => w.ctx == ctx && decide (w.view < since)

/-- Places that have come back to the pool and are free. -/
def State.poolBack (s : State) (ctx : Nat) : List (Nat × Nat) := (s.pool ctx).back.filter fun p => !s.placeUsed ctx p.1 p.2

/-- The pages of the pool that are handed out for the first time when n are taken. -/
def State.poolFresh (s : State) (ctx n : Nat) : List Nat := (List.range (n - (s.poolBack ctx).length)).map ((s.pool ctx).used + ·)

/-- The pool, of `size` pages, has n to give; the pages still to be translated are asked for. -/
def State.poolReady (s : State) (ctx size n : Nat) : Bool := (s.poolFresh ctx n).all fun k => decide (k < size) && (s.poolPlace ctx k).isSome
def State.askPool (s : State) (ctx size n : Nat) : State :=
  ((s.poolFresh ctx n).filter fun k => decide (k < size) && (s.poolPlace ctx k).isNone).foldl (fun s k => s.askPage ctx (s.poolPage ctx k)) s

/-- A page is taken from the pool: one that has come back, else the next one. -/
def State.takePage (s : State) (ctx : Nat) : Nat × State :=
  let p := s.pool ctx
  match s.poolBack ctx with
  | b :: _ => (b.1, s.setPool ctx { p with back := p.back.erase b })
  | [] => ((s.poolPlace ctx p.used).getD 0, s.setPool ctx { p with used := p.used + 1 })

/-- A place in HBM4 goes back to the pool of its context, unless a share holds it; it is free once nothing uses it (R309, R312). -/
def State.givePage (s : State) (ctx place : Nat) : State :=
  let p := s.pool ctx
  if inHbm place && !(p.back.any fun b => b.1 == place) then s.setPool ctx { p with back := p.back ++ [(place, s.clock)] } else s

/-- Pages of a node that take shadows: those of `ps`, whole, that have none yet. -/
def State.unshadowed (s : State) (node ctx v : Nat) (ps : List Nat) : List Nat :=
  (ps.flatMap fun p => s.pageGroup ctx p v).eraseDups.filter fun p => !(s.shadows.any fun h => h.node == node && h.ctx == ctx && h.page == p)

/-- The bytes of page p, from the first below the second, that an extent written whole leaves undefined (R308). -/
def Ext.undefinedIn (p : Nat) (e : Ext) : Option (Nat × Nat) :=
  let lo := min pageBytes (e.base - p * pageBytes)
  let hi := min pageBytes (e.base + e.len - p * pageBytes)
  if e.whole && e.access != 0 && decide (lo < hi) then some (lo, hi) else none

/-- Page p of a node takes a shadow page, whose contents are to come from place `src`, but for the bytes that the extents `es` leave undefined. -/
def State.newShadow (s : State) (node ctx i : Nat) (es : List Ext) (p src : Nat) : PageCopy × State :=
  let (place, s) := s.takePage ctx
  (⟨src, place, es.filterMap (Ext.undefinedIn p)⟩, { s with shadows := s.shadows ++ [⟨node, ctx, p, place, [i]⟩] })

/-- The pages of `ps` that an extent of instance i, one of `es`, writes have shadows: those that are there are mapped by the instance too, the others are
taken from the pool, with the copies they need (R80, R308). -/
def State.makeShadows (s : State) (node ctx v i : Nat) (es : List Ext) (ps : List Nat) : List PageCopy × State :=
  ((ps.flatMap fun p => s.pageGroup ctx p v).eraseDups).foldl (fun (q : List PageCopy × State) p =>
    let s := q.2
    if s.shadows.any fun h => h.node == node && h.ctx == ctx && h.page == p then
      (q.1, { s with shadows := s.shadows.map fun h =>
        if h.node = node ∧ h.ctx = ctx ∧ h.page = p ∧ !h.owners.contains i then { h with owners := h.owners ++ [i] } else h })
    else
      let (c, s) := s.newShadow node ctx i es p ((s.resolvePage node ctx p v).getD 0)
      (q.1 ++ [c], s)) ([], s)

/-- The shadow of a page that an extent written whole covers takes no copy: all of its bytes are undefined. -/
def PageCopy.free (c : PageCopy) : Bool := c.undef.any fun u => u.1 == 0 && u.2 == pageBytes

/-- The blocks of HBM4 of the page at a place, and those that a copy reads and writes. -/
def pageBlocks (place : Nat) : List Nat := if inHbm place then (List.range (pageBytes / 512)).map ((place - 2 ^ 41) / 512 + ·) else []
def PageCopy.blocks (c : PageCopy) : List Nat := pageBlocks c.src ++ pageBlocks c.dst

/-- The uncorrectable granules among the n bytes at a place of HBM4, those of a compressed block that is uncorrectable as a whole too (R435, R445). -/
def State.badWithin (s : State) (a n : Nat) : List Nat :=
  if !inHbm a then [] else (List.range (n / 64)).map (a / 64 + ·) |>.filter fun g => s.hbm.badGran.contains g || s.hbm.lostBlock (g / 8)

/-- Bytes `lo` to below `hi` of a page take the free value's (R308). -/
def pageWith (old new lo hi : Nat) : Nat := old % 256 ^ lo + 256 ^ lo * bits new (8 * lo) (8 * (hi - lo)) + 256 ^ hi * (old / 256 ^ hi)

/-- A shadow of instance i takes its contents: those of the page it stands for, but for the bytes that are undefined (R308). An uncorrectable granule is
a machine check for the instance, and stays one in the copy (R436, R444). -/
def State.copyPage (s : State) (i : Nat) (c : PageCopy) : State :=
  let bad := if c.free then [] else s.badWithin c.src pageBytes
  let s := if c.free then s else s.correctAt c.src pageBytes
  let old := Memory.read s.mem c.src pageBytes
  let new := (Config.freePage s.free).toNat
  let (data, s) := if c.undef.isEmpty then (old, s) else (c.undef.foldl (fun w u => pageWith w new u.1 u.2) old, { s with free := s.free + 1 })
  let s := s.store c.dst pageBytes data
  match bad with
  | [] => s
  | g :: _ =>
    let x := s.getInst i
    let n := x.decks.headD 0
    let s := { s with hbm := { s.hbm with badGran := s.hbm.badGran ++ bad.map fun g => g - c.src / 64 + c.dst / 64 } }
    (s.logError 0x09 (n / 4) n x.node (BitVec.ofNat 64 (64 * g - 2 ^ 41))).checkInst i

/-- The extent walker of core c has used a translation: it is the youngest of at most 256 (R80). A miss finds the Roundabout's translation and
takes it (R424). -/
def State.walk (s : State) (c ctx page : Nat) : State :=
  s.modCore c fun k => { k with walker := ((ctx, page) :: k.walker.filter (· != (ctx, page))).take 256 }

/-- The record of a `hld` at a virtual address, all of whose pages are translated, is fetched (R191). -/
def State.fetchRecord (s : State) (n : Nat) (i : Inst) (v va entry gen : Nat) : State :=
  let (rs, s) := s.trips (fun s g => s.trip (n / 4) g true) ((s.placesOf i.shadowNode i.ctx v va 64).map s.routerOf).eraseDups
  s.carry rs (s.clock + 1) farOff (.hldRecordArrival n entry gen)

end Sys2Proof.Machine
end

