-- ==== Sys2Proof/Machine/Access.lean ====
section
/-! DEFINITION. The access instructions of map A but the engine commands (spec 08 R185-R199), and the events they lead to. -/
namespace Sys2Proof.Machine

/-! ### Address words and operands -/

/-- An address word in one of its forms (R185). -/
inductive Addr where
  | store (a : Nat)
  | remote (core a : Nat)
  | extent (e off : Nat)
  | bad
deriving DecidableEq, Repr

/-- R185: the bits a form marks zero must hold zero. -/
def addrOf (w : Word) : Addr :=
  let n := w.toNat
  if bits n 63 1 = 1 then (if bits n 57 2 = 0 then .extent (bits n 59 4) (bits n 0 57) else .bad)
  else if bits n 39 23 ≠ 0 ∨ bits n 26 6 ≠ 0 then .bad
  else if bits n 62 1 = 1 then (if bits n 32 7 < Config.numCores then .remote (bits n 32 7) (bits n 0 26) else .bad)
  else if bits n 32 7 = 0 then .store (bits n 0 26) else .bad

/-- The scalar operands of an access syllable, or the captured ones when `rfe` issues it again (R387). -/
def State.opA (s : State) (r : BitVec 6) : Word := match s.issue.anew with | some a => a.xa | none => s.x r
def State.opB (s : State) (r : BitVec 6) : Word := match s.issue.anew with | some a => a.xb | none => s.x r
/-- Rows already done by a syllable that is issued again. -/
def State.redone (s : State) : Nat := match s.issue.anew with | some a => a.done | none => 0
/-- The syllable is issued again by `rfe`. -/
def State.isReplay (s : State) : Bool := s.issue.anew.isSome

/-- A revocable syllable: at most 64 may be open (R385). -/
def State.revocable (s : State) (h : Hd) (srcs : List (BitVec 6)) (f : State → State) : State :=
  if s.isReplay then f s else
    s.scalar h srcs fun s => if (s.dk.revoc.filter Revoc.open).length ≥ 64 then s.stalled else f s

/-- An irrevocable access syllable waits until the sequencer's earlier revocable ones have passed; one that has failed never does (R385). -/
def State.irrevocable (s : State) (h : Hd) (srcs : List (BitVec 6)) (f : State → State) : State :=
  s.scalar h srcs fun s => if !isEx h && s.dk.revoc.any (fun r => r.left != 0 || r.failed.isSome) then s.stalled else f s

/-- Tile hi, the last that an access reaches, is a frame tile and the deck is in user mode (R381). -/
def State.frameBarred (s : State) (hi : Nat) : Bool := isFrameTile hi && !s.dk.sup

/-- The syllable as fetched, for the replay entry (R386). -/
def word64 (i : Instr) : Nat := (encode i).getD 0
/-- One that is issued again stands in its new entry as it stood in the old one. -/
def State.fetched (s : State) (i : Instr) : Nat := match s.issue.anew with | some a => a.syl | none => word64 i

/-- Record a revocable syllable (R385) whose number is the current issue number. -/
def State.addRevoc (s : State) (i : Instr) (xa xb : Word) (ids : List Nat) (left key : Nat) : State :=
  { s.modDk (fun d => { d with revoc := d.revoc ++ [⟨s.seq, false, s.fetched i, s.issue.pc, xa, xb, ids, left, s.redone, key, none, 0⟩] })
    with seq := s.seq + 1 }

/-- Passed syllables with no open or failed one before them are forgotten. -/
def pruneRevoc : List Revoc → List Revoc
  | [] => []
  | r :: rs => if r.left = 0 && r.failed.isNone then pruneRevoc rs else r :: rs

/-- One check of revocable syllable id of deck n has succeeded. -/
def State.passCheck (s : State) (n id : Nat) : State :=
  s.modDeck n fun d => { d with revoc := pruneRevoc (d.revoc.map fun r => if r.seq = id then { r with left := r.left - 1 } else r) }

/-- A late check of revocable syllable id of deck n failed (R385, R400): cause, detail and the fault address. -/
def State.failCheck (s : State) (n id cause detail : Nat) (addr : Word) : State :=
  s.modDeck n fun d => { d with revoc := d.revoc.map fun r =>
    if r.seq = id && r.failed.isNone then { r with failed := some (cause, tinfoOf true 0 r.pc detail, addr) } else r }

/-- The syllable is still recorded: it has not been squashed. -/
def State.liveRevoc (s : State) (n id : Nat) : Bool := (s.getDeck n).revoc.any fun r => r.seq == id

/-- What a deck meets when it samples granules lo to hi of row r of core c: 0 data, 1 silent zeros, else a cause (R401, R406, R419,
R421). -/
def Core.sample (c : Core) (r lo hi : Nat) : Nat :=
  match c.meet r with
  | .released => 9
  | .trap => 8
  | m => if c.pendBits.any fun g => decide (8 * r + lo ≤ g.1 ∧ g.1 ≤ 8 * r + hi) then 7 else if m = .silent then 1 else 0

/-- A deck's read consumes an uncorrectable granule, or has an error corrected (R435). -/
def State.consume (s : State) (n c r lo hi : Nat) : State :=
  if (s.getCore c).meet r != .data then s
  else if (s.getCore c).badIn r lo hi then (s.correct c r lo hi).checkDeck 0x01 n (BitVec.ofNat 64 (512 * r + 64 * lo)) else s.correct c r lo hi

/-- p30 of deck n becomes all ones in this clock, as a write of slot A (R188). -/
def State.expired30 (s : State) (n id lat : Nat) : State :=
  s.modDeck n fun d => { d with latches := d.latches ++
    [⟨s.clock + lat, 0, id, .p 30, BitVec.allOnes 128, (BitVec.allOnes 128).setWidth 4096, 0, 0⟩] }

/-- Entries that have become poppable lose the expiry mark; true when one had it (R50, R188). -/
def settle : List QEntry → List QEntry × Bool
  | [] => ([], false)
  | e :: es =>
    if e.arrived then
      let r := settle es
      ({ e with zeroed := false } :: r.1, e.zeroed || r.2)
    else (e :: es, false)

/-- Data arrives in a reserved operand-queue entry (R50). -/
def State.arriveOq (s : State) (n q ent id : Nat) (data : Image) (tag : Tag) (zeroed : Bool) : State :=
  let d := s.getDeck n
  let es := (mget [] d.oq q).map fun e => if e.id = ent && !e.arrived then { e with data := data, tag := tag, arrived := true, zeroed := zeroed } else e
  let r := settle es
  let s := s.setDeck n { d with oq := mset [] d.oq q r.1 }
  if r.2 then s.expired30 n id 0 else s

/-! ### Scalar loads and stores (R186-R188) -/

/-- The aligned address of a scalar access of 2^k bytes. -/
def alignedAddr (a k : Nat) : Nat := a / 2 ^ k * 2 ^ k

/-- A load of 2^k bytes (R186, R187). -/
def State.lds (s : State) (i : Instr) (h : Hd) (b : XI) (k : Nat) : State :=
  s.revocable h [b.xa] fun s =>
    let w := s.opA b.xa + b.imm.signExtend 64
    match addrOf w with
    | .store a =>
      if s.frameBarred (a / 16384) then s.raise h 0x11 0 w
      else
        let id := s.seq
        let s := s.addRevoc i (s.opA b.xa) 0 [] 1 0
        let s := if b.xd = 0 then s else s.modDk fun d => { d with ldsWait := d.ldsWait ++ [(id, b.xd.toNat)] }
        s.access (s.clock + 2) s.cn s.dn false (deckPrio s.dn false) (.ldsRead id (alignedAddr a k) (2 ^ k) b.xd.toNat)
    | _ => s.raise h 0x0B 0 w

/-- The read point of a scalar load (R187, R188): the result lands two clocks later. -/
def State.ldsSample (s : State) (n c id a size rd : Nat) : State :=
  if !s.liveRevoc n id then s else
    let r := a / 512
    let g := a % 512 / 64
    let code := (s.getCore c).sample r g g
    if code ≥ 2 then s.failCheck n id code 0 (BitVec.ofNat 64 a)
    else
      let s := s.consume n c r g g
      let (row, s) := s.ownRow n c r
      let v := if code = 1 then 0 else bits row.toNat (8 * (a % 512)) (8 * size)
      let s := if rd = 0 then s else s.modDeck n fun d => { d with latches := d.latches ++
        [⟨s.clock + 2, 0, id, .x rd, BitVec.allOnes 128, BitVec.ofNat 4096 v, 0, 0⟩] }
      let s := if code = 1 then s.expired30 n id 2 else s
      s.passCheck n id

/-- A store of 2^k bytes: a partial write that performs at issue + 6 (R186). -/
def State.sts (s : State) (h : Hd) (b : XI) (k : Nat) : State :=
  s.irrevocable h [b.xa, b.xd] fun s =>
    let w := s.x b.xa + b.imm.signExtend 64
    match addrOf w with
    | .store a =>
      if s.frameBarred (a / 16384) then s.raise h 0x11 0 w
      else if (s.ck.tile (a / 16384)).published then s.raise h 0x13 0 w
      else
        let a := alignedAddr a k
        s.access (s.clock + 6) s.cn s.dn false (deckPrio s.dn false)
          (.write (a / 512) (byteRange (a % 512) (2 ^ k)) ((s.x b.xd).setWidth 4096 <<< (8 * (a % 512))) none)
    | _ => s.raise h 0x0B 0 w

def execLdsB (h : Hd) (b : XI) (s : State) : Out := .next (s.lds (.ldsB h b) h b 0)
def execLdsH (h : Hd) (b : XI) (s : State) : Out := .next (s.lds (.ldsH h b) h b 1)
def execLdsW (h : Hd) (b : XI) (s : State) : Out := .next (s.lds (.ldsW h b) h b 2)
def execLdsD (h : Hd) (b : XI) (s : State) : Out := .next (s.lds (.ldsD h b) h b 3)
def execStsB (h : Hd) (b : XI) (s : State) : Out := .next (s.sts h b 0)
def execStsH (h : Hd) (b : XI) (s : State) : Out := .next (s.sts h b 1)
def execStsW (h : Hd) (b : XI) (s : State) : Out := .next (s.sts h b 2)
def execStsD (h : Hd) (b : XI) (s : State) : Out := .next (s.sts h b 3)

/-! ### Reads into operand queues (R189) -/

/-- Reserve entries with numbers from id, all in one clock (R50). -/
def State.reserve (s : State) (q id : Nat) (tags : List Tag) : State :=
  s.modDk fun d => { d with oq := mset [] d.oq q (mget [] d.oq q ++ tags.zipIdx.map fun (t : Tag × Nat) => (⟨id + t.2, 0, t.1, false, false⟩ : QEntry)) }

/-- Accesses of the rows n0 … of an `ldq`: row r at issue + 2 + r. -/
def State.ldqRows (s : State) (q id n0 : Nat) (want : Option (BitVec 8)) : Nat → Nat → State
  | _, 0 => s
  | r, k + 1 =>
    (s.access (s.clock + 2 + r) s.cn s.dn false (deckPrio s.dn false)
      (.ldqRead id (n0 + r) q (id + 1 + r) (if r = 0 then want else none) (BitVec.ofNat 64 (512 * (n0 + r))))).ldqRows q id n0 want (r + 1) k

def execLdq (h : Hd) (b : XRR) (s : State) : Out :=
  .next (s.revocable h [b.xa, b.xb] fun s =>
    let w := s.opA b.xa + s.opB b.xb
    let m := b.m.toNat
    let q := bits m 0 3
    let k := s.redone
    let rows := bits m 3 3 + 1 - k
    let want : Option (BitVec 8) := if bits m 6 1 = 1 ∧ k = 0 then some (BitVec.ofNat 8 (bits m 7 8)) else none
    let full := decide ((mget [] s.dk.oq q).length + rows > 8)
    match addrOf w with
    | .store a =>
      let n0 := a / 512 + k
      if rows = 0 then s
      else if full then s.stalled
      else if s.frameBarred ((n0 + rows - 1) / 32) then s.raise h 0x11 0 w
      else if n0 + rows - 1 ≥ Config.storeRows then s.raise h 0x0B 0 w
      else
        let id := s.seq
        let s := s.reserve q (id + 1) ((List.range rows).map fun r => (s.ck.tile ((n0 + r) / 32)).tag)
        let s := s.addRevoc (.ldq h b) (s.opA b.xa) (s.opB b.xb) ((List.range rows).map fun r => id + 1 + r) rows 0
        let s := { s with seq := s.seq + rows }
        s.ldqRows q id n0 want 0 rows
    | .remote c a =>
      let n0 := a / 512 + k
      if rows = 0 then s
      else if full then s.stalled
      else if s.frameBarred ((n0 + rows - 1) / 32) then s.raise h 0x11 0 w
      else if n0 + rows - 1 ≥ Config.storeRows then s.raise h 0x0B 0 w
      else
        let id := s.seq
        let ids := (List.range rows).map fun r => id + 1 + r
        let s := s.reserve q (id + 1) ((List.range rows).map fun r => ((s.getCore c).tile ((n0 + r) / 32)).tag)
        let s := s.addRevoc (.ldq h b) (s.opA b.xa) (s.opB b.xb) ids rows 0
        let s := { s with seq := s.seq + rows,
                          remotes := s.remotes ++ [(⟨id, s.dn, id, c, n0, rows, q, ids, s.clock, want, BitVec.ofNat 64 (w.toNat / 2 ^ 26 * 2 ^ 26), 0, []⟩ : Remote)] }
        let (r, s) := s.toCore s.cn c
        s.carry [r] s.clock farOff (.remoteReadArrival id)
    | _ => if rows ≠ 0 ∧ full then s.stalled else s.raise h 0x0B 0 w)

/-- The read point of a local `ldq` row: the entry takes the row (R188, R189). -/
def State.ldqSample (s : State) (n c id row q ent : Nat) (want : Option (BitVec 8)) (addr : Word) : State :=
  if !s.liveRevoc n id then s else
    let k := s.getCore c
    let seqTag := (k.tile (row / 32)).seqTag
    if want.any (· != seqTag) then s.failCheck n id 0x06 (seqTag.toNat + (want.getD 0).toNat * 256) addr
    else
      let code := k.sample row 0 7
      if code ≥ 2 then s.failCheck n id code 0 addr
      else
        let s := s.consume n c row 0 7
        let tag := ((s.getDeck n).entriesOf.find? fun (e : QEntry) => e.id == ent).elim 0 (·.tag)
        let (img, s) := s.ownRow n c row
        (s.arriveOq n q ent id (if code = 1 then 0 else img) tag (code = 1)).passCheck n id

/-- R189: the request reaches the owning core, whose bank samples row r at this clock + r. The request of a syllable that no longer stands is dropped. -/
def execRemoteReadArrival (req : Nat) (s : State) : Out :=
  .next (match s.remotes.find? fun q => q.id == req with
    | some q => (List.range q.rows).foldl (fun s r => s.access (s.clock + r) q.core q.deck false remotePrio (.rmtRead req r)) s
    | none => s)

/-- The contents of a row of core c that deck n of another core reads (R121-R123). -/
def State.remoteImage (s : State) (n c row : Nat) : Image × State :=
  s.rowFor (s.getDeck n).inst (n / 4) c row

/-- A remote row is sampled at the owning core's bank. Its response takes the documented round trip without contention, and with it a free length more
(R189, R321, R323; NOTES.md, Assumption 7). -/
def State.remoteSample (s : State) (req r : Nat) : State :=
  match s.remotes.find? fun q => q.id == req with
  | none => s
  | some q =>
    let k := s.getCore q.core
    let row := q.row + r
    let seqTag := (k.tile (row / 32)).seqTag
    let bad := r == 0 && q.want.any (· != seqTag)
    let code := if bad then 6 else k.sample row 0 7
    let detail : Word := if bad then BitVec.ofNat 64 (seqTag.toNat + (q.want.getD 0).toNat * 256) else 0
    let s := if code < 2 then s.consume q.deck q.core row 0 7 else s
    let (img, s) := if code = 0 then s.remoteImage q.deck q.core row else (0, s)
    let s := { s with remotes := s.remotes.map fun (p : Remote) => if p.id = req then { p with sampled := p.sampled + 1, data := p.data ++ [(r, img, code, detail)] } else p }
    let (p, s) := s.toCore q.core (q.deck / 4)
    s.carry [p] (max (q.issued + roundTrip (q.deck / 4) q.core + r) (s.clock + 1)) farOff (.remoteReadResponse req r)

/-- R189, R385: the response of a row reaches the issuing core and is checked. -/
def execRemoteReadResponse (req row : Nat) (s : State) : Out :=
  .next (match s.remotes.find? fun q => q.id == req with
    | none => s
    | some q =>
      match q.data.find? fun p => p.1 == row with
      | none => s
      | some (_, img, code, detail) =>
        let rest := q.data.filter fun p => p.1 != row
        let s := { s with remotes := s.remotes.map fun (p : Remote) => if p.id = req then { p with data := rest, ids := p.ids } else p }
        let s := if code ≥ 2 then s.failCheck q.deck q.seq code detail.toNat (q.addr + BitVec.ofNat 64 (512 * (q.row + row)))
          else
            let ent := q.ids.getD row 0
            let tag := ((s.getDeck q.deck).entriesOf.find? fun (e : QEntry) => e.id == ent).elim 0 (·.tag)
            (s.arriveOq q.deck q.q ent q.seq img tag (code = 1)).passCheck q.deck q.seq
        if (s.getDeck q.deck).revoc.any fun r => r.seq == q.seq && r.left != 0 then s
        else { s with remotes := s.remotes.filter fun p => p.id != req })

/-! ### Layout records and handles (R70-R72, R190-R192) -/

def recWord (r : BitVec 512) (k : Nat) : Nat := bits r.toNat (64 * k) 64
def recKind (r : BitVec 512) : Nat := bits (recWord r 1) 62 2
def recExtent (r : BitVec 512) : Nat := bits (recWord r 1) 58 4
def recDims (r : BitVec 512) : Nat := bits (recWord r 1) 55 3
def recFormat (r : BitVec 512) : Nat := bits (recWord r 1) 50 5
def recFaults (r : BitVec 512) : Bool := bits (recWord r 1) 49 1 == 1
def recPadding (r : BitVec 512) : Nat := bits (recWord r 1) 0 32
def recStride (r : BitVec 512) (d : Nat) : Int :=
  let x := bits (recWord r (2 + d)) 32 32
  if x ≥ 2 ^ 31 then (x : Int) - 2 ^ 32 else (x : Int)
def recSize (r : BitVec 512) (d : Nat) : Nat := bits (recWord r (2 + d)) 16 16
def recBound (r : BitVec 512) (d : Nat) : Nat := bits (recWord r (2 + d)) 0 16

/-- The record breaks R70 (R406). -/
def recBad (r : BitVec 512) : Bool :=
  decide (recKind r ≥ 2) || recDims r == 0 || decide (recDims r > 5) || !isF (recFormat r) || bits (recWord r 1) 32 17 != 0 ||
    recWord r 7 != 0 || (recKind r == 0 && bits (recWord r 0) 26 38 != 0) ||
    (List.range (recDims r)).any fun d => recSize r d == 0 || decide (recBound r d > recSize r d)

/-- Offset in bits of the element at the indices, from the record's base (R71); elements of 6 bits take 3/4 byte (R190). -/
def recBits (r : BitVec 512) (idx : List Nat) : Int :=
  ((List.range (recDims r)).map fun d => (idx.getD d 0 : Int) * recStride r d).sum * tagBits (recFormat r)

/-- The element is in bounds (R71). -/
def recInside (r : BitVec 512) (idx : List Nat) : Bool := (List.range (recDims r)).all fun d => decide (idx.getD d 0 < recBound r d)

/-- Indices packed in a scalar register (R190). -/
def packedIndices (w : Word) (i4 : Nat) : List Nat := [bits w.toNat 0 16, bits w.toNat 16 16, bits w.toNat 32 16, bits w.toNat 48 16, i4]

/-- The element format's 6-bit elements must lie at whole bytes (R190, R192). -/
def wholeByte (r : BitVec 512) (o : Int) : Bool := !(recFormat r == 4 || recFormat r == 6) || o % 8 == 0

/-- The layout-cache entry of a handle, when its generation matches (R72); an empty entry, which no record has filled, matches no handle (R29, R455). -/
def Deck.handle (d : Deck) (w : Word) : Option LEntry :=
  let e := mget LEntry.zero d.lcache (bits w.toNat 0 6)
  if e.gen.toNat = bits w.toNat 6 6 ∧ !(e.arrived ∧ recDims e.record = 0) then some e else none

/-- Insert into a rising list without repeats. -/
def insertUniq (x : Nat) : List Nat → List Nat
  | [] => [x]
  | y :: ys => if x < y then x :: y :: ys else if x = y then y :: ys else y :: insertUniq x ys

/-- The elements of one entry (R190): index j, in-bounds bit address in the store, or none. -/
def ldqtElems (r : BitVec 512) (w : Word) : List (Nat × Option Nat × Bool) :=
  (List.range (if tagBits (recFormat r) = 6 then 512 else tagElems (recFormat r))).map fun j =>
    let idx := match packedIndices w 0 with
      | i0 :: t => (i0 + j) :: t
      | [] => []
    let o := recBits r idx
    if recInside r idx then (j, some ((8 * (recWord r 0 : Int) + o) % 2 ^ 29).toNat, wholeByte r o) else (j, none, true)

/-- The 128-byte bank words that hold the elements, rising. -/
def bankWords (w : Nat) (es : List (Nat × Nat)) : List Nat :=
  es.foldl (fun acc e => insertUniq ((e.2 + w - 1) / 8 % 2 ^ 26 / 128) (insertUniq (e.2 / 8 / 128) acc)) []

/-- The elements' bits that lie in one bank word, which the image of its row holds, placed in the entry. -/
def gatherWord (row : Image) (word w : Nat) (es : List (Nat × Nat)) : Nat :=
  es.foldl (fun acc e =>
    (List.range w).foldl (fun acc k =>
      let ba := (e.2 + k) % 2 ^ 29
      if ba / 1024 = word && row.getLsbD (ba % 4096) then acc + 2 ^ (w * e.1 + k) else acc) acc) 0

def execLdqt (h : Hd) (b : XRR) (s : State) : Out :=
  .next (s.revocable h [b.xa, b.xb] fun s =>
    let wa := s.opA b.xa
    let wb := s.opB b.xb
    let m := b.m.toNat
    let q := bits m 0 3
    let want : Option (BitVec 8) := if bits m 6 1 = 1 then some (BitVec.ofNat 8 (bits m 7 8)) else none
    if s.redone ≠ 0 then s else
    if (mget [] s.dk.oq q).length ≥ 8 then s.stalled else
    match s.dk.handle wa with
    | none => s.raise h 0x0A 0 0
    | some e =>
      if !e.arrived then s.stalled else
      let r := e.record
      let es := ldqtElems r wb
      let w := tagBits (recFormat r)
      let ins := es.filterMap fun x => x.2.1.map fun a => (x.1, a)
      let addr0 := (8 * (recWord r 0 : Int) + recBits r (packedIndices wb 0)) % 2 ^ 29
      let tile0 := addr0.toNat / 8 / 16384
      if recKind r == 0 && (bankWords w ins).any (fun k => s.frameBarred (k / 128)) then s.raise h 0x11 0 0
      else if recKind r == 0 && (s.ck.tile tile0).tag.toNat != recFormat r then s.raise h 0x03 ((s.ck.tile tile0).tag.toNat + 3 * 32) 0
      else if recKind r != 0 || es.any (fun x => !x.2.2) || (recFaults r && es.any fun x => x.2.1.isNone) then s.raise h 0x0A 0 0
      else
        let id := s.seq
        let pad := es.foldl (fun acc x => if x.2.1.isNone then acc + recPadding r % 2 ^ w * 2 ^ (w * x.1) else acc) 0
        let words := bankWords w ins
        let s := s.reserve q (id + 1) [BitVec.ofNat 5 (recFormat r)]
        let s := s.addRevoc (.ldqt h b) wa wb [id + 1] 1 0
        let s := { s with seq := s.seq + 1 }
        s.access (s.clock + 2) s.cn s.dn false (deckPrio s.dn false)
          (.ldqtRead id q (id + 1) words ins w (BitVec.ofNat 4096 pad) (BitVec.ofNat 5 (recFormat r)) (want.map fun t => (t, tile0)) false))

/-- The read of one bank word of an `ldqt`, whose documented point is clock at_; the sequence tag of element 0's tile is compared at the first; after the
last the entry arrives (R190). -/
def State.ldqtSample (s : State) (n c at_ id q ent : Nat) (words : List Nat) (es : List (Nat × Nat)) (w : Nat) (img : Image) (tag : Tag)
    (want : Option (BitVec 8 × Nat)) (silent : Bool) : State :=
  if !s.liveRevoc n id then s else
    match words with
    | [] => (s.arriveOq n q ent id img tag silent).passCheck n id
    | k :: ks =>
      let row := k / 4
      let g := 2 * (k % 4)
      let core := s.getCore c
      let seqTag := (core.tile ((want.map fun (x : BitVec 8 × Nat) => x.2).getD 0)).seqTag
      let addr := BitVec.ofNat 64 (128 * k)
      if want.any (fun (x : BitVec 8 × Nat) => x.1 != seqTag) then
        s.failCheck n id 0x06 (seqTag.toNat + ((want.map fun (x : BitVec 8 × Nat) => x.1).getD 0).toNat * 256) addr
      else
        let code := core.sample row g (g + 1)
        if code ≥ 2 then s.failCheck n id code 0 addr
        else
          let s := s.consume n c row g (g + 1)
          let (now, s) := s.ownRow n c row
          let img := if code = 1 then img else img ||| BitVec.ofNat 4096 (gatherWord now k w es)
          if ks.isEmpty then (s.arriveOq n q ent id img tag (silent || code == 1)).passCheck n id
          else s.access (at_ + 1) c n false (deckPrio n false) (.ldqtRead id q ent ks es w img tag none (silent || code == 1))

/-- Memory requests of core c: rows of its engines under way to or from memory, records being fetched (R12). -/
def State.requests (s : State) (c : Nat) : Nat :=
  ((List.range 3).map fun e => match ((s.getCore c).engine e).cur with
    | some q => if q.cmd.way.isSome || q.cmd.touchesExtent then q.launched.length else 0
    | none => 0).sum + (s.extWait.filter fun w => w.deck / 4 == c).length

/-- The layout-cache entry of a replayed `hld`. -/
def Again.hldEntry (a : Again) : Option Nat :=
  match decodeSyl .a (a.syl % 2 ^ 56 + 0xFF * 2 ^ 56) with
  | .ok (.hld _ b) => some (bits b.imm.toNat 0 6)
  | _ => none

/-- R191: the entry's generation steps and xd takes the handle; a replay fetches its record only (R387), the entry keeping the generation that the last
`hld` of it gave, so that an earlier one's record is not wanted any more (R72). A local record that would run past the end of the store raises 0x0B: DESIGN
CHOICE, neither R191 nor R406 says what it does (NOTES.md, Assumption 115). -/
def execHld (h : Hd) (b : XI) (s : State) : Out :=
  .next (s.revocable h [b.xa] fun s =>
    let w := s.opA b.xa
    let e := bits b.imm.toNat 0 6
    let old := mget LEntry.zero s.dk.lcache e
    let later := if s.isReplay then (s.dk.again.drop 1).countP fun a => a.hldEntry == some e else 0
    let gen := if s.isReplay then old.gen - BitVec.ofNat 6 later else old.gen + 1
    let enter := fun (s : State) =>
      let s := if later = 0 then s.modDk fun d => { d with lcache := mset LEntry.zero d.lcache e ⟨gen, 0, false⟩ } else s
      if s.isReplay then s else s.writeX h 1 b.xd (BitVec.ofNat 64 (gen.toNat * 64 + e))
    match addrOf w with
    | .store a =>
      if s.frameBarred ((a + 63) / 16384) then s.raise h 0x11 0 w
      else if a % 8 ≠ 0 ∨ a + 64 > 2 ^ 26 then s.raise h 0x0B 0 w
      else
        let id := s.seq
        let s := enter (s.addRevoc (.hld h b) w 0 [] 1 (gen.toNat * 64 + e))
        s.access (s.clock + 2) s.cn s.dn false (deckPrio s.dn false) (.hldRead id e gen.toNat a 0)
    | .extent x off =>
      if Config.memoryRequests ≤ s.requests s.cn then s.stalled else
      match s.inst.ext x with
      | none => s.raise h 0x0B 0 w
      | some ext =>
        if off % 8 ≠ 0 ∨ off + 64 > ext.len then s.raise h 0x0B 0 w
        else
          let i := s.inst
          let v := i.viewAt (2 * s.dn)
          let va := ext.base + off
          let s := enter (s.addRevoc (.hld h b) w 0 [] 1 (gen.toNat * 64 + e))
          let s := { s with extWait := s.extWait ++ [(⟨s.dn, e, gen.toNat, i.ctx, va, s.clock, v⟩ : ExtWait)] }
          match s.missing i.shadowNode i.ctx v va 64 with
          | some p => s.askPage i.ctx p
          | none =>
            (if ext.lazy_ then (pagesOf va 64).foldl (fun s p => s.walk s.cn i.ctx p) s else s).fetchRecord s.dn i v va e gen.toNat
    | _ => s.raise h 0x0B 0 w)

/-- The entry still waits for the record of this generation; else a later `hld` has taken it. -/
def State.wantsRecord (s : State) (n entry gen : Nat) : Bool :=
  let e := mget LEntry.zero (s.getDeck n).lcache entry
  e.gen.toNat == gen && !e.arrived

/-- The `hld` of this entry and generation that is still to pass. -/
def Deck.hldOf (d : Deck) (entry gen : Nat) : Option Revoc :=
  d.revoc.find? fun r => r.key == gen * 64 + entry && bits r.syl 33 8 == 0x8A && r.left != 0

/-- The record is there: it is checked under R70, goes into the entry if that still waits for it, and the `hld` passes (R191, R406). -/
def State.recordIn (s : State) (n entry gen : Nat) (record : BitVec 512) : State :=
  match (s.getDeck n).hldOf entry gen with
  | none => s
  | some r =>
    if recBad record then s.failCheck n r.seq 0x0A 0 r.xa
    else (if s.wantsRecord n entry gen then s.modDeck n fun d => { d with lcache := mset LEntry.zero d.lcache entry ⟨BitVec.ofNat 6 gen, record, true⟩ }
      else s).passCheck n r.seq

/-- The read of a local record, at documented point at_: what lies in its first bank word, then the rest; p30 turns all ones in the clock in which a
record with silent zeros arrives (R188, R191). -/
def State.hldSample (s : State) (n c at_ id entry gen a part : Nat) : State :=
  if !s.liveRevoc n id then s else
    let k := min 64 (128 - a % 128)
    let o := if part = 0 then 0 else k
    let len := if part = 0 then k else 64 - k
    let row := (a + o) / 512
    let g := (a + o) % 512 / 64
    let g' := ((a + o) % 512 + len - 1) / 64
    let code := (s.getCore c).sample row g g'
    if code ≥ 2 then s.failCheck n id code 0 (BitVec.ofNat 64 a)
    else
      let s := s.consume n c row g g'
      let (img, s) := s.ownRow n c row
      let v := if code = 1 then 0 else bits img.toNat (8 * ((a + o) % 512)) (8 * len)
      let done := part ≠ 0 ∨ k = 64
      let s := s.modDeck n fun d => { d with revoc := d.revoc.map fun r => if r.seq = id then { r with record := r.record ||| BitVec.ofNat 512 (putAt o v) } else r }
      let lat := if part = 0 then 2 else 1
      let silent := code = 1 ∨ part = 2
      if done then (if silent then s.expired30 n id lat else s).post (s.clock + lat) (.hldRecordArrival n entry gen)
      else s.access (at_ + 1) c n false (deckPrio n false) (.hldRead id entry gen a (if code = 1 then 2 else 1))

/-- R191: a record arrives, from the extent path or read out of the local store. -/
def execHldRecordArrival (deck entry gen : Nat) (s : State) : Out :=
  match s.extWait.find? fun w => w.deck == deck && w.entry == entry && w.gen == gen with
  | some w =>
    let i := match (s.getDeck deck).inst with | some i => s.getInst i | none => Inst.absent
    let v := w.view
    match s.badPlace i.shadowNode w.ctx v w.va 64 with
    | some pa => .fault (.noSuchAddress pa)
    | none =>
      let bs := s.blocksOf i.shadowNode w.ctx v w.va 64
      if s.mustQueue bs then .next (s.joinQueue bs (.hldRecordArrival deck entry gen)) else
      let s := { s with extWait := s.extWait.filter fun x => !(x.deck == deck && x.entry == entry && x.gen == gen) }
      let s := match s.badHbm i.shadowNode w.ctx v w.va 64 with
        | some pa => s.checkDeck 0x09 deck (BitVec.ofNat 64 pa)
        | none => s.correctHbm i.shadowNode w.ctx v w.va 64
      .next (s.recordIn deck entry gen (BitVec.ofNat 512 (s.readVA i.shadowNode w.ctx v w.va 64)))
  | none => .next (match (s.getDeck deck).hldOf entry gen with
    | some r => s.recordIn deck entry gen r.record
    | none => s)

/-- R192: xd takes the element's address and pd whether it is in bounds, both at latency 3. An SC4 element at half a byte has no stated
address: a free value (NOTES.md, Assumption 8). -/
def execHidx (h : Hd) (b : XRR) (s : State) : Out :=
  .next (s.irrevocable h [b.xa, b.xb, b.xd] fun s =>
    match s.dk.handle (s.x b.xa) with
    | none => s.raise h 0x0A 0 0
    | some e =>
      if !e.arrived then s.stalled else
      let r := e.record
      let idx := packedIndices (s.x b.xb) (bits (s.x b.xd).toNat 0 16)
      let o := recBits r idx
      if !wholeByte r o then s.raise h 0x0A 0 0
      else
        let base : Int := recWord r 0
        let addr : Word := if recKind r = 0 then BitVec.ofNat 64 ((base + o / 8) % 2 ^ 26).toNat
          else BitVec.ofNat 64 (2 ^ 63 + recExtent r * 2 ^ 59 + ((base + o / 8) % 2 ^ 57).toNat)
        let (addr, s) := if o % 8 = 0 then (addr, s) else (Config.freeWord s.free, { s with free := s.free + 1 })
        let pd := BitVec.ofNat 5 (bits b.m.toNat 0 5)
        (s.writeX h 3 b.xd addr).writeP h 3 pd (if recInside r idx then BitVec.allOnes 128 else 0))

/-! ### The slot directory (R75-R78, R193, R194) -/

def Way.empty : Way := ⟨0, 0, 0, 0, 0⟩
def dirBase (c : Core) : Nat := bits c.sdcfg.toNat 0 12
def dirSets (c : Core) : Nat := bits c.sdcfg.toNat 12 9
def dirSem (c : Core) : Nat := bits c.sdcfg.toNat 24 6
/-- The set of a block (R76). -/
def dirSet (c : Core) (blk : Nat) : Nat := (bits blk 0 8 ^^^ bits blk 8 8) % dirSets c
def Core.way (c : Core) (w : Nat) : Way := mget Way.empty c.ways w

/-- The slot-directory way in whose tile row n lies becomes empty if it was present (R78); its tag, pin count and rank stay. -/
def Core.dropWay (k : Core) (n : Nat) : Core :=
  { k with ways := k.ways.map fun (w : Nat × Way) =>
      if k.inDirectory (n / 32) && dirBase k + w.1 == n / 32 && w.2.st == 2 then (w.1, { w.2 with st := 0 }) else w }

/-- The way that holds a block, filling or present: its index 8 × set + way. -/
def Core.findWay (c : Core) (ctx blk : Nat) : Option Nat :=
  if dirSets c = 0 then none else
    ((List.range 8).map fun i => 8 * dirSet c blk + i).find? fun w => (c.way w).st != 0 && (c.way w).block == blk && (c.way w).ctx == ctx

/-- The least recently used way of the block's set that is neither pinned nor locked (R77, R193). -/
def Core.victimWay (c : Core) (blk : Nat) : Option Nat :=
  ((List.range 8).map fun i => 8 * dirSet c blk + i).foldl (fun best w =>
    if (c.way w).pin != 0 || !(c.tile (dirBase c + w)).locks.isEmpty then best
    else match best with
      | none => some w
      | some v => if (c.way w).used < (c.way v).used then some w else best) none

/-- The clock of the quiescent point whose translations an access of the issuing sequencer uses (R127). -/
def State.viewNow (s : State) (ex : Bool) : Nat := s.inst.viewAt (2 * s.dn + (if ex then 1 else 0))

/-- A command enters an engine's queue and takes the next issue number (R200). -/
def State.enterEngine (s : State) (eng : Nat) (c : Cmd) : State :=
  s.modCk fun k =>
    let e := k.engine eng
    k.setEngine eng { e with queue := e.queue ++ [{ c with num := e.count + 1 }], headAt := if e.queue.isEmpty then s.clock else e.headAt, count := e.count + 1 }

/-- Commands leave an engine's queue unperformed; a new head has come to it in this clock (R141). -/
def Engine.dropCmds (e : Engine) (off : Cmd → Bool) (clock : Nat) : Engine :=
  let q := e.queue.filter fun m => !off m
  { e with queue := q, headAt := if q.head? == e.queue.head? then e.headAt else clock }

/-- The queue of an engine holds 16 commands (R200). -/
def Core.engineFull (c : Core) (eng : Nat) : Bool := decide ((c.engine eng).queue.length ≥ Config.engineQueue)

def execProbe (h : Hd) (b : XI) (s : State) : Out :=
  .next (s.irrevocable h [b.xa] fun s =>
    let c := s.ck
    let ctx := s.inst.ctx
    let blk := bits (s.x b.xa).toNat 14 43
    let miss := fun (s : State) => if s.dk.fork then s.jump h (s.target b.imm) true else s
    match c.findWay ctx blk with
    | some w =>
      if s.frameBarred (dirBase c + w) then s.raise h 0x11 0 0
      else if (c.way w).st = 2 then
        (({ s with seq := s.seq + 1 }.modCk fun k => { k with ways := mput k.ways w { k.way w with used := s.seq + 1 } }).writeX h 2 b.xd
          (BitVec.ofNat 64 (dirBase c + w)))
      else miss (s.writeX h 2 b.xd (BitVec.ofNat 64 (2 ^ 63 + (dirBase c + w))))
    | none =>
      match (if dirSets c = 0 then none else c.victimWay blk) with
      | none => miss (s.writeX h 2 b.xd (BitVec.allOnes 64))
      | some w =>
        if c.engineFull 1 then s.stalled
        else if s.frameBarred (dirBase c + w) then s.raise h 0x11 0 0
        else
          let s := { s with seq := s.seq + 1 }.modCk fun k => { k with ways := mput k.ways w ⟨blk, ctx, 1, 0, s.seq + 1⟩ }
          let cmd : Cmd := ⟨0, 32, false, s.dn, isEx h, 0, s.clock, none, some (w, blk, dirBase c + w), s.earlierStores (isEx h), s.dk.inst, !s.dk.sup, s.viewNow (isEx h), false⟩
          let s := s.enterEngine 1 cmd
          miss (s.writeX h 2 b.xd (BitVec.ofNat 64 (2 ^ 63 + (dirBase c + w)))))

/-- R194: the count changes at issue + 1. -/
def State.pinBy (s : State) (h : Hd) (b : XRR) (up : Bool) : State :=
  s.irrevocable h [b.xa] fun s =>
    match s.ck.findWay s.inst.ctx (bits (s.x b.xa).toNat 14 43) with
    | some w => if s.frameBarred (dirBase s.ck + w) then s.raise h 0x11 0 0 else s.access (s.clock + 1) s.cn s.dn (isEx h) 0 (.pin w up)
    | none => s
def execPpin (h : Hd) (b : XRR) (s : State) : Out := .next (s.pinBy h b true)
def execPfree (h : Hd) (b : XRR) (s : State) : Out := .next (s.pinBy h b false)

/-- The pin count of a way changes, between 0 and 15 (R78). -/
def Core.pinWay (c : Core) (w : Nat) (up : Bool) : Core :=
  let x := c.way w
  if x.st = 0 then c else { c with ways := mput c.ways w { x with pin := if up then min 15 (x.pin + 1) else x.pin - 1 } }

/-! ### Lifetimes, release, marks, constants (R195-R199) -/

/-- Tiles xa[11:0] to min(xa[11:0] + u(xb), 4,096) − 1. -/
def tileRange (a b : Word) : List Nat := (List.range (min (bits a.toNat 0 12 + b.toNat) 4096 - bits a.toNat 0 12)).map (bits a.toNat 0 12 + ·)

/-- A request for each tile of a range (R195, R196). -/
def State.tileRequest (s : State) (h : Hd) (b : XRR) (r : TileReq) : State :=
  s.irrevocable h [b.xa, b.xb] fun s =>
    let ts := tileRange (s.x b.xa) (s.x b.xb)
    if !s.dk.sup && ts.any isFrameTile then s.raise h 0x11 0 0
    else s.modCk fun k => { k with tileReqs := k.tileReqs ++ ts.map fun t => (t, s.clock + 1, r) }
def execTcfg (h : Hd) (b : XRR) (s : State) : Out :=
  .next (s.tileRequest h b (.cfg (BitVec.ofNat 8 (bits b.m.toNat 0 8)) s.dn s.dk.inst))
def execTrel (h : Hd) (b : XRR) (s : State) : Out := .next (s.tileRequest h b .rel)

/-- The temperature-table entry of a band and class (R65, R66). -/
def ceiling (b : Nat) : Nat := 40960 / 2 ^ b
def nominal (c : Nat) : Nat := if c ≥ 6 then 65535 else 16 * 4 ^ c
def State.limitOf (s : State) (b c : Nat) : Nat :=
  if c ≥ 6 then ceiling b else (mget (BitVec.ofNat 16 (min (nominal c) (ceiling b))) s.tempTable (8 * b + c)).toNat
/-- The lifetime class of a tile; frame tiles have class L7 (R60, R381). -/
def Core.classOf (c : Core) (t : Nat) : Nat := if isFrameTile t then 7 else bits (c.tile t).cfg.toNat 4 3
/-- The current limit of a row and its warn point (R62). -/
def State.rowLimit (s : State) (c n : Nat) : Nat := s.limitOf (s.getCore c).band ((s.getCore c).classOf (n / 32))
def warnPoint (limit : Nat) : Nat := limit - max (limit / 8) 4

/-- The `tage` status of a row (R197). -/
def State.rowStatus (s : State) (c n : Nat) : Word :=
  let k := s.getCore c
  let t := k.tile (n / 32)
  let st := match (k.row n).st with
    | .invalid => 1
    | .released => 2
    | _ => 0
  let queued := k.refreshQ.contains n || k.offered.contains n
  BitVec.ofNat 64 (k.age n + t.cfg.toNat * 2 ^ 16 + st * 2 ^ 24 + (if queued then 2 ^ 26 else 0) + (if t.lost then 2 ^ 27 else 0) +
    s.rowLimit c n * 2 ^ 32)

/-- R197: the status as the clock began; `tage.c` clears the lost bit in this clock, which every `tage` of the clock still finds set. -/
def execTage (h : Hd) (b : XRR) (s : State) : Out :=
  .next (s.irrevocable h [b.xa] fun s =>
    let n := bits (s.x b.xa).toNat 0 17
    if s.frameBarred (n / 32) then s.raise h 0x11 0 0
    else
      let s := s.writeX h 2 b.xd (s.rowStatus s.cn n)
      if b.m.getLsbD 0 then s.access (s.clock + 1) s.cn s.dn (isEx h) 0 (.clearLost (n / 32)) else s)

/-- R123, R198: the mark takes effect once the sequencer's earlier stores have performed and the tile's locks are released. -/
def State.mark (s : State) (h : Hd) (b : XRR) (recv : Bool) : State :=
  s.irrevocable h [b.xa] fun s =>
    let t := bits (s.x b.xa).toNat 0 12
    if s.frameBarred t then s.raise h 0x11 0 0
    else s.post (s.clock + 1) (.tileMarkTakeEffect s.cn t recv (s.earlierStores (isEx h)))
def execPub (h : Hd) (b : XRR) (s : State) : Out := .next (s.mark h b false)
def execPubR (h : Hd) (b : XRR) (s : State) : Out := .next (s.mark h b true)

def execTileMarkTakeEffect (core tile : Nat) (recv : Bool) (stores : List Nat) (s : State) : Out :=
  .next (if s.storesPending stores || !((s.getCore core).tile tile).locks.isEmpty then s.post (s.clock + 1) (.tileMarkTakeEffect core tile recv stores)
    else s.modCore core fun k => k.modTile tile fun t => if recv then { t with receivable := true } else { t with published := true })

def execLdk (h : Hd) (b : XL) (s : State) : Out :=
  .next (s.irrevocable h [] fun s => s.writeX h 2 b.xd (BitVec.ofNat 64 (Memory.read s.mem (istoreBase s.cn + 8 * b.imm.toNat) 8)))

end Sys2Proof.Machine
end

