-- ==== Sys2Proof/Machine/Engines.lean ====
section
/-! DEFINITION. The Trams and the Culvert: `ecmd`, commands leaving their queues, rows performing, pages, faults and completion (spec 05
R111-R114, spec 08 R200-R208, spec 21 R408-R409, spec 22 R421-R426, R458, R459). -/
namespace Sys2Proof.Machine

/-! ### What a command does -/

/-- An operation, rows numbered in their store (R203, R204, R207; the fill of R193). -/
inductive Job where
  | copy (d s : Nat)
  | load (d ext off : Nat)
  | back (s ext off : Nat)
  | remote (core d s : Nat)
  | gather (d hnd idx : Nat)
  | fill (d v : Nat)
  | bcast (cores : List Nat) (d s : Nat)
  | put (s dev core d : Nat)
  | fetch (d dev core s : Nat)
  | cache (d blk : Nat)
  | culvert (fn pairs base : Nat)
  | reserved
deriving DecidableEq, Repr

/-- A field of a command word (R141). -/
def Cmd.f (c : Cmd) (lo w : Nat) : Nat := bits c.word.toNat lo w

/-- Cores die × 8 + c with mask bit c set. -/
def coreSet (die mask : Nat) : List Nat := ((List.range 8).filter fun c => bits mask c 1 == 1).map (die * 8 + ·)

/-- The operation of a command of engine eng on core k; a fill keeps the tile that its `probe` gave (R77). -/
def Cmd.job (c : Cmd) (eng : Nat) (_k : Core) : Job :=
  match c.way with
  | some (_, b, t) => .cache (32 * t) b
  | none =>
    if eng = 2 then (if c.f 44 4 ≤ 6 then .culvert (c.f 44 4) (32 * c.f 32 12) (32 * c.f 20 12) else .reserved)
    else match c.f 44 4 with
      | 0 => .copy (32 * c.f 32 12 + c.f 27 5) (32 * c.f 15 12 + c.f 10 5)
      | 1 => .load (32 * c.f 32 12) (c.f 28 4) (c.f 1 27)
      | 2 => .back (32 * c.f 32 12) (c.f 28 4) (c.f 1 27)
      | 3 => .remote (c.f 37 7) (32 * c.f 25 12) (32 * c.f 13 12)
      | 4 => .gather (32 * c.f 32 12) (c.f 20 12) (32 * c.f 8 12)
      | 5 => .fill (32 * c.f 32 12) (c.f 0 32)
      | 6 => .bcast (coreSet (c.f 40 4) (c.f 32 8)) (32 * c.f 8 12) (32 * c.f 20 12)
      | 7 => .put (32 * c.f 32 12) (c.f 20 12) (c.f 13 7) (32 * c.f 1 12)
      | 8 => .fetch (32 * c.f 32 12) (c.f 20 12) (c.f 13 7) (32 * c.f 1 12)
      | _ => .reserved

/-- The store rows that row r of a job on core c writes: core and row. -/
def Job.dests (j : Job) (c r : Nat) : List (Nat × Nat) :=
  match j with
  | .copy d _ | .load d _ _ | .gather d _ _ | .fill d _ | .fetch d _ _ _ | .cache d _ => [(c, d + r)]
  | .remote k d _ => [(k, d + r)]
  | .bcast ks d _ => ks.map fun k => (k, d + r)
  | .back .. | .put .. | .culvert .. | .reserved => []

/-- The row of this core's store that row r of a job reads whole. -/
def Job.source (j : Job) (r : Nat) : Option Nat :=
  match j with
  | .copy _ s | .remote _ _ s | .bcast _ _ s => some (s + r)
  | .back s _ _ | .put s _ _ _ => some (s + r)
  | .culvert _ p _ => some (p + r)
  | _ => none

/-- Rows, or windows of the Culvert, of a command (R204, R208). -/
def Cmd.rows (c : Cmd) (eng : Nat) : Nat := if eng = 2 then (c.count + 63) / 64 else c.count

/-- The tiles of this core that row r names: those it writes, reads whole, or takes indices from. -/
def Job.tiles (j : Job) (c r : Nat) : List Nat :=
  ((j.dests c r).filterMap fun d => if d.1 = c then some (d.2 / 32) else none) ++
    (match j.source r with | some s => [s / 32] | none => []) ++
    (match j with | .gather _ _ i => [i / 32] | _ => [])

/-! ### Issue (R200, R408) -/

/-- The fields marked zero of a command word. -/
def Cmd.zeroOk (c : Cmd) (eng : Nat) : Bool :=
  (c.f 63 1 == 1 || c.f 56 7 == 0) && (c.f 55 1 == 1 || c.f 48 7 == 0) &&
    (if eng = 2 then c.f 0 20 == 0 else match c.f 44 4 with
      | 0 => c.f 1 9 == 0
      | 3 => c.f 1 12 == 0
      | 4 => c.f 0 8 == 0
      | 6 => c.f 1 7 == 0
      | 7 | 8 => c.f 0 1 == 0
      | _ => true)

/-- Conditions of cause 0x14 but the frame area (R408); n is the last row or window. -/
def Cmd.badField (c : Cmd) (eng : Nat) (j : Job) : Bool :=
  let n := c.rows eng - 1
  let past := fun x => decide (Config.storeRows ≤ x)
  !c.zeroOk eng || j == .reserved ||
    (c.f 54 1 == 1 && (match j with | .remote .. | .bcast .. | .put .. => false | _ => true)) ||
    (match j with
      | .remote k .. => decide (Config.numCores ≤ k)
      | .put _ _ k d => decide (Config.numCores ≤ k) || past (d + n)
      | .fetch _ _ k s => decide (Config.numCores ≤ k) || past (s + n)
      | .bcast _ d _ => decide (Config.numDies ≤ c.f 40 4) || past (d + n)
      | .gather .. => decide (4096 < c.count)
      | .culvert _ p _ => decide (2 ^ 23 < c.count) || decide (2 ^ 26 < 512 * p + 8 * c.count)
      | _ => false) ||
    (j.dests 0 n).any (fun d => past d.2) || (match j.source n with | some r => past r | none => false)

/-- A frame tile is named, of this core or of another (R381). -/
def Job.namesFrame (j : Job) (c n : Nat) : Bool :=
  (j.tiles c n).any isFrameTile || (j.dests c n).any (fun d => isFrameTile (d.2 / 32)) ||
    (match j with | .culvert _ _ b => isFrameTile (b / 32) | .put _ _ _ d => isFrameTile ((d + n) / 32) | .fetch _ _ _ t => isFrameTile ((t + n) / 32) | _ => false)

/-- The address word of byte `off` of extent e (R185). -/
def extentWord (e off : Nat) : Word := BitVec.ofNat 64 (2 ^ 63 + e * 2 ^ 59 + off)

/-- Conditions of cause 0x0B (R408): the extent's declaration, length and access kind (0 read, 1 write, 2 both). The address is that of the first row
that fails (R400). -/
def State.badExtent (s : State) (j : Job) (count : Nat) : Option Word :=
  let check := fun (e off kind : Nat) => match s.inst.ext e with
    | none => some (extentWord e (512 * off))
    | some x => if x.access = kind then some (extentWord e (512 * off))
        else if x.len < 512 * (off + count) then some (extentWord e (512 * max off (x.len / 512))) else none
  match j with
  | .load _ e off => check e off 1
  | .back _ e off => check e off 0
  | .gather _ h _ =>
    (match s.dk.handle (BitVec.ofNat 64 h) with
      | some r =>
        let e := recExtent r.record
        if recKind r.record = 1 ∧ r.arrived ∧ (match s.inst.ext e with | none => true | some x => decide (x.access = 1)) = true then
          some (extentWord e (recWord r.record 0 % 2 ^ 57))
        else none
      | none => none)
  | _ => none

/-- The command that an `ecmd` of the issuing deck makes of a word and a count. -/
def State.newCmd (s : State) (h : Hd) (w c : Word) : Cmd :=
  ⟨w, bits c.toNat 0 32, bits c.toNat 63 1 == 1, s.dn, isEx h, 0, s.clock, none, none, s.earlierStores (isEx h), s.dk.inst, !s.dk.sup, s.viewNow (isEx h), false⟩

/-- R200, R408: a count of 0 has no effect; a full queue, or a record still to arrive, stalls. -/
def execEcmd (h : Hd) (b : EC) (s : State) : Out :=
  .next (s.irrevocable h [b.xcmd, b.xcount] fun s =>
    let eng := b.eng.toNat
    let cmd := s.newCmd h (s.x b.xcmd) (s.x b.xcount)
    let j := cmd.job eng s.ck
    let rec_ := match j with | .gather _ n _ => s.dk.handle (BitVec.ofNat 64 n) | _ => some LEntry.zero
    if cmd.count = 0 then s
    else if s.ck.engineFull eng || (match rec_ with | some r => !r.arrived | none => false) then s.stalled
    else if cmd.badField eng j || (cmd.user && j.namesFrame s.cn (cmd.rows eng - 1)) then s.raise h 0x14 0 0
    else match s.badExtent j cmd.count, rec_ with
      | some a, _ => s.raise h 0x0B 0 a
      | none, none => s.raise h 0x0A 0 0
      | none, some r => s.enterEngine eng { cmd with layout := match j with | .gather .. => some r.record | _ => none })

/-! ### The current command -/

/-- The command that has left the queue of engine eng of core c. -/
def State.running (s : State) (c eng : Nat) : Option Running := ((s.getCore c).engine eng).cur
def State.setRunning (s : State) (c eng : Nat) (r : Running) : State :=
  s.modCore c fun k => k.setEngine eng { k.engine eng with cur := some r }
def State.modRunning (s : State) (c eng : Nat) (f : Running → Running) : State :=
  match s.running c eng with
  | some r => s.setRunning c eng (f r)
  | none => s

/-- The instance that a command serves. -/
def State.cmdInst (s : State) (c : Cmd) : Inst := match c.inst with | some i => s.getInst i | none => Inst.absent

/-- Reads and writes of virtual memory by a command use the translations of the quiescent point it was issued after (R127). -/
def State.cmdView (_s : State) (c : Cmd) : Nat := c.view

/-- Tile t is skipped (R283). -/
def Block.input (b : Block) (i : Nat) : Nat := bits b.desc.toNat 4 12 + i
def Block.output (b : Block) (i : Nat) : Nat := bits b.desc.toNat 16 12 + i
def Block.count (b : Block) : Nat := bits b.desc.toNat 28 10 + 1
def Core.skipped (k : Core) (t : Nat) : Bool :=
  let at_ := fun (b : Block) (first : Nat) => decide (first ≤ t ∧ t < first + b.count) && b.skip.getLsbD (t - first)
  k.blocks.any fun b => at_ b.2 (b.2.input 0) || at_ b.2 (b.2.output 0)

/-- The tile that decides whether row r is skipped (R206). -/
def Job.skipTile (j : Job) (r : Nat) : Option Nat :=
  match j with
  | .copy d _ | .load d _ _ | .remote _ d _ | .bcast _ d _ => some ((d + r) / 32)
  | .back s _ _ => some ((s + r) / 32)
  | _ => none

/-- An event of clock c on index i of a block (R279): the first event and the latest one before a service starts are kept, and the first one
from that start on. -/
def markOne (sv : Option Service) (ps : List PendTile) (blk i c : Nat) : List PendTile :=
  let mine := ps.filter fun p => p.block == blk && p.idx == i
  let others := ps.filter fun p => !(p.block == blk && p.idx == i)
  match mine with
  | [] => ps ++ [⟨blk, i, c⟩]
  | p :: _ =>
    if sv.any fun v => v.block == blk && v.idx == i && mine.any fun q => decide (v.start ≤ q.at_) then ps
    else others ++ [p, ⟨blk, i, c⟩]

/-- The watched tile t becomes pending in every block that watches it (R279). -/
def Core.markPending (k : Core) (t clock : Nat) : Core :=
  { k with pendTiles := k.blocks.foldl (fun ps b =>
      let i := t - b.2.input 0
      if b.2.input 0 ≤ t ∧ i < b.2.count then markOne k.service ps b.1 i clock else ps) k.pendTiles }

/-! ### Virtual memory of a command: pages, shadows -/

/-- The extent through which a job reaches memory. -/
def Job.extent (j : Job) (c : Cmd) (x : Inst) : Option Ext :=
  match j with
  | .load _ e _ | .back _ e _ => x.ext e
  | .gather .. => (match c.layout with | some r => x.ext (recExtent r) | none => none)
  | _ => none

/-- A gather whose record has an extent base. -/
def Cmd.gathersExtent (c : Cmd) : Bool := match c.layout with | some r => recKind r == 1 | none => false

/-- Word r of a gather's index list. -/
def State.gatherIndex (s : State) (c idx r : Nat) : Int :=
  (BitVec.ofNat 32 (Memory.read s.mem (storeBase c + 512 * idx + 4 * r) 4)).toInt

/-- The elements of row r of a gather (R190, R204): index, bit offset from the record's base when in bounds. -/
def gatherElems (rec_ : BitVec 512) (i : Int) : List (Nat × Option Nat) :=
  let out := decide (i < 0) && decide (2 ≤ recDims rec_)
  let m := if recKind rec_ = 0 then 2 ^ 29 else 2 ^ 60
  (List.range (if tagBits (recFormat rec_) = 6 then 512 else tagElems (recFormat rec_))).map fun j =>
    let idx := [j, if i < 0 then 0 else i.toNat, 0, 0, 0]
    if !out && recInside rec_ idx then (j, some ((8 * (recWord rec_ 0 : Int) + recBits rec_ idx) % m).toNat) else (j, none)

/-- The bits of elements of width w, read byte by byte. -/
def gatherBits (rd : Nat → Byte) (w : Nat) (es : List (Nat × Nat)) : Nat :=
  es.foldl (fun acc e => (List.range w).foldl (fun acc k =>
    if (rd ((e.2 + k) / 8)).getLsbD ((e.2 + k) % 8) then acc + 2 ^ (w * e.1 + k) else acc) acc) 0

/-- A gathered row: padding where out of bounds (R71). -/
def gatherRow (rec_ : BitVec 512) (es : List (Nat × Option Nat)) (rd : Nat → Byte) : Image :=
  let w := tagBits (recFormat rec_)
  let pad := es.foldl (fun acc x => if x.2.isNone then acc + recPadding rec_ % 2 ^ w * 2 ^ (w * x.1) else acc) 0
  BitVec.ofNat 4096 (pad + gatherBits rd w (es.filterMap fun x => x.2.map fun a => (x.1, a)))

/-- The pages that row r of a command touches, in increasing order (R204, R426). -/
def State.rowPages (s : State) (core : Nat) (c : Cmd) (j : Job) (r : Nat) : List Nat :=
  let x := s.cmdInst c
  match j with
  | .load _ _ off | .back _ _ off =>
    (match j.extent c x with | some e => pagesOf (e.base + 512 * (off + r)) 512 | none => [])
  | .cache _ blk => pagesOf (16384 * blk + 512 * r) 512
  | .gather _ _ idx =>
    if c.gathersExtent then
      match j.extent c x, c.layout with
      | some e, some rec_ =>
        (gatherElems rec_ (s.gatherIndex core idx r)).foldl (fun acc p =>
          match p.2 with | some a => insertUniq ((e.base + a / 8) / pageBytes) acc | none => acc) []
      | _, _ => []
    else []
  | _ => []

/-- How many shadow pages a row of an extent that is written takes at first touch. -/
def State.pagesToTake (s : State) (c : Cmd) (j : Job) (ps : List Nat) : Nat :=
  let x := s.cmdInst c
  if (j.extent c x).any fun e => e.access != 0 then (s.unshadowed x.shadowNode x.ctx (s.cmdView c) ps).length else 0

/-- Shadows for the pages of a row of an extent that is written at first touch, with the copies they need. -/
def State.firstTouch (s : State) (c : Cmd) (j : Job) (ps : List Nat) : List PageCopy × State :=
  let x := s.cmdInst c
  match j.extent c x, c.inst with
  | some e, some i => if e.access = 0 then ([], s) else s.makeShadows x.shadowNode x.ctx (s.cmdView c) i x.exts ps
  | _, _ => ([], s)

/-- These copies wait at their memory routers (R333, R335, R344, R447). -/
def State.touchWaits (s : State) (c : Cmd) (j : Job) (ps : List Nat) : Bool := s.mustQueue ((s.firstTouch c j ps).1.flatMap PageCopy.blocks)

/-- They are filled at once (NOTES.md, Assumption 9). -/
def State.touchShadows (s : State) (c : Cmd) (j : Job) (ps : List Nat) : State :=
  let (cs, s) := s.firstTouch c j ps
  cs.foldl (fun s p => s.copyPage (c.inst.getD 0) p) s

/-! ### Rows under way -/

/-- The Viaduct port through which a device is reached (R340, R341). -/
def State.portFor (s : State) (dev : Nat) : Nat := bits (mget 0 s.viaduct (8 + 8 * (dev / 16))).toNat (4 * (dev % 16)) 4

/-- The ranges of virtual memory that row r of a command reads or writes: address and length. -/
def State.rowRanges (s : State) (core : Nat) (c : Cmd) (j : Job) (r : Nat) : List (Nat × Nat) :=
  match j with
  | .cache _ blk => [(16384 * blk + 512 * r, 512)]
  | .load _ _ off | .back _ _ off => (match j.extent c (s.cmdInst c) with
    | some e => [(e.base + 512 * (off + r), 512)]
    | none => [])
  | .gather _ _ idx => (match c.layout, j.extent c (s.cmdInst c) with
    | some rec_, some e => ((gatherElems rec_ (s.gatherIndex core idx r)).filterMap (·.2)).map fun a => (e.base + a / 8, (tagBits (recFormat rec_) + 7) / 8)
    | _, _ => [])
  | _ => []

/-- The places in memory at which they start, as the command sees its pages, and the blocks of HBM4 they touch. -/
def State.rowPlaces (s : State) (core : Nat) (c : Cmd) (j : Job) (r : Nat) : List Nat :=
  let x := s.cmdInst c
  (s.rowRanges core c j r).flatMap fun p => s.placesOf x.shadowNode x.ctx (s.cmdView c) p.1 p.2
def State.rowBlocks (s : State) (core : Nat) (c : Cmd) (j : Job) (r : Nat) : List Nat :=
  let x := s.cmdInst c
  (s.rowRanges core c j r).flatMap fun p => s.blocksOf x.shadowNode x.ctx (s.cmdView c) p.1 p.2

/-- The routes of row r of a command through the fabric: to other cores, to and from memory, to and from a peer's port. -/
def State.rowRoutes (s : State) (core : Nat) (c : Cmd) (j : Job) (r : Nat) : List (List (Nat × Nat × Nat)) × State :=
  let ends := ((s.rowPlaces core c j r).map s.routerOf).eraseDups
  match j with
  | .remote .. | .bcast .. => s.trips (fun s d => s.toCore core d) ((j.dests core r).map (·.1))
  | .put _ dev .. => s.trips (fun s g => s.trip core g false) [viaductRouter (s.portFor dev)]
  | .fetch _ dev .. => s.trips (fun s g => s.trip core g true) [viaductRouter (s.portFor dev)]
  | .back .. => s.trips (fun s g => s.trip core g false) ends
  | _ => s.trips (fun s g => s.trip core g true) ends

/-- The core, here or on another device, whose end-to-end acknowledgement row r of a job waits for (R449). -/
def Job.farCore (j : Job) (core r : Nat) : Option Nat :=
  match j with
  | .remote .. | .bcast .. => (j.dests core r).head?.map (·.1)
  | .put _ _ k _ | .fetch _ _ k _ => some k
  | _ => none

/-- Row r of a command sets out in this clock: its acknowledgement is due from then on (R449). -/
def Running.sends (q : Running) (_core clock r : Nat) : Running := { q with sent := (r, clock) :: q.sent.filter fun p => p.1 != r }

/-- A row whose clock the manual leaves open sets out through the fabric and performs a free length after its packets have arrived (NOTES.md,
Assumption 7). -/
def State.postRow (s : State) (core eng r : Nat) : State :=
  match s.running core eng with
  | some q =>
    let (rs, s) := s.rowRoutes core q.cmd (q.cmd.job eng (s.getCore core)) r
    (s.modRunning core eng fun q => q.sends core s.clock r).carry rs (s.clock + 1) farOff (.engineRowPerform core eng r)
  | none => s

/-- Row r, whose page is translated, gets under way: a documented row performs at its clock, any other sets out after a free delay, one with a
source in the store once that is sampled. -/
def State.startRow (s : State) (core eng : Nat) (q : Running) (j : Job) (r : Nat) : State :=
  match j with
  | .copy .. => s
  | .fill d v =>
    s.access (max (q.leave + 8 + r) (s.clock + 1)) core q.cmd.deck false (engPrio eng) (.engWrite core eng r (d + r)
      (some (BitVec.ofNat 4096 (packBytes 4 (List.replicate 128 v)))) none)
  | .gather .. => if q.cmd.gathersExtent then s.postRow core eng r else s
  | .back .. | .remote .. | .bcast .. | .put .. => if q.got.any fun g => g.1 == r then s.postRow core eng r else s
  | .fetch _ dev k n => (s.send 4 dev (k * Config.storeRows + n + r) 0).postRow core eng r
  | .load .. | .cache .. | .culvert .. | .reserved => s.postRow core eng r

/-- Row r gets under way only when row r' has performed: one into another tile of another core or device, one behind a row that its read may find
faulty: of a get, of a gather (R409), of the Culvert's windows (NOTES.md, Assumption 12). -/
def Job.waitsFor (j : Job) (r r' : Nat) : Bool :=
  match j with
  | .remote _ d _ | .bcast _ d _ | .put _ _ _ d => (d + r) / 32 != (d + r') / 32
  | .fetch .. | .gather .. | .culvert .. => true
  | _ => false

/-- No row of the command has arrived yet in the remote tile of row r, where the first to come may find it not receivable (R409). -/
def Job.leads (j : Job) (core r : Nat) (q : Running) : Bool :=
  match j with
  | .remote .. | .bcast .. => (j.dests core r).any fun d => !q.tagged.contains (d.1 * 4096 + d.2 / 32)
  | .put _ dev k d => !q.tagged.contains (2 ^ 30 + dev * 2 ^ 20 + k * 4096 + (d + r) / 32)
  | _ => false

/-- A memory row of engine eng of core c may set out: fewer than 2,048 requests of the core are outstanding (R12). -/
def State.mayRequest (s : State) (core eng : Nat) (q : Running) : Bool :=
  !(q.cmd.way.isSome || q.cmd.touchesExtent) || decide ((s.setRunning core eng q).requests core < Config.memoryRequests)

/-- Row r of a command is at or past its fault, or must wait for a row under way (NOTES.md, Assumption 12) or for a free request. -/
def State.rowBarred (s : State) (core eng : Nat) (j : Job) (q : Running) (r : Nat) : Bool :=
  q.fault.any (fun f => decide (f.2.2 ≤ r)) || q.launched.any (fun r' => j.waitsFor r r') || (!q.launched.isEmpty && j.leads core r q) ||
    !s.mayRequest core eng q

/-- The command stands at page p, which is asked for. -/
def State.standAt (s : State) (core eng p : Nat) (q : Running) : State :=
  let x := s.cmdInst q.cmd
  let asked := s.pageReq.any fun w => w.1 == x.ctx && w.2.1 == p
  (s.askPage x.ctx p).setRunning core eng { q with page := some (p, s.clock), raised := asked, taken := asked }

/-- The extent walker meets these pages, in order, if the job's extent is lazy (R80). -/
def State.walkPages (s : State) (core : Nat) (j : Job) (c : Cmd) (ps : List Nat) : State :=
  if (j.extent c (s.cmdInst c)).any (·.lazy_) then ps.foldl (fun s p => s.walk core (s.cmdInst c).ctx p) s else s

/-- A gather through an extent visits its pages in increasing address order (R204, R426): the rows that lie wholly below the first page without a
translation get under way, and only when none of them is left does the command stand at that page. -/
def State.launchGather (s : State) (core eng : Nat) (j : Job) (q : Running) : State :=
  let x := s.cmdInst q.cmd
  let pages := fun (r : Nat) => s.rowPages core q.cmd j r
  let rows := q.todo.filter fun r => !(q.fault.any fun f => decide (f.2.2 ≤ r))
  let all := rows.foldl (fun acc r => (pages r).foldl (fun acc p => insertUniq p acc) acc) []
  let stop := all.find? fun p => (s.resolvePage x.shadowNode x.ctx p (s.cmdView q.cmd)).isNone
  let below := fun (r : Nat) => match stop with | some p => !((pages r).any fun k => decide (p ≤ k)) | none => true
  let (s, q) := rows.foldl (fun (acc : State × Running) r =>
    if acc.1.rowBarred core eng j acc.2 r || !below r then acc
    else (acc.1.startRow core eng acc.2 j r, { acc.2 with todo := acc.2.todo.filter (· != r), launched := acc.2.launched ++ [r] }))
    (s.walkPages core j q.cmd (match stop with | some p => all.filter fun k => decide (k < p) | none => all), q)
  match stop with
  | some p => if q.todo.any fun r => rows.contains r && below r then s.setRunning core eng q else s.standAt core eng p q
  | none => s.setRunning core eng q

/-- The rows of `todo` get under way in order, up to a fault, a page without a translation, or a row that must wait (R426). -/
def State.launchRows (s : State) (core eng : Nat) (j : Job) (q : Running) : List Nat → State
  | [] => s.setRunning core eng { q with todo := [] }
  | r :: rs =>
    let x := s.cmdInst q.cmd
    let ps := s.rowPages core q.cmd j r
    if s.rowBarred core eng j q r then s.setRunning core eng { q with todo := r :: rs }
    else
      match ps.find? fun p => (s.resolvePage x.shadowNode x.ctx p (s.cmdView q.cmd)).isNone with
      | some p => s.standAt core eng p { q with todo := r :: rs }
      | none =>
        let n := s.pagesToTake q.cmd j ps
        if !s.poolReady x.ctx x.pool n || s.touchWaits q.cmd j ps then
          -- the pool has no page to give: the command waits at the page, without a fault
          (s.askPool x.ctx x.pool n).setRunning core eng { q with todo := r :: rs, page := some (ps.headD 0, s.clock), raised := true, taken := true }
        else
        let s := (s.touchShadows q.cmd j ps).walkPages core j q.cmd ps
        (s.startRow core eng q j r).launchRows core eng j { q.sends core s.clock r with launched := q.launched ++ [r] } rs

def State.launch (s : State) (core eng : Nat) : State :=
  match s.running core eng with
  | some q =>
    let j := q.cmd.job eng (s.getCore core)
    if q.cmd.gathersExtent && eng != 2 then s.launchGather core eng j q else s.launchRows core eng j q q.todo
  | none => s

/-! ### Faults and completion -/

/-- Every instance of the node of instance i is asked to end as cancelled in this clock (R312, R424, R459). -/
def State.endNode (s : State) (i : Nat) : State :=
  let x := s.getInst i
  { s with insts := s.insts.map fun p =>
      if p.2.graph == x.graph && p.2.shadowNode == x.shadowNode && p.2.st != .ended && p.2.st != .retired then
        (p.1, { p.2 with stopAt := some s.clock, preemptFor := none }) else p }

/-- The fault of engine eng becomes pending on the issuing deck (R409); when that deck no longer runs the instance, R459 decides. -/
def State.settleFault (s : State) (core eng : Nat) : State :=
  match s.running core eng with
  | none => s
  | some q =>
    match q.fault with
    | none => s
    | some (cause, addr, _) =>
      if q.raised || !q.launched.isEmpty || q.todo.any (· < q.fault.elim 0 (·.2.2)) then s
      else if cause = 0 then s.setRunning core eng { q with raised := true }
      else
        let d := s.getDeck q.cmd.deck
        let s := s.setRunning core eng { q with raised := true }
        if d.inst = q.cmd.inst ∧ !d.halted then
          s.modDeck q.cmd.deck fun d => { d with engFaults := d.engFaults ++
            [⟨eng, q.cmd.num.toNat, cause, BitVec.ofNat 64 (2 ^ 63 + eng * 2 ^ 61 + q.cmd.num.toNat), addr⟩] }
        else if cause = 0x0C then s.setRunning core eng { q with raised := true, taken := true }
        else
          let s := s.endCommand core eng
          match q.cmd.inst with
          | some i => s.endNode i
          | none => s

/-- The faults that deck n leaves behind when its part of instance i ends before it has taken them (R459). -/
def State.dropFaults (s : State) (n i : Nat) : State :=
  let d := s.getDeck n
  let s := s.setDeck n { d with engFaults := [], arrFaults := [] }
  let s := d.engFaults.foldl (fun s p => s.engineFaultTaken n p) s
  if !d.arrFaults.isEmpty || d.engFaults.any (·.cause != 0x0C) then s.endNode i else s

/-- A fault at row r: it and the later rows are not performed (R409). -/
def State.failRow (s : State) (core eng r cause : Nat) (addr : Word) : State :=
  match s.running core eng with
  | none => s
  | some q =>
    if q.fault.any fun f => f.2.2 ≤ r then s else
    let back := q.launched.filter (r ≤ ·)
    let away := q.page.isSome && q.todo.all (r ≤ ·)
    let todo := back.foldl (fun l r' => insertUniq r' l) q.todo
    let q := { q with fault := some (cause, addr, r), todo := todo, launched := q.launched.filter (· < r) }
    let s := s.setRunning core eng (if away then { q with page := none, raised := false, taken := false } else q)
    let s := { s.callOff (fun ev => match ev with | .engineRowPerform c e r' => c == core && e == eng && decide (r ≤ r') | _ => false) with
      micro := s.micro.filter fun m => !(m.core == core && (match m.act with
        | .engRead e r' .. => e == eng && decide (r ≤ r')
        | .updates r' .. => eng == 2 && decide (r ≤ r')
        | _ => false)) && (match m.act with
        | .engWrite c e r' .. => !(c == core && e == eng && decide (r ≤ r'))
        | _ => true) }
    s.settleFault core eng

/-- Rows of a command that write tile t of core c'. -/
def Cmd.rowsInto (c : Cmd) (j : Job) (core eng : Nat) (c' t : Nat) : List Nat :=
  (List.range (c.rows eng)).filter fun r => (j.dests core r).any fun d => d.1 == c' && d.2 / 32 == t

/-- A row's write is acknowledged (R201): those to other cores, to extents and to remote devices. -/
def Job.acked : Job → Bool
  | .back .. | .remote .. | .bcast .. | .put .. => true
  | _ => false

/-- Row r writes host memory or a remote device (R117). -/
def State.goesOut (s : State) (core : Nat) (c : Cmd) (j : Job) (r : Nat) : Bool :=
  match j with
  | .put .. => true
  | .back .. => (s.rowPages core c j r).any fun p => (s.resolvePage (s.cmdInst c).shadowNode (s.cmdInst c).ctx p (s.cmdView c)).any fun b => !inHbm b
  | _ => false

/-- The router from which the acknowledgement of a row sets out, if it comes from another core or device. -/
def State.ackFrom (s : State) (core r : Nat) (j : Job) : Option Nat :=
  match j with
  | .put _ dev .. => some (viaductRouter (s.portFor dev))
  | _ => (j.farCore core r).map coreRouter

/-- The write of a row has performed; its acknowledgement comes after a free length (NOTES.md, Assumption 7), and the engine is not free before. -/
def State.awaitAck (s : State) (core eng r sentAt : Nat) (c : Cmd) (j : Job) : State :=
  if !j.acked then s else
    let out := s.goesOut core c j r
    let (t, s) := s.delay
    let (ack, s) := match s.ackFrom core r j with
      | some g =>
        let (p, s) := s.path g (coreRouter core)
        ([(⟨c.inst.getD 0, (j.farCore core r).getD 0, sentAt, s.clock + t, p.map fun (h : Nat × Nat × Nat) => (h.1, h.2.1)⟩ : Ack)], s)
      | none => ([], s)
    s.modCore core fun k =>
      let e := k.engine eng
      k.setEngine eng { e with freeAt := max e.freeAt (s.clock + t), acking := if out then [c] else e.acking, acks := e.acks ++ ack }

/-- Acknowledgements on their way wait while an output that they pass carries a schedule (R324). -/
def State.holdAcks (s : State) (core : Nat) : State :=
  (List.range 3).foldl (fun s eng =>
    let e := (s.getCore core).engine eng
    if e.acks.isEmpty then s else
      let acks := (e.acks.filter fun a => decide (s.clock < a.till)).map fun a =>
        if a.route.any fun h => s.outputHeld h.1 h.2 then { a with till := a.till + 1 } else a
      s.modCore core fun k => k.setEngine eng { e with acks := acks, freeAt := acks.foldl (fun t a => max t a.till) e.freeAt }) s

/-- The cores whose end-to-end acknowledgement of what instance i has sent them is 65,536 clocks late (R449): remote loads, remote signals, rows of
commands. -/
def State.lateAcks (s : State) (i : Nat) : List Nat :=
  let late := fun (t : Nat) => decide (t + 65536 ≤ s.clock)
  (s.remotes.filter fun r => (s.getDeck r.deck).inst == some i && late r.issued).map (·.core) ++
    (s.signals.filter fun g => g.inst == i && late g.sentAt).map (fun g => g.core % Config.numCores) ++
    s.cores.flatMap fun c => (List.range 3).flatMap fun e =>
      let g := c.2.engine e
      ((g.acks.filter fun a => a.inst == i && late a.sentAt && decide (s.clock < a.till)).map (·.dest)) ++
      (match g.cur with
        | some q => if q.cmd.inst = some i then
            (q.sent.filter fun p => q.launched.contains p.1 && late p.2).filterMap fun p => (q.cmd.job e c.2).farCore c.1 p.1
          else []
        | none => [])

/-- No acknowledgement is waited for any more on behalf of instance i: it has been stopped (R312, R430). Signals still on their way add when they arrive,
those that are lost are gone. -/
def State.forgetAcks (s : State) (i : Nat) : State :=
  let there := s.signals.filter fun g => g.inst != i || s.awaits (.remoteSignalArrival g.core g.sem)
  { s with
    signals := there.map fun g => if g.inst = i then { g with inst := farOff } else g,
    cores := s.cores.map fun c => (c.1, { c.2 with engines := c.2.engines.map fun e => (e.1, { e.2 with acks := e.2.acks.filter fun a => a.inst != i }) }) }

/-- Row r has performed: finished tiles give up their locks in the next clock (R56, R57, R422), and after the last row the engine is free
(R201). -/
def State.rowDone (s : State) (core eng r : Nat) : State :=
  match s.running core eng with
  | none => s
  | some q =>
    let j := q.cmd.job eng (s.getCore core)
    let q := { q with launched := q.launched.filter (· != r), done := q.done + 1 }
    let s := s.awaitAck core eng r ((q.sent.find? fun p => p.1 == r).elim s.clock (·.2)) q.cmd j
    let s := (j.dests core r).foldl (fun s d =>
      let rs := q.cmd.rowsInto j core eng d.1 (d.2 / 32)
      if rs.any fun r' => q.launched.contains r' || q.todo.contains r' then s
      else s.modCore d.1 fun k => { k with unlocks := k.unlocks ++
        [(d.2 / 32, if d.1 = core then eng else 9, decide ((rs.filter fun r' => !q.skipped.contains r').length = 32))] }) s
    if q.todo.isEmpty && q.launched.isEmpty then
      s.modCore core fun k =>
        let e := k.engine eng
        k.setEngine eng { e with cur := none, ending := e.ending ++ [q], freeAt := max e.freeAt s.clock }
    else
      let s := s.setRunning core eng q
      (if q.page.isSome then s else s.launch core eng).settleFault core eng

/-- Rows that a limit on requests or a row before them has held up get under way once they may (R12). -/
def State.relaunch (s : State) (core : Nat) : State :=
  (List.range 3).foldl (fun s e => match s.running core e with
    | some q =>
      if q.page.isNone && q.todo.any fun r => !s.rowBarred core e (q.cmd.job e (s.getCore core)) q r then (s.launch core e).settleFault core e else s
    | none => s) s

/-- The word of a warn or missed-refresh event. -/
def State.eventWord (s : State) (c n : Nat) (missed : Bool) : Word :=
  let k := s.getCore c
  BitVec.ofNat 64 (n + k.classOf (n / 32) * 2 ^ 17 + k.band * 2 ^ 20 + (if missed then 2 ^ 23 else 0))

/-- An event is pushed into rq5 of the deck that configured the tile, while the configuring instance runs there; else the tile's lost bit is set. -/
def State.pushEvent (s : State) (c n : Nat) (missed : Bool) : State :=
  let lost := fun (s : State) => s.modCore c fun k => k.modTile (n / 32) fun t => { t with lost := true }
  match ((s.getCore c).tile (n / 32)).owner with
  | none => lost s
  | some (d, i) =>
    let k := s.getDeck d
    if k.inst = some i ∧ (s.getInst i).st = .running ∧ !k.halted ∧ k.rqRoom 5 then s.pushRq d 5 (wordEntry (s.eventWord c n missed)) tagI32
    else lost s

/-- A whole row of an engine performs in the store: data none leaves the row Invalid, its directory way empty (R78, R419) and a refresh that was due
missed (R418); the tile takes the tag
when the first row performs (R84). -/
def State.putRow (s : State) (core eng c' row : Nat) (data : Option Image) (tag : Option Tag) : State :=
  match s.running core eng with
  | none => s
  | some q =>
    let key := c' * 4096 + row / 32
    let tag := if q.tagged.contains key then none else tag
    let s := s.setRunning core eng { q with tagged := if q.tagged.contains key then q.tagged else q.tagged ++ [key] }
    let s := s.modCore c' fun k => { k with pendBits := k.pendBits.filter fun g => !(8 * row ≤ g.1 && g.1 < 8 * row + 8 && g.2 == pendMark core eng c') }
    match data with
    | some img => s.performFrom core c' row wholeMask (packRow (tag.getD ((s.getCore c').tile (row / 32)).tag) img) tag
    | none =>
      let missed := ((s.getCore c').row row).st == .queued
      let s := s.modCore c' fun k =>
        let k := { (k.dropWay row).setRow row { k.row row with st := .invalid } with
          refreshQ := k.refreshQ.filter (· != row), offered := k.offered.filter (· != row) }
        match tag with
        | some t => k.modTile (row / 32) fun x => { x with tag := t }
        | none => k
      if missed then s.pushEvent c' row true else s

/-! ### The Culvert (R207, R208) -/

/-- One combination of R208 on 32-bit words. -/
def culvertOp (fn : Nat) (a b : BitVec 32) : BitVec 32 :=
  let fp := fun w : BitVec 32 => decIEEE fp32 w.toNat
  let back := fun v : Val => BitVec.ofNat 32 (rndIEEE fp32 0 0 v).1
  match fn with
  | 0 => back ((fp a).add false (fp b)).1
  | 1 => a + b
  | 2 => back (Val.minmax true (fp a) (fp b)).1
  | 3 => back (Val.minmax false (fp a) (fp b)).1
  | 4 => if a.slt b then b else a
  | 5 => if b.slt a then b else a
  | _ => a ||| b

/-- The pairs of one window: indices and values. -/
def windowPairs (img : Image) (n : Nat) : List (Nat × BitVec 32) :=
  (List.range n).map fun k => (bits img.toNat (64 * k) 32, BitVec.ofNat 32 (bits img.toNat (64 * k + 32) 32))

/-- The updates of a window: one for each index, in order of first appearance, equal indices merged in pair order. -/
def windowUpdates (fn : Nat) : List (Nat × BitVec 32) → List (Nat × BitVec 32)
  | ps => ps.foldl (fun acc p =>
      if acc.any fun u => u.1 == p.1 then acc.map fun u => if u.1 = p.1 then (u.1, culvertOp fn u.2 p.2) else u
      else acc ++ [p]) []

/-- A window of pairs has been read: in debug mode the granules of its updates become pending (R421), and the updates set out (R208). -/
def State.releaseWindow (s : State) (core r : Nat) (q : Running) (fn base : Nat) (pairs : Image) : State :=
  let us := windowUpdates fn (windowPairs pairs (min 64 (q.cmd.count - 64 * r)))
  let s := if (s.cmdInst q.cmd).debug then
      s.modCore core fun k => { k with pendBits := k.pendBits ++ us.map fun u => (8 * base + u.1 / 16, 2) }
    else s
  s.access (s.clock + 1) core q.cmd.deck false (engPrio 2) (.updates r fn base us)

/-- One update performs, as one access (R115); in a row that holds no data it is discarded (R419). -/
def State.applyUpdate (s : State) (core fn base : Nat) (u : Nat × BitVec 32) : State :=
  let a := 512 * base + 4 * u.1
  let n := a / 512
  let s := s.modCore core fun k => { k with pendBits := k.pendBits.erase (a / 64, 2) }
  if (s.getCore core).meet n != .data then s else
    let old := BitVec.ofNat 32 (Memory.read s.mem (storeBase core + a) 4)
    s.storeBytes core n (byteRange (a % 512) 4) ((culvertOp fn old u.2).setWidth 4096 <<< (8 * (a % 512))) none

/-- The fault of an update (R409): cause and address. -/
def Core.updateFault (k : Core) (base : Nat) (u : Nat × BitVec 32) : Option (Nat × Word) :=
  let a := 512 * base + 4 * u.1
  if 2 ^ 26 ≤ a then some (0x14, 0) else if (k.tile (a / 16384)).published then some (0x13, BitVec.ofNat 64 a) else none

/-- An update waits: its bank is taken or refreshed, or another engine holds a lock on the bank (R208). -/
def State.updateWaits (s : State) (core base : Nat) (u : Nat × BitVec 32) (busy : List (Nat × Nat)) : Bool :=
  let n := (512 * base + 4 * u.1) / 512
  busy.contains (core, bankOf n) || (s.getCore core).refreshHolds s.clock (bankOf n) || (s.getCore core).tileBanksLocked (n / 32)

/-- Up to `fuel` updates of a window in this clock, each where its bank is free; those left, and the fault of one that no earlier update waits
before. -/
def State.applyUpdates (core fn base : Nat) : Nat → List (Nat × BitVec 32) → State × List (Nat × Nat) → List (Nat × BitVec 32) →
    (State × List (Nat × Nat)) × List (Nat × BitVec 32) × Option (Nat × Word)
  | 0, us, acc, left => (acc, left ++ us, none)
  | _, [], acc, left => (acc, left, none)
  | fuel + 1, u :: us, (s, busy), left =>
    match (s.getCore core).updateFault base u with
    | some f => ((s, busy), left ++ u :: us, if left.isEmpty then some f else none)
    | none =>
      if s.updateWaits core base u busy then State.applyUpdates core fn base (fuel + 1) us (s, busy) (left ++ [u])
      else State.applyUpdates core fn base fuel us
        (s.applyUpdate core fn base u, busy ++ [(core, bankOf ((512 * base + 4 * u.1) / 512))]) left

/-- The updates of a window in this clock, at most 16 of them; after the last the window is done (R208). -/
def State.serveUpdates (acc : State × List (Nat × Nat)) (m : Micro) (r fn base : Nat) (us : List (Nat × BitVec 32)) : State × List (Nat × Nat) :=
  let ((s, busy), left, fault) := State.applyUpdates m.core fn base 16 us ({ acc.1 with micro := acc.1.micro.erase m }, acc.2) []
  match fault with
  | some (c, a) => (s.failRow m.core 2 r c a, busy)
  | none => if left.isEmpty then (s.rowDone m.core 2 r, busy) else ({ s with micro := s.micro ++ [{ m with act := .updates r fn base left }] }, busy)

/-! ### Source rows (R205, R419, R435) -/

/-- What an engine meets in source row n: a fault cause, or whether it reads as silent zeros. -/
def Core.engineMeet (k : Core) (n : Nat) : Nat ⊕ Bool :=
  match k.meet n with
  | .released => .inl 9
  | .trap => .inl 8
  | .silent => .inr true
  | .data => .inr false

/-- An engine consumes an uncorrectable granule of the store or of HBM4: a machine check for the command's instance (R435, R444). -/
def State.engineConsumes (s : State) (c : Cmd) (kind : Nat) (detail : Word) : State :=
  let node := (s.cmdInst c).node
  let s := s.logError kind (c.deck / 4) c.deck node detail
  match c.inst with
  | some i => s.checkInst i
  | none => s

/-- Another engine holds a lock on tile t. -/
def Core.lockedBy (k : Core) (eng t : Nat) : Bool := (k.tile t).locks.any (· != eng)

/-- The rows of the store that a gathered row reads, in increasing order. -/
def gatherRows (es : List (Nat × Option Nat)) (w : Nat) : List Nat :=
  es.foldl (fun acc e => match e.2 with
    | some a => insertUniq ((a + w - 1) / 8 % 2 ^ 26 / 512) (insertUniq (a / 8 % 2 ^ 26 / 512) acc)
    | none => acc) []

/-- The rows of this core's store that the read of row r of a command takes: of a gather its index row and the rows of its elements, which count as one
access to each bank they lie in (NOTES.md, Assumption 116). -/
def State.engRows (s : State) (core eng r : Nat) (rows : List Nat) : List Nat :=
  match s.running core eng with
  | none => rows
  | some q =>
    match q.cmd.job eng (s.getCore core), q.cmd.layout with
    | .gather _ _ idx, some rec_ =>
      if q.cmd.gathersExtent then [idx + r / 128]
      else insertUniq (idx + r / 128) (gatherRows (gatherElems rec_ (s.gatherIndex core idx r)) (tagBits (recFormat rec_)))
    | _, _ => rows

/-- Row `row` of core c as an engine reads it for a command (R121-R124). -/
def State.engRow (s : State) (c : Nat) (cmd : Cmd) (row : Nat) : Image × State :=
  (s.correct c row 0 7).rowFor cmd.inst c c row

/-- Rows `ns` of core c as an engine reads them. -/
def State.engImages (s : State) (c : Nat) (cmd : Cmd) (ns : List Nat) : List (Nat × Image) × State :=
  ns.foldl (fun (q : List (Nat × Image) × State) n => let r := q.2.engRow c cmd n; (q.1 ++ [(n, r.1)], r.2)) ([], s)

/-- Byte a of the store in rows that have been read. -/
def byteOf (rows : List (Nat × Image)) (a : Nat) : Byte :=
  match rows.find? fun x => x.1 == a / 512 with
  | some x => x.2.extractLsb' (8 * (a % 512)) 8
  | none => 0

/-- The reads of a gather's elements from memory: what the check corrects in them is counted (R444). -/
def State.correctElems (s : State) (c : Cmd) (base w : Nat) (es : List (Nat × Option Nat)) : State :=
  es.foldl (fun (s : State) p => match p.2 with
    | some a => s.correctHbm (s.cmdInst c).shadowNode (s.cmdInst c).ctx (s.cmdView c) (base + a / 8) ((w + 7) / 8)
    | none => s) s

/-- The index that row r of a gather takes from an image of its index row. -/
def indexIn (img : Image) (r : Nat) : Int := (img.extractLsb' (32 * (r % 128)) 32).toInt

/-- The row of a gather through an extent that its elements in memory make. -/
def State.gatherMemory (s : State) (core eng r irow : Nat) (q : Running) (d : Nat) (rec_ : BitVec 512) (e : Ext) (es : List (Nat × Option Nat)) (silent : Bool) :
    State :=
  let x := s.cmdInst q.cmd
  let v := s.cmdView q.cmd
  let w := tagBits (recFormat rec_)
  let bs := es.flatMap fun p => match p.2 with | some a => s.blocksOf x.shadowNode x.ctx v (e.base + a / 8) ((w + 7) / 8) | none => []
  if recFaults rec_ && es.any (fun e => e.2.isNone) then s.failRow core eng r 0x0A 0
  else if s.mustQueue bs then s.joinQueue bs (.engineRowPerform core eng r)
  else match es.findSome? fun p => p.2.bind fun a => s.badHbm x.shadowNode x.ctx v (e.base + a / 8) ((w + 7) / 8) with
    | some pa => (s.engineConsumes q.cmd 0x09 (BitVec.ofNat 64 pa)).failRow core eng r 0 0
    | none =>
      let s := if silent then s else s.correct core irow 0 7
      let s := if (s.getCore core).badIn irow 0 7 && !silent then s.engineConsumes q.cmd 0x01 (BitVec.ofNat 64 (512 * irow)) else s
      let s := s.correctElems q.cmd e.base w es
      let img := gatherRow rec_ es fun a => BitVec.ofNat 8 (s.readVA x.shadowNode x.ctx v (e.base + a) 1)
      s.access (s.clock + 1) core q.cmd.deck false (engPrio eng)
        (.engWrite core eng r (d + r) (if silent then none else some img) (some (BitVec.ofNat 5 (recFormat rec_))))

/-- The row of indexes that a gather reads, as this reader may see it (R122). -/
def State.indexRow (s : State) (inst : Option Nat) (core n : Nat) : Image × State :=
  if (s.getCore core).meet n == .data then s.rowFor inst core core n else (s.rowImage core n, s)

/-- The read point of source row r of a command: its data goes on to its write, or waits for the row to get under way; the pairs of a Culvert window go
on as its updates. -/
def State.engSample (s : State) (core eng r wAt : Nat) : State :=
  match s.running core eng with
  | none => s
  | some q =>
    let k := s.getCore core
    let j := q.cmd.job eng k
    match j with
    | .gather d _ idx =>
      match q.cmd.layout with
      | none => s
      | some rec_ =>
        let irow := idx + r / 128
        let (ix, s) := s.indexRow q.cmd.inst core irow
        let es := gatherElems rec_ (indexIn ix r)
        let w := tagBits (recFormat rec_)
        let rows := if q.cmd.gathersExtent then [irow] else insertUniq irow (gatherRows es w)
        match rows.findSome? fun n => match k.engineMeet n with | .inl c => some (c, n) | .inr _ => none with
        | some (c, n) => s.failRow core eng r c (BitVec.ofNat 64 (512 * n))
        | none =>
          let silent := rows.any fun n => k.meet n == .silent
          match (if q.cmd.gathersExtent then j.extent q.cmd (s.cmdInst q.cmd) else none) with
          | some e =>
            -- an index that a racing write has given it, on a page that is not there, is not the one it returns
            let x := s.cmdInst q.cmd
            let there := es.all fun p => p.2.all fun a => s.mapped x.shadowNode x.ctx (s.cmdView q.cmd) (e.base + a / 8) ((w + 7) / 8)
            s.gatherMemory core eng r irow q d rec_ e (if there then es else gatherElems rec_ (s.gatherIndex core idx r)) silent
          | none =>
            if recFaults rec_ && es.any (fun e => e.2.isNone) then s.failRow core eng r 0x0A 0
            else
              let s := match rows.find? fun n => k.badIn n 0 7 with
                | some n => s.engineConsumes q.cmd 0x01 (BitVec.ofNat 64 (512 * n))
                | none => s
              let (imgs, s) := s.engImages core q.cmd rows
              let img := gatherRow rec_ es fun a => byteOf imgs (a % 2 ^ 26)
              s.access (max wAt (s.clock + 1)) core q.cmd.deck false (engPrio eng)
                (.engWrite core eng r (d + r) (if silent then none else some img) (some (BitVec.ofNat 5 (recFormat rec_))))
    | _ =>
      match j.source r with
      | none => s
      | some n =>
        match k.engineMeet n with
        | .inl c => s.failRow core eng r c (BitVec.ofNat 64 (512 * n))
        | .inr silent =>
          let s := if !silent && k.badIn n 0 7 then s.engineConsumes q.cmd 0x01 (BitVec.ofNat 64 (512 * n)) else s
          let (img, s) := if silent then (0, s) else s.engRow core q.cmd n
          let tag := (k.tile (n / 32)).tag
          match j with
          | .copy d _ =>
            s.access (max wAt (s.clock + 1)) core q.cmd.deck false (engPrio eng)
              (.engWrite core eng r (d + r) (if silent then none else some img) (some tag))
          | .culvert fn _ base => if silent then s.rowDone core eng r else s.releaseWindow core r q fn base img
          | _ =>
            let s := s.modRunning core eng fun q => { q with got := q.got ++ [(r, img, 2 * tag.toNat + (if silent then 1 else 0))] }
            if q.launched.contains r then s.postRow core eng r else s

/-- An access waits for another engine's lock on a tile it reads (R56): it asks for no bank. -/
def State.lockWaits (s : State) (m : Micro) : Bool :=
  match m.act with
  | .engRead eng r rows _ => (s.engRows m.core eng r rows).any fun n => (s.getCore m.core).lockedBy eng (n / 32)
  | _ => false

/-- A row's write performs; a row that writes to several cores is done with the last of them. -/
def State.engPerform (s : State) (c src eng r dst : Nat) (data : Option Image) (tag : Option Tag) : State :=
  let s := s.putRow src eng c dst data tag
  if s.micro.any (fun m => match m.act with | .engWrite a b d .. => a == src && b == eng && d == r | _ => false) then s else s.rowDone src eng r

/-! ### Leaving the queue (R111, R114, R206) -/

/-- The wait byte of the head of an engine's queue is satisfied in this clock (R141, R167, R168), and not under the stall wire (R427). DESIGN CHOICE: not before
two clocks after its issue, which R111 says of leaving the queue only (NOTES.md, Assumption 124). -/
def State.waitReady (s : State) (core eng : Nat) : Bool :=
  match ((s.getCore core).engine eng).queue with
  | c :: _ =>
    let x := (s.getCore core).sem (c.f 56 6)
    c.f 63 1 == 1 && !c.waited && decide (c.at_ + 2 ≤ s.clock) && decide (x.target.toNat ≤ x.value.toNat + (if c.f 62 1 = 1 then 0 else x.used)) &&
      !(match c.inst with | some i => s.wireRaised i | none => false)
  | [] => false

/-- The wait of a head is taken: a consuming one lowers the value at once; it acquires what the adds have released (R118). -/
def State.takeWait (s : State) (core eng : Nat) : State :=
  s.modCore core fun k =>
    let e := k.engine eng
    match e.queue with
    | c :: rest =>
      let x := k.sem (c.f 56 6)
      let k := if c.f 62 1 = 1 then k.setSem (c.f 56 6) { x with value := x.value - x.target, used := x.used + x.target.toNat } else k
      (k.setEngine eng { e with queue := { c with waited := true } :: rest }).acquire x.rel
    | [] => k

/-- Of the waits of a core's engines that are satisfied, that whose command reached its queue's head first; of equal ones the lower engine's
(R141). -/
def State.nextWait (s : State) (core : Nat) : Option Nat :=
  ((List.range 3).filter (s.waitReady core)).foldl (fun best e => match best with
    | none => some e
    | some b => if ((s.getCore core).engine e).headAt < ((s.getCore core).engine b).headAt then some e else some b) none

/-- The head of an engine's queue leaves in this clock; one whose wait byte is enabled does not under the stall wire (R396, R427). -/
def State.leaveReady (s : State) (core eng : Nat) : Bool :=
  let k := s.getCore core
  let e := k.engine eng
  match e.cur, e.queue with
  | none, c :: _ =>
    let j := c.job eng k
    e.ahead.isEmpty && decide (c.at_ + 2 ≤ s.clock) && decide (e.freeAt ≤ s.clock) && !s.storesPending c.stores &&
      (c.f 63 1 == 0 || (c.waited && !(match c.inst with | some i => s.wireRaised i | none => false))) &&
      (List.range (c.rows eng)).all (fun r => (j.tiles core r).all fun t => !k.lockedBy eng t) &&
      !(c.report && e.held.any fun h => h.deck == c.deck && h.q == 4)
  | _, _ => false

/-- The event in which a command leaves its queue. -/
def Job.leaves (j : Job) (core eng : Nat) : Instr :=
  match j with
  | .copy .. => .tramCopy core eng
  | .load .. => .tramLoad core eng
  | .back .. => .tramStoreBack core eng
  | .remote .. => .tramRemoteCopy core eng
  | .gather .. => .tramGather core eng
  | .fill .. | .reserved => .tramFill core eng
  | .bcast .. => .tramBroadcast core eng
  | .put .. => .tramPut core eng
  | .fetch .. => .tramGet core eng
  | .cache .. => .probeFill core
  | .culvert fn _ _ =>
    match fn with
    | 0 => .culvertFp32Add core
    | 1 => .culvertI32Add core
    | 2 => .culvertFp32Max core
    | 3 => .culvertFp32Min core
    | 4 => .culvertI32Max core
    | 5 => .culvertI32Min core
    | _ => .culvertOr core

/-- The event in which the head of an engine's queue would leave. -/
def State.headLeaves (s : State) (core eng : Nat) : Option Instr :=
  match ((s.getCore core).engine eng).queue with
  | c :: _ => some ((c.job eng (s.getCore core)).leaves core eng)
  | [] => none

/-- The head leaves: its tiles are locked, its rows get under way (R56, R141, R168, R206, R421). -/
def State.engineLeave (s : State) (core eng : Nat) (ev : Instr) : State :=
  if !(s.leaveReady core eng && s.headLeaves core eng == some ev) then s else
  match ((s.getCore core).engine eng).queue with
  | [] => s
  | c :: rest =>
    let k := s.getCore core
    let j := c.job eng k
    let all := List.range (c.rows eng)
    let skip := if c.f 0 1 = 1 then all.filter (fun r => (j.skipTile r).any k.skipped) else []
    let todo := all.filter fun r => !skip.contains r
    let mine := fun r => (j.dests core r).filterMap fun d => if d.1 = core then some d.2 else none
    let published := todo.find? fun r => (mine r).any fun n => (k.tile (n / 32)).published
    let fault := published.map fun r => (0x13, BitVec.ofNat 64 (512 * (mine r).headD 0), r)
    let k := todo.foldl (fun k r => (mine r).foldl (fun k n => k.modTile (n / 32) fun t =>
      if t.locks.contains eng then t else { t with locks := t.locks ++ [eng] }) k) k
    let k := if (s.cmdInst c).debug then
        { k with pendBits := k.pendBits ++ (todo.filter fun r => !(fault.any fun f => f.2.2 ≤ r)).flatMap fun r =>
            (mine r).flatMap fun n => (List.range 8).map fun g => (8 * n + g, eng) } else k
    let q : Running := ⟨c, s.clock, todo, [], [], 0, skip, fault, false, false, none, none, [], []⟩
    let s := s.setCore core (k.setEngine eng { k.engine eng with queue := rest, headAt := s.clock, cur := some q, acking := [] })
    if todo.isEmpty then
      s.modCore core fun k =>
        let e := k.engine eng
        k.setEngine eng { e with cur := none, ending := e.ending ++ [q], freeAt := max e.freeAt s.clock }
    else
      let reads := todo.filter fun r => !(fault.any fun f => f.2.2 ≤ r)
      let s := reads.foldl (fun s r =>
        match j with
        | .culvert .. => s
        | .gather _ _ idx =>
          if c.gathersExtent then s
          else s.access (s.clock + 2 + r) core c.deck false (engPrio eng) (.engRead eng r [idx + r / 128] (s.clock + 24 + r))
        | _ => match j.source r with
          | some n => s.access (s.clock + 2 + r) core c.deck false (engPrio eng) (.engRead eng r [n] (s.clock + 24 + r))
          | none => s) s
      (s.launch core eng).settleFault core eng

def execTramCopy (core eng : Nat) (s : State) : Out := .next (s.engineLeave core eng (.tramCopy core eng))
def execTramLoad (core eng : Nat) (s : State) : Out := .next (s.engineLeave core eng (.tramLoad core eng))
def execTramStoreBack (core eng : Nat) (s : State) : Out := .next (s.engineLeave core eng (.tramStoreBack core eng))
def execTramRemoteCopy (core eng : Nat) (s : State) : Out := .next (s.engineLeave core eng (.tramRemoteCopy core eng))
def execTramGather (core eng : Nat) (s : State) : Out := .next (s.engineLeave core eng (.tramGather core eng))
def execTramFill (core eng : Nat) (s : State) : Out := .next (s.engineLeave core eng (.tramFill core eng))
def execTramBroadcast (core eng : Nat) (s : State) : Out := .next (s.engineLeave core eng (.tramBroadcast core eng))
def execTramPut (core eng : Nat) (s : State) : Out := .next (s.engineLeave core eng (.tramPut core eng))
def execTramGet (core eng : Nat) (s : State) : Out := .next (s.engineLeave core eng (.tramGet core eng))
def execProbeFill (core : Nat) (s : State) : Out := .next (s.engineLeave core 1 (.probeFill core))
def execCulvertFp32Add (core : Nat) (s : State) : Out := .next (s.engineLeave core 2 (.culvertFp32Add core))
def execCulvertI32Add (core : Nat) (s : State) : Out := .next (s.engineLeave core 2 (.culvertI32Add core))
def execCulvertFp32Max (core : Nat) (s : State) : Out := .next (s.engineLeave core 2 (.culvertFp32Max core))
def execCulvertFp32Min (core : Nat) (s : State) : Out := .next (s.engineLeave core 2 (.culvertFp32Min core))
def execCulvertI32Max (core : Nat) (s : State) : Out := .next (s.engineLeave core 2 (.culvertI32Max core))
def execCulvertI32Min (core : Nat) (s : State) : Out := .next (s.engineLeave core 2 (.culvertI32Min core))
def execCulvertOr (core : Nat) (s : State) : Out := .next (s.engineLeave core 2 (.culvertOr core))

/-! ### Rows without a documented offset (R111, R204) -/

/-- A row that has come in takes its bank in row `dst` of core c, as an access of its engine or, in another core, as a remote one (R55, R346); until it
performs its granules there are pending in debug mode (R421). -/
def State.rowIn (s : State) (core eng r : Nat) (q : Running) (c dst : Nat) (data : Option Image) (tag : Tag) : State :=
  let s := if c ≠ core ∧ (s.cmdInst q.cmd).debug then
      s.modCore c fun k => { k with pendBits := k.pendBits ++ (List.range 8).map fun g => (8 * dst + g, pendMark core eng c) }
    else s
  s.access s.clock c q.cmd.deck false (if c = core then engPrio eng else remotePrio) (.engWrite core eng r dst data (some tag))

/-- A row read from virtual memory reaches the store; an uncorrectable granule stops the command for good. -/
def State.memoryRow (s : State) (core eng r : Nat) (q : Running) (va dst : Nat) : Out :=
  let x := s.cmdInst q.cmd
  let v := s.cmdView q.cmd
  match s.badPlace x.shadowNode x.ctx v va 512 with
  | some pa => .fault (.noSuchAddress pa)
  | none =>
    match s.badHbm x.shadowNode x.ctx v va 512 with
    | some pa => .next ((s.engineConsumes q.cmd 0x09 (BitVec.ofNat 64 pa)).failRow core eng r 0 0)
    | none =>
      let s := s.correctHbm x.shadowNode x.ctx v va 512
      let img := BitVec.ofNat 4096 (s.readVA x.shadowNode x.ctx v va 512)
      .next (s.rowIn core eng r q core dst (some img) 0x0B)

/-- The first row into a tile of a remote device may meet a refusal there (NOTES.md, Assumption 8). -/
def State.peerRefuses (s : State) (q : Running) (tile : Nat) : Bool × State :=
  if q.tagged.contains (2 ^ 30 + tile) then (false, s)
  else ((Config.freeChoice s.free).getLsbD 0, { s with free := s.free + 1 })

/-- What a get meets in its row of a remote device is a free value (R419; NOTES.md, Assumption 8): a fault cause, or whether the row is Invalid under
the silent policy. -/
def State.peerRow (s : State) : (Nat ⊕ Bool) × State :=
  let k := (Config.freeChoice s.free).toNat % 4
  (if k = 0 then .inl 9 else if k = 1 then .inl 8 else .inr (k == 2), { s with free := s.free + 1 })

/-- The Viaduct port through which a device is reached (R340, R341) is down. -/
def State.portDown (s : State) (dev : Nat) : Bool := s.linksDown.contains (s.portFor dev)

/-- Traffic over a port that is down raises MSI-X vector 1 and is lost: it times out (R448, R449). -/
def State.lostTraffic (s : State) : State := s.send 0 1 0 0

/-- The remote tiles of a row are receivable, or some row of the command has already arrived there (R204, R409). -/
def State.receivable (s : State) (q : Running) (ds : List (Nat × Nat)) : Bool :=
  ds.all fun d => q.tagged.contains (d.1 * 4096 + d.2 / 32) || ((s.getCore d.1).tile (d.2 / 32)).receivable

/-- Row r of the current command of an engine, whose clock has come: it performs in memory or at a peer, or sets out for its bank. -/
def State.performRow (s : State) (core eng r : Nat) (q : Running) : Out :=
  let j := q.cmd.job eng (s.getCore core)
  let x := s.cmdInst q.cmd
  let v := s.cmdView q.cmd
  let got := match q.got.find? fun g => g.1 == r with | some g => g.2 | none => (0, 1)
  let silent := got.2 % 2 = 1
  let tag : Tag := BitVec.ofNat 5 (got.2 / 2)
  match j with
  | .load d _ off =>
    (match j.extent q.cmd x with
      | some e => s.memoryRow core eng r q (e.base + 512 * (off + r)) (d + r)
      | none => .next s)
  | .cache d blk => s.memoryRow core eng r q (16384 * blk + 512 * r) (d + r)
  | .back _ _ off =>
    (match j.extent q.cmd x with
      | some e =>
        .next ((s.writeRowVA x.shadowNode x.ctx v (e.base + 512 * (off + r)) (if silent then 0 else got.1) tag).rowDone core eng r)
      | none => .next s)
  | .remote .. | .bcast .. =>
    let ds := j.dests core r
    if !s.receivable q ds then .next (s.failRow core eng r 0x14 0)
    else
      .next (ds.foldl (fun s d => s.rowIn core eng r q d.1 d.2 (if silent then none else some got.1) tag) s)
  | .put _ dev k d =>
    if s.portDown dev then .next s.lostTraffic else
    let t := dev * 2 ^ 20 + k * 4096 + (d + r) / 32
    let (no, s) := s.peerRefuses q t
    if no then .next (s.failRow core eng r 0x14 0)
    else
      let s := s.modRunning core eng fun q => { q with tagged := if q.tagged.contains (2 ^ 30 + t) then q.tagged else q.tagged ++ [2 ^ 30 + t] }
      .next ((s.send 3 dev (k * Config.storeRows + d + r) ((if silent then 0 else got.1.toNat) + tag.toNat * 2 ^ 4096)).rowDone core eng r)
  | .fetch d dev k n =>
    if s.portDown dev then .next s.lostTraffic else
    let t := dev * 2 ^ 20 + k * 4096 + (n + r) / 32
    let (no, s) := s.peerRefuses q t
    if no then .next (s.failRow core eng r 0x14 0)
    else
      let s := s.modRunning core eng fun q => { q with tagged := if q.tagged.contains (2 ^ 30 + t) then q.tagged else q.tagged ++ [2 ^ 30 + t] }
      let img := Config.freeRow s.free
      let tag := BitVec.ofNat 5 ((Config.freeWord s.free).toNat % 13)
      let (meets, s) := ({ s with free := s.free + 1 }).peerRow
      (match meets with
        | .inl c => .next (s.failRow core eng r c (BitVec.ofNat 64 (2 ^ 62 + k * 2 ^ 32 + 512 * (n + r))))
        | .inr silent => .next (s.rowIn core eng r q core (d + r) (if silent then none else some img) tag))
  | .gather _ _ idx =>
    (match q.cmd.layout, j.extent q.cmd x with
      | some rec_, some e =>
        let w := tagBits (recFormat rec_)
        (match (gatherElems rec_ (s.gatherIndex core idx r)).findSome? fun p =>
            p.2.bind fun a => s.badPlace x.shadowNode x.ctx v (e.base + a / 8) ((w + 7) / 8) with
          | some pa => .fault (.noSuchAddress pa)
          | none => .next (s.access s.clock core q.cmd.deck false (engPrio eng) (.engRead eng r [idx + r / 128] 0)))
      | _, _ => .next s)
  | .culvert _ pairs _ => .next (s.access s.clock core q.cmd.deck false (engPrio 2) (.engRead 2 r [pairs + r] 0))
  | .copy .. | .fill .. | .reserved => .next s

/-- A row of an engine has set out for its bank. -/
def State.rowUnderWay (s : State) (core eng row : Nat) : Bool :=
  s.micro.any fun m => match m.act with
    | .engWrite a b r .. => a == core && b == eng && r == row
    | .engRead b r .. => m.core == core && b == eng && r == row
    | .updates r .. => m.core == core && eng == 2 && r == row
    | _ => false

/-- A row comes in: on a core that is not clocked it stands still (R343), and it waits at its memory router where its blocks do (R333, R335, R344,
R447). -/
def execEngineRowPerform (core eng row : Nat) (s : State) : Out :=
  match s.running core eng with
  | some q =>
    if !q.launched.contains row || s.rowUnderWay core eng row then .next s
    else if (s.getCore core).power.cur ≠ 0 then .next (s.post (s.clock + 1) (.engineRowPerform core eng row))
    else
      let bs := s.rowBlocks core q.cmd (q.cmd.job eng (s.getCore core)) row
      if s.mustQueue bs then .next (s.joinQueue bs (.engineRowPerform core eng row)) else s.performRow core eng row q
  | none => .next s

/-! ### Pages (R424, R426) -/

/-- A command that stands at a page may resume. -/
def State.resumeReady (s : State) (core eng : Nat) : Bool :=
  match s.running core eng with
  | none => false
  | some q =>
    match q.page with
    | none => false
    | some (p, _) =>
      let x := s.cmdInst q.cmd
      let j := q.cmd.job eng (s.getCore core)
      (s.resolvePage x.shadowNode x.ctx p (s.cmdView q.cmd)).isSome &&
        s.poolReady x.ctx x.pool (s.pagesToTake q.cmd j (s.rowPages core q.cmd j (q.todo.headD 0))) &&
        !s.touchWaits q.cmd j (s.rowPages core q.cmd j (q.todo.headD 0)) &&
        (!q.raised && !(q.fault.any fun f => f.1 = 0x0C) || (q.taken && !(match q.cmd.inst with | some i => s.wireRaised i | none => false)))

/-- R426: it resumes at its faulting row and goes on as one command. -/
def execEngineCommandResume (core eng : Nat) (s : State) : Out :=
  .next (if !s.resumeReady core eng then s
    else
      let resume := fun (q : Running) =>
        let f := if q.fault.any (fun f => f.1 = 0x0C) then q.behind else q.fault
        { q with page := none, raised := false, taken := false, fault := f, behind := none }
      ((s.modRunning core eng resume).launch core eng).settleFault core eng)

/-! ### Completion (R51, R57, R118, R202) -/

/-- The completion word of a command. -/
def Running.doneWord (q : Running) (eng : Nat) : Word :=
  BitVec.ofNat 64 (q.cmd.num.toNat * 2 ^ 32 + 2 ^ 30 + eng * 2 ^ 28 + min (if eng = 2 then q.cmd.count else q.done) 0xFFFFFFF)

/-- A completion word for rq4: held while the queue is full, gone when the deck runs another instance. -/
def State.pushDone (s : State) (core eng : Nat) (q : Running) : State :=
  let d := s.getDeck q.cmd.deck
  if d.inst ≠ q.cmd.inst then s
  else
    let w := wordEntry (q.doneWord eng)
    if d.rqRoom 4 && !((s.getCore core).engine eng).held.any (fun h => h.deck == q.cmd.deck && h.q == 4) then s.pushRq q.cmd.deck 4 w tagI32
    else s.modCore core fun k => k.setEngine eng { k.engine eng with held := (k.engine eng).held ++ [⟨q.cmd.deck, 4, w, tagI32⟩] }

/-- A remote signal of an instance sets out from core `core` to semaphore n of core k (R118): what core `core` has written, and what it has acquired, is
ordered before an acquire of it (R125). -/
def State.sendSignal (s : State) (core i k n : Nat) : State :=
  let (r, s) := s.toCore core k
  ({ s with signals := s.signals ++ [(⟨i, k, n, mput (s.getCore core).seen core s.clock, s.clock⟩ : Signal)] }).carry [r] s.clock farOff (.remoteSignalArrival k n)

/-- The signal of a command adds 1 (R118, R141, R204); one that a down Viaduct port loses is still waited for (R448, R449). -/
def State.fireSignal (s : State) (core eng : Nat) (q : Running) : State :=
  let c := q.cmd
  if c.way.isSome then s
  else if c.f 55 1 = 0 then s
  else if c.f 54 1 = 0 then s.semAdd core (c.f 48 6) 1
  else match c.job eng (s.getCore core) with
    | .remote k _ _ => s.sendSignal core (c.inst.getD 0) k (c.f 48 6)
    | .bcast ks _ _ => ks.foldl (fun s k => s.sendSignal core (c.inst.getD 0) k (c.f 48 6)) s
    | .put _ dev k _ =>
      if s.portDown dev then { s.lostTraffic with signals := s.signals ++ [(⟨c.inst.getD 0, Config.numCores + k, c.f 48 6, [], s.clock⟩ : Signal)] }
      else s.send 7 dev k (c.f 48 6)
    | _ => s

/-- A fill ends: its way becomes present and `fillsem` gains 1 (R77, R193). -/
def State.fillDone (s : State) (core : Nat) (q : Running) : State :=
  match q.cmd.way with
  | none => s
  | some (w, b, _) =>
    let k := s.getCore core
    let s := s.semAdd core (dirSem k) 1
    if (k.way w).st = 1 && (k.way w).block == b then s.modCore core fun k => { k with ways := mput k.ways w { k.way w with st := 2 } } else s

/-- Among the locks that end, this number stands for a tile that an `mrd` has written whole: it holds no lock (R279). -/
def mrdMark : Nat := 8

/-- What falls in the clock after the last writes of a core's commands: locks end, sequence tags rise, signals fire, completion words
enter rq4. -/
def State.completeEngines (s : State) (core : Nat) : State :=
  let us := (s.getCore core).unlocks
  let s := s.modCore core fun k => us.foldl (fun k u =>
    let k := k.modTile u.1 fun t => { t with locks := t.locks.filter (· != u.2.1), seqTag := if u.2.2 then t.seqTag + 1 else t.seqTag }
    if u.2.2 || u.2.1 == mrdMark then k.markPending u.1 s.clock else k) { k with unlocks := [] }
  (List.range 3).foldl (fun s eng =>
    let qs := ((s.getCore core).engine eng).ending
    if qs.isEmpty then s else
      let s := s.modCore core fun k => k.setEngine eng { k.engine eng with ending := [] }
      qs.foldl (fun s q =>
        let s := (s.fillDone core q).fireSignal core eng q
        if q.cmd.report then s.pushDone core eng q else s) s) s

/-- What the engines and the fabric hold for full queues of deck n goes: no later instance there sees it (R29). -/
def State.dropHeld (s : State) (n : Nat) : State :=
  s.modCore (n / 4) fun k => (List.range 4).foldl (fun k e =>
    k.setEngine e { k.engine e with held := (k.engine e).held.filter fun h => h.deck != n }) k

/-- R51: the oldest held entry whose queue has room enters it. -/
def execHeldQueueEntryEnter (core eng : Nat) (s : State) : Out :=
  let e := (s.getCore core).engine eng
  .next (match e.held.find? fun h => (s.getDeck h.deck).rqRoom h.q with
    | some h => (s.modCore core fun k => k.setEngine eng { k.engine eng with held := (k.engine eng).held.erase h }).pushRq h.deck h.q h.data h.tag
    | none => s)

/-- R118: a remote signal adds at the destination core. -/
def execRemoteSignalArrival (core sem : Nat) (s : State) : Out :=
  .next (match s.signals.find? fun g => g.core == core && g.sem == sem with
    | some g => ({ s with signals := s.signals.erase g }.semAdd core sem 1).modCore core fun k =>
        let x := k.sem sem
        k.setSem sem { x with rel := g.rel.foldl (fun m (p : Nat × Nat) => mput m p.1 (max p.2 (mget 0 m p.1))) x.rel }
    | none => s.semAdd core sem 1)

end Sys2Proof.Machine
end

