-- ==== Sys2Proof/Machine/Flags.lean ====
section
/-! DEFINITION. Element-wise computations on 512-byte images with the flags they raise (spec 04 R86-R91, R107, R108; spec 09 R215,
R218-R223, R230-R231). A result is a code and its flags; only enabled elements raise flags (R87). -/
namespace Sys2Proof.Machine

/-- A result code and the flags it raises. -/
abbrev Res := Nat × BitVec 8

/-- Element e of an image of tag t (R82). -/
def elemAt (t : Nat) (img : Image) (e : Nat) : Nat := bits img.toNat (tagBits t * e) (tagBits t)

/-- The lane that governs element e of a format other than T6 and T6C (R215). -/
def laneOf (t e : Nat) : Nat := tagBits t * e / 32

/-- Some bit of element e lies in an enabled lane (R215). DESIGN CHOICE: such an element raises its flags, one of T6 or T6C that lies partly in a disabled
lane too (NOTES.md, Assumption 125). -/
def elemOn (t : Nat) (mask : Pred) (e : Nat) : Bool := mask.getLsbD (laneOf t e) || mask.getLsbD ((tagBits t * e + tagBits t - 1) / 32)

/-- An image of n elements of w bits, element e from f e where `on e` holds, with the flags of those elements. -/
def buildImage (w n : Nat) (on : Nat → Bool) (f : Nat → Res) : Image × BitVec 8 :=
  let r := (List.range n).foldr (fun e (acc : Nat × BitVec 8) =>
    if on e then (let c := f e; (c.1 % 2 ^ w + 2 ^ w * acc.1, acc.2 ||| c.2)) else (2 ^ w * acc.1, acc.2)) (0, 0)
  (BitVec.ofNat 4096 r.1, r.2)

/-- Every element of every enabled lane (R215). -/
def mapElems (t : Nat) (mask : Pred) (f : Nat → Res) : Image × BitVec 8 :=
  buildImage (tagBits t) (tagElems t) (elemOn t mask) f

/-! ### Rounding, saturation (R218) -/

/-- The arithmetic mode a syllable uses: its override, or `fmode` (R89, R218). -/
def arithMode (rmo : Nat) (fmode : Word) : Nat := if rmo = 0 then bits fmode.toNat 3 2 else rmo - 1

/-- The conversion mode a syllable names (R89). -/
def convMode (rm : Nat) (fmode : Word) : Nat := if rm = 7 then bits fmode.toNat 5 3 else rm

/-- One rounding of a value into the format of F tag t, with the operation's own flags. -/
def roundTo (t rm : Nat) (r : Val × BitVec 8) : Res :=
  let o := rndIEEE (ffmtOf t) rm 0 r.1
  (o.1, o.2 ||| r.2)

/-- The value of an element of an A tag. -/
def fval (t a : Nat) : Val := decIEEE (ffmtOf t) a

/-! ### Element-wise operations (R219-R222) -/

/-- An arithmetic operation on elements of an A tag: on values for F tags, on exact integers for N tags. -/
structure BinOp where
  fp : Bool → Val → Val → Val × BitVec 8
  int : Int → Int → Int

/-- It is applied to two elements, rounded once or brought into the integer format. -/
def BinOp.run (o : BinOp) (t rm : Nat) (sat : Bool) (a b : Nat) : Res :=
  if isFTag t then roundTo t rm (o.fp (rm == 2) (fval t a) (fval t b)) else (intCode t sat (o.int (intOf t a) (intOf t b)), 0)

def opAdd : BinOp := ⟨Val.add, (· + ·)⟩
def opSub : BinOp := ⟨fun d a b => a.add d b.neg, (· - ·)⟩
def opMul : BinOp := ⟨fun _ a b => a.mul b, (· * ·)⟩
def opMin : BinOp := ⟨fun _ a b => Val.minmax false a b, min⟩
def opMax : BinOp := ⟨fun _ a b => Val.minmax true a b, max⟩
def opAbsd : BinOp := ⟨fun d a b => let r := a.add d b.neg; (r.1.abs, r.2), fun a b => (a - b).natAbs⟩
/-- `vabs` and `vneg` raise no flags (R219). -/
def opAbs : BinOp := ⟨fun _ a _ => (a.abs, 0), fun a _ => a.natAbs⟩
def opNeg : BinOp := ⟨fun _ a _ => (a.neg, 0), fun a _ => -a⟩

/-- R220: a × b + d with signs: `vfma`, `vfms` (−d), `vfnma` (−a × b). -/
def fmaElem (t rm : Nat) (negP negD : Bool) (a b d : Nat) : Res :=
  let x := if negP then (fval t a).neg else fval t a
  let y := if negD then (fval t d).neg else fval t d
  roundTo t rm (x.fma (rm == 2) (fval t b) y)

/-- R221. -/
def madElem (t : Nat) (sat : Bool) (a b d : Nat) : Res := (intCode t sat (intOf t a * intOf t b + intOf t d), 0)

/-- R222: lane l of a four-way dot product, each operand by its own tag. -/
def dotLane (ta tb : Nat) (sat : Bool) (a b d : Image) (l : Nat) : Res :=
  (intCode 8 sat ((List.range 4).foldl (fun z k => z + intOf ta (elemAt ta a (4 * l + k)) * intOf tb (elemAt tb b (4 * l + k)))
    (intOf 8 (elemAt 8 d l))), 0)

/-! ### Compares (R223, R224) -/

/-- A vcond relation of two elements of an A tag, and its nv flag. -/
def condElem (t c a b : Nat) : Bool × BitVec 8 :=
  if isFTag t then
    let x := fval t a
    let y := fval t b
    let nan := x.isNaN || y.isNaN
    let o := x.cmp y
    let r := match c with
      | 0 => o == some .eq
      | 1 => o != some .eq
      | 2 => o == some .lt
      | 3 => o == some .gt || o == some .eq
      | 4 => o == some .lt || o == some .eq
      | 5 => o == some .gt
      | 6 => nan
      | _ => !nan
    (r, if 2 ≤ c ∧ c ≤ 5 ∧ nan then fNV else x.snan ||| y.snan)
  else
    let x := intOf t a
    let y := intOf t b
    (match c with
      | 0 => x == y
      | 1 => x != y
      | 2 => decide (x < y)
      | 3 => decide (y ≤ x)
      | 4 => decide (x ≤ y)
      | 5 => decide (y < x)
      | 6 => false
      | _ => true, 0)

/-- The bit of lane l: the relation of all its elements, or of one for ne and unordered. -/
def condLane (t c : Nat) (a b : Image) (l : Nat) : Bool × BitVec 8 :=
  let q := 32 / tagBits t
  let rs := (List.range q).map fun k => condElem t c (elemAt t a (q * l + k)) (elemAt t b (q * l + k))
  (if c = 1 ∨ c = 6 then rs.any (·.1) else rs.all (·.1), rs.foldl (fun f r => f ||| r.2) 0)

/-! ### Reductions and scans (R107, R108, R230, R231) -/

/-- The three combinations of a reduction or scan. -/
inductive Fold where
  | sum | max | min
deriving DecidableEq, Repr

/-- Its operation. -/
def Fold.op : Fold → BinOp
  | .sum => opAdd
  | .max => opMax
  | .min => opMin

/-- The identity of a floating combination: −0, −∞, +∞. -/
def Fold.unit (k : Fold) (t : Nat) : Nat :=
  let f := ffmtOf t
  match k with
  | .sum => 2 ^ (f.eb + f.mb)
  | .max => (rndIEEE f 0 0 (.inf true)).1
  | .min => (rndIEEE f 0 0 (.inf false)).1

/-- A floating element as it enters: a NaN canonical, a signalling one with nv (R86). -/
def enter (t a : Nat) : Res := let v := fval t a; if v.isNaN then (canonNaN (ffmtOf t), v.snan) else (a, 0)

/-- The elements of an image, those of disabled lanes replaced by the identity. -/
def foldElems (k : Fold) (t : Nat) (mask : Pred) (img : Image) : List Res :=
  (List.range (tagElems t)).map fun e => if mask.getLsbD (laneOf t e) then enter t (elemAt t img e) else (k.unit t, 0)

/-- One floating combination, with the flags of all that went into it. -/
def Fold.combine (k : Fold) (t rm : Nat) (a b : Res) : Res :=
  let r := k.op.run t rm false a.1 b.1
  (r.1, r.2 ||| a.2 ||| b.2)

/-- The pairwise tree of R107: halves combined until one element is left. -/
def foldTree (op : Res → Res → Res) : Nat → List Res → List Res
  | 0, vs => vs
  | n + 1, vs =>
    if vs.length ≤ 1 then vs else
      let h := vs.length / 2
      foldTree op n (List.zipWith op (vs.take h) (vs.drop h))

/-- The tree of R108 over all elements at once: h doubles until it reaches the length. -/
def scanTree (op : Res → Res → Res) : Nat → Nat → List Res → List Res
  | 0, _, vs => vs
  | n + 1, h, vs => if vs.length ≤ h then vs else scanTree op n (2 * h) (vs.take h ++ List.zipWith op vs (vs.drop h))

/-- The enabled integers of an image with their element numbers. -/
def intElems (t : Nat) (mask : Pred) (img : Image) : List (Nat × Int) :=
  ((List.range (tagElems t)).filter fun e => mask.getLsbD (laneOf t e)).map fun e => (e, intOf t (elemAt t img e))

/-- An integer combination of enabled elements, exact. -/
def Fold.ints (k : Fold) (t : Nat) (zs : List Int) : Int :=
  match k with
  | .sum => zs.foldl (· + ·) 0
  | .max => zs.foldl (fun a b => Max.max a b) (intMin t)
  | .min => zs.foldl (fun a b => Min.min a b) (intMax t)

/-- R230: the reduction of the enabled elements. -/
def reduce (k : Fold) (t rm : Nat) (sat : Bool) (mask : Pred) (img : Image) : Res :=
  if isFTag t then (foldTree (k.combine t rm) 10 (foldElems k t mask img)).headD (0, 0)
  else (intCode t sat (k.ints t ((intElems t mask img).map (·.2))), 0)

/-- R231: the inclusive prefixes, one for each element. -/
def prefixes (k : Fold) (t rm : Nat) (sat : Bool) (mask : Pred) (img : Image) : List Res :=
  if isFTag t then scanTree (k.combine t rm) 10 1 (foldElems k t mask img)
  else
    let zs := (List.range (tagElems t)).map fun e => if mask.getLsbD (laneOf t e) then some (intOf t (elemAt t img e)) else none
    (zs.foldl (fun (acc : List Res × List Int) z =>
      let seen := match z with | some z => [k.ints t (acc.2 ++ [z])] | none => acc.2
      (acc.1 ++ [(intCode t sat (k.ints t seen), 0)], seen)) ([], [])).1

/-! ### Shifts and counts (R236) -/

def shiftElem (kind t a s : Nat) : Res :=
  let w := tagBits t
  match kind with
  | 0 => (a * 2 ^ s % 2 ^ w, 0)
  | 1 => (a / 2 ^ s, 0)
  | _ => (intCode t false (intOf t a / 2 ^ s), 0)

def clzElem (t a : Nat) : Res := (if a = 0 then tagBits t else tagBits t - 1 - Nat.log2 a, 0)
def popElem (t a : Nat) : Res := ((List.range (tagBits t)).countP fun i => bits a i 1 == 1, 0)

end Sys2Proof.Machine
end

