-- ==== Sys2Proof/Machine/Operands.lean ====
section
/-! DEFINITION. The operand forms of vector syllables: source names, queue modes, destinations, tag checks (spec 03 R48-R53, spec 06 R134,
spec 09 R212-R217, spec 21 R410, R411). -/
namespace Sys2Proof.Machine

/-- What the source names of a syllable take, in field order (R53): the first name that finds no poppable entry, or the operands and
the deck after the pops. -/
def Deck.takeAll (d : Deck) : List Nat → Nat ⊕ (List VReg × Deck)
  | [] => .inr ([], d)
  | n :: ns =>
    match d.takeSrc n with
    | none => .inl n
    | some (v, d') =>
      match d'.takeAll ns with
      | .inl m => .inl m
      | .inr (vs, d'') => .inr (v :: vs, d'')

/-- The result queue a destination name pushes into (R49). -/
def pushOf (n : Nat) : Option Nat := if 336 ≤ n ∧ n < 340 then some (n - 336) else none

/-- Room for a push after the pops of the bundle (R216). -/
def State.rqRoomNow (s : State) (q : Nat) : Bool :=
  decide ((mget [] s.dk.rq q).length < 4 + s.issue.freeing.count q)

/-- A syllable with queue operands (R52, R411): its sources are taken, its push needs room, its checks pass, and only then does it act;
under suppress it then clears p30. -/
def State.operands (s : State) (h : Hd) (qm : Nat) (srcs : List Nat) (push : Option Nat)
    (check : Deck → List VReg → Option (Nat × Nat × Word)) (act : State → List VReg → State) : State :=
  match s.dk.takeAll srcs with
  | .inl n => s.queueFail h qm 0x04 (popName n)
  | .inr (vs, d) =>
    let s1 := s.setDk d
    if push.any fun q => !s1.rqRoomNow q then s.queueFail h qm 0x05 (336 + push.getD 0)
    else match check s.dk vs with
      | some (cause, detail, addr) => s.raise h cause detail addr
      | none =>
        let s2 := act s1 vs
        if qm = 1 && (push.isSome || srcs.any isQueueName) then s2.writeP30 h false else s2

/-- A new entry of result queue q, reserved now and poppable when the result lands; its disabled lanes are zero (R216). -/
def State.pushResult (s : State) (h : Hd) (lat q : Nat) (mask : Pred) (data : Image) (tag : Tag) : State :=
  let id := s.seq
  let s := { s.modDk (fun d => { d with rq := mset [] d.rq q (mget [] d.rq q ++ [⟨id, 0, tag, false, false⟩]) }) with seq := s.seq + 1 }
  s.result h lat (.rq q id) (BitVec.allOnes 128) (data &&& laneBits mask) tag

/-- A vector result under a lane mask: into a register, or as a new entry (R216). -/
def State.writeV (s : State) (h : Hd) (lat nd : Nat) (mask : Pred) (data : Image) (tag : Tag) : State :=
  match pushOf nd with
  | none => s.result h lat (.v nd) mask data tag
  | some q => s.pushResult h lat q mask data tag

/-- The tags a column of R213 accepts: set A, F, N, or one predicate of its own; and whether all operands must carry one tag (R214). -/
def tagA (t : Nat) : Bool := isFTag t || isNTag t
def tagAny (t : Nat) : Bool := isF t

/-- The first operand whose tag is not accepted or differs from that of va: tag and operand number (R410). -/
def tagFault (ok : Nat → Bool) (same : Bool) (vs : List (VReg × Nat)) : Option (Nat × Nat × Word) :=
  match vs with
  | [] => none
  | (a, _) :: _ =>
    (vs.find? fun v => !ok v.1.tag.toNat || (same && v.1.tag != a.tag)).map fun v => (0x03, v.1.tag.toNat + 32 * v.2, 0)

/-- The tag check of operands numbered from 0. -/
def checkTags (ok : Nat → Bool) (same : Bool) (vs : List VReg) : Option (Nat × Nat × Word) := tagFault ok same vs.zipIdx

/-- A V-map syllable (R134, R213): disabled in every lane it does nothing; otherwise its scalar sources are awaited (R187), its operands
taken and checked, and its result written with its flags at its latency. -/
def State.vector (s : State) (h : Hd) (qm lat nd : Nat) (xs : List (BitVec 6)) (srcs : List Nat)
    (check : Deck → List VReg → Option (Nat × Nat × Word)) (f : State → Pred → List VReg → Image × Tag × BitVec 8) : State :=
  let mask := s.dk.guard h
  if mask = 0 then s
  else if s.waitsLds xs then s.stalled
  else s.operands h qm srcs (pushOf nd) check fun s vs =>
    let (img, tag, fl) := f s mask vs
    (s.writeV h lat nd mask img tag).raiseFlags h lat fl

end Sys2Proof.Machine
end

