-- ==== Sys2Proof/Machine/Vector.lean ====
section
/-! DEFINITION. The vector instructions of map V and the X-slot movers `vst`, `vpop`, `mvq` (spec 09). -/
namespace Sys2Proof

/-- The fields of a VRR body as numbers: qm, nd, na, nb, mod. -/
def VRR.q (b : VRR) : Nat := b.qm.toNat
def VRR.d (b : VRR) : Nat := b.nd.toNat
def VRR.a (b : VRR) : Nat := b.na.toNat
def VRR.b2 (b : VRR) : Nat := b.nb.toNat
def VRR.rmo (b : VRR) : Nat := bits b.m.toNat 1 3
def VRR.sat (b : VRR) : Bool := b.m.getLsbD 0

end Sys2Proof

namespace Sys2Proof.Machine

/-! ### Shared forms -/

/-- The operand in a place of the list. -/
def opnd (vs : List VReg) (k : Nat) : VReg := vs.getD k VReg.zero

/-- Two operands of one A tag, element by element (R219). -/
def State.vbin (s : State) (h : Hd) (b : VRR) (lat : Nat) (o : BinOp) (rmo : Nat) (sat : Bool) : State :=
  s.vector h b.q lat b.d [] [b.a, b.b2] (fun _ vs => checkTags tagA true vs) fun s mask vs =>
    let x := opnd vs 0
    let t := x.tag.toNat
    let r := mapElems t mask fun e => o.run t (arithMode rmo s.dk.fmode) sat (elemAt t x.data e) (elemAt t (opnd vs 1).data e)
    (r.1, x.tag, r.2)

/-- One operand of an A tag. -/
def State.vun (s : State) (h : Hd) (b : VRR) (o : BinOp) : State :=
  s.vector h b.q 2 b.d [] [b.a] (fun _ vs => checkTags tagA true vs) fun _ mask vs =>
    let x := opnd vs 0
    let t := x.tag.toNat
    let r := mapElems t mask fun e => o.run t 0 b.sat (elemAt t x.data e) 0
    (r.1, x.tag, r.2)

/-- Three operands, vd among them (R214, R220, R221). -/
def State.vtri (s : State) (h : Hd) (b : VRR) (ok : Nat → Bool) (f : Nat → Nat → Nat → Nat → Nat → Res) : State :=
  s.vector h b.q 4 b.d [] [b.a, b.b2, b.d] (fun _ vs => checkTags ok true vs) fun s mask vs =>
    let x := opnd vs 0
    let t := x.tag.toNat
    let r := mapElems t mask fun e =>
      f t (arithMode b.rmo s.dk.fmode) (elemAt t x.data e) (elemAt t (opnd vs 1).data e) (elemAt t (opnd vs 2).data e)
    (r.1, x.tag, r.2)

def execVadd (h : Hd) (b : VRR) (s : State) : Out := .next (s.vbin h b 2 opAdd b.rmo b.sat)
def execVsub (h : Hd) (b : VRR) (s : State) : Out := .next (s.vbin h b 2 opSub b.rmo b.sat)
def execVmul (h : Hd) (b : VRR) (s : State) : Out := .next (s.vbin h b 4 opMul b.rmo b.sat)
def execVmin (h : Hd) (b : VRR) (s : State) : Out := .next (s.vbin h b 2 opMin 1 false)
def execVmax (h : Hd) (b : VRR) (s : State) : Out := .next (s.vbin h b 2 opMax 1 false)
def execVabsd (h : Hd) (b : VRR) (s : State) : Out := .next (s.vbin h b 2 opAbsd b.rmo b.sat)
def execVabs (h : Hd) (b : VRR) (s : State) : Out := .next (s.vun h b opAbs)
def execVneg (h : Hd) (b : VRR) (s : State) : Out := .next (s.vun h b opNeg)
def execVfma (h : Hd) (b : VRR) (s : State) : Out := .next (s.vtri h b isFTag fun t rm => fmaElem t rm false false)
def execVfms (h : Hd) (b : VRR) (s : State) : Out := .next (s.vtri h b isFTag fun t rm => fmaElem t rm false true)
def execVfnma (h : Hd) (b : VRR) (s : State) : Out := .next (s.vtri h b isFTag fun t rm => fmaElem t rm true false)
def execVmadi (h : Hd) (b : VRR) (s : State) : Out := .next (s.vtri h b isNTag fun t _ => madElem t b.sat)

/-- R222: va and vb are I8 or U8, vd is I32. -/
def dotTags (vs : List VReg) : Option (Nat × Nat × Word) :=
  match tagFault (fun t => t == 0x0A || t == 0x0B) false [(opnd vs 0, 0), (opnd vs 1, 1)] with
  | some e => some e
  | none => tagFault (· == 8) false [(opnd vs 2, 2)]

def execVdot4 (h : Hd) (b : VRR) (s : State) : Out :=
  .next (s.vector h b.q 4 b.d [] [b.a, b.b2, b.d] (fun _ vs => dotTags vs) fun _ mask vs =>
    let x := opnd vs 0
    let y := opnd vs 1
    let r := mapElems 8 mask (dotLane x.tag.toNat y.tag.toNat b.sat x.data y.data (opnd vs 2).data)
    (r.1, 8, r.2))

/-! ### Compares and selects (R223-R225) -/

/-- A predicate from a test of each lane, and flags. -/
def laneTest (mask : Pred) (f : Nat → Bool × BitVec 8) : Pred × BitVec 8 :=
  let r := (List.range 128).foldr (fun l (acc : Nat × BitVec 8) =>
    if mask.getLsbD l then (let c := f l; ((if c.1 then 1 else 0) + 2 * acc.1, acc.2 ||| c.2)) else (2 * acc.1, acc.2)) (0, 0)
  (BitVec.ofNat 128 r.1, r.2)

/-- A predicate result in the lanes of a mask (R38); p31 discards it (R47). -/
def State.writePMask (s : State) (h : Hd) (lat : Nat) (r : BitVec 5) (mask v : Pred) : State :=
  if r = 31 then s else s.result h lat (.p r.toNat) mask (v.setWidth 4096) 0

/-- R223: `vcmp` has no queue mode of its own, so an empty queue stalls it (R52). -/
def execVcmp (h : Hd) (b : PCV) (s : State) : Out :=
  let mask := s.dk.guard h
  .next (if mask = 0 then s else
    s.operands h 0 [b.na.toNat, b.nb.toNat] none (fun _ vs => checkTags tagA true vs) fun s vs =>
      let x := opnd vs 0
      let c := laneTest mask (condLane x.tag.toNat b.cond.toNat x.data (opnd vs 1).data)
      let r := combine b.comb.toNat (s.dk.getP b.pd) (s.dk.getP b.pe) c.1
      ((s.writePMask h 2 b.pd mask r.1).writePMask h 2 b.pe mask r.2).raiseFlags h 2 c.2)

/-- R224: the result tag of a compare. -/
def condTag (t : Nat) : Tag := match tagBits t with | 32 => 8 | 16 => 9 | _ => 0x0A

def execVcmpd (h : Hd) (b : VRR) (s : State) : Out :=
  .next (s.vector h b.q 2 b.d [] [b.a, b.b2] (fun _ vs => checkTags tagA true vs) fun _ mask vs =>
    let x := opnd vs 0
    let t := x.tag.toNat
    let r := mapElems t mask fun e =>
      let c := condElem t (bits b.m.toNat 0 3) (elemAt t x.data e) (elemAt t (opnd vs 1).data e)
      (if c.1 then 2 ^ tagBits t - 1 else 0, c.2)
    (r.1, condTag t, r.2))

/-- The predicate pn of `vsel` and `vexpnd` (mod[3:0]). -/
def State.pn (s : State) (b : VRR) : Pred := s.dk.getP (BitVec.ofNat 5 b.m.toNat)

def execVsel (h : Hd) (b : VRR) (s : State) : Out :=
  .next (s.vector h b.q 2 b.d [] [b.a, b.b2] (fun _ vs => checkTags tagAny true vs) fun s _ vs =>
    (mergeLanes (s.pn b) (opnd vs 1).data (opnd vs 0).data, (opnd vs 0).tag, 0))

/-! ### Moves, constants, lane moves (R226-R229) -/

def execVmov (h : Hd) (b : VRR) (s : State) : Out :=
  .next (s.vector h b.q 2 b.d [] [b.a] (fun _ vs => checkTags tagAny true vs) fun _ _ vs => ((opnd vs 0).data, (opnd vs 0).tag, 0))
def execVtag (h : Hd) (b : VRR) (s : State) : Out :=
  .next (s.vector h b.q 2 b.d [] [b.a] (fun _ vs => checkTags tagAny true vs) fun _ _ vs => ((opnd vs 0).data, BitVec.ofNat 5 b.b2, 0))

/-- The scalar register of a field of kind X (R212). -/
def xField (n : BitVec 9) : BitVec 6 := n.setWidth 6

/-- R227: every element of fmt takes the low bits of xa; R215 governs lanes. -/
def execVbcast (h : Hd) (b : VRR) (s : State) : Out :=
  .next (s.vector h b.q 2 b.d [xField b.na] [] (fun _ _ => none) fun s _ _ =>
    let t := b.b2 % 32
    ((buildImage (tagBits t) (tagElems t) (fun _ => true) fun _ => ((s.x (xField b.na)).toNat, 0)).1, BitVec.ofNat 5 t, 0))
def execVidx (h : Hd) (b : VRR) (s : State) : Out :=
  .next (s.vector h b.q 2 b.d [xField b.na] [] (fun _ _ => none) fun s _ _ =>
    let t := b.b2 % 32
    ((buildImage (tagBits t) (tagElems t) (fun _ => true) fun e => ((s.x (xField b.na)).toNat + e, 0)).1, BitVec.ofNat 5 t, 0))

/-- One lane of an image. -/
def laneAt (img : Image) (l : Nat) : Nat := bits img.toNat (32 * l) 32

/-- R228: the lane alone decides, for queue operands too. -/
def execVext (h : Hd) (b : VRR) (s : State) : Out :=
  let lane := b.b2 % 128
  .next (if !(s.dk.guard h).getLsbD lane then s
    else s.operands h b.q [b.a] none (fun _ _ => none) fun s vs =>
      s.writeX h 2 (xField b.nd) (BitVec.ofNat 64 (laneAt (opnd vs 0).data lane)))

def execVins (h : Hd) (b : VRR) (s : State) : Out :=
  let lane := b.b2 % 128
  .next (if !(s.dk.guard h).getLsbD lane then s
    else if s.waitsLds [xField b.na] then s.stalled
    else s.result h 2 (.v b.d) (1 <<< lane) (((s.x (xField b.na)).setWidth 32).setWidth 4096 <<< (32 * lane)) keepTag)

/-- An image lane by lane. -/
def lanes (f : Nat → Nat) : Image := (buildImage 32 128 (fun _ => true) fun l => (f l, 0)).1

/-- R229: output lane l of a move of one operand. -/
def State.vmoveLanes (s : State) (h : Hd) (b : VRR) (f : State → VReg → Nat → Nat) : State :=
  s.vector h b.q 2 b.d [] [b.a] (fun _ vs => checkTags tagAny true vs) fun s _ vs =>
    (lanes (f s (opnd vs 0)), (opnd vs 0).tag, 0)

def permTags (vs : List VReg) : Option (Nat × Nat × Word) :=
  match tagFault tagAny false [(opnd vs 0, 0)] with
  | some e => some e
  | none => tagFault (· == 8) false [(opnd vs 1, 1)]
def execVperm (h : Hd) (b : VRR) (s : State) : Out :=
  .next (s.vector h b.q 2 b.d [] [b.a, b.b2] (fun _ vs => permTags vs) fun _ _ vs =>
    (lanes fun l => laneAt (opnd vs 0).data (laneAt (opnd vs 1).data l % 128), (opnd vs 0).tag, 0))
/-- k in bits 7:0, two's complement. -/
def execVslide (h : Hd) (b : VRR) (s : State) : Out :=
  let k : Int := (b.nb.setWidth 8).toInt
  .next (s.vmoveLanes h b fun _ v l =>
    let i : Int := l + k
    if b.m.getLsbD 0 then laneAt v.data (i % 128).toNat else if 0 ≤ i ∧ i ≤ 127 then laneAt v.data i.toNat else 0)

/-- The q elements of a lane in reverse order. -/
def revLane (t w : Nat) : Nat :=
  let k := tagBits t
  (List.range (32 / k)).foldl (fun acc i => acc * 2 ^ k + bits w (k * i) k) 0
def execVrev (h : Hd) (b : VRR) (s : State) : Out :=
  let e := b.m.getLsbD 0
  .next (s.vector h b.q 2 b.d [] [b.a] (fun _ vs => checkTags (fun t => isF t && !(e && (t == 4 || t == 6))) true vs) fun _ _ vs =>
    let v := opnd vs 0
    (lanes fun l => if e then revLane v.tag.toNat (laneAt v.data (127 - l)) else laneAt v.data (127 - l), v.tag, 0))

/-- Bits of pn below l that are 1. -/
def rankBelow (p : Pred) (l : Nat) : Nat := (List.range l).countP p.getLsbD
def execVexpnd (h : Hd) (b : VRR) (s : State) : Out :=
  .next (s.vmoveLanes h b fun s v l => if (s.pn b).getLsbD l then laneAt v.data (rankBelow (s.pn b) l) else 0)

/-! ### Reductions, scan, estimates (R230-R232) -/

def State.vreduce (s : State) (h : Hd) (b : VRR) (k : Fold) (rmo : Nat) (sat : Bool) : State :=
  s.vector h b.q 5 b.d [] [b.a] (fun _ vs => checkTags tagA true vs) fun s mask vs =>
    let x := opnd vs 0
    let t := x.tag.toNat
    let r := reduce k t (arithMode rmo s.dk.fmode) sat mask x.data
    ((mapElems t mask fun _ => (r.1, 0)).1, x.tag, r.2)
def execVredsum (h : Hd) (b : VRR) (s : State) : Out := .next (s.vreduce h b .sum b.rmo b.sat)
def execVredmax (h : Hd) (b : VRR) (s : State) : Out := .next (s.vreduce h b .max 1 false)
def execVredmin (h : Hd) (b : VRR) (s : State) : Out := .next (s.vreduce h b .min 1 false)

/-- The operation of `vscan` (mod[1:0]). -/
def scanKind (b : VRR) : Fold := match bits b.m.toNat 0 2 with | 0 => .sum | 1 => .max | _ => .min
def execVscan (h : Hd) (b : VRR) (s : State) : Out :=
  .next (s.vector h b.q 5 b.d [] [b.a] (fun _ vs => checkTags tagA true vs) fun s mask vs =>
    let x := opnd vs 0
    let t := x.tag.toNat
    let ps := prefixes (scanKind b) t (arithMode 0 s.dk.fmode) (b.m.getLsbD 2) mask x.data
    let r := mapElems t mask fun e => ps.getD e (0, 0)
    (r.1, x.tag, r.2))

def State.vestimate (s : State) (h : Hd) (b : VRR) (k : Est) : State :=
  s.vector h b.q 6 b.d [] [b.a] (fun _ vs => checkTags (· == 0) true vs) fun _ mask vs =>
    let x := opnd vs 0
    let r := mapElems 0 mask fun e => estimate k (elemAt 0 x.data e)
    (r.1, x.tag, r.2)
def execVrcpe (h : Hd) (b : VRR) (s : State) : Out := .next (s.vestimate h b .rcp)
def execVrsqe (h : Hd) (b : VRR) (s : State) : Out := .next (s.vestimate h b .rsq)
def execVexp2e (h : Hd) (b : VRR) (s : State) : Out := .next (s.vestimate h b .exp2)
def execVlog2e (h : Hd) (b : VRR) (s : State) : Out := .next (s.vestimate h b .log2)

/-! ### Conversions (R233, R234) -/

/-- The deck's companding curve (R96). -/
def Deck.curve (d : Deck) : Curve := curveOf ((List.range 16).map fun k => mget (crvReset k) d.crv k)

/-- The value of a source element of a conversion: companded codes through C⁻¹ (R97), SP32 with the deck's S (R98). -/
def convSource (d : Deck) (t code : Nat) : Val :=
  let v := decElem t d.tscale.toNat code
  if t = 5 ∨ t = 6 then d.curve.inv v else v

/-- One conversion into fmt: through the curve for companded formats, whose inner roundings raise no flags. -/
def convertWith (cv : Curve) (sc : Nat) (lfsr : BitVec 32) (fmt rm e : Nat) (x : Val) : Res :=
  let v := if fmt = 5 ∨ fmt = 6 then cv.fwd (rne32 x) else x
  let r := rndElem fmt sc rm (mix lfsr.toNat e) v
  (r.1, r.2 ||| x.snan)
def convert (d : Deck) (fmt rm e : Nat) (v : Val) : Res := convertWith d.curve d.tscale.toNat d.lfsr fmt rm e v

/-- The number of elements a conversion counts (R234). -/
def convCount (t : Nat) : Nat := if tagBits t = 6 then 512 else tagElems t

/-- The lanes that elements lo to lo + n − 1 of tag t fill. -/
def laneRange (t lo n : Nat) : Pred :=
  let w := tagBits t
  BitVec.ofNat 128 ((2 ^ (w * n / 32) - 1) * 2 ^ (w * lo / 32))

/-- Whether a conversion draws stochastically (R92): SP32 always rounds to nearest. -/
def draws (t fmt rm : Nat) : Bool := rm == 4 && t != fmt && fmt != 7

def execVcvt (h : Hd) (b : VRR) (s : State) : Out :=
  let fmt := b.b2 % 32
  let mask := s.dk.guard h
  .next (if mask = 0 then s
    else s.operands h b.q [b.a] (pushOf b.d) (fun _ vs => checkTags (fun t => isF t && t != 0x0C) true vs) fun s vs =>
      let x := opnd vs 0
      let t := x.tag.toNat
      if t = fmt then s.writeV h 3 b.d mask x.data x.tag
      else
        let rm := if t = 7 ∧ fmt = 0 then 0 else convMode (bits b.b2 5 3) s.dk.fmode
        let es := convCount t
        let ed := convCount fmt
        let n := min es ed
        let p := bits b.m.toNat 0 2 % (max es ed / n)
        let off := if ed > es then p * n else 0
        let src := if ed > es then 0 else p * n
        let w := tagBits fmt
        let lanesOn := mask &&& laneRange fmt off n
        let r := buildImage w ed (fun e => decide (off ≤ e ∧ e < off + n) && elemOn fmt mask e)
          fun e => convert s.dk fmt rm e (convSource s.dk t (elemAt t x.data (src + (e - off))))
        let s := if draws t fmt rm then s.modDk fun d => { d with lfsr := lfsrStep d.lfsr } else s
        (s.writeV h 3 b.d lanesOn r.1 (BitVec.ofNat 5 fmt)).raiseFlags h 3 r.2)

/-! ### Ranking, bitwise operations, shifts and counts (R235, R236) -/

/-- The rank order of `vtopk`: the value, or its magnitude. -/
def topVal (t : Nat) (mag : Bool) (a : Nat) : Val :=
  let v := if t = 0 then decIEEE fp32 a else Val.ofInt (intOf t a)
  if mag then v.abs else v

/-- a ranks strictly above b: a NaN above everything else. -/
def ranksAbove (a b : Val) : Bool := if b.isNaN then false else a.isNaN || b.lt a

/-- Lanes ranked, best first; equal ranks keep the lower lane first. -/
def rankLanes (key : Nat → Val) : List Nat → List Nat
  | [] => []
  | l :: ls =>
    let r := rankLanes key ls
    r.takeWhile (fun m => ranksAbove (key m) (key l)) ++ [l] ++ r.dropWhile (fun m => ranksAbove (key m) (key l))

/-- What lane l of vd and of vd + 1 takes, and the flags of the group. -/
def topLane (t k : Nat) (mag : Bool) (mask : Pred) (img : Image) (l : Nat) : Nat × Nat :=
  let g := l / 8 * 8
  let cs := rankLanes (fun m => topVal t mag (laneAt img (g + m))) ((List.range 8).filter fun m => mask.getLsbD (g + m))
  match (cs.take (min k 4))[l % 8]? with
  | some m => (if t = 0 then (enter 0 (laneAt img (g + m))).1 else laneAt img (g + m), m)
  | none => (0, 0xFFFFFFFF)

def execVtopk (h : Hd) (b : VRR) (s : State) : Out :=
  let mask := s.dk.guard h
  .next (if mask = 0 then s
    else s.operands h b.q [b.a] none (fun _ vs => checkTags (fun t => t == 0 || t == 8) true vs) fun s vs =>
      let x := opnd vs 0
      let t := x.tag.toNat
      let top := topLane t (bits b.m.toNat 0 2 + 1) (b.m.getLsbD 2) mask x.data
      let fl := (laneTest mask fun l => (false, if t = 0 then (enter 0 (laneAt x.data l)).2 else 0)).2
      ((s.writeV h 5 b.d mask (lanes fun l => (top l).1) x.tag).writeV h 5 (b.d + 1) mask (lanes fun l => (top l).2) tagI32).raiseFlags h 5 fl)

/-- A bitwise operation on the images of two operands of one A tag. -/
def State.vbits (s : State) (h : Hd) (b : VRR) (f : Image → Image → Image) : State :=
  s.vector h b.q 2 b.d [] [b.a, b.b2] (fun _ vs => checkTags tagA true vs) fun _ _ vs =>
    (f (opnd vs 0).data (opnd vs 1).data, (opnd vs 0).tag, 0)
def execVand (h : Hd) (b : VRR) (s : State) : Out := .next (s.vbits h b (· &&& ·))
def execVor (h : Hd) (b : VRR) (s : State) : Out := .next (s.vbits h b (· ||| ·))
def execVxor (h : Hd) (b : VRR) (s : State) : Out := .next (s.vbits h b (· ^^^ ·))
def execVnot (h : Hd) (b : VRR) (s : State) : Out :=
  .next (s.vector h b.q 2 b.d [] [b.a] (fun _ vs => checkTags tagA true vs) fun _ _ vs => (~~~(opnd vs 0).data, (opnd vs 0).tag, 0))

/-- The low log2(width) bits of the amount; with mod[0] the immediate stands for vb. -/
def State.vshift (s : State) (h : Hd) (b : VRR) (kind : Nat) : State :=
  let imm := b.m.getLsbD 0
  s.vector h b.q 2 b.d [] (if imm then [b.a] else [b.a, b.b2]) (fun _ vs => checkTags isNTag true vs) fun _ mask vs =>
    let x := opnd vs 0
    let t := x.tag.toNat
    let r := mapElems t mask fun e =>
      shiftElem kind t (elemAt t x.data e) ((if imm then b.b2 else elemAt t (opnd vs 1).data e) % tagBits t)
    (r.1, x.tag, r.2)
def execVshl (h : Hd) (b : VRR) (s : State) : Out := .next (s.vshift h b 0)
def execVshr (h : Hd) (b : VRR) (s : State) : Out := .next (s.vshift h b 1)
def execVsra (h : Hd) (b : VRR) (s : State) : Out := .next (s.vshift h b 2)

/-- A count in every element of an N tag. -/
def State.vcount (s : State) (h : Hd) (b : VRR) (f : Nat → Nat → Res) : State :=
  s.vector h b.q 2 b.d [] [b.a] (fun _ vs => checkTags isNTag true vs) fun _ mask vs =>
    let x := opnd vs 0
    let r := mapElems x.tag.toNat mask fun e => f x.tag.toNat (elemAt x.tag.toNat x.data e)
    (r.1, x.tag, r.2)
def execVclz (h : Hd) (b : VRR) (s : State) : Out := .next (s.vcount h b clzElem)
def execVpopc (h : Hd) (b : VRR) (s : State) : Out := .next (s.vcount h b popElem)

/-! ### X-slot data movers (R237-R239) -/

/-- The bytes of the enabled lanes. -/
def laneBytes (m : Pred) : BitVec 512 :=
  if m = BitVec.allOnes 128 then wholeMask else
    BitVec.ofNat 512 ((List.range 128).foldr (fun l acc => (if m.getLsbD l then 15 else 0) + 16 * acc) 0)

/-- A sequence of sources under queue mode stall cannot proceed (R52). -/
def State.wouldStall (s : State) (qm : Nat) (srcs : List Nat) : Bool :=
  qm == 0 && (match s.dk.takeAll srcs with | .inl _ => true | .inr _ => false)

/-- The tag check of a row to be stored, which stands in field vd (R410). -/
def storeTag (vs : List VReg) : Option (Nat × Nat × Word) := tagFault tagAny true (vs.map fun v => (v, 2))

/-- R237, R410: the enabled bytes perform at issue + 6. -/
def execVst (h : Hd) (b : VRR) (s : State) : Out :=
  let mask := s.dk.guard h
  let w := s.x (xField b.na) + s.x (xField b.nb)
  .next (if mask = 0 then s
    else if s.waitsLds [xField b.na, xField b.nb] || s.wouldStall b.q [b.d] then s.stalled
    else match addrOf w with
      | .store a =>
        if s.frameBarred (a / 16384) then s.raise h 0x11 0 w
        else s.operands h b.q [b.d] none (fun _ vs => (storeTag vs).or (if (s.ck.tile (a / 16384)).published then some (0x13, 0, w) else none)) fun s vs =>
          s.access (s.clock + 6) s.cn s.dn true (deckPrio s.dn true) (.write (a / 512) (laneBytes mask) (opnd vs 0).data (some (opnd vs 0).tag))
      | _ => s.operands h b.q [b.d] none (fun _ vs => (storeTag vs).or (some (0x0B, 0, w))) fun s _ => s)

def execVpop (h : Hd) (b : VRR) (s : State) : Out :=
  .next (s.vector h b.q 2 b.d [] [b.a] (fun _ vs => checkTags tagAny true vs) fun _ _ vs => ((opnd vs 0).data, (opnd vs 0).tag, 0))

/-- R239: xd takes bits 63:0 of the entry at the head of rqN. -/
def mvqName (b : XRR) : Nat := (if b.m.getLsbD 3 then 344 else 336) + bits b.m.toNat 0 3
def execMvq (h : Hd) (b : XRR) (s : State) : Out :=
  .next (s.scalar h [] fun s =>
    s.operands h (bits b.m.toNat 13 2) [mvqName b] none (fun _ _ => none) fun s vs => s.writeX h 2 b.xd ((opnd vs 0).data.setWidth 64))

end Sys2Proof.Machine
end

