-- ==== Sys2Proof/Machine/Matrix.lean ====
section
/-! DEFINITION. The matrix array: chains, weight slots, the gantry, read-out, checksum replays, clock gating (spec 04 R101-R105, spec 10
R240-R262, spec 21 R412-R414, spec 23 R439-R441). -/
namespace Sys2Proof.Machine

/-! ### Shapes -/

/-- A tapered mode (R249). -/
def isTapered (t : Nat) : Bool := decide (3 ≤ t ∧ t ≤ 6)
/-- Columns of a mode (R73, R243) and of a kind code (R253). -/
def modeCols (t : Nat) : Nat := if t = 3 ∨ t = 5 then 192 else if t = 4 ∨ t = 6 then 256 else 96
def kindCols (k : Nat) : Nat := match k with | 0 => 192 | 1 => 256 | _ => 96
/-- Store rows that n columns of a format fill (R243). -/
def loadRows (fmt n : Nat) : Nat := if fmt = 3 ∨ fmt = 5 then n else if fmt = 4 ∨ fmt = 6 then (3 * n + 3) / 4 else 2 * n
/-- A slot nothing has been loaded into (R246). -/
def WSlot.reset : WSlot := ⟨3, 0, false, [], List.replicate 512 0, 0, 0, curveOf []⟩
def Core.slot (k : Core) (w : Nat) : WSlot := mget WSlot.reset k.slots w
/-- The source rows of A row i of an `mma` from row n0 (R244). -/
def aRows (tapered : Bool) (n0 i : Nat) : List Nat :=
  if tapered then [n0 + i]
  else
    let q := n0 % 32 + i
    let r := 32 * (n0 / 32 + 2 * (q / 32)) + q % 32
    [r, r + 32]
/-- The scale row of the A row in store row m, and its first nibble there (R245). -/
def scaleRow (tile m : Nat) : Nat := 32 * tile + m % 2048 / 64
/-- One block exponent: nibble i of an image (R101). -/
def nibble (img i : Nat) : Int := let n := bits img (4 * i) 4; if n ≥ 8 then (n : Int) - 16 else n

/-! ### Who may issue (R41, R240, R248, R251, R412) -/

def State.holdsLease (s : State) : Bool := s.ck.leaseHolder == some (s.dn % 4)

/-- A matrix instruction waits for a lease it has requested; its holder for the warm-up and for the port that is free from clock t on. -/
def State.matrix (s : State) (h : Hd) (srcs : List (BitVec 6)) (none_ : State → Bool) (port : State → Nat) (busy : State → Bool) (f : State → State) :
    State :=
  s.scalar h srcs fun s =>
    if none_ s then s
    else if s.holdsLease && (decide (s.clock < s.ck.warmUntil) || decide (s.clock < port s) || busy s) then s.stalled
    else if !s.holdsLease && s.ck.leaseReq.contains (s.dn % 4) then s.stalled
    else f s

/-- The checks of a matrix instruction in the order of R401: frame tiles, lease, chain and ranges, address (cause, address) pairs. -/
def State.matrixChecks (s : State) (h : Hd) (frame chain : Bool) (addr : Option (Nat × Word)) (w : Word) (f : State → State) : State :=
  if frame && !s.dk.sup then s.raise h 0x11 0 w
  else if !s.holdsLease then s.raise h 0x0D 0 0
  else if chain then s.raise h 0x0E 0 0
  else match addr with
    | some (c, a) => s.raise h c 0 a
    | none => f s

/-- A command may not join the chain: none is open, or it would be the 257th, or its accumulation kind differs (R249, R413). -/
def Deck.chainBars (d : Deck) (kind : Option Bool) : Bool :=
  match d.chain with
  | none => true
  | some c => decide (256 ≤ c.cmds) || (match kind, c.kind with | some a, some b => a != b | _, _ => false)

/-- A command joins the chain. -/
def Deck.chainAdd (d : Deck) (kind : Option Bool) : Deck :=
  { d with chain := d.chain.map fun c => ⟨c.cmds + 1, match c.kind with | some k => some k | none => kind⟩ }

/-- The count of an instruction: bits 31:0 of a register (R254). -/
def State.count (s : State) (r : BitVec 6) : Nat := bits (s.x r).toNat 0 32

def execMbeg (h : Hd) (_b : XRR) (s : State) : Out :=
  .next (s.matrix h [] (fun _ => false) (fun _ => 0) (fun _ => false) fun s =>
    s.matrixChecks h false s.dk.chain.isSome none 0 fun s => s.modDk fun d => { d with chain := some ⟨0, none⟩ })

/-- R41, R255: with a request of another deck outstanding the lease passes, and this deck enters the request set. Of the requests made in this very
clock those of lower-numbered decks count: decks issue in rising number (NOTES.md, Assumption 117). -/
def execMend (h : Hd) (_b : XRR) (s : State) : Out :=
  .next (s.matrix h [] (fun _ => false) (fun _ => 0) (fun _ => false) fun s =>
    s.matrixChecks h false s.dk.chain.isNone none 0 fun s =>
      (s.modDk fun d => { d with chain := none }).modCk fun k =>
        if k.leaseReq.isEmpty then k else { k with leaseHolder := none, leaseReq := k.leaseReq ++ [s.dn % 4] })

/-! ### Array late faults (R400, R414, R459) -/

/-- A fault of the array on a command of deck n and instance i: pending on the deck, or the end of the node when the deck runs another
instance. -/
def State.arrayFault (s : State) (n : Nat) (i : Option Nat) (num : Nat) (pc : CodeAddr) (cause detail : Nat) (addr : Word) : State :=
  let d := s.getDeck n
  if d.inst = i ∧ !d.halted then
    s.modDeck n fun d => { d with arrFaults := d.arrFaults ++ [⟨3, num, cause, tinfoOf true 3 pc detail, addr⟩] }
  else match i with
    | some i => s.endNode i
    | none => s

/-- A machine check for an instance that the array finds (R432, R434). -/
def State.arrayCheck (s : State) (c n : Nat) (i : Option Nat) (kind : Nat) (detail : Word) : State :=
  let s := s.logError kind c n (match i with | some i => (s.getInst i).node | none => 0) detail
  match i with
  | some i => s.checkInst i
  | none => s

/-- The checks of tile t that fail: sequence tag, format tag, a row of `rows` released or invalid (R401, R414): cause, detail, address. -/
def Core.tileFaults (k : Core) (t : Nat) (want : Option (BitVec 8)) (ok : Nat → Bool) (rows : List Nat) : List (Nat × Nat × Word) :=
  let x := k.tile t
  let at_ := fun c => ((rows.find? fun n => k.engineMeet n == .inl c).map fun n => (c, 0, BitVec.ofNat 64 (512 * n))).toList
  (match want with
    | some w => if w != x.seqTag then [(0x06, x.seqTag.toNat + w.toNat * 256, BitVec.ofNat 64 (16384 * t))] else []
    | none => []) ++
    (if !ok x.tag.toNat then [(0x03, x.tag.toNat + 3 * 32, 0)] else []) ++ at_ 9 ++ at_ 8

/-- Of the checks that fail in one clock the one that gives the cause: 0x06, 0x09, 0x08 in this order (R401), a format tag after the sequence tags; of
equal ones that of the tile read first (NOTES.md, Assumption 117). -/
def firstCause (fs : List (Nat × Nat × Word)) : Option (Nat × Nat × Word) := [0x06, 0x03, 0x09, 0x08].findSome? fun c => fs.find? fun f => f.1 == c

/-- A scale tile carries SC4 or U8 (R247). -/
def scaleTag (t : Nat) : Bool := t == 0x0C || t == 0x0B

/-- The rows of a command that a read at its tile's first read checks: each tile of `now` that is not in `seen` in this role, with the rows of `all` that
lie in it. A tile read as data and as scales is checked in both roles. -/
def Core.firstReads (k : Core) (seen : List Seen) (scale : Bool) (first : Nat) (want : Option (BitVec 8)) (ok : Nat → Bool) (now all : List Nat) :
    List (Nat × Nat × Word) × List Seen :=
  (now.map (· / 32)).foldl (fun (acc : List (Nat × Nat × Word) × List Seen) t =>
    if acc.2.any (fun q => q.tile == t && q.scale == scale) then acc
    else
      (acc.1 ++ k.tileFaults t (if t = first then want else none) ok (all.filter fun r => r / 32 == t),
        acc.2 ++ [⟨t, (k.tile t).tag, (k.tile t).seqTag, scale⟩]))
    ([], seen)

/-- Rows that a read of the array meets released or invalid though its tile passed at the first read. -/
def Core.rowFaults (k : Core) (rows : List Nat) : List (Nat × Nat × Word) :=
  rows.filterMap fun r => match k.engineMeet r with | .inl f => some (f, 0, BitVec.ofNat 64 (512 * r)) | .inr _ => none

/-- Uncorrectable granules, and errors that are corrected, among the rows the array reads (R435). -/
def State.arrayConsumes (s : State) (c n : Nat) (i : Option Nat) (rows : List Nat) : State :=
  let k := s.getCore c
  let s := rows.foldl (fun (s : State) r => if k.meet r == .data then s.correct c r 0 7 else s) s
  match rows.find? fun r => k.meet r == .data && k.badIn r 0 7 with
  | some r => s.arrayCheck c n i 0x01 (BitVec.ofNat 64 (512 * r))
  | none => s

/-! ### Loading a weight slot (R243, R245, R246, R256) -/

/-- The scale rows of a load of n columns. -/
def loadScaleRows (n : Nat) : Nat := (8 * n + 511) / 512

/-- The scale row that the next read of a load takes. -/
def Load.scaleNow (l : Load) : Option Nat :=
  match l.scale with
  | some t => if l.sk = l.k ∧ l.k < loadScaleRows l.n then some (32 * t + l.k) else none
  | none => none

/-- Element k of column j of a weight image (R243). -/
def weightCode (fmt img j k : Nat) : Nat :=
  if fmt = 3 ∨ fmt = 5 then bits img (8 * (512 * j + k)) 8 else if fmt = 4 ∨ fmt = 6 then bits img (3072 * j + 6 * k) 6
  else bits img (16 * (512 * j + k)) 16

/-- A tapered element with its block scale, in units of 2^−20 (R101, R103). -/
def scaledOpnd (t : Nat) (cv : Curve) (code : Nat) (sc : Int) : Opnd :=
  match arrayOpnd t cv code with
  | .nan => .nan
  | .units z => .units (z * 2 ^ ((if tapBits t = 7 then 8 else 12) + sc).toNat)

/-- What an operand adds to an exact sum: a NaN code adds nothing (R103). -/
def Opnd.int : Opnd → Int
  | .units z => z
  | .nan => 0

/-- The checksum column of loaded columns: for each k their exact sum, in units of 2^−20 (R261). -/
def checksums (cols : List (List Opnd)) : List Int :=
  cols.foldl (fun acc c => List.zipWith (fun (a : Int) (o : Opnd) => a + o.int) acc c) (List.replicate 512 0)

/-- A BF16 or FP16 code as an exact number of units of 2^−149; a code that is no number adds nothing to a checksum. -/
def seqUnits (fmt code : Nat) : Opnd :=
  match decIEEE (ffmtOf fmt) code with
  | .fin s m e => .units ((if s then -1 else 1) * (m * 2 ^ (e + 149).toNat : Nat))
  | _ => .nan

/-- The slot that holds n columns of a format, given their codes, block scales and curve, with its checksum column (R261): in units of 2^−20 for a
tapered mode, of 2^−149 for BF16 and FP16, whose rows are never compared. -/
def WSlot.of (fmt n : Nat) (scaled : Bool) (img simg : Nat) (cv : Curve) : WSlot :=
  let codes := (List.range n).map fun j => (List.range 512).map fun k => weightCode fmt img j k
  if isTapered fmt then
    let cols := codes.zipIdx.map fun c => c.1.zipIdx.map fun k => scaledOpnd fmt cv k.1 (if scaled then nibble simg (16 * c.2 + k.2 / 32) else 0)
    ⟨fmt, n, scaled, cols, checksums cols, img, simg, cv⟩
  else ⟨fmt, n, scaled, codes.map fun c => c.map fun k : Nat => .units k, checksums (codes.map fun c => c.map (seqUnits fmt)), img, simg, cv⟩

/-- The slot a load leaves. -/
def Load.slotOf (l : Load) : WSlot := WSlot.of l.fmt l.n l.scale.isSome l.img l.simg l.cv

/-- An `mma` of core c that reads slot w, or the replay of one of its rows, has not performed its last row. -/
def State.slotRead (s : State) (c w : Nat) : Bool :=
  s.micro.any (fun m => m.core == c && match m.act with
    | .mmaRead g => g.slot == w
    | .mmaRow g .. => g.slot == w
    | _ => false) || (s.getCore c).replays.any fun r => r.g.slot == w
/-- An `mldb` into slot w of core c has not completed. -/
def State.slotLoads (s : State) (c w : Nat) : Bool :=
  s.micro.any fun m => m.core == c && match m.act with
    | .mldbRead l => l.slot == w
    | .mldbDone x _ => x == w
    | _ => false

/-- The local store address of a word (R185). -/
def localAddr (w : Word) : Option Nat := match addrOf w with | .store a => some a | _ => none

/-- R241-R244: columns of a weight slot are loaded. DESIGN CHOICE: of two loads of one slot the one that completes last sets it, whichever was issued first
(NOTES.md, Assumption 125). -/
def execMldb (h : Hd) (b : XRR) (s : State) : Out :=
  let m := b.m.toNat
  let w := bits m 0 4
  let fmt := bits m 4 5
  .next (s.matrix h [b.xd, b.xa, b.xb] (fun s => s.count b.xd == 0) (fun s => s.ck.loadFree) (fun s => s.slotRead s.cn w) fun s =>
    let n := s.count b.xd
    let rows := loadRows fmt n
    let addr := s.x b.xa
    let scl := (s.x b.xb).toNat
    let scale := if bits m 9 1 = 1 then some (bits scl 0 12) else none
    let n0 := (localAddr addr).getD 0 / 512
    let bad := (localAddr addr).isNone || decide (Config.storeRows < n0 + rows)
    s.matrixChecks h ((localAddr addr).isSome && isFrameTile ((n0 + rows - 1) / 32) || scale.any isFrameTile)
      (s.dk.chainBars none || decide (modeCols fmt < n)) (if bad then some (0x0B, addr) else none) addr fun s =>
      let l : Load := ⟨s.dn, s.dk.inst, s.seq, w, fmt, n, n0, rows, 0, 0, scale, 0, 0,
        if bits m 10 1 = 1 then some (BitVec.ofNat 8 (bits scl 16 8)) else none, [], s.issue.pc, s.dk.curve, s.clock + rows + 4⟩
      let s := { s with seq := s.seq + 1 }
      ((s.modDk fun d => d.chainAdd none).modCk fun k => { k with loadFree := s.clock + rows + 4 }).access (s.clock + 2) s.cn s.dn true
        (deckPrio s.dn true) (.mldbRead l))

/-- Two rows that the array would read in one clock share a bank: the scale row comes first, and the other a clock later (R55, R245). -/
def sameBank (sc : Option Nat) (rows : List Nat) : Bool := sc.any fun r => rows.any fun n => bankOf n == bankOf r

/-- Rows of core c as the array reads them for an instance, in order; a row invalid under the silent policy reads as zeros. -/
def State.arrayImages (s : State) (inst : Option Nat) (c : Nat) (rows : List Nat) : List Image × State :=
  rows.foldl (fun (q : List Image × State) r =>
    if (q.2.getCore c).meet r == .silent then (q.1 ++ [0], q.2) else let x := q.2.rowFor inst c c r; (q.1 ++ [x.1], x.2)) ([], s)

/-- One read of a load, whose documented point is clock at_; the next one's is a clock later (R112, R256). -/
def State.mldbSample (s : State) (c at_ : Nat) (l : Load) : State :=
  let k := s.getCore c
  let row := l.row + l.k
  let rows := if sameBank l.scaleNow [row] then [] else [row]
  let done := fun (s : State) (t : Nat) (x : Option WSlot) => s.access t c l.deck true (deckPrio l.deck true) (.mldbDone l.slot x)
  let fail := fun (s : State) (f : Nat × Nat × Word) =>
    done (s.arrayFault l.deck l.inst l.num l.pc f.1 f.2.1 f.2.2) (max l.doneAt (s.clock + 3)) none
  let (f1, seen) := k.firstReads l.seen false (l.row / 32) l.want (fun t => t == l.fmt || t == 0x0B) rows ((List.range l.rows).map (l.row + ·))
  let (f2, seen) := k.firstReads seen true (2 ^ 13) none scaleTag l.scaleNow.toList
    ((List.range (loadScaleRows l.n)).map ((l.scale.getD 0) * 32 + ·))
  match firstCause (f1 ++ f2 ++ k.rowFaults (rows ++ l.scaleNow.toList)) with
  | some f => fail s f
  | none =>
    let s := s.arrayConsumes c l.deck l.inst (rows ++ l.scaleNow.toList)
    let (scs, s) := s.arrayImages l.inst c l.scaleNow.toList
    let (imgs, s) := s.arrayImages l.inst c rows
    let place := fun (is : List Image) => (is.map fun (i : Image) => i.toNat * 2 ^ (4096 * l.k)).sum
    let l := { l with seen := seen, simg := l.simg + place scs, img := l.img + place imgs, sk := l.sk + l.scaleNow.toList.length, k := l.k + rows.length }
    if l.k < l.rows then s.access (at_ + 1) c l.deck true (deckPrio l.deck true) (.mldbRead l)
    else done s (s.clock + 3) (some l.slotOf)

/-- The slot changes as a whole. -/
def Core.loadSlot (k : Core) (w : Nat) (x : Option WSlot) : Core :=
  match x with
  | some x => { k with slots := mput k.slots w x }
  | none => k

/-! ### Streaming rows (R244, R250, R257) -/

def execMma (h : Hd) (b : XRR) (s : State) : Out :=
  let m := b.m.toNat
  let w := bits m 0 4
  .next (s.matrix h [b.xd, b.xa, b.xb] (fun s => s.count b.xb == 0) (fun s => s.ck.gantryFree) (fun s => s.slotLoads s.cn w) fun s =>
    let rows := s.count b.xb
    let mode := (s.ck.slot w).mode
    let tap := isTapered mode
    let addr := s.x b.xa
    let acc := (s.x b.xd).toNat
    let r0 := bits acc 0 10
    let scale := if bits m 5 1 = 1 then some (bits acc 16 12) else none
    let n0 := (localAddr addr).getD 0 / 512
    let all := (List.range (min rows 32)).map fun i => (i, aRows tap n0 i)
    let bad := (localAddr addr).isNone || all.any fun p => p.2.any fun r => decide (Config.storeRows ≤ r)
    s.matrixChecks h ((localAddr addr).isSome && (all.any fun p => p.2.any fun r => isFrameTile (r / 32)) || scale.any isFrameTile)
      (s.dk.chainBars (some tap) || (scale.isSome && !tap) || decide (32 < rows) || decide (49152 / modeCols mode < r0 + rows))
      (if bad then some (0x0B, addr) else none) addr fun s =>
      let todo := if bits m 4 1 = 1 then all.filter (fun p => !(s.ck.skipped (p.2.headD 0 / 32))) else all
      let g : Gantry := ⟨s.dn, s.dk.inst, s.seq, s.clock, w, r0, n0, todo, scale, none,
        if bits m 6 1 = 1 then some (BitVec.ofNat 8 (bits m 7 8)) else none, [], s.issue.pc, s.dk.curve, false, 0⟩
      let s := (s.modDk fun d => { d.chainAdd (some tap) with ckPend := d.ckPend + rows }).modCk fun k => { k with gantryFree := s.clock + rows }
      let s := { s with seq := s.seq + 1 }
      let prio := deckPrio s.dn true
      let s := (all.filter fun p => !todo.contains p).foldl (fun s p =>
        s.access (g.at_ + 20 + p.1) s.cn s.dn true prio (.mmaRow { g with todo := [] } p.1 p.2 none)) s
      match todo with
      | [] => s
      | (i, _) :: _ => s.access (s.clock + 2 + i) s.cn s.dn true prio (.mmaRead g))

/-- A row's elements as units of 2^−20, each in the format of its tile and with its block scale (R244, R245, R247). -/
def tapRow (mode : Nat) (tag : Tag) (cv : Curve) (img : Image) (scales : Option (Image × Nat)) : List Opnd :=
  let t := if tag = 0x0B then mode else tag.toNat
  let w := tagBits t
  (List.range 512).map fun k =>
    scaledOpnd t cv (bits img.toNat (w * k) w) (match scales with | some (sc, m) => nibble sc.toNat (16 * (m % 64) + k / 32) | none => 0)

/-- The exact contribution of a tapered row to a column in units of 2^−40, and whether a NaN code met it (R103). -/
def tapDot (as bs : List Opnd) : Int × Bool :=
  (as.zip bs).foldl (fun (acc : Int × Bool) p =>
    match p.1, p.2 with
    | .units a, .units b => (acc.1 + a * b, acc.2)
    | _, _ => (acc.1, true)) (0, false)

/-- The step sum of R105. -/
def seqSum (ps : List Val) : Val :=
  let isInf := fun s => ps.any fun p => match p with | .inf t => t == s | _ => false
  if ps.any Val.isNaN || (isInf true && isInf false) then .nan false
  else if isInf true then .inf true
  else if isInf false then .inf false
  else
    let fs : List (Bool × Nat × Int) := ps.filterMap fun p => match p with | .fin s (m + 1) e => some (s, m + 1, e) | _ => none
    match fs with
    | [] => .fin false 0 0
    | f :: _ =>
      let top := fs.foldl (fun (a : Int) p => max a (Nat.log2 p.2.1 + p.2.2)) (Nat.log2 f.2.1 + f.2.2)
      let g := top - 60
      let z : Int := fs.foldl (fun (a : Int) p =>
        let n : Nat := if g ≤ p.2.2 then p.2.1 * 2 ^ (p.2.2 - g).toNat else p.2.1 / 2 ^ (g - p.2.2).toNat
        if p.1 then a - n else a + n) 0
      rne32 (.fin (decide (z < 0)) z.natAbs g)

/-- A column of a slot as values; an unloaded one holds zeros. -/
def WSlot.vals (x : WSlot) (j : Nat) : List Val :=
  match x.cols[j]? with
  | some c => c.map fun o => match o with | .units z => decIEEE (ffmtOf x.mode) z.toNat | .nan => .nan false
  | none => List.replicate 512 (.fin false 0 0)

/-- The contribution of a row to each column: an exact sum with its NaN mark, or an FP32 code (R103, R105). An unloaded column holds zeros. -/
def WSlot.contrib (x : WSlot) (tap : List Opnd) (sq : List Val) : List (Int × Bool) :=
  if isTapered x.mode then
    let nan := tap.contains .nan
    (List.range (modeCols x.mode)).map fun j => match x.cols[j]? with | some c => tapDot tap c | none => (0, nan)
  else (List.range 96).map fun j =>
    (((rndIEEE fp32 0 0 (seqSum ((sq.zip (x.vals j)).map fun p => (p.1.mul p.2).1))).1 : Int), false)

/-- The rows that the array reads in one clock: a scale row by itself when it lies in the bank of its A row. -/
def Gantry.scaleNow (g : Gantry) : Option Nat :=
  match g.scale, g.todo with
  | some t, (_, m :: _) :: _ => if g.held.any (fun x => x.1 == scaleRow t m) then none else some (scaleRow t m)
  | _, _ => none

/-- The checksum side of a row's comparison: the exact sum over k of a[k] times the slot's checksum (R261). -/
def WSlot.checkOf (x : WSlot) (tap : List Opnd) : Int :=
  (List.zipWith (fun (a : Opnd) (b : Int) => a.int * b) tap x.ck).foldl (· + ·) 0

/-- The tag with which a source tile of the slot's mode may be read (R247). -/
def WSlot.takes (x : WSlot) (t : Nat) : Bool := t == x.mode || t == 0x0B || (isTapered x.mode && isTapered t && tapBits t == tapBits x.mode)

/-- The contributions of an A row whose source images are given (R244), its elements in the format its tile had at the first read, and the checksum side
of its comparison. -/
def Gantry.aRow (g : Gantry) (x : WSlot) (m : Nat) (imgs : List Image) : List (Int × Bool) × Int :=
  let tag := ((g.seen.find? fun q => q.tile == m / 32 && !q.scale).map (·.tag)).getD 0x0B
  let scales := match g.scale, g.held with | some _, some (_, sc) => some (sc, m) | _, _ => none
  if isTapered x.mode then
    let a := tapRow x.mode tag g.cv (imgs.headD 0) scales
    (x.contrib a [], x.checkOf a)
  else (x.contrib [] (imgs.flatMap fun (v : Image) => (List.range 256).map fun e => decIEEE (ffmtOf x.mode) (bits v.toNat (16 * e) 16)), 0)

/-- The array gives up an `mma` at its next row: a fault of the command, whose failing tile's rows and all later rows add nothing (R414), or of
the replay of a row, which is then lost (R440). -/
def State.mmaFail (s : State) (c : Nat) (g : Gantry) (late : Nat) (f : Nat × Nat × Word) : State :=
  if g.replay then
    g.todo.foldl (fun s p => s.access (s.clock + 18) c g.deck true (deckPrio g.deck true) (.mmaRow { g with todo := [] } p.1 p.2 none)) s
  else
    g.todo.foldl (fun s p =>
      s.access (g.at_ + 20 + p.1 + late) c g.deck true (deckPrio g.deck true) (.mmaRow { g with todo := [] } p.1 p.2 none))
      (s.arrayFault g.deck g.inst g.num g.pc f.1 f.2.1 f.2.2)

/-- Cells of a row of one kind share one with a row of another (R73). -/
def sameCells (r width r' width' : Nat) : Bool := decide (width * r < width' * (r' + 1) ∧ width' * r' < width * (r + 1))

/-- An `mrd` that issued before clock `since` has samples of the cells of row r at clocks t for which p holds: its instances take a machine check (R441). -/
def State.spoiledReads (s : State) (c r width : Nat) (p : Nat → Bool) (since : Nat) : State :=
  (s.micro.filter fun m => m.core == c && (match m.act with
    | .mrdRow q => sameCells q.accRow q.width r width && decide (q.at_ < since) && p m.at_
    | _ => false)).foldl
    (fun s m => match m.act with | .mrdRow q => s.arrayCheck c q.deck q.inst 0x05 (BitVec.ofNat 64 r) | _ => s) s

/-- The A row of a replay has been read late, and its perform point moves with it (R112, R441). -/
def State.replayMoves (s : State) (c : Nat) (g : Gantry) (i : Nat) : State :=
  let mine := fun (q : Replay) => q.g.num == g.num && q.i == i
  let width := modeCols ((s.getCore c).slot g.slot).mode
  match (s.getCore c).replays.find? mine with
  | none => s
  | some q =>
    (s.spoiledReads c (g.acc0 + i) width (fun t => decide (q.perf.getD 0 ≤ t ∧ t < s.clock + 18)) q.at_).modCore c
      fun k => { k with replays := k.replays.map fun q => if mine q then { q with perf := some (s.clock + 18) } else q }

/-- The read point of an A row (R247, R257, R414). The next row's documented point stays that of the `mma`; the row moves with this one (R112, R245). -/
def State.mmaSample (s : State) (c : Nat) (g : Gantry) : State :=
  match g.todo with
  | [] => s
  | (i, srcs) :: rest =>
    let k := s.getCore c
    let x := k.slot g.slot
    let late := s.clock - (g.at_ + 2 + i)
    let rows := if sameBank g.scaleNow srcs then [] else srcs
    let sc := g.scaleNow.toList
    let (f1, seen) := k.firstReads g.seen false (g.row / 32) g.want x.takes rows (g.todo.flatMap (·.2))
    let (f2, seen) := k.firstReads seen true (2 ^ 13) none scaleTag sc (g.todo.map fun p => scaleRow (g.scale.getD 0) (p.2.headD 0))
    match firstCause ((if g.replay then [] else f1 ++ f2) ++ k.rowFaults (rows ++ sc)) with
    | some f => s.mmaFail c g late f
    | none =>
      let s := s.arrayConsumes c g.deck g.inst (rows ++ sc)
      let (scs, s) := s.arrayImages g.inst c sc
      let held := match sc, scs with | r :: _, img :: _ => some (r, img) | _, _ => g.held
      let g := { g with seen := if g.replay then g.seen else seen, held := held }
      let next := fun (s : State) (t : Nat) (a : Act) => s.access t c g.deck true (deckPrio g.deck true) a
      if rows.isEmpty then next s (g.at_ + 2 + i) (.mmaRead g)
      else
        let (imgs, s) := s.arrayImages g.inst c rows
        let adds := if rows.any fun r => k.meet r == .silent then none else some (g.aRow x (srcs.headD 0) imgs)
        let s := if g.replay ∧ late ≠ 0 then s.replayMoves c g i else s
        let s := next s (s.clock + 18) (.mmaRow { g with todo := [] } i srcs adds)
        match rest with
        | [] => s
        | (i', _) :: _ => next s (g.at_ + 2 + i') (.mmaRead { g with todo := rest, ready := s.clock + (i' - i) })

/-! ### Rows performing, checksum comparison and replay (R250, R257, R261, R439-R441) -/

/-- A cell takes an exact contribution: the sum modulo 2^112, and the sticky ovf bit (R103, R250). -/
def addCell (cell : BitVec 128) (p : Int) (nan : Bool) : BitVec 128 :=
  let z := (cell.setWidth 112).toInt + p
  let ovf := nan || cell.getLsbD 112 || decide (z < -(2 ^ 111) ∨ 2 ^ 111 ≤ z)
  BitVec.ofNat 128 ((BitVec.ofInt 112 z).toNat + (if ovf then 2 ^ 112 else 0))

/-- A cell of a sequenced chain takes a step sum (R105). -/
def stepCell (cell : BitVec 128) (code : Int) : BitVec 128 :=
  BitVec.ofNat 128 (rndIEEE fp32 0 0 ((decIEEE fp32 (cell.toNat % 2 ^ 32)).add false (decIEEE fp32 code.toNat)).1).1

/-- A row of cells takes its contributions. -/
def Core.addRow (k : Core) (tap : Bool) (accRow : Nat) (adds : List (Int × Bool)) : Core :=
  { k with acc := adds.zipIdx.foldl (fun m a =>
      let n := adds.length * accRow + a.2
      let old := mget 0 m n
      mset 0 m n (if tap then (if a.1.1 = 0 && !a.1.2 then old else addCell old a.1.1 a.1.2) else stepCell old a.1.1)) k.acc }

/-- The status of R261 belongs to a deck while it runs the instance that issued the `mma`. -/
def State.modStatus (s : State) (g : Gantry) (f : Deck → Deck) : State :=
  if (s.getDeck g.deck).inst = g.inst then s.modDeck g.deck f else s

/-- A row number is compared once (R261, R440). -/
def Deck.rowChecked (d : Deck) : Deck := { d with ckChecked := if d.ckChecked = BitVec.allOnes 32 then d.ckChecked else d.ckChecked + 1 }

/-- A comparison failed at row r (R439): the contribution is withheld, and the row is to be replayed, or its instance takes a machine check. -/
def State.rowFailed (s : State) (c : Nat) (g : Gantry) (i : Nat) (srcs : List Nat) : State :=
  let k := s.getCore c
  let r := g.acc0 + i
  let s := s.modStatus g fun d => { d with ckFail := true, ckRow := if d.ckFail then d.ckRow else BitVec.ofNat 10 r }
  let kept := fun (scale : Bool) (n : Nat) =>
    (g.seen.any fun q => q.tile == n / 32 && q.scale == scale && q.seqTag == (k.tile (n / 32)).seqTag) && !((k.tile (n / 32)).locks.any (· < 3))
  let good := srcs.all (kept false) && (g.scale.toList.map fun t => scaleRow t (srcs.headD 0)).all (kept true)
  if !good then (s.modStatus g fun d => { d with ckPend := d.ckPend - 1 }).arrayCheck c g.deck g.inst 0x05 (BitVec.ofNat 64 r)
  else
    ((s.modCore c fun k => { k with replays := k.replays ++ [(⟨{ g with replay := true, todo := [(i, srcs)], held := none }, i, srcs, none, s.clock⟩ : Replay)] }).spoiledReads
      c r (modeCols (k.slot g.slot).mode) (fun t => decide (t ≤ s.clock + 20)) s.clock).post (s.clock + 1) (.checksumReplay c)

/-- The comparison of R261 fails: the sum of a tapered row's contributions over the columns is not the checksum side's, or a fault of the array has been
injected on the accumulator row (R439). -/
def Core.mismatch (k : Core) (r : Nat) (adds : List (Int × Bool)) (ck : Int) : Bool :=
  decide (adds.foldl (fun (a : Int) (p : Int × Bool) => a + p.1) 0 ≠ ck) || k.misRows.contains r

/-- A row of an `mma` performs. -/
def State.mmaPerform (s : State) (c : Nat) (g : Gantry) (i : Nat) (srcs : List Nat) (adds : Option (List (Int × Bool) × Int)) : State :=
  let k := s.getCore c
  let r := g.acc0 + i
  let tap := isTapered (k.slot g.slot).mode
  let drop := fun (s : State) => (s.modCore c fun k => { k with replays := k.replays.filter fun q => !(q.g.num == g.num && q.i == i) }).modStatus g
    fun d => { d with ckPend := d.ckPend - 1 }
  match adds with
  | none => if g.replay then (drop s).arrayCheck c g.deck g.inst 0x05 (BitVec.ofNat 64 r) else s.modStatus g fun d => { d with ckPend := d.ckPend - 1 }
  | some (adds, ck) =>
    let s := if tap && !g.replay then s.modStatus g Deck.rowChecked else s
    if tap && k.mismatch r adds ck then
      let s := s.modCore c fun k => { k with misRows := k.misRows.erase r }
      if g.replay then (drop s).arrayCheck c g.deck g.inst 0x05 (BitVec.ofNat 64 r) else s.rowFailed c g i srcs
    else
      let s := s.modCore c fun k => k.addRow tap r adds
      if g.replay then (drop s).logError 0x04 c g.deck (match g.inst with | some n => (s.getInst n).node | none => 0) (BitVec.ofNat 64 r)
      else s.modStatus g fun d => { d with ckPend := d.ckPend - 1 }

/-- An `mclr` issued after number num has cleared cells of the row: clears are kept by first cell and width (R439). -/
def clearKey (accRow width : Nat) : Nat := 512 * (width * accRow) + width
def Core.clearedSince (k : Core) (num accRow width : Nat) : Bool :=
  k.cleared.any fun p => decide (num < p.2 ∧ p.1 / 512 < width * (accRow + 1) ∧ width * accRow < p.1 / 512 + p.1 % 512)

/-- R440: each waiting row takes the next free gantry clock, unless an `mclr` issued after its `mma` clears the row by then (R439). -/
def execChecksumReplay (core : Nat) (s : State) : Out :=
  .next (((s.getCore core).replays.filter fun r => r.perf.isNone).foldl (fun s r =>
    let k := s.getCore core
    let t := max s.clock k.gantryFree
    let row := r.g.acc0 + r.i
    let mine := fun (q : Replay) => q.g.num == r.g.num && q.i == r.i
    let width := modeCols (k.slot r.g.slot).mode
    let cleared := k.clearedSince r.g.num row width || s.micro.any fun m => m.core == core && decide (r.g.num < m.seq ∧ m.at_ ≤ t + 20) &&
      (match m.act with | .clrRow a w => sameCells a w row width | _ => false)
    if cleared then
      ((s.modCore core fun k => { k with replays := k.replays.filter fun q => !mine q }).modStatus r.g fun d => { d with ckPend := d.ckPend - 1 }).arrayCheck
        core r.g.deck r.g.inst 0x05 (BitVec.ofNat 64 row)
    else
      let s := s.modCore core fun k => { k with gantryFree := t + 1, replays := k.replays.map fun q => if mine q then { q with perf := some (t + 20) } else q }
      (s.spoiledReads core row width (fun c => decide (s.clock + 20 ≤ c ∧ c < t + 20)) (s.clock - 1)).access (t + 2) core r.g.deck true (deckPrio r.g.deck true)
        (.mmaRead { r.g with at_ := t - r.i })) s)

/-! ### Clearing (R258) -/

def execMclr (h : Hd) (b : XRR) (s : State) : Out :=
  let width := kindCols (bits b.m.toNat 0 2)
  .next (s.matrix h [b.xa, b.xb] (fun s => s.count b.xb == 0) (fun s => s.ck.gantryFree) (fun _ => false) fun s =>
    let rows := s.count b.xb
    let r0 := bits (s.x b.xa).toNat 0 10
    s.matrixChecks h false (s.dk.chainBars none || decide (32 < rows) || decide (49152 / width < r0 + rows)) none 0 fun s =>
      let s := (s.modDk fun d => d.chainAdd none).modCk fun k => { k with gantryFree := s.clock + rows }
      (List.range rows).foldl (fun s i => s.access (s.clock + 20 + i) s.cn s.dn true (deckPrio s.dn true) (.clrRow (r0 + i) width)) s)

/-- All 128 bits of every cell of the row become 0; the `mclr` with issue number n was the latest to clear it. -/
def Core.clearRow (k : Core) (accRow width n : Nat) : Core :=
  { k with acc := k.acc.filter fun p => !(width * accRow ≤ p.1 && p.1 < width * (accRow + 1)), cleared := mput k.cleared (clearKey accRow width) n }

/-! ### Read-out (R104, R259) -/

/-- A replayed row of the region, of rows of `width` cells, would be sampled before its replay has performed (R441). -/
def Core.spoiled (k : Core) (clock width r0 rows : Nat) : Bool :=
  k.replays.any fun r => (List.range rows).any fun j => sameCells (r0 + j) width (r.g.acc0 + r.i) (modeCols (k.slot r.g.slot).mode) &&
    (match r.perf with | some p => decide (clock + j < p) | none => true)

/-- A row of an `mrd` that issued after a comparison failed waits for the replay of its cells, should that be later than its documented point
(R441; NOTES.md, Assumption 117). -/
def Core.replayHolds (k : Core) (q : ReadOut) : Bool :=
  k.replays.any fun r => decide (r.at_ ≤ q.at_) && sameCells q.accRow q.width (r.g.acc0 + r.i) (modeCols (k.slot r.g.slot).mode)

def execMrd (h : Hd) (b : XRR) (s : State) : Out :=
  let m := b.m.toNat
  let fmt := bits m 0 5
  let kind := bits m 13 2
  let width := kindCols kind
  let toReg := bits m 11 1 = 1
  .next (s.matrix h [b.xd, b.xa, b.xb] (fun s => s.count b.xb == 0) (fun s => s.ck.readFree)
      (fun s => s.ck.spoiled s.clock width (bits (s.x b.xa).toNat 0 10) (min (s.count b.xb) 32)) fun s =>
    let rows := s.count b.xb
    let acc := (s.x b.xa).toNat
    let r0 := bits acc 0 10
    let dst := s.x b.xd
    let vd := bits dst.toNat 0 9
    let n0 := (localAddr dst).getD 0 / 512
    let last := n0 + rows - 1
    let bad := !toReg && ((localAddr dst).isNone || decide (Config.storeRows ≤ last))
    let js := (List.range (min rows 32)).filter fun j => !(bits m 12 1 = 1 && s.ck.skipped ((n0 + j) / 32))
    let published := !toReg && !bad && (List.range (min rows 32)).any fun j => (s.ck.tile ((n0 + j) / 32)).published
    s.matrixChecks h (!toReg && (localAddr dst).isSome && isFrameTile (last / 32))
      (decide (32 < rows) || decide (49152 / width < r0 + rows) || (kind == 2 && bits acc 16 1 == 1) || (toReg && decide (319 < vd + rows - 1)))
      (if bad then some (0x0B, dst) else if published then some (0x13, dst) else none) dst fun s =>
      let rm := convMode (bits m 5 3) s.dk.fmode
      let lfsr := s.dk.lfsr
      let s := s.modCk fun k => { k with readFree := s.clock + rows }
      let s := if rm = 4 then s.modDk fun d => { d with lfsr := lfsrStep d.lfsr } else s
      let num := s.seq
      js.foldl (fun s j =>
        let q : ReadOut := ⟨s.dn, s.dk.inst, s.clock, r0 + j, width, 128 * bits acc 16 1, kind == 2, fmt, rm,
          mget 0x3F800000 s.dk.ms (bits m 8 3), lfsr, s.dk.curve, j, toReg, if toReg then vd + j else n0 + j,
          js.all (fun i => decide (j ≤ i) || (n0 + i) / 32 != (n0 + j) / 32), num, decide (rows = 32 ∧ n0 % 32 = 0)⟩
        s.access (s.clock + j) s.cn s.dn true (deckPrio s.dn true) (.mrdRow q)) { s with seq := s.seq + 1 })

/-- One cell read out, with the flags of its roundings. A cell with ovf raises nv alone: the rounding whose result R104 replaces raises nothing
(NOTES.md, Assumption 117). -/
def ReadOut.cell (q : ReadOut) (cell : BitVec 128) (e : Nat) : Res :=
  let v : Res :=
    if q.seqn then (cell.toNat % 2 ^ 32, 0)
    else if cell.getLsbD 112 then (canonNaN fp32, fNV)
    else rndIEEE fp32 0 0 (let z := (cell.setWidth 112).toInt; .fin (decide (z < 0)) z.natAbs (-40))
  let p := (decIEEE fp32 v.1).mul (decIEEE fp32 q.ms.toNat)
  let y := rndIEEE fp32 0 0 p.1
  let o := convertWith q.cv 0 q.lfsr q.fmt q.rm (128 * q.j + e) (decIEEE fp32 y.1)
  (o.1, v.2 ||| p.2 ||| y.2 ||| o.2)

/-- A sampled row: its image and flags. -/
def ReadOut.image (q : ReadOut) (k : Core) : Image × BitVec 8 :=
  buildImage (tagBits q.fmt) 128 (fun e => decide (q.cb + e < q.width)) fun e => q.cell (mget 0 k.acc (q.width * q.accRow + q.cb + e)) e

/-- A row of an `mrd` is sampled: it lands in its register 4 clocks later, or performs in the store 8 clocks later, also when the deck has halted since;
register and flags are those of the instance that issued it, while its deck runs it. The flags of a store row go with its documented point, though a bank
conflict delays the write (R55; NOTES.md, Assumption 117). -/
def State.mrdSample (s : State) (m : Micro) (q : ReadOut) : State :=
  let (img, f) := q.image (s.getCore m.core)
  let lands := fun (s : State) (l : Latch) =>
    if (s.getDeck q.deck).inst ≠ q.inst then s
    else if s.isOpen q.deck l then s.intoFrame q.deck l
    else s.modDeck q.deck fun d => { d with latches := d.latches ++ [l] }
  if q.toReg then lands s ⟨m.at_ + 4, 3, q.num, .v q.dst, BitVec.allOnes 128, img, BitVec.ofNat 5 q.fmt, f⟩
  else
    let s := if f = 0 then s else lands s ⟨m.at_ + 8, 3, q.num, .flags, 0, 0, 0, f⟩
    { s with micro := s.micro ++ [{ m with at_ := m.at_ + 8, act := .mrdWrite q img }] }

/-- A row of an `mrd` performs in the store; a tile it has written whole becomes pending in the next clock (R279). -/
def State.mrdPerform (s : State) (c : Nat) (q : ReadOut) (img : Image) : State :=
  let s := s.performWrite c q.dst wholeMask (packRow (BitVec.ofNat 5 q.fmt) img) (if q.tagged then some (BitVec.ofNat 5 q.fmt) else none)
  let more := s.micro.any fun m => match m.act with
    | .mrdWrite p _ => p.num == q.num && p.dst != q.dst
    | .mrdRow p => p.num == q.num && p.dst != q.dst
    | _ => false
  if q.whole && !more then s.modCore c fun k => { k with unlocks := k.unlocks ++ [(q.dst / 32, mrdMark, false)] } else s

/-! ### Scales, status, gating (R251, R260, R261) -/

def execMscl (h : Hd) (b : XRR) (s : State) : Out :=
  .next (s.scalar h [b.xa] fun s => s.modDk fun d => { d with ms := mset 0x3F800000 d.ms (bits b.m.toNat 0 3) ((s.x b.xa).setWidth 32) })

def execMck (h : Hd) (b : XRR) (s : State) : Out :=
  .next (s.scalar h [] fun s =>
    let s' := s.writeX h 2 b.xd s.dk.ckWord
    if b.m.getLsbD 0 then s'.modDk fun d => { d with ckChecked := 0, ckFail := false, ckRow := 0 } else s')

/-- The first clock at which the array has been idle for 4,096 clocks. -/
def Core.gateAt (k : Core) : Nat := max (max k.loadFree k.gantryFree) (max k.readFree (k.arrayUsed + 1)) + 4096
def Core.mayGate (k : Core) (clock : Nat) : Bool :=
  !k.gated && k.leaseHolder.isNone && k.leaseReq.isEmpty && decide (k.gateAt ≤ clock)

/-- R251: the next grant has a warm-up. -/
def execArrayClockGate (core : Nat) (s : State) : Out :=
  .next (if (s.getCore core).mayGate s.clock then s.modCore core fun k => { k with gated := true } else s)

end Sys2Proof.Machine
end

