-- ==== Sys2Proof/Machine/Trestle.lean ====
section
/-! DEFINITION. The Trestle sum-product engine (spec 11 R263-R276, spec 21 R415). -/
namespace Sys2Proof.Machine

/-! ### Shapes (R265, R266) -/

/-- The operation of node n of a shape word and the offset of leaf i. -/
def shapeOp (w n : Nat) : Nat := bits w (2 * n) 2
def shapeOff (w i : Nat) : Nat := bits w (14 + 6 * i) 6

/-- Node n is live, its parents up to `fuel` levels above it considered. -/
def liveNode (w : Nat) : Nat → Nat → Bool
  | _, 0 => true
  | 0, _ => false
  | f + 1, n => liveNode w f ((n - 1) / 2) && !(n % 2 == 0 && shapeOp w ((n - 1) / 2) == 3)
/-- Leaf i is live. -/
def liveLeaf (w i : Nat) : Bool := liveNode w 3 (3 + i / 2) && !(i % 2 == 1 && shapeOp w (3 + i / 2) == 3)

/-- The live leaves, and the live weighted-add nodes. -/
def liveLeaves (w : Nat) : List Nat := (List.range 8).filter (liveLeaf w)
def liveAdds (w : Nat) : List Nat := (List.range 7).filter fun n => liveNode w 3 n && shapeOp w n == 2

/-- The t-registers of the live leaves and of the weights they meet. -/
def leafRegs (w tbase : Nat) : List Nat := (liveLeaves w).map fun i => tbase + shapeOff w i
def weightRegs (w tbase : Nat) : List Nat := (liveAdds w).flatMap fun n => [tbase + 64 + 2 * n, tbase + 64 + 2 * n + 1]

/-- What each bank needs beyond one register, summed (R270). -/
def bankExcess (rs : List Nat) : Nat := ((List.range 8).map fun b => (rs.eraseDups.countP fun r => r % 8 == b) - 1).sum
/-- The cost of a subtree instruction (R270). -/
def treeCost (w tbase : Nat) (down : Bool) : Nat :=
  bankExcess (leafRegs w tbase ++ weightRegs w tbase) + (if down then bankExcess ((leafRegs w tbase).map (· + 256)) else 0)

/-! ### Evaluation (R264-R268) -/

/-- A value with its code and the flags raised on the way to it. -/
structure Node where
  val : Val
  code : Lane
  flags : BitVec 8
deriving DecidableEq, Repr

/-- A weight of node n: side 0 left, 1 right; weights have base 0. -/
def Deck.weight (d : Deck) (tbase n side : Nat) : Val := tVal d.tmode 0 (mget 0 d.t (tbase + 64 + 2 * n + side))

/-- Leaf i, with base S. -/
def Deck.leaf (d : Deck) (w tbase i : Nat) : Node :=
  let c := mget 0 d.t (tbase + shapeOff w i)
  ⟨tVal d.tmode d.tscale.toNat c, c, 0⟩

/-- A node's value: the exact operation on its children, rounded once with base S; pass-left keeps the left child's word. -/
def Deck.nodeOf (d : Deck) (tbase n op : Nat) (l r : Node) : Node :=
  let (v, f) : Val × BitVec 8 := match op with
    | 0 => l.val.add false r.val
    | 1 => l.val.mul r.val
    | _ =>
      let p := (d.weight tbase n 0).mul l.val
      let q := (d.weight tbase n 1).mul r.val
      let z := p.1.add false q.1
      (z.1, p.2 ||| q.2 ||| z.2)
  if op = 3 then l
  else
    let o := tCode d.tmode d.tscale.toNat v
    ⟨tVal d.tmode d.tscale.toNat (BitVec.ofNat 32 o.1), BitVec.ofNat 32 o.1, l.flags ||| r.flags ||| f ||| o.2⟩

/-- Node n of a subtree, evaluated up to `fuel` levels. A right child of a pass-left is not read. -/
def Deck.node (d : Deck) (w tbase : Nat) : Nat → Nat → Node
  | 0, n => d.nodeOf tbase n (shapeOp w n) (d.leaf w tbase (2 * (n - 3))) (d.leaf w tbase (2 * (n - 3) + 1))
  | f + 1, n => d.nodeOf tbase n (shapeOp w n) (d.node w tbase f (2 * n + 1)) (d.node w tbase f (2 * n + 2))

/-- Node n at its own depth. -/
def Deck.nodeAt (d : Deck) (w tbase n : Nat) : Node := d.node w tbase (if n = 0 then 2 else if n < 3 then 1 else 0) n

/-- Child `side` of node n. -/
def Deck.childOf (d : Deck) (w tbase n side : Nat) : Node :=
  if n < 3 then d.nodeAt w tbase (2 * n + 1 + side) else d.leaf w tbase (2 * (n - 3) + side)

/-- The partial of node n toward a child (R265). -/
def Deck.partialTo (d : Deck) (w tbase n side : Nat) : Val :=
  match shapeOp w n with
  | 1 => (d.childOf w tbase n (1 - side)).val
  | 2 => d.weight tbase n side
  | 3 => .fin false (1 - side) 0
  | _ => .fin false 1 0

/-- The share of the root adjoint g that reaches leaf i: exact, with the flags of its products (R268). -/
def Deck.share (d : Deck) (w tbase i : Nat) (g : Val) : Val × BitVec 8 :=
  let n := 3 + i / 2
  let m := (n - 1) / 2
  let a := (d.partialTo w tbase 0 ((m - 1) % 2)).mul (d.partialTo w tbase m ((n - 1) % 2))
  let b := a.1.mul (d.partialTo w tbase n (i % 2))
  let c := g.mul b.1
  (c.1, a.2 ||| b.2 ||| c.2)

/-! ### Instructions (R271-R276) -/

/-- A register of the instruction lies beyond R269: the first. Of the leaves only the addresses that are used count (NOTES.md, Assumption 121). DESIGN CHOICE:
the live leaves come in their order, then the weights by rising node (NOTES.md, Assumption 125). -/
def treeBeyond (w tbase : Nat) (down : Bool) : Option Nat :=
  ((leafRegs w tbase).find? fun r => decide ((if down then 255 else 511) < r)).or ((weightRegs w tbase).find? fun r => decide (511 < r))

/-- The next tree is free (R271). -/
def Deck.treeFree (d : Deck) (clock : Nat) : Bool := decide (mget 0 d.treeBusy (d.treeCount % 4) ≤ clock)

/-- The instruction takes its tree for 4 + c clocks. -/
def Deck.takeTree (d : Deck) (clock c : Nat) : Deck :=
  { d with treeBusy := mput d.treeBusy (d.treeCount % 4) (clock + 4 + c), treeCount := d.treeCount + 1 }

/-- Flags and t-register of a result of slot X. -/
def State.writeT (s : State) (h : Hd) (lat : Nat) (dest : Dest) (mask : Pred) (data : Image) (f : BitVec 8) : State :=
  s.addLatch s.dn { land := s.clock + lat, rank := rankOf h.slot, seq := 0, dest := dest, mask := mask, data := data, tag := 0, flags := f }

def tTag (sp : Bool) : Tag := if sp then 7 else 0

/-- R267. -/
def execTup (h : Hd) (b : TRS) (s : State) : Out :=
  let copy := b.copy = 1
  let qm := b.qm.toNat
  let tbase := b.tbase.toNat
  .next (s.scalar h [] fun s =>
    let d := s.dk
    let w := (mget 0 d.shapes b.shape.toNat).toNat
    let full := copy && !s.rqRoomNow 7
    if full && qm == 1 then s.queueFail h qm 0x05 343
    else if !d.treeFree s.clock then s.stalled
    else if full then s.queueFail h qm 0x05 343
    else match treeBeyond w tbase false with
      | some r => s.raise h 0x12 r 0
      | none =>
        let c := treeCost w tbase false
        let v := d.nodeAt w tbase 0
        let s := s.setDk (d.takeTree s.clock c)
        let s := (s.writeT h (6 + c) (.t b.t.toNat) 1 (v.code.setWidth 4096) 0).raiseFlags h (6 + c) v.flags
        if copy then
          let s := s.pushResult h (6 + c) 7 1 (v.code.setWidth 4096) (tTag d.tmode)
          if qm = 1 then s.writeP30 h false else s
        else s)

/-- R268. -/
def execTdn (h : Hd) (b : TRS) (s : State) : Out :=
  let tbase := b.tbase.toNat
  .next (s.scalar h [] fun s =>
    let d := s.dk
    let w := (mget 0 d.shapes b.shape.toNat).toNat
    if !d.treeFree s.clock then s.stalled
    else match treeBeyond w tbase true with
      | some r => s.raise h 0x12 r 0
      | none =>
        let c := treeCost w tbase true
        let g := tVal d.tmode 0 (mget 0 d.t b.t.toNat)
        let s := (s.setDk (d.takeTree s.clock c)).raiseFlags h (6 + c) (d.nodeAt w tbase 0).flags
        (liveLeaves w).foldl (fun s i =>
          let p := d.share w tbase i g
          s.writeT h (6 + c) (.tAdj (tbase + shapeOff w i + 256) d.tmode p.1) 1 0 p.2) s)

/-- The lanes a TRL body names. -/
def lanesBelow (n : Nat) : Pred := BitVec.ofNat 128 (2 ^ n - 1)

/-- R274: one result of up to 128 lanes. Without a lane it names enabled it has no effect (R134, R395). -/
def execTld (h : Hd) (b : TRL) (s : State) : Out :=
  let n := b.n.toNat + 1
  let mask := s.dk.guard h &&& lanesBelow n
  let check := fun (d : Deck) (vs : List VReg) =>
    let t := (opnd vs 0).tag
    if t ≠ tTag d.tmode then some (0x03, t.toNat, 0) else if 512 < b.t.toNat + n then some (0x12, 512, 0) else none
  .next (if mask = 0 then s
    else s.operands h b.qm.toNat [b.vn.toNat] none check fun s vs =>
      s.writeT h 2 (.t b.t.toNat) mask (opnd vs 0).data 0)

/-- R274. -/
def execTst (h : Hd) (b : TRL) (s : State) : Out :=
  let n := b.n.toNat + 1
  let mask := s.dk.guard h &&& lanesBelow n
  .next (if mask = 0 then s
    else s.operands h b.qm.toNat [] (pushOf b.vn.toNat) (fun _ _ => if 512 < b.t.toNat + n then some (0x12, 512, 0) else none) fun s _ =>
      s.writeV h 2 b.vn.toNat mask (lanes fun l => if l < n then (mget 0 s.dk.t (b.t.toNat + l)).toNat else 0) (tTag s.dk.tmode))

/-- R275: bits 63:62 are reserved. -/
def execTshp (h : Hd) (b : TRH) (s : State) : Out :=
  .next (s.scalar h [b.xa] fun s => s.modDk fun d => { d with shapes := mset 0 d.shapes b.shape.toNat (s.x b.xa &&& 0x3FFFFFFFFFFFFFFF) })

/-- R276. -/
def execTscl (h : Hd) (b : TRC) (s : State) : Out :=
  .next (s.scalar h [b.xa] fun s => s.modDk fun d => { d with tmode := b.mode == 1, tscale := (s.x b.xa).setWidth 16 })

end Sys2Proof.Machine
end

