-- ==== Sys2Proof/Machine/Causeway.lean ====
section
/-! DEFINITION. The Causeway timestep sequencer (spec 12 R277-R289, spec 21 R415). -/
namespace Sys2Proof.Machine

/-! ### Blocks (R277, R278, R285, R286) -/

def Sig.none_ : Sig := ⟨0, 0, false⟩
def Core.block (k : Core) (b : Nat) : Option Block := mfind k.blocks b
def Block.sig (b : Block) (i : Nat) : Sig := mget Sig.none_ b.cur i
def Block.sigP (b : Block) (i : Nat) : Sig := mget Sig.none_ b.prev i

/-- A block is forgotten: nothing of it stays, and its marks are withdrawn. -/
def Core.forget (k : Core) (b : Nat) : Core := { k with blocks := mdel k.blocks b, pendTiles := k.pendTiles.filter fun p => p.block != b }

/-- Every block is forgotten (R278). -/
def Core.forgetAll (k : Core) : Core := { k with blocks := [], pendTiles := [] }

/-- The threshold stored for a word (R285). -/
def thetaOf (w : Lane) : Lane :=
  if w = 0x7F800000 then 0x7F7FFFFF else if w.toNat ≥ 2 ^ 31 ∨ bits w.toNat 23 8 = 0xFF then 0 else w

/-- A descriptor breaks R277 (R415). -/
def badDescriptor (d : Nat) : Bool :=
  let n := bits d 28 10 + 1
  bits d 38 26 != 0 || decide (4096 < bits d 4 12 + n) || decide (4096 < bits d 16 12 + n)

/-- A setting of the Causeway takes effect: configuration (or none), threshold, decision. -/
def Core.setBlock (k : Core) (b num : Nat) (cfg : Option (Word × Lane)) : Core :=
  match cfg with
  | none => k.forget b
  | some (d, th) => let k := k.forget b; { k with blocks := mput k.blocks b ⟨num, d, th, [], [], 0, 0⟩ }
def Core.setTheta (k : Core) (b : Nat) (th : Lane) : Core :=
  match k.block b with
  | some x => { k with blocks := mput k.blocks b { x with theta := th } }
  | none => k
/-- A skip decision takes effect on the block it was made for. DESIGN CHOICE: a block that has been forgotten or configured anew since then, which has another
number, does not take it (NOTES.md, Assumption 126). -/
def Core.setDecision (k : Core) (b num : Nat) (skip forced : BitVec 1024) (cur : Map Sig) : Core :=
  match k.block b with
  | some x => if x.num = num then { k with blocks := mput k.blocks b { x with skip := skip, forced := forced, prev := cur } } else k
  | none => k

def State.blockAt (s : State) (h : Hd) (lat : Nat) (a : Act) : State := s.access (s.clock + lat) s.cn s.dn (isEx h) 0 a

def execCthr (h : Hd) (b : XRR) (s : State) : Out :=
  .next (s.scalar h [b.xa, b.xb] fun s =>
    let d := s.x b.xa
    let blk := bits d.toNat 0 4
    let th := thetaOf ((s.x b.xb).setWidth 32)
    if b.m.getLsbD 0 then s.blockAt h 1 (.blockTheta blk th)
    else if badDescriptor d.toNat then s.raise h 0x14 0 0
    else s.blockAt h 1 (.blockCfg blk (some (d, th))))

def execCrst (h : Hd) (b : XRR) (s : State) : Out :=
  .next (s.scalar h [b.xa] fun s => s.blockAt h 1 (.blockCfg (bits (s.x b.xa).toNat 0 4) none))

/-! ### The skip test (R282, R287) -/

/-- Both sums of a signature are finite. -/
def Sig.finite (x : Sig) : Bool := x.valid && bits x.a.toNat 23 8 != 0xFF && bits x.s.toNat 23 8 != 0xFF

/-- |Acur − Aprev| + |Scur − Sprev| > θ × Aprev, over the exact reals. -/
def moved (theta : Lane) (c p : Sig) : Bool :=
  let v := fun (w : Lane) => decIEEE fp32 w.toNat
  let dist := fun (x y : Lane) => ((v x).add false (v y).neg).1.abs
  ((v theta).mul (v p.a)).1.lt ((dist c.a p.a).add false (dist c.s p.s)).1

/-- Every row of tile t is valid (R282). -/
def Core.rowsValid (k : Core) (t : Nat) : Bool :=
  (List.range 32).all fun j => match (k.row (32 * t + j)).st with | .invalid | .released => false | _ => true

/-- The indices that the test covers, those it skips and those it forces. -/
def Core.skipTest (k : Core) (b : Block) : List Nat × List Nat × List Nat :=
  let tested := (List.range b.count).filter fun i => (b.sig i).finite && (b.sigP i).finite
  let still := tested.filter fun i => !moved b.theta (b.sig i) (b.sigP i)
  (tested, still.filter fun i => k.rowsValid (b.output i), still.filter fun i => !k.rowsValid (b.output i))

/-- One bit for each index of a list. -/
def indexBits (is : List Nat) : BitVec 1024 := BitVec.ofNat 1024 (is.map (2 ^ ·)).sum

/-- Index i of block b, or some index of it, is pending or being served (R280). DESIGN CHOICE: a service that still reads a tile for an earlier configuration
of the block does not count (NOTES.md, Assumption 126). -/
def Core.busyBlock (k : Core) (clock b : Nat) (i : Option Nat) : Bool :=
  (k.pendTiles.any fun p => p.block == b && decide (p.at_ ≤ clock) && i.all (· == p.idx)) ||
    k.service.any fun v => v.block == b && (k.block b).any (fun x => x.num == v.num) && i.all (· == v.idx)

def execCskip (h : Hd) (b : XRR) (s : State) : Out :=
  .next (s.scalar h [b.xa] fun s =>
    let n := bits (s.x b.xa).toNat 0 4
    match s.ck.block n with
    | none => s.writeX h 4 b.xd 0
    | some x =>
      if s.ck.busyBlock s.clock n none then s.stalled
      else
        let (t, k, f) := s.ck.skipTest x
        (s.writeX h 4 b.xd (BitVec.ofNat 64 (t.length * 2 ^ 32 + f.length * 2 ^ 16 + k.length))).blockAt h 4
          (.blockDecide n x.num (indexBits k) (indexBits f) (x.cur.filter fun p => p.2.valid)))

/-! ### Reading the block (R288, R289) -/

def execCmap (h : Hd) (b : XRR) (s : State) : Out :=
  .next (s.scalar h [b.xa] fun s =>
    let a := (s.x b.xa).toNat
    s.writeX h 2 b.xd (match s.ck.block (bits a 0 4) with
      | some x => (if b.m.getLsbD 0 then x.forced else x.skip).extractLsb' (64 * bits a 4 4) 64
      | none => 0))

/-- A signature as read. -/
def Sig.word (x : Sig) : Word := if x.valid then x.a ++ x.s else 0x7FC000007FC00000

def execCsig (h : Hd) (b : XRR) (s : State) : Out :=
  .next (s.scalar h [b.xa] fun s =>
    let a := (s.x b.xa).toNat
    let n := bits a 0 4
    let i := bits a 4 10
    match s.ck.block n with
    | none => s.writeX h 2 b.xd Sig.none_.word
    | some x =>
      if x.count ≤ i then s.writeX h 2 b.xd Sig.none_.word
      else if b.m.getLsbD 0 then s.writeX h 2 b.xd (x.sigP i).word
      else if s.ck.busyBlock s.clock n (some i) then s.stalled
      else s.writeX h 2 b.xd (x.sig i).word)

/-! ### Serving a tile (R280, R281) -/

/-- The mark a service would take in this clock: the oldest of a tile without an engine lock. -/
def Core.nextService (k : Core) (clock : Nat) : Option PendTile :=
  k.pendTiles.foldl (fun best p =>
    let locked := match k.block p.block with | some b => !(k.tile (b.input p.idx)).locks.isEmpty | none => true
    if decide (clock ≤ p.at_) || locked then best
    else match best with
      | none => some p
      | some q => if p.at_ < q.at_ ∨ (p.at_ = q.at_ ∧ (p.block < q.block ∨ (p.block = q.block ∧ p.idx < q.idx))) then some p else best) none

/-- A service may start in this clock. -/
def Core.serviceReady (k : Core) (clock : Nat) : Bool := k.service.isNone && (k.nextService clock).isSome

def execCausewayService (core : Nat) (s : State) : Out :=
  let k := s.getCore core
  .next (match k.service, k.nextService s.clock with
    | none, some p =>
      match k.block p.block with
      | none => s
      | some b =>
        let t := b.input p.idx
        let k := { k with service := some ⟨p.block, b.num, p.idx, t, s.clock, (k.tile t).tag, 0, 0, 0, true, none⟩ }
        (s.setCore core (k.modTile t fun x => { x with locks := x.locks ++ [3] })).access s.clock core 0 false causewayPrio (.cwRead (32 * t))
    | _, _ => s)

/-- A tag whose elements a signature sums. -/
def sumsTag (t : Nat) : Bool := decide (t ≤ 6)

/-- The sums after the elements of one row, in order (R281); T8C and T6C codes are read as T8 and T6. -/
def sumRow (t : Nat) (img : Image) (a s : Lane) : Lane × Lane :=
  let r32 := fun (v : Val) => (rndIEEE fp32 0 0 v).1
  let r := (List.range (tagElems t)).foldl (fun (acc : Nat × Nat) e =>
    let v := decElem t 0 (bits img.toNat (tagBits t * e) (tagBits t))
    (r32 ((decIEEE fp32 acc.1).add false v.abs).1, r32 ((decIEEE fp32 acc.2).add false v).1)) (a.toNat, s.toNat)
  (BitVec.ofNat 32 r.1, BitVec.ofNat 32 r.2)

/-- The tag of the tile in service, sampled in the service's first clock after the stores of that clock have taken effect (R84, R281). -/
def Core.sampleTag (k : Core) (clock : Nat) : Core :=
  match k.service with
  | some v => if v.start = clock ∧ v.row = 0 then { k with service := some { v with tag := (k.tile v.tile).tag } } else k
  | none => k

/-- The read of a row of the tile in service, whose documented point is clock at_. After the last one the lock ends in the next clock and the signature is
written 5 clocks after the read. -/
def State.cwSample (s : State) (core at_ row : Nat) : State :=
  let k := (s.getCore core).sampleTag s.clock
  match k.service with
  | none => s
  | some v =>
    let ok := v.ok && k.meet row == .data && !k.badIn row 0 7 && sumsTag v.tag.toNat
    let s := if k.meet row == .data then s.correct core row 0 7 else s
    let (a, t) := if ok then sumRow v.tag.toNat (s.rowImage core row) v.a v.s else (v.a, v.s)
    let v := { v with ok := ok, a := a, s := t, row := v.row + 1 }
    if v.row < 32 then (s.setCore core { k with service := some v }).access (at_ + 1) core 0 false causewayPrio (.cwRead (row + 1))
    else s.setCore core { k with service := some { v with stop := some (s.clock + 5) }, unlocks := k.unlocks ++ [(v.tile, 3, false)] }

/-- The service ends after its last clock: the signature is written, unless the block has been forgotten, and the marks from before its
start are cleared. -/
def Core.endService (k : Core) (clock : Nat) : Core :=
  match k.service with
  | none => k
  | some v =>
    if v.stop.any (· < clock) then
      match k.block v.block with
      | none => { k with service := none }
      | some b =>
        if b.num ≠ v.num then { k with service := none }
        else { k with
          service := none, blocks := mput k.blocks v.block { b with cur := mput b.cur v.idx ⟨v.a, v.s, v.ok⟩ },
          pendTiles := k.pendTiles.filter fun p => !(p.block == v.block && p.idx == v.idx && decide (p.at_ < v.start)) }
    else k

end Sys2Proof.Machine
end

