-- ==== Sys2Proof/Machine/Milestone.lean ====
section
/-! DEFINITION. The Milestone unit: ages, warn points, limits, band steps, refreshes, lifetime changes and release (spec 03 R59-R69, spec 08
R195-R196, spec 15 R346, R348, spec 22 R416-R418, R431). -/
namespace Sys2Proof.Machine

/-- Events that follow at once in this clock, before what else it holds. -/
def State.postNext (s : State) (is : List Instr) : State := { s with agenda := is.map (fun i => (s.clock, i)) ++ s.agenda }

/-! ### Events to decks (R63, R418) -/

/-- Insert a note by its row. -/
def insertNote (x : Nat × Bool) : List (Nat × Bool) → List (Nat × Bool)
  | [] => [x]
  | y :: ys => if x.1 < y.1 then x :: y :: ys else y :: insertNote x ys

/-- The events of a tick are pushed in increasing row number. -/
def State.pushNotes (s : State) (c : Nat) : State :=
  let ns := (s.getCore c).notes.foldl (fun acc x => insertNote x acc) []
  ns.foldl (fun s x => s.pushEvent c x.1 x.2) (s.modCore c fun k => { k with notes := [] })

/-! ### Rows (R61, R62, R416) -/

/-- A row becomes invalid by age; a request it had is removed and missed. -/
def Core.expire (k : Core) (n : Nat) : Core :=
  let r := k.row n
  let k := k.dropWay n
  { k.setRow n { r with st := .invalid } with
    refreshQ := k.refreshQ.filter (· != n), offered := k.offered.filter (· != n),
    notes := if r.st = .queued then k.notes ++ [(n, true)] else k.notes }

/-- The warn policy of a row acts (R60, R62). -/
def Core.warn (k : Core) (n : Nat) : Core :=
  let r := k.row n
  let policy := bits (k.tile (n / 32)).cfg.toNat 2 2
  if k.classOf (n / 32) = 7 ∨ policy = 1 then { k.setRow n { r with st := .queued } with offered := k.offered ++ [n] }
  else { k.setRow n { r with st := .warned } with notes := if policy = 2 then k.notes ++ [(n, false)] else k.notes }

/-- The row ages: its state is one of the valid ones outside a refresh. -/
def RowSt.ages : RowSt → Bool
  | .valid | .warned | .queued => true
  | _ => false

/-- Row n of core c is past its limit, or at its warn point, with Age a. -/
def State.pastLimit (s : State) (c n a : Nat) : Bool :=
  ((s.getCore c).row n).st.ages && (s.getCore c).classOf (n / 32) != 7 && decide (s.rowLimit c n ≤ a)
def State.pastWarn (s : State) (c n a : Nat) : Bool :=
  ((s.getCore c).row n).st == .valid && decide (warnPoint (s.rowLimit c n) ≤ a) && ((s.getCore c).classOf (n / 32) == 7 || decide (a < s.rowLimit c n))

/-- A row is evaluated against its limit and its warn point (R67, R195). -/
def State.evalRow (s : State) (c n : Nat) : State :=
  let a := (s.getCore c).age n
  if s.pastLimit c n a then s.modCore c fun k => k.expire n
  else if s.pastWarn c n a then s.modCore c fun k => k.warn n
  else s

/-- Every row of a core is evaluated; no refresh starts for 64 clocks (R67, R346). -/
def State.reevaluate (s : State) (c : Nat) : State :=
  ((s.getCore c).rows.map (·.1)).foldl (fun s n => s.evalRow c n) (s.modCore c fun k => { k with reevalEnd := s.clock + 64 })

/-! ### A tick (R59, R62, R66-R68) -/

/-- The lower bound of a band in °C (R64). -/
def bandFloor (b : Nat) : Nat := if b = 0 then 0 else 40 + 10 * b
def Core.hotter (k : Core) : Bool := decide (k.band < 7 ∧ bandFloor (k.band + 1) ≤ k.sensor)
def Core.cooler (k : Core) : Bool := decide (0 < k.band ∧ k.sensor + 3 ≤ bandFloor k.band)

/-- The tiles of the reservation of an instance (R292). -/
def Inst.reserved (x : Inst) : List Nat := match x.resv with | some (t, n) => (List.range (min n (Config.storeTiles - t))).map (t + ·) | none => []

/-- The valid rows of class L0 to L6 in an instance's reservation on core c. -/
def State.reservedRows (s : State) (x : Inst) (c : Nat) : List Nat :=
  let k := s.getCore c
  x.reserved.flatMap fun t => if k.classOf t = 7 then [] else
    ((List.range 32).map (32 * t + ·)).filter fun n => match (k.row n).st with | .invalid | .released => false | _ => true

/-- The pre-emption budget in ticks: the least life left in the reservation; none without such a row (R317). -/
def State.lifeLeft (s : State) (x : Inst) : Option Nat :=
  ((x.coresOf).flatMap fun c => (s.reservedRows x c).map fun n => s.rowLimit c n - (s.getCore c).age n).foldl
    (fun best v => match best with | none => some v | some b => some (min b v)) none

/-- After a band step of a core the budgets of its pre-empted instances that have not spilled are computed again (R317). -/
def State.rebudget (s : State) (c : Nat) : State :=
  { s with insts := s.insts.map fun p =>
      if p.2.st == .preempted && p.2.coresOf.contains c && p.2.budget.isSome then (p.1, { p.2 with budget := s.lifeLeft p.2 }) else p }

def execBandStepHotter (core : Nat) (s : State) : Out :=
  .next (if (s.getCore core).hotter then ((s.modCore core fun k => { k with band := k.band + 1 }).reevaluate core).rebudget core else s)
def execBandStepCooler (core : Nat) (s : State) : Out :=
  .next (if (s.getCore core).cooler then (s.modCore core fun k => { k with band := k.band - 1 }).rebudget core else s)

/-- The events of row n once its Age is a. -/
def State.rowEvents (s : State) (c n a : Nat) : List Instr :=
  if s.pastLimit c n a then [.rowLimitExpiry c n]
  else (if s.pastWarn c n a then [.rowWarnPoint c n] else []) ++
    (if (s.getCore c).classOf (n / 32) = 7 ∧ s.rowLimit c n ≤ a ∧ ((s.getCore c).row n).st.ages ∧ !((s.getCore c).row n).overdue then
      [.l7RefreshOverdue c n] else [])

/-- Every Age gains 1, and the rows that reach a warn point or a limit follow in order; the tick's requests enter after them. The sensor is read, for
a band step in the next tick (R64). -/
def execAgeTick (core : Nat) (s : State) : Out :=
  let s := s.modCore core fun k => { k with ticks := k.ticks + 1, sensor := Config.freeSensor core (s.clock / Config.tickClocks) }
  let k := s.getCore core
  .next (s.postNext ((k.rows.flatMap fun r => s.rowEvents core r.1 (k.age r.1)) ++ [.refreshRequestEnter core]))

def execRowWarnPoint (core row : Nat) (s : State) : Out :=
  .next (if s.pastWarn core row ((s.getCore core).age row) then s.modCore core fun k => k.warn row else s)
def execRowLimitExpiry (core row : Nat) (s : State) : Out :=
  .next (if s.pastLimit core row ((s.getCore core).age row) then s.modCore core fun k => k.expire row else s)

/-- R417: a machine check on every deck of the core; the row stays queued. -/
def execL7RefreshOverdue (core row : Nat) (s : State) : Out :=
  let k := s.getCore core
  let r := k.row row
  .next (if r.st = .queued ∧ !r.overdue ∧ k.classOf (row / 32) = 7 ∧ s.rowLimit core row ≤ k.age row then
      let s := s.modCore core fun k => k.setRow row { r with overdue := true }
      let is := ((List.range 4).filterMap fun d => (s.getDeck (4 * core + d)).inst).eraseDups
      if is.isEmpty then s.logError 0x08 core 0 0 (BitVec.ofNat 64 row)
      else is.foldl (fun s i => s.arrayCheck core (4 * core) (some i) 0x08 (BitVec.ofNat 64 row)) s
    else s)

/-- Requests enter the refresh queue in increasing row number while it has room (R68). -/
def Core.enterRequests (k : Core) (ns : List Nat) : Core :=
  let sorted := ns.foldl (fun acc n => insertUniq n acc) []
  let room := 32 - k.refreshQ.length
  { k with refreshQ := k.refreshQ ++ sorted.take room, offered := k.offered.filter fun n => !(sorted.take room).contains n }

/-- The end of a tick: its events are pushed, and the requests that are offered enter. -/
def execRefreshRequestEnter (core : Nat) (s : State) : Out :=
  .next ((s.pushNotes core).modCore core fun k => k.enterRequests k.offered)

/-- R348: the writes accepted since the last tick take effect; a lowered limit re-evaluates the rows of every core. -/
def execTempTableApply (s : State) : Out :=
  let table := s.tempPending.foldl (fun t p => mput t p.1 p.2) s.tempTable
  let s' := { s with tempTable := table, tempPending := [] }
  let lowered := (List.range 64).any fun e => decide (s'.limitOf (e / 8) (e % 8) < s.limitOf (e / 8) (e % 8))
  .next (if lowered then (s'.cores.filter fun p => p.2.power.cur != 2).foldl (fun s p => s.reevaluate p.1) s' else s')

/-! ### Refreshes (R69, R417, R435) -/

/-- The oldest request that may start: its bank holds no lock and no refresh. -/
def Core.nextRefresh (k : Core) (clock : Nat) : Option Nat :=
  if clock < k.reevalEnd then none
  else k.refreshQ.find? fun n => !k.bankLocked (bankOf n) && !k.refreshHolds clock (bankOf n)

def execRefreshStart (core : Nat) (s : State) : Out :=
  let k := s.getCore core
  .next (match k.nextRefresh s.clock with
    | none => s
    | some n =>
      (s.setCore core { k.setRow n { k.row n with st := .refreshing } with
        refreshQ := k.refreshQ.filter (· != n), refreshing := k.refreshing ++ [(n, s.clock)] }).post (s.clock + 3) (.refreshWriteback core n))

/-- The fourth clock of a refresh: the row is valid with Age 0; with an uncorrectable granule nothing is written back and the row is invalid. A corrected
granule is rewritten (R435, R436). -/
def execRefreshWriteback (core row : Nat) (s : State) : Out :=
  let k := s.getCore core
  .next (if (k.row row).st ≠ .refreshing then s
    else if k.badIn row 0 7 then (s.setCore core ((k.dropWay row).setRow row { k.row row with st := .invalid })).pushEvent core row true
    else (s.correct core row 0 7).setCore core { k.setRow row ⟨.valid, k.ticks, false⟩ with weak := k.weak.filter fun g => g / 8 != row })

/-! ### Lifetime changes and release (R195, R196, R431) -/

/-- The first request on a tile. -/
def Core.tileReq (k : Core) (t : Nat) : Option (Nat × TileReq) := (k.tileReqs.find? fun r => r.1 == t).map (·.2)

/-- The first request of a tile, a configuration, takes effect in this clock. -/
def Core.cfgDue (k : Core) (t clock : Nat) : Bool :=
  match k.tileReq t with
  | some (c, .cfg ..) => decide (c ≤ clock) && !k.tileBanksLocked t
  | _ => false

/-- The first request of a tile, a release, takes effect in clock c, given the core as it stood at the end of the clock before. -/
def Core.relDue (k : Core) (t clock : Nat) : Bool :=
  match k.tileReq t with
  | some (c, .rel) => decide (c ≤ clock) && !k.tileBanksLocked t && !k.refreshing.any fun r => r.1 / 32 == t && decide (clock < r.2 + 4)
  | _ => false

/-- Drop the first request of a tile. -/
def dropReq (t : Nat) : List (Nat × Nat × TileReq) → List (Nat × Nat × TileReq)
  | [] => []
  | r :: rs => if r.1 = t then rs else r :: dropReq t rs

/-- The tile takes its new configuration, and each of its rows is evaluated under it. Requests that arise enter the queue at once, or are offered
at the next tick. -/
def execTcfgTakeEffect (core tile : Nat) (s : State) : Out :=
  let k := s.getCore core
  .next (match k.tileReq tile with
    | some (c, .cfg b deck inst) =>
      if !k.cfgDue tile s.clock then s
      else
        let _ := c
        let old := k.offered
        let k := { k.modTile tile fun t => { t with cfg := b &&& 0x7E, owner := inst.map fun i => (deck, i) } with tileReqs := dropReq tile k.tileReqs }
        let s := (List.range 32).foldl (fun s j => s.evalRow core (32 * tile + j)) (s.setCore core k)
        (s.pushNotes core).modCore core fun k => k.enterRequests (k.offered.filter fun n => !old.contains n)
    | _ => s)

/-- Rows released, requests and marks removed, directory ways emptied. -/
def Core.release (k : Core) (t : Nat) : Core :=
  let k := (List.range 32).foldl (fun (k : Core) j => k.setRow (32 * t + j) { k.row (32 * t + j) with st := .released }) k
  let k := k.modTile t fun x => { x with published := false, receivable := false }
  { k with refreshQ := k.refreshQ.filter (· / 32 != t), offered := k.offered.filter (· / 32 != t),
           ways := k.ways.map fun w => if dirBase k + w.1 = t then (w.1, { w.2 with st := 0 }) else w }

def execTrelTakeEffect (core tile : Nat) (s : State) : Out :=
  let k := s.getCore core
  .next (match k.tileReq tile with
    | some (_, .rel) => s.setCore core { k.release tile with tileReqs := dropReq tile k.tileReqs }
    | _ => s)

end Sys2Proof.Machine
end

