-- ==== Sys2Proof/Machine/Roundabout.lean ====
section
/-! DEFINITION. The Roundabouts as one scheduler: records, launches, tokens, conditional, loop and group nodes, ready lists, selection,
commit, cancellation and rollback (spec 02 R14-R31, spec 13 R290-R312, spec 22 R430, spec 23 R433, R449-R451). -/
namespace Sys2Proof.Machine

/-! ### Records (R290-R294) -/

def refValid (r : Nat) : Bool := bits r 31 1 == 1 && bits r 0 12 == 0 && decide (bits r 27 4 < Config.numDies)
def refDie (r : Nat) : Nat := bits r 27 4
def refSlot (r : Nat) : Nat := bits r 12 15
def refOf (die slot : Nat) : Nat := 2 ^ 31 + die * 2 ^ 27 + slot * 2 ^ 12

/-- Where word w of the record that a reference names lies in the model's memory. -/
def slotAddr (r w : Nat) : Nat := graphBase (refDie r) + 256 * refSlot r + 8 * w

/-- Word w of a record as it stands in its graph store. -/
def State.slotWord (s : State) (r w : Nat) : Word := BitVec.ofNat 64 (Memory.read s.mem (slotAddr r w) 8)
def State.setSlotWord (s : State) (r w : Nat) (v : Word) : State := { s with mem := Memory.write s.mem (slotAddr r w) 8 v.toNat }

/-- The running launch a node belongs to. -/
def State.launchOf (s : State) (r : Nat) : Option Launch := s.launches.find? fun l => l.nodes.contains r
def State.modLaunch (s : State) (g : Nat) (f : Launch → Launch) : State :=
  { s with launches := s.launches.map fun l => if l.graph = g then f l else l }

/-- Word w of a record as a launch sees it: its overlay, else the store (R298). -/
def State.launchWord (s : State) (l : Launch) (r w : Nat) : Word :=
  match (l.overlay.filter fun o => o.1 == r && o.2.1 == w).getLast? with
  | some o => o.2.2
  | none => s.slotWord r w

/-- The 32 words of a record: as the running launch that holds the node sees them, or as they stand. -/
def State.recordWords (s : State) (launch : Option Launch) (r : Nat) : List Word :=
  (List.range 32).map fun w => match launch with | some l => s.launchWord l r w | none => s.slotWord r w
def State.nodeWords (s : State) (r : Nat) : List Word := s.recordWords (s.launchOf r) r

/-- A field of a record (R291, R292). -/
def field (ws : List Word) (w lo n : Nat) : Nat := bits (ws.getD w 0).toNat lo n
def nodeKind (ws : List Word) : Nat := field ws 0 61 3
def isCode (ws : List Word) : Bool := decide (nodeKind ws ≤ 2)
def isTemplate (ws : List Word) : Bool := field ws 0 56 1 == 1
/-- n references from word w, low half first. -/
def refsAt (ws : List Word) (w n : Nat) : List Nat := ((List.range (min n 16)).map fun k => field ws (w + k / 2) (32 * (k % 2)) 32).filter refValid
def successors (ws : List Word) : List Nat := refsAt ws 24 (field ws 0 35 5)
/-- Body or member references of a loop or group node. -/
def listed (ws : List Word) : List Nat := if nodeKind ws = 4 ∨ nodeKind ws = 5 then refsAt ws 8 (field ws 0 30 5) else []

/-- The runtime word: count, state (0 waiting, 1 ready or running, 2 complete, 3 skipped or cancelled), iterations (R293). -/
def runtimeWord (count st iters : Nat) : Word := BitVec.ofNat 64 (count * 2 ^ 48 + st * 2 ^ 46 + iters * 2 ^ 30)
def State.nodeCount (s : State) (r : Nat) : Nat := bits (s.slotWord r 1).toNat 48 16
def State.nodeState (s : State) (r : Nat) : Nat := bits (s.slotWord r 1).toNat 46 2
def State.nodeIters (s : State) (r : Nat) : Nat := bits (s.slotWord r 1).toNat 30 16
def State.setNodeState (s : State) (r st : Nat) : State := s.setSlotWord r 1 (runtimeWord (s.nodeCount r) st (s.nodeIters r))

/-- The context of a node: that of its die in the launch (R295). -/
def State.nodeCtx (s : State) (r : Nat) : Nat := match s.launchOf r with | some l => mget 0 l.ctxs (refDie r) | none => 0

/-- A group of a context as the model keys it. -/
def groupKey (ctx g : Nat) : Nat := ctx * 8192 + g

/-- The groups whose group node names node r, by reference (R21). -/
def State.groupsOf (s : State) (r : Nat) : List Nat :=
  match s.launchOf r with
  | none => []
  | some l => l.nodes.filterMap fun g =>
      let ws := s.recordWords (some l) g
      if nodeKind ws = 5 ∧ (listed ws).contains r then some (groupKey (mget 0 l.ctxs (refDie g)) (field ws 2 0 13)) else none

/-- Committed memory of a context is translated here (R457) and its stacks answer in this clock (R333, R344). -/
def State.reachable (s : State) (ctx va n : Nat) : Bool := s.mapped (2 ^ 40) ctx s.clock va n && !s.memoryWaits (2 ^ 40) ctx s.clock va n
/-- The Roundabout asks for the pages it needs and lacks. -/
def State.askFor (s : State) (ctx va n : Nat) : State :=
  (pagesOf va n).foldl (fun s p => if (s.resolvePage (2 ^ 40) ctx p s.clock).isSome then s else s.askPage ctx p) s

/-! ### Messages between Roundabouts (R299, R449) -/

/-- A message sets out from the Roundabout of die a to that of another die b. -/
def State.messageOut (s : State) (a b stop : Nat) (ev : Instr) : State :=
  let (r, s) := s.path (dieRouter a) (dieRouter b)
  s.carry [r ++ [(dieRouter b, 16, 10), (dieRouter b, 16, 0)]] s.clock stop ev

/-- Event ev comes about on die b after a message from die a: 16 clocks after it arrives, at most `cap` clocks from now. -/
def State.message (s : State) (a b cap : Nat) (ev : Instr) : State :=
  if a = b then s.post (s.clock + min cap 16) ev
  else
    let (u, s) := s.delay
    let s := { s with seq := s.seq + 1, unacked := s.unacked ++ [(⟨s.seq, ev, s.clock, a, b⟩ : Unacked)] }
    (s.messageOut a b (s.clock + cap) ev).post (s.clock + 1 + u) (.messageResend (s.seq - 1))

/-- The message that brought ev is acknowledged. -/
def State.acknowledge (s : State) (ev : Instr) : State :=
  match s.unacked.find? fun u => u.ev == ev with
  | some u => { s with unacked := s.unacked.erase u }
  | none => s

/-- One token to each successor (R299). -/
def State.sendTokens (s : State) (r : Nat) (skip : Bool) : State :=
  (successors (s.nodeWords r)).foldl (fun s q => s.message (refDie r) (refDie q) farOff (.tokenArrival q skip)) s

/-! ### The ready lists (R300) -/

/-- Every instance changed by f. -/
def State.mapInsts (s : State) (f : Nat → Inst → Inst) : State := { s with insts := s.insts.map fun p => (p.1, f p.1 p.2) }

/-- The instance waits in a ready list. -/
def Inst.waits (x : Inst) : Bool := x.st == .ready || x.st == .preempted
/-- The instance is not finished and keeps its node from completing. -/
def Inst.live (x : Inst) : Bool :=
  match x.st with | .ready | .preparing | .running | .saving | .preempted => true | .retired | .cancelled | .ended => false

/-- The Roundabout of a die runs its selection at the end of this clock's events (R302). -/
def State.askSelection (s : State) (die : Nat) : State :=
  { s with agenda := insertEvent s.clock (.roundaboutSelection die) (s.agenda.filter fun e => !(e.1 == s.clock && e.2 == .roundaboutSelection die)) }
def State.askSelections (s : State) : State :=
  (List.range Config.numDies).foldl (fun s d => if s.insts.any fun p => p.2.die == d && p.2.waits then s.askSelection d else s) s

/-- Field widths and spreads (R26). -/
def fieldWidths (ws : List Word) : List Nat := (List.range 6).map fun i => field ws 6 (7 * i) 7
def spreads (ws : List Word) : List Nat :=
  (List.range 6).map fun i => if (fieldWidths ws).getD i 0 = 0 then 1 else field ws (7 + i) 0 40 + 1

/-- The work identifier of index n of a launch, i0 varying fastest (R27). -/
def widOf (base : Word) (ws : List Word) (n : Nat) : Word :=
  ((List.range 6).foldl (fun (acc : Word × Nat × Nat) i =>
    let k := (spreads ws).getD i 1
    (acc.1 + BitVec.ofNat 64 (acc.2.1 % k * 2 ^ acc.2.2), acc.2.1 / k, acc.2.2 + (fieldWidths ws).getD i 0)) (base, n, 0)).1

/-- Where the instances of one record come from: a launch, or a spawn set. -/
structure Origin where
  graph : Option Nat
  node : Nat
  die : Nat
  ctx : Nat
  base : Word
  prio : Nat
  groups : List Nat
  patch : Option (Nat × Word)
  set : Option (Nat × Nat)   -- number and queue
  readyAt : Nat

/-- Instance n of a record (R26, R29, R300). -/
def Origin.inst (o : Origin) (ws ext : List Word) (clock n : Nat) : Inst :=
  let args := (List.range 4).map fun k => match o.patch with
    | some (i, v) => if i = k then v else ws.getD (13 + k) 0
    | none => ws.getD (13 + k) 0
  { Inst.absent with
    die := o.die, node := o.node, graph := o.graph, ctx := o.ctx, wid := widOf o.base ws n, widths := fieldWidths ws, idx := n,
    kind := nodeKind ws, prio := o.prio, level := o.prio, readyAt := o.readyAt, waitFrom := clock, st := .ready, args := args,
    groups := o.groups, iterMax := field ws 4 46 7, spawnSet := o.set.map (·.1), queue := o.set.map (·.2), words := ws, extWords := ext,
    resv := if field ws 19 12 13 = 0 then none else some (field ws 19 0 12, field ws 19 12 13) }

/-- Every instance of a record enters the ready list, with the rollbacks that this launch has seen of it (R433). -/
def State.listInsts (s : State) (o : Origin) : State :=
  let l := match o.graph with | some g => s.launches.find? fun l => l.graph == g | none => none
  let rolls := fun (x : Inst) => match l with | some l => l.rolls.countP fun q => q == (x.node, x.wid) | none => 0
  let add := fun (s : State) (x : Inst) => { s with insts := mput s.insts s.nextInst { x with rollbacks := rolls x }, nextInst := s.nextInst + 1 }
  let ws := s.recordWords l o.node
  let ext := if field ws 17 32 5 = 0 || !refValid (field ws 17 0 32) then [] else s.recordWords l (field ws 17 0 32)
  let total := (spreads ws).foldl (· * ·) 1
  let s := (List.range total).foldl (fun s n => add s (o.inst ws ext s.clock n)) s
  s.askSelection o.die

/-! ### Nodes (R14-R21) -/

/-- A launch ends when none of its nodes but templates is waiting, ready or running; queued launches whose graph is free start in trigger
order (R298, R338). DESIGN CHOICE: the body nodes of a loop node that is skipped or cancelled still count as waiting (NOTES.md, Assumption 127). -/
def State.checkLaunchEnd (s : State) (g : Nat) : State :=
  match s.launches.find? fun l => l.graph == g with
  | none => s
  | some l =>
    if l.nodes.any fun r => !isTemplate (s.recordWords (some l) r) && decide (s.nodeState r < 2) then s
    else
      let s := { s with launches := s.launches.filter fun l => l.graph != g }
      let s := s.send 0 0 0 0
      match s.launchQ.find? fun q => !s.launches.any fun l => l.graph == q.1 with
      | some q => s.postNext [.launchStart q.1]
      | none => s

/-- A node has ended: the loop whose body it completes goes on, or its launch ends (R20, R298). -/
def State.nodeFinished (s : State) (r : Nat) : State :=
  match s.launchOf r with
  | none => s
  | some l =>
    let loops := l.nodes.filter fun p =>
      let ws := s.recordWords (some l) p
      nodeKind ws = 4 ∧ (listed ws).contains r ∧ s.nodeState p = 1 ∧ (listed ws).all fun b => decide (2 ≤ s.nodeState b)
    (s.postNext (loops.map Instr.loopBodyEnd)).checkLaunchEnd l.graph

/-- A node that runs no code completes (R19-R21). -/
def State.completePlain (s : State) (r : Nat) (skip : Bool) : State := ((s.setNodeState r 2).sendTokens r skip).nodeFinished r

/-- A ready conditional node reads its guard word; a guard address of 0 always releases (R19, R292). It waits for a page that has no
translation yet (NOTES.md, Assumption 13). -/
def State.runConditional (s : State) (r : Nat) : State :=
  let a := field (s.nodeWords r) 2 0 57
  let ctx := s.nodeCtx r
  if a = 0 then s.completePlain r false
  else if !s.reachable ctx a 8 then (s.askFor ctx a 8).waitFor ctx a 8 (.tokenArrival r false)
  else s.completePlain r (s.readCommitted ctx a 8 == 0)

/-- A node becomes ready; a loop node starts its body, nested to at most `fuel` levels (R15, R20, R300). -/
def State.nodeReady : Nat → State → Nat → State
  | 0, s, _ => s
  | fuel + 1, s, r =>
    let ws := s.nodeWords r
    let s := s.setNodeState r 1
    if isCode ws then
      s.listInsts { graph := (s.launchOf r).map (·.graph), node := r, die := refDie r, ctx := s.nodeCtx r, base := 0, prio := field ws 0 59 2,
                    groups := s.groupsOf r, patch := none, set := none, readyAt := s.clock }
    else if nodeKind ws = 3 then s.runConditional r
    else if nodeKind ws = 4 then
      let body := listed ws
      let s := s.setSlotWord r 1 (runtimeWord (s.nodeCount r) 1 (s.nodeIters r + 1))
      let s := body.foldl (fun s b => s.setSlotWord b 1 (runtimeWord (field (s.nodeWords b) 0 40 16) 0 0)) s
      let s := match s.launchOf r with
        | some l => s.modLaunch l.graph fun l => { l with skips := l.skips.filter fun b => !body.contains b }
        | none => s
      if body.isEmpty then s.post (s.clock + 1) (.loopBodyEnd r)
      else (body.filter fun b => s.nodeCount b = 0).foldl (fun s b => State.nodeReady fuel s b) s
    else s.completePlain r false

/-- The deepest nesting of loops there can be. -/
def State.depth (s : State) : Nat := (s.launches.map fun l => l.nodes.length).sum + 1

/-- R14, R19, R299: the counter falls; in the clock in which it reaches zero the node becomes ready, or is skipped when some token marked it so. A counter
at zero stays there, and nothing comes of the token. A ready conditional node that still waits for its guard word looks again. -/
def execTokenArrival (node : Nat) (skip : Bool) (s : State) : Out :=
  let s := s.acknowledge (.tokenArrival node skip)
  .next (match s.launchOf node with
    | none => s
    | some l =>
      let ws := s.nodeWords node
      if s.nodeState node = 1 ∧ nodeKind ws = 3 then s.runConditional node
      else if s.nodeState node ≠ 0 ∨ isTemplate ws ∨ s.nodeCount node = 0 then s
      else
        let n := s.nodeCount node - 1
        let skipped := skip || l.skips.contains node
        let s := (s.modLaunch l.graph fun l => { l with skips := if skip then l.skips ++ [node] else l.skips }).setSlotWord node 1
          (runtimeWord n 0 (s.nodeIters node))
        if n ≠ 0 then s
        else if skipped then ((s.setNodeState node 3).sendTokens node false).nodeFinished node
        else State.nodeReady s.depth s node)

/-- R20: after every node of the body has ended, the predicate word decides. -/
def execLoopBodyEnd (node : Nat) (s : State) : Out :=
  let ws := s.nodeWords node
  let a := field ws 2 0 57
  let ctx := s.nodeCtx node
  .next (if (s.launchOf node).isNone || s.nodeState node != 1 || nodeKind ws != 4 || (listed ws).any (fun b => decide (s.nodeState b < 2)) then s
    else if !s.reachable ctx a 8 then (s.askFor ctx a 8).waitFor ctx a 8 (.loopBodyEnd node)
    else if s.readCommitted ctx a 8 ≠ 0 ∧ s.nodeIters node < field ws 3 0 16 then State.nodeReady s.depth s node
    else s.completePlain node false)

/-! ### Launches (R295, R298) -/

/-- The slots of a graph on a die, by the graph table: first, count, context. -/
def State.graphRange (s : State) (g d : Nat) : Nat × Nat × Nat :=
  let w := (mget 0 s.graphTable (12 * g + d)).toNat
  (bits w 17 15, bits w 0 17, bits w 32 8)
def State.inGraph (s : State) (g r : Nat) : Bool :=
  let (first, n, _) := s.graphRange g (refDie r)
  decide (first ≤ refSlot r ∧ refSlot r < first + n)

/-- Every slot of a graph, by die and number. -/
def State.graphSlots (s : State) (g : Nat) : List Nat :=
  (List.range Config.numDies).flatMap fun d =>
    let (first, n, _) := s.graphRange g d
    (List.range (min n (32768 - first))).map fun k => refOf d (first + k)

/-- A pair of the patch window names a word of the graph (R298): reference, low half of its first word, value. -/
def State.patchOk (s : State) (g : Nat) (p : Nat × Nat × Word) : Bool := refValid p.1 && decide (p.2.1 < 32) && s.inGraph g p.1

/-- R298: the records take their runtime words from their headers, the pairs then form the overlay, and the nodes of count 0 become ready, unless they are
templates or lie in a loop body. A slot that is all zero, or that a node names as its extent record, holds no node. -/
def execLaunchStart (graph : Nat) (s : State) : Out :=
  match s.launchQ.find? fun q => q.1 == graph with
  | none => .next s
  | some q =>
    if s.launches.any fun l => l.graph == graph then .next s
    else
      let slots := s.graphSlots graph
      let good := q.2.filter (s.patchOk graph)
      let given := good.filterMap fun p => if p.2.1 = 1 then none else some (p.1, p.2.1, p.2.2)
      let ctxs := (List.range Config.numDies).filterMap fun d => if (s.graphRange graph d).2.1 = 0 then none else some (d, (s.graphRange graph d).2.2)
      let l0 : Launch := ⟨graph, ctxs, [], given, [], []⟩
      let recs := slots.map fun r => (r, s.recordWords (some l0) r)
      let exts := recs.filterMap fun p => if isCode p.2 ∧ field p.2 17 32 5 ≠ 0 then some (field p.2 17 0 32) else none
      let nodes := recs.filter fun p => !exts.contains p.1 && p.2.any (· != 0) && decide (nodeKind p.2 ≤ 5)
      let bodies := nodes.flatMap fun p => if nodeKind p.2 = 4 then listed p.2 else []
      let s := { s with
        launchQ := s.launchQ.erase q, ignored := q.2.length - good.length, launches := s.launches ++ [{ l0 with nodes := nodes.map (·.1) }] }
      let count := fun (r : Nat) => bits (s.slotWord r 0).toNat 40 16
      let s := nodes.foldl (fun s p => s.setSlotWord p.1 1 (runtimeWord (count p.1) 0 0)) s
      let first := nodes.filter fun p => count p.1 = 0 ∧ !isTemplate p.2 ∧ !bodies.contains p.1
      let s := first.foldl (fun s p => State.nodeReady s.depth s p.1) s
      .next (s.checkLaunchEnd graph)

/-! ### Selection (R28, R302, R303) -/

/-- The order of the ready lists: level, ready time, node, index, and then creation (R300). -/
def before (p q : Nat × Inst) : Bool :=
  let key := fun (p : Nat × Inst) => [p.2.level, p.2.readyAt, p.2.node, p.2.idx, p.1]
  let rec go : List Nat → List Nat → Bool
    | a :: as, b :: bs => decide (a < b) || (a == b && go as bs)
    | _, _ => false
  go (key p) (key q)

def insertInst (p : Nat × Inst) : List (Nat × Inst) → List (Nat × Inst)
  | [] => [p]
  | q :: qs => if before p q then p :: q :: qs else q :: insertInst p qs

/-- The listed instances of a die in order. -/
def State.readyList (s : State) (die : Nat) : List (Nat × Inst) :=
  (s.insts.filter fun p => p.2.die == die && p.2.waits && p.2.stopAt.isNone && !p.2.doomed).foldl (fun acc p => insertInst p acc) []

/-- The cores of the placement mask (R292). -/
def Inst.maskCores (x : Inst) : List Nat := (List.range Config.numCores).filter fun c => if c < 64 then field x.words 2 c 1 == 1 else field x.words 3 (c - 64) 1 == 1
def coreDecks (c : Nat) : List Nat := [4 * c, 4 * c + 1, 4 * c + 2, 4 * c + 3]

/-- The code image that the node of an instance runs, where one is kept for its graph (NOTES.md, Assumption 5). -/
def State.codeOf (s : State) (x : Inst) : Option (Nat × CodeImage) :=
  (x.graph <|> (List.range 256).find? fun g => s.inGraph g x.node).bind fun g => (mfind s.images g).map fun m => (g, m)

/-- Core c's instruction store holds the code of an instance (R28). -/
def State.holdsCode (s : State) (x : Inst) (c : Nat) : Bool :=
  match s.codeOf x with
  | some (g, _) => (s.getCore c).code.contains g
  | none => true

/-- The code of an instance is loaded into core c's instruction store, with its regions; images it writes over are held there no longer (R28, R391). -/
def State.loadCode (s : State) (x : Inst) (c : Nat) : State :=
  match s.codeOf x with
  | none => s
  | some (g, m) =>
    if (s.getCore c).code.contains g then s
    else
      let stays := fun (h : Nat) => match mfind s.images h with
        | some o => !o.bundles.any fun b => m.bundles.any fun d => d.1 == b.1
        | none => false
      let held := (s.getCore c).code.filter stays ++ [g]
      let s := s.modCore c fun k => { k with code := held, regions := held.flatMap fun h => match mfind s.images h with | some o => o.regions | none => [] }
      m.bundles.foldl (fun (s : State) b => { s with mem := Memory.write s.mem (istoreBase c + 32 * b.1) 32 b.2.toNat }) s

/-- The sets of decks on which an instance may run, in order of preference (R28, R313): those of cores that hold its code first, a pre-empted one only
where it was. -/
def State.places (s : State) (x : Inst) : List (List Nat) :=
  let cs := x.maskCores.filter (s.holdsCode x) ++ x.maskCores.filter fun c => !s.holdsCode x c
  if x.st = .preempted then [x.decks]
  else if x.kind = 0 then cs.flatMap fun c => ((coreDecks c).filter fun n => field x.words 3 (32 + n % 4) 1 == 1).map fun n => [n]
  else if x.kind = 1 then cs.map coreDecks
  else if x.maskCores.isEmpty then [] else [x.maskCores.flatMap coreDecks]

/-- Deck n takes new work: its core is in Run with no request to leave it, it serves no instance, and no other listed instance holds it
(R302, R344). -/
def State.deckFree (s : State) (i n : Nat) : Bool :=
  (s.getCore (n / 4)).power.cur == 0 && (s.getCore (n / 4)).power.req == 0 && (s.getDeck n).inst.isNone &&
    !s.insts.any fun p => p.1 != i && p.2.waits && p.2.holds.contains n

/-- Pre-empted instances whose held reservation on core c overlaps that of instance i (R317). -/
def State.reservers (s : State) (i : Nat) (x : Inst) (c : Nat) : List Nat :=
  (s.insts.filter fun p => p.1 != i && p.2.st == .preempted && p.2.coresOf.contains c && p.2.reserved.any fun t => x.reserved.contains t).map (·.1)

/-- The instance may be dispatched, or resumed, on these decks now: unless it is due, no other one holds a reservation there that overlaps its own. -/
def State.mayPlace (s : State) (i : Nat) (x : Inst) (ds : List Nat) : Bool :=
  ds.all (s.deckFree i) && (x.due || ds.all fun n => (s.reservers i x (n / 4)).isEmpty)

/-- The instance takes its decks: a due one spills the reservations in its way first (R317); a pre-empted one resumes after 64 clocks, any
other prepares its extents (R302, R308, R313). Cores that lack its code load it (R28). -/
def State.place (s : State) (i : Nat) (ds : List Nat) : State :=
  let x := s.getInst i
  let spills := (ds.flatMap fun n => s.reservers i x (n / 4)).eraseDups.filter fun y => (s.getInst y).budget.isSome
  let s := s.setInst i { x with st := .preparing, decks := ds, holds := [], wasDue := x.due, due := false, placed := false, prepared := false }
  let s := (ds.map (· / 4)).eraseDups.foldl (fun s c => s.loadCode x c) s
  let s := s.mapInsts fun _ y => if y.preemptFor = some i then { y with preemptFor := none } else y
  let s := ds.foldl (fun s n => s.modDeck n fun d => { d with inst := some i, halted := true }) s
  let s := s.postNext (spills.map Instr.spillStart)
  if x.st = .preempted then s.post (s.clock + 64) (.preemptResume i) else s.post s.clock (.dispatch i)

/-- The threshold of a gang in clocks (R292, R302). -/
def State.ageLimit (s : State) (die : Nat) : Nat := (s.getDie die).rbcfg.toNat * Config.clocksPerUs
def State.threshold (s : State) (x : Inst) : Nat := if field x.words 18 0 32 = 0 then s.ageLimit x.die else field x.words 18 0 32 * Config.clocksPerUs

/-- One listed instance in a pass of the selection: dispatched, or, a gang past its threshold, given each deck it needs that is free. -/
def State.selectOne (s : State) (i : Nat) : State :=
  let x := s.getInst i
  match (s.places x).find? (s.mayPlace i x) with
  | some ds => s.place i ds
  | none =>
    if x.kind ≠ 0 ∧ s.clock > x.readyAt + s.threshold x then
      match (s.places x).find? (fun ds => ds.any x.holds.contains) <|> (s.places x).head? with
      | some ds => s.setInst i { x with holds := x.holds ++ ds.filter fun n => !x.holds.contains n && s.deckFree i n }
      | none => s
    else s

/-- A running instance may be pre-empted: not one dispatched as due less than `age_limit` ago (R303). -/
def State.candidate (s : State) (limit : Nat) (y : Nat) : Bool :=
  let x := s.getInst y
  x.st == .running && x.stopAt.isNone && !x.doomed && x.preemptFor.isNone && !(x.wasDue && decide (s.clock < x.dispatchedAt + limit))

/-- The instance on a deck. -/
def State.occupant (s : State) (n : Nat) : Option Nat := (s.getDeck n).inst

/-- The better victim: higher priority number, then later dispatch, then higher deck number (R303). -/
def State.worse (s : State) (a b : Nat) : Bool :=
  let x := s.getInst a
  let y := s.getInst b
  let top := fun (x : Inst) => x.decks.foldl max 0
  decide (y.prio < x.prio) || (x.prio == y.prio && (decide (y.dispatchedAt < x.dispatchedAt) ||
    (x.dispatchedAt == y.dispatchedAt && decide (top y < top x))))

/-- Victims are picked for a due instance that is still listed, and the decks they free are held for it, with those it needs. -/
def State.preemptFor (s : State) (limit i : Nat) : State :=
  let x := s.getInst i
  if !x.waits || !x.due || s.insts.any (fun p => p.2.preemptFor == some i) then s
  else
    let occupants := fun (ds : List Nat) => (ds.filterMap s.occupant).eraseDups
    -- the places all of whose occupants may be pre-empted; a superstep gang has only one
    let open_ := (s.places x).filter fun ds => !(occupants ds).isEmpty && (x.kind == 2 || (occupants ds).all (s.candidate limit))
    let best := (open_.flatMap occupants).foldl (fun (b : Option Nat) y =>
      if !s.candidate limit y then b else match b with | none => some y | some z => if s.worse y z then some y else b) none
    match best with
    | none => s
    | some y =>
      match open_.find? fun ds => (occupants ds).contains y with
      | none => s
      | some ds =>
        let victims := (occupants ds).filter (s.candidate limit)
        let s := s.setInst i { x with holds := (ds ++ victims.flatMap fun j => (s.getInst j).decks).eraseDups }
        s.mapInsts fun j y => if victims.contains j then { y with preemptFor := some i } else y

/-- R302: the ready lists in order, then the due instances still listed. -/
def execRoundaboutSelection (die : Nat) (s : State) : Out :=
  let s := (s.readyList die).foldl (fun s p => if (s.getInst p.1).waits then s.selectOne p.1 else s) s
  .next ((s.readyList die).foldl (fun s p => s.preemptFor (s.ageLimit die) p.1) s)

/-- Copies of a pre-empted instance's rows fall due (R318): with n reserved rows that are not silent, 16 + n / 1024 ticks before the end. -/
def State.spillPoint (s : State) (x : Inst) : Nat :=
  let n := (x.coresOf.flatMap fun c => (s.reservedRows x c).filter fun r => !((s.getCore c).tile (r / 32)).cfg.getLsbD 1).length
  16 + (n + 1023) / 1024

/-- R301: a wait of `age_limit` moves an instance up a level, or makes it due; budgets of pre-empted instances run down (R317, R318). -/
def execAgingTick (die : Nat) (s : State) : Out :=
  let limit := s.ageLimit die
  let s := s.mapInsts fun _ x =>
    if x.die != die || !x.waits then x
    else
      let x := { x with budget := if x.st == .preempted then x.budget.map (· - 1) else x.budget }
      if s.clock < x.waitFrom + limit then x
      else if x.level = 0 then { x with due := true }
      else { x with level := x.level - 1, waitFrom := s.clock }
  let spills := s.insts.filterMap fun p =>
    if p.2.die == die && p.2.st == .preempted && p.2.budget.any (fun b => decide (b ≤ s.spillPoint p.2)) then some (Instr.spillStart p.1) else none
  .next ((s.postNext spills).askSelection die)

/-! ### Extents and dispatch (R29, R80, R119, R169, R307, R308, R310) -/

/-- An `xfork` token (R175, R307). -/
def isToken (w : Word) : Bool := w.getLsbD 63 && bits w.toNat 30 2 == 3

/-- The extents an instance declares: entry k below `next`; a base or a share from an argument word (R294, R307). A share that is not formed,
or a reserved access, declares nothing. -/
def State.extentsOf (s : State) (x : Inst) : List Ext :=
  (List.range (min (field x.words 17 32 5) 16)).filterMap fun k =>
    let lo := field x.extWords (2 * k) 0 64
    let acc := bits lo 57 2
    let len := field x.extWords (2 * k + 1) 0 57
    let mk := fun base len share => some (⟨k, base, len, acc, bits lo 59 1 == 1, bits lo 60 1 == 1, share⟩ : Ext)
    if acc = 3 then none
    else if bits lo 61 1 = 0 then mk (bits lo 0 57) len none
    else
      let a := x.args.getD (bits lo 62 2) 0
      if isToken a then
        match s.shares.find? fun h => h.id == bits a.toNat 32 32 && h.ctx == x.ctx && h.formed with
        | some h => mk (2 ^ 57 * (h.id + 1) + h.base % 2 ^ 57) h.len (some h.id)
        | none => none
      else mk (bits a.toNat 0 57) len none

/-- The pages of an extent. -/
def Ext.pages (e : Ext) : List Nat :=
  if e.len = 0 then [] else (List.range ((e.base + e.len - 1) / pageBytes + 1 - e.base / pageBytes)).map (e.base / pageBytes + ·)

/-- The trip-count word of an instance, when it lies in memory (R22, R292). -/
def Inst.tripAddr (x : Inst) : Option Nat := if field x.words 4 53 1 = 1 then some (field x.words 5 0 57) else none

/-- The count of references to a share changes (R310); one whose count returns to zero, and whose issuing node has committed, frees its pages. -/
def State.countShare (s : State) (id : Nat) (up : Bool) : State :=
  let shares := s.shares.map fun h => if h.id = id then { h with refs := if up then h.refs + 1 else h.refs - 1 } else h
  { s with shares := shares.filter fun h => up || h.id != id || h.refs != 0 || !h.formed }

/-- Instance i takes a reference to a share at its dispatch, and drops those it has taken (R310, R312). -/
def State.takeRef (s : State) (i id : Nat) : State := (s.countShare id true).modInst i fun x => { x with refs := x.refs ++ [id] }
def State.dropRefs (s : State) (i : Nat) : State :=
  ((s.getInst i).refs.foldl (fun s id => s.countShare id false) s).modInst i fun x => { x with refs := [] }

/-- The share that an extent maps. -/
def State.shareOf (s : State) (e : Ext) : Option Share := e.share.bind fun id => s.shares.find? fun h => h.id == id

/-- A page of a share as a mapping instance numbers it (NOTES.md, Assumption 9). -/
def Share.page (h : Share) (p : Nat × Nat) : Nat := 2 ^ 41 * (h.id + 1) + p.1

/-- Some instance of node key maps page `page` already. -/
def State.shadowed (s : State) (key ctx page : Nat) : Bool := s.shadows.any fun q => q.node == key && q.ctx == ctx && q.page == page

/-- The pages of a share as instance i maps them: a reader the shared pages, a writer pages of its own that are to be copied (R308, R310). -/
def State.mapShare (s : State) (i : Nat) (x : Inst) (e : Ext) : List PageCopy × State :=
  match s.shareOf e with
  | none => ([], s)
  | some h =>
    let key := x.shadowNode
    h.pages.foldl (fun (q : List PageCopy × State) p =>
      let s := q.2
      if s.shadowed key x.ctx (h.page p) then
        (q.1, { s with shadows := s.shadows.map fun z =>
            if z.node = key ∧ z.ctx = x.ctx ∧ z.page = h.page p then { z with owners := (z.owners.filter (· != i)) ++ [i] } else z })
      else if e.access = 0 then (q.1, { s with shadows := s.shadows ++ [(⟨key, x.ctx, h.page p, p.2, [i]⟩ : Shadow)] })
      else let r := s.newShadow key x.ctx i [e] (h.page p) p.2; (q.1 ++ [r.1], r.2)) ([], s.takeRef i h.id)

/-- A page of a written extent that is to be copied stands where HBM4 has no location (R331). -/
def State.noSource (s : State) (x : Inst) : Option Nat :=
  let ps := (x.exts.filter fun e => !e.lazy_ && e.access != 0 && e.share.isNone).flatMap fun e => (e.pages.filter fun p =>
    !(e.whole && decide (e.base ≤ p * pageBytes ∧ (p + 1) * pageBytes ≤ e.base + e.len)))
  ps.findSome? fun p => s.badPlace x.shadowNode x.ctx s.clock (p * pageBytes) pageBytes

/-- Deck n in the state of R29. -/
def startDeck (i n clock : Nat) (x : Inst) : Deck :=
  let pc : CodeAddr := BitVec.ofNat 14 (field x.words 4 0 14)
  { Deck.reset with
    inst := some i, halted := false, pcA := pc, pcE := pc, nextA := clock, nextE := clock,
    x := (List.range 4).foldl (fun m k => mset 0 m (k + 1) (x.args.getD k 0)) [],
    tvec := BitVec.ofNat 14 (field x.words 17 40 14), wid := x.wid, lfsr := lfsrSeed x.wid (n % 4),
    kern := some ⟨BitVec.ofNat 14 (field x.words 4 16 14), BitVec.ofNat 14 (field x.words 4 32 14), x.trip, 0⟩ }

/-- A gang finds its cores' semaphores, slot directory and Causeway blocks reset (R75, R169, R278). -/
def Core.gangDispatch (k : Core) : Core := { k.forgetAll with sems := (List.range 64).map fun n => (n, ⟨0, 1, 0, 0, 0, []⟩), sdcfg := 0, ways := [] }

/-- The instance starts on all its decks in this clock. -/
def State.startInst (s : State) (i : Nat) : State :=
  let x := s.getInst i
  let trip := match x.tripAddr with | some a => s.readCommitted x.ctx a 4 | none => field x.words 5 0 32
  let w := s.ctxWord x.ctx 3
  let x := { x with
    st := .running, trip := trip, dispatchedAt := s.clock, views := [], debug := bits w 63 1 == 1,
    invalUs := if bits w 32 16 = 0 then 100 else bits w 32 16, pool := bits w 0 32, squareAt := none, xfer := none, contribs := [], bound := [], sentParts := [], peerParts := [] }
  let s := s.setInst i x
  let s := x.coresOf.foldl (fun s c => s.modCore c fun k => (if x.kind = 0 then k else k.gangDispatch).phaseBoundary) s.forgetVersions
  x.decks.foldl (fun s n => (s.dropHeld n).setDeck n (startDeck i n s.clock x)) s

/-- Tram 1 of core c: an instance's copies enter it ahead of its queue, and leave it (R308, R318). -/
def State.enterTram (s : State) (c i : Nat) : State :=
  s.modCore c fun k => if (k.engine 1).ahead.contains i then k else k.setEngine 1 { k.engine 1 with ahead := (k.engine 1).ahead ++ [i] }
def State.leaveTram (s : State) (c i : Nat) : State :=
  s.modCore c fun k => if (k.engine 1).ahead.contains i then k.setEngine 1 { k.engine 1 with ahead := (k.engine 1).ahead.filter (· != i) } else k

/-- It is the turn of an instance's copies: they are the oldest in Tram 1, and the command under way has ended. -/
def State.tramTurn (s : State) (c i : Nat) : Bool := ((s.getCore c).engine 1).cur.isNone && ((s.getCore c).engine 1).ahead.head? == some i

/-- The pages that the extents of an instance write at its dispatch, own ones and those of shares, that have no shadow yet (R308). -/
def State.shadowNeed (s : State) (x : Inst) : Nat :=
  let writes := x.exts.filter fun e => !e.lazy_ && e.access != 0
  let own := s.unshadowed x.shadowNode x.ctx s.clock ((writes.filter (·.share.isNone)).flatMap Ext.pages)
  let shared := writes.flatMap fun e => match s.shareOf e with
    | some h => (h.pages.map h.page).filter fun p => !s.shadowed x.shadowNode x.ctx p
    | none => []
  own.length + shared.eraseDups.length

/-- The pages of an instance's extents that have no translation yet, and those of its trip-count word (R80, R308). -/
def State.lackedPages (s : State) (x : Inst) : List Nat :=
  let lacks := fun (p : Nat) => (s.resolvePage x.shadowNode x.ctx p s.clock).isNone
  let need := ((x.exts.filter fun e => !e.lazy_).flatMap Ext.pages).filter fun p =>
    lacks p && !(x.exts.any fun e => match s.shareOf e with | some h => h.pages.any fun q => h.page q == p | none => false)
  need ++ (match x.tripAddr with | some a => (pagesOf a 4).filter lacks | none => [])

/-- The extent work of an instance is done: 64 clocks later its prologue issues (R302). -/
def State.prepare (s : State) (i : Nat) : State := (s.modInst i fun x => { x with prepared := true }).post (s.clock + 64) (.dispatch i)

/-- Instances that keep the dispatch of instance i waiting: those of its node that are still copying, and those whose reserved tiles are being spilled for
it (R308, R317). -/
def State.copiesAhead (s : State) (i : Nat) (x : Inst) : Bool :=
  s.insts.any fun p => p.1 != i && (p.2.shadowNode == x.shadowNode && p.2.st == .preparing && !p.2.copies.isEmpty ||
    !p.2.spills.isEmpty && p.2.reserved.any (fun t => x.reserved.contains t) && p.2.coresOf.any fun c => x.coresOf.contains c)

/-- One step of the copies of a placed instance, which go through Tram 1 of the first core chosen for it: a page is copied in each step, after a free delay
(R308; NOTES.md, Assumption 9). It waits at the memory routers like any access to its blocks (R333, R335, R344, R447). -/
def State.copyStep (s : State) (i : Nat) : State :=
  let x := s.getInst i
  let c := x.decks.headD 0 / 4
  match x.copies with
  | [] => if s.copiesAhead i x then s.post (s.clock + 1) (.dispatch i) else s.prepare i
  | p :: rest =>
    if !s.tramTurn c i then s.post (s.clock + 1) (.dispatch i)
    else if s.mustQueue p.blocks then s.joinQueue p.blocks (.dispatch i)
    else
      let s := (s.copyPage i p).modInst i fun x => { x with copies := rest }
      if rest.isEmpty then (s.leaveTram c i).post (s.clock + 1) (.dispatch i)
      else let (t, s) := s.delay; s.post (s.clock + 1 + t) (.dispatch i)

/-- R302, R308: the extent work of a placed instance: its pages are translated, its shadow pages taken and copied; 64 clocks later its prologue issues
(NOTES.md, Assumption 14). -/
def execDispatch (inst : Nat) (s : State) : Out :=
  let x := s.getInst inst
  if x.st ≠ .preparing then .next s
  else if x.prepared then .next (match x.tripAddr with
    | some a => if s.reachable x.ctx a 4 then s.startInst inst else (s.askFor x.ctx a 4).waitFor x.ctx a 4 (.dispatch inst)
    | none => s.startInst inst)
  else if x.placed then .next (s.copyStep inst)
  else
    let x := { x with exts := s.extentsOf x }
    let s := s.setInst inst x
    let need := s.lackedPages x
    if !need.isEmpty then .next ((need.foldl (fun s p => s.askPage x.ctx p) s).post (s.clock + 1) (.dispatch inst))
    else if !s.poolReady x.ctx (s.poolSize x.ctx) (s.shadowNeed x) then .next ((s.askPool x.ctx (s.poolSize x.ctx) (s.shadowNeed x)).post (s.clock + 1) (.dispatch inst))
    else match s.noSource x with
      | some pa => .fault (.noSuchAddress pa)
      | none =>
        let (cs, s) := x.exts.foldl (fun (q : List PageCopy × State) e => let r := q.2.mapShare inst x e; (q.1 ++ r.1, r.2)) ([], s)
        let writes := x.exts.filter fun e => !e.lazy_ && e.access != 0 && e.share.isNone
        let (cs, s) := writes.foldl (fun (q : List PageCopy × State) e =>
          let r := q.2.makeShadows x.shadowNode x.ctx s.clock inst x.exts e.pages; (q.1 ++ r.1, r.2)) (cs, s)
        let s := (cs.filter (·.free)).foldl (fun s c => s.copyPage inst c) s
        let cs := cs.filter fun c => !c.free
        let s := s.modInst inst fun x => { x with placed := true, copies := cs }
        if cs.isEmpty then .next (s.copyStep inst)
        else
          let (t, s) := (s.enterTram (x.decks.headD 0 / 4) inst).delay
          .next (s.post (s.clock + 1 + t) (.dispatch inst))

/-! ### Save slots and entries of spawn sets in memory (R296, R305, R306, R313) -/

/-- Byte `off` of slot n of a context's save area (NOTES.md, Assumption 82): the context image of the instance's j-th deck stands at 2^23 × j, spilled rows
from 2^32 on, spawn sets that the Mews agent stages from 3 × 2^32 on. -/
def State.saveAddr (s : State) (ctx n off : Nat) : Nat := (s.ctxWord ctx 1 + 2 ^ 34 * n + off) % 2 ^ 57
def setOffset : Nat := 3 * 2 ^ 32
def spillOffset : Nat := 2 ^ 32

/-- The slot of an instance: the one it has, else the lowest that no instance of its context has. -/
def State.slotFor (s : State) (x : Inst) : Nat :=
  match x.slot with
  | some n => n
  | none => ((List.range (s.insts.length + 1)).find? fun n => !s.insts.any fun p => p.2.ctx == x.ctx && p.2.slot == some n).getD 0

/-- The four words of a spawn set's 32-byte entry (NOTES.md, Assumption 84): base; patch value; priority, patch index and enable, generation; set number. -/
def SpawnSet.entry (q : SpawnSet) : Nat :=
  packBytes 8 [q.base.toNat, (match q.patch with | some p => p.2.toNat | none => 0),
    q.prio % 4 + (match q.patch with | some p => p.1 % 4 * 4 + 16 | none => 0) + q.gen % 4096 * 2 ^ 16, q.id]

/-- A set as its entry has it. -/
def SpawnSet.ofEntry (q : SpawnSet) (w : Nat) : SpawnSet :=
  let f := getAt w 16 8
  { q with base := BitVec.ofNat 64 (getAt w 0 8), prio := bits f 0 2, gen := bits f 16 12,
           patch := if bits f 4 1 = 1 then some (bits f 2 2, BitVec.ofNat 64 (getAt w 8 8)) else none }

/-- The entry of a set that the Mews agent staged with instance i (R306). -/
def State.stagedAddr (s : State) (i : Nat) (q : SpawnSet) : Nat := s.saveAddr q.ctx (s.slotFor (s.getInst i)) (setOffset + 32 * q.slot)

/-- A staged set as it sets out. -/
def State.unstage (s : State) (i : Nat) (q : SpawnSet) : SpawnSet := if q.mews then q.ofEntry (s.readCommitted q.ctx (s.stagedAddr i q) 32) else q

/-! ### Ends of instances and nodes (R30, R31, R309, R312, R430) -/

/-- A node as the model keys it in NODE_COMPLETE: its reference, or 2^32 + the number of a spawn set (as `Inst.shadowNode`). -/
def State.nodeInsts (s : State) (key : Nat) : List (Nat × Inst) := s.insts.filter fun p => p.2.shadowNode == key && p.2.st != .ended

/-- The reservation of an instance is released as `trel` releases tiles (R196, R312). -/
def State.releaseReservation (s : State) (x : Inst) : State :=
  if x.reserved.isEmpty then s
  else x.coresOf.foldl (fun s c => s.modCore c fun k => { k with tileReqs := k.tileReqs ++ x.reserved.map fun t => (t, s.clock + 1, .rel) }) s

/-- The instance leaves its decks, which are free from now on. -/
def State.leaveDecks (s : State) (i : Nat) : State :=
  (s.getInst i).decks.foldl (fun s n => if (s.getDeck n).inst = some i then ((s.modDeck n fun d => { d with inst := none }).dropFetches n).dropHeld n else s) s

/-- A gang's open transfer phase and what is under way in it end with the instance. -/
def State.closeTransfer (s : State) (i : Nat) : State :=
  let x := s.getInst i
  if x.xfer.isNone then s
  else
    let ids := (s.xrows.filter fun r => r.inst = i).map (·.xid)
    let s := x.coresOf.foldl (fun s c => s.modCore c fun k => { k with sched := [] }) s
    { s.modInst i (fun x => { x with xfer := none }) with
      xrows := s.xrows.filter (fun r => r.inst != i), flits := s.flits.filter fun f => !ids.contains f.xid }

/-- The engine commands of an instance on a core end: those queued are removed, the current one stops (R312). -/
def State.endCommands (s : State) (c i : Nat) : State :=
  (List.range 3).foldl (fun s e =>
    let mine := fun (m : Cmd) => m.inst == some i
    let gone := (((s.getCore c).engine e).queue.filter mine).filterMap fun m => m.way.map (·.1)
    let s := s.modCore c fun k =>
      { k.setEngine e ((k.engine e).dropCmds mine s.clock) with ways := k.ways.filter fun w => !gone.contains w.1 }
    match ((s.getCore c).engine e).cur with
    | some r => if mine r.cmd then s.endCommand c e else s
    | none => s) s

/-- Page requests that instance i has made are abandoned (R451); whoever else still waits for the page asks again. -/
def State.abandonPages (s : State) (i : Nat) : State :=
  let gone := s.pageReq.filter fun p => p.2.2 == some i
  let s := { s with pageReq := s.pageReq.filter fun p => p.2.2 != some i }
  gone.foldl (fun s p =>
    let waits := s.extWait.any (fun w => w.ctx == p.1 && (s.getDeck w.deck).inst != some i && (pagesOf w.va 64).any fun q => plainPage q == p.2.1) ||
      s.cores.any fun c => (List.range 3).any fun e => match (c.2.engine e).cur with
        | some r => r.cmd.inst != some i && (s.cmdInst r.cmd).ctx == p.1 && r.page.any fun q => plainPage q.1 == p.2.1
        | none => false
    if waits then s.askPage p.1 p.2.1 else s) s

/-- A place is where new translations of some page of the context lead: its last commit put it there, or it has none and is translated so. -/
def State.committed (s : State) (ctx place : Nat) : Bool :=
  let last := fun (p : Nat) => (s.remap.filter fun r => r.ctx == ctx && r.page == p).getLast?
  s.remap.any (fun r => r.ctx == ctx && r.place == place && (last r.page).any fun q => q.place == place) ||
    s.trans.any fun t => t.ctx == ctx && !t.host && t.till.isNone && hbmBase t.base == place && (last t.page).isNone

/-- Shadows that stand no more give their pages back to the pool, but for those that map a page of a share, or one that is still the context's own page,
as a reader of a share may (R309, R310, R312). -/
def State.freeShadows (s : State) (hs : List Shadow) : State :=
  hs.foldl (fun s h => if s.shares.any (fun q => q.pages.any fun p => p.2 == h.place) || s.committed h.ctx h.place then s else s.givePage h.ctx h.place) s

/-- Shadow pages that only instance i maps go back to the pool, and its staged sets, tokens, references and copies go (R312, R430). -/
def State.dropStaged (s : State) (i : Nat) : State :=
  let x := s.getInst i
  let shadows := s.shadows.map fun (h : Shadow) => { h with owners := h.owners.filter (· != i) }
  let gone := shadows.filter fun h => h.owners.isEmpty
  let s := ({ s with shadows := shadows.filter fun h => !h.owners.isEmpty }).freeShadows gone
  let s := { s with shares := s.shares.filter fun h => h.formed || !x.shares.any fun q => q.1 == h.id,
                    micro := s.micro.filter fun m => match m.act with | .copyOut j _ _ => j != i | .copyIn j _ _ => j != i | _ => true }
  -- another instance of the node that maps a page still to be copied finds it copied
  let s := x.copies.foldl (fun s c => match s.shadows.find? fun h => h.place == c.dst with | some h => s.copyPage (h.owners.headD i) c | none => s) s
  let s := (x.decks.map (· / 4)).eraseDups.foldl (fun s c => s.leaveTram c i) (s.dropRefs i)
  s.modInst i fun x => { x with staged := [], shares := [], exts := [], saved := [], spills := [], spilled := [], copies := [], slot := none, budget := none }

/-- The instance is stopped where it stands and everything it holds is reclaimed (R312, R430). -/
def State.killInst (s : State) (i : Nat) (st : InstSt) : State :=
  let x := s.getInst i
  let s := x.decks.foldl (fun s n =>
    if (s.getDeck n).inst = some i then
      let s := ((s.dropFaults n i).stopDeck n).dropFetches n
      { s with remotes := s.remotes.filter fun r => r.deck != n }
    else s) s
  let s := x.coresOf.foldl (fun s c => s.endCommands c i) s
  let s := (((((s.closeTransfer i).abandonPages i).dropStaged i).releaseReservation x).leaveDecks i).forgetAcks i
  let s := { s with invals := s.invals.map fun (v : Inval) => { v with waiting := v.waiting.filter fun w => w.1 != i } }
  (s.modInst i fun x => { x with st := st, holds := [], preemptFor := none, doomed := false, due := false }).askSelections

/-- Every deck has halted: the instance retires, its reservation is released if its node says so, and its decks are free (R30). An instance
that is to stop stops here (R24, R312); a doomed one is rolled back (R432). -/
def State.retireInst (s : State) (i : Nat) : State :=
  let x := s.getInst i
  if x.doomed then s
  else if x.stopAt.isSome then s.postNext [.cancelForcedStop i]
  else
    let s := s.closeTransfer i
    let s := if field x.words 0 57 1 = 1 then s.releaseReservation x else s
    ((s.leaveDecks i).modInst i fun x => { x with st := .retired, preemptFor := none }).askSelections

/-- Everything issued on behalf of a retired instance has drained (R31, R440). -/
def State.instDrained (s : State) (p : Nat × Inst) : Bool :=
  p.2.coresOf.all (fun c => (s.getCore c).cmds.all (fun m => m.inst != some p.1) && (s.getCore c).replays.all fun r => r.g.inst != some p.1) &&
    !(s.signals.any fun g => g.inst == p.1) &&
    !(s.micro.any fun m => match m.act with | .mmaRead g => g.inst == some p.1 | .mmaRow g .. => g.inst == some p.1 | _ => false)

/-- A node all of whose instances have retired and drained commits; one with a stopped instance and none live ends as cancelled. -/
def State.nodeCommits (s : State) (key : Nat) : Bool :=
  let is := s.nodeInsts key
  !is.isEmpty && is.all fun p => p.2.st == .retired && !p.2.doomed && s.instDrained p
def State.nodeCancels (s : State) (key : Nat) : Bool :=
  let is := s.nodeInsts key
  is.any (fun p => p.2.st == .cancelled) && is.all fun p => !p.2.live

/-- The pages an extent maps once its node has committed (R310): by page number of the context, and its place. -/
def State.sharedPages (s : State) (x : Inst) (e : Ext) : List (Nat × Nat) :=
  e.pages.filterMap fun p => (s.resolvePage x.shadowNode x.ctx p s.clock).map fun b => (plainPage p, b)

/-- Queue q of a context as the model keys it, and where its descriptor lies (R305). -/
def queueKey (ctx q : Nat) : Nat := ctx * 2 ^ 20 + q
def State.queueAddr (s : State) (ctx q : Nat) : Nat := (s.ctxWord ctx 0 + 32 * q) % 2 ^ 57
def SpawnSet.key (q : SpawnSet) : Nat := queueKey q.ctx q.queue

/-- The host completion of a node that runs code: address and value (R292, R312). -/
def hostCompletion (ws : List Word) (cancelled : Bool) : Option (Nat × Word) :=
  if field ws 20 0 57 = 0 then none else some (field ws 20 0 57, (ws.getD 21 0) ^^^ (if cancelled then 1 <<< 63 else 0))

/-- A set that has been committed and is cancelled before its instances are listed is a cancelled node: its host completion is to be written (R312). -/
def State.cancelSet (s : State) (q : SpawnSet) : State :=
  let r := bits (s.readCommitted q.ctx (s.queueAddr q.ctx q.queue) 8) 0 32
  let ws := s.nodeWords r
  match (if refValid r && isCode ws then hostCompletion ws true else none) with
  | some h => { s with hostWrites := s.hostWrites ++ [(q.ctx, h.1, h.2)] }
  | none => s

/-- The commit of a node (R309, R310): shares are formed, shadow pages take the place of the old ones, which go back to the pool; staged sets set out, but
for those of a group that is being cancelled (R312). -/
def State.commitNode (s : State) (key : Nat) (is : List (Nat × Inst)) : State :=
  let s := is.foldl (fun s p => p.2.shares.foldl (fun s q =>
    match p.2.ext q.2 with
    | none => s
    | some e => { s with shares := s.shares.map fun h => if h.id = q.1 then { h with pages := s.sharedPages p.2 e, formed := true } else h }) s) s
  let mine := s.shadows.filter fun h => h.node == key
  let plain := mine.filter fun h => decide (h.page < 2 ^ 41)
  let old := plain.filterMap fun (h : Shadow) => (s.resolvePage (2 ^ 40) h.ctx h.page s.clock).map fun b => (h.ctx, b)
  let s := { s with
    remap := s.remap ++ plain.map (fun (h : Shadow) => (⟨h.ctx, h.page, h.place, s.clock⟩ : Remap)), shadows := s.shadows.filter fun h => h.node != key }
  let s := old.foldl (fun (s : State) (p : Nat × Nat) => s.givePage p.1 p.2) s
  let s := (is.foldl (fun (s : State) (p : Nat × Inst) => s.dropRefs p.1) s).freeShadows (mine.filter fun h => decide (2 ^ 41 ≤ h.page))
  let all := is.flatMap fun p => p.2.staged.map fun q => (p.2.die, s.unstage p.1 q)
  let gone := fun (q : Nat × SpawnSet) => s.cancels.any fun c => q.2.groups.contains c.1
  let sets := all.filter fun q => !gone q
  let s := (all.filter gone).foldl (fun s q => s.cancelSet q.2) s
  let order := sets.foldl (fun acc q =>
    let rec ins : List (Nat × SpawnSet) → List (Nat × SpawnSet)
      | [] => [q]
      | r :: rs => if q.2.at_ < r.2.at_ then q :: r :: rs else r :: ins rs
    ins acc) []
  order.foldl (fun s q =>
    ({ s with flying := s.flying ++ [{ q.2 with ready := s.clock }] }).message q.1 (q.2.queue % 12) farOff (.spawnSetArrival q.2.id)) s

/-- The instances of a node are done with. -/
def State.endInsts (s : State) (is : List (Nat × Inst)) : State :=
  is.foldl (fun s p => s.modInst p.1 fun x => { x with st := .ended, staged := [], shares := [], exts := [], slot := none }) s

/-- The entry of a set that the Mews agent has staged for one of these instances and that cannot be read now: context and address. -/
def State.lateEntry (s : State) (is : List (Nat × Inst)) : Option (Nat × Nat) :=
  is.findSome? fun p => (p.2.staged.filter (·.mews)).findSome? fun q =>
    if s.reachable q.ctx (s.stagedAddr p.1 q) 32 then none else some (q.ctx, s.stagedAddr p.1 q)

/-- R31, R309, R312: the commit of a node, or its end as a cancelled node, with the host completion and, for a node of a launch, its state and
its tokens. -/
def execNodeComplete (node : Nat) (s : State) : Out :=
  let commits := s.nodeCommits node
  let is := s.nodeInsts node
  if !commits && !s.nodeCancels node then .next s
  else match is.head? with
    | none => .next s
    | some (_, x) =>
      let hc := hostCompletion x.words (!commits)
      match (if commits then s.lateEntry is else none) with
      | some a => .next ((s.askFor a.1 a.2 32).waitFor a.1 a.2 32 (.nodeComplete node))
      | none =>
      if hc.any fun h => !s.reachable x.ctx h.1 8 then
        .next ((s.askFor x.ctx (hc.getD (0, 0)).1 8).waitFor x.ctx (hc.getD (0, 0)).1 8 (.nodeComplete node))
      else match hc.bind fun h => s.badPlace (2 ^ 40) x.ctx s.clock h.1 8 with
        | some pa => .fault (.noSuchAddress pa)
        | none =>
          let s := if commits then s.commitNode node is else is.foldl (fun s p => if p.2.st = .retired then s.killInst p.1 .cancelled else s) s
          let s := match hc with
            | some h => s.writeVA (2 ^ 40) x.ctx s.clock h.1 8 h.2.toNat
            | none => s
          let s := s.endInsts is
          if x.spawnSet.isSome then .next s
          else .next ((((s.setNodeState node (if commits then 2 else 3))).sendTokens node false).nodeFinished node)

/-- Every deck of an instance stands at the same kernel-iteration boundary, none in supervisor mode; a halted deck stands at all (R24). -/
def State.atBoundary (s : State) (i : Nat) : Bool :=
  let ds := ((s.getInst i).decks.map s.getDeck).filter fun d => d.inst == some i && !d.halted
  ds.all fun d => d.boundary && !d.sup && d.trapWait.isNone && !d.hold && ds.all fun e => d.iters == e.iters

/-- An instance that has been asked to stop stops now: at a boundary, or at its bound (R312). -/
def State.stopDue (s : State) (i : Nat) : Bool :=
  let x := s.getInst i
  match x.stopAt with
  | none => false
  | some t => x.live && (decide (t ≤ s.clock) || x.st != .running || s.atBoundary i)

def execCancelForcedStop (inst : Nat) (s : State) : Out :=
  .next (if s.stopDue inst then (s.killInst inst .cancelled).postNext [.nodeComplete (s.getInst inst).shadowNode] else s)

/-- R398: the timer of some deck has reached twice `iter_max`; the instance ends as one that reaches no boundary. -/
def execIterOverrunEnd (inst : Nat) (s : State) : Out :=
  let x := s.getInst inst
  .next (if x.st = .running ∧ x.decks.any fun n => (s.getDeck n).inst == some inst && !(s.getDeck n).halted &&
        decide (2 * x.iterMax * Config.clocksPerUs ≤ (s.getDeck n).timer) then
      ((s.endNode inst).killInst inst .cancelled).postNext [.nodeComplete x.shadowNode]
    else s)

/-- R430, R433, R451, R459: the instance goes back to its ready list; at its fourth rollback in one launch, after a cancellation, or with a fault no deck has
taken, its node ends as cancelled instead. -/
def State.rollBack (s : State) (inst : Nat) : State :=
  let x := s.getInst inst
  if x.st = .ended ∨ x.st = .cancelled ∨ x.st = .ready then s
  else
    let s := s.killInst inst .cancelled
    let y := s.getInst inst
    if y.stopAt.isSome then s.postNext [.nodeComplete x.shadowNode]
      else if 3 ≤ x.rollbacks then
        let n := x.decks.headD 0
        ((s.logError 0x11 (n / 4) n x.node x.wid).endNode inst).postNext [.nodeComplete x.shadowNode]
      else ((match x.graph with | some g => s.modLaunch g fun l => { l with rolls := l.rolls ++ [(x.node, x.wid)] } | none => s).setInst inst { y with
        st := .ready, rollbacks := x.rollbacks + 1, level := x.prio, readyAt := s.clock, waitFrom := s.clock, decks := [], placed := false, prepared := false }).askSelection x.die
def execRollback (inst : Nat) (s : State) : Out := .next (s.rollBack inst)

/-! ### Spawn sets and queues (R174-R177, R305, R306, R450) -/

/-- The queue is live and has the expected generation (R306). -/
def State.queueLive (s : State) (ctx q gen : Nat) : Bool :=
  let w := s.readCommitted ctx (s.queueAddr ctx q) 8
  bits w 44 1 == 1 && bits w 32 12 == gen

/-- Sets staged in the buffer of a die. -/
def State.stagedOn (s : State) (die : Nat) : Nat := (s.insts.flatMap fun p => p.2.staged.filter fun q => q.die == die && !q.mews).length

/-- A status word or token enters rq5 after a free delay, its entry reserved now (R175). -/
def State.pushStatus (s : State) (h : Hd) (w : Word) : State :=
  let id := s.seq
  let s := { s.modDk (fun d => { d with rq := mset [] d.rq 5 (mget [] d.rq 5 ++ [⟨id, 0, tagI32, false, false⟩]) }) with seq := s.seq + 1 }
  let (t, s) := s.delay
  s.access (s.clock + 1 + t) s.cn s.dn (isEx h) 0 (.status 5 id (wordEntry w))

/-- R174, R306, R405: one spawn set is staged with the issuing instance, or none for a dead queue. It waits for the page of its queue's descriptor
(NOTES.md, Assumption 13). -/
def execSpawn (h : Hd) (b : XRR) (s : State) : Out :=
  let m := b.m.toNat
  .next (s.scalar h [b.xa, b.xb, b.xd] fun s =>
    let d := (s.x b.xa).toNat
    let ctx := s.inst.ctx
    let q := bits d 44 20
    let a := s.queueAddr ctx q
    if !s.reachable ctx a 32 then (s.askFor ctx a 32).stalled
    else s.operands h (bits m 13 2) [] (some 5) (fun _ _ => none) fun s _ =>
      let live := bits d 13 19 == 0 && s.queueLive ctx q (bits d 32 12)
      let mews := live && decide (Config.stagingSets ≤ s.stagedOn (s.cn / 8))
      let status := if !live then 2 else if mews then 1 else 0
      let sub := if bits d 0 13 = 0 then [] else [groupKey ctx (bits d 0 13)]
      let tmpl := bits (s.readCommitted ctx a 8) 0 32
      let k := (s.inst.staged.filter (·.mews)).length
      let set : SpawnSet := ⟨s.nextSet, q, bits d 32 12, s.x b.xb, if bits m 10 1 = 1 then some (bits m 8 2, s.x b.xd) else none, bits m 11 2,
        ((s.groupsOf tmpl) ++ s.inst.groups ++ sub).eraseDups, ctx, s.cn / 8, mews, s.seq, 0, k⟩
      match s.dk.inst with
      | some i =>
        let n := s.slotFor s.inst
        let va := s.saveAddr ctx n (setOffset + 32 * k)
        if mews && !s.reachable ctx va 32 then (s.askFor ctx va 32).stalled
        else
          let s := if mews then (s.modInst i fun x => { x with slot := some n }).writeVA (2 ^ 40) ctx s.clock va 32 set.entry else s
          let s := if live then { s.modInst i (fun x => { x with staged := x.staged ++ [set] }) with nextSet := s.nextSet + 1 } else s
          s.pushStatus h (BitVec.ofNat 64 (d / 2 ^ 32 * 2 ^ 32 + 2 ^ 31 + status))
      | none => s)

/-- R177, R310, R405: a share of the extent's pages is reserved and its token pushed. -/
def execXfork (h : Hd) (b : XRR) (s : State) : Out :=
  .next (s.scalar h [b.xa] fun s =>
    let e := bits (s.x b.xa).toNat 0 4
    s.operands h (bits b.m.toNat 13 2) [] (some 5) (fun _ _ => none) fun s _ => match s.inst.ext e with
    | none => s.raise h 0x0B 0 0
    | some x =>
      let id := 2 ^ 31 + s.nextShare % 2 ^ 31
      let s := { s with nextShare := s.nextShare + 1, shares := s.shares ++ [(⟨id, s.inst.ctx, x.base, x.len, [], 0, false⟩ : Share)] }
      let s := match s.dk.inst with
        | some i => s.modInst i fun y => { y with shares := y.shares ++ [(id, e)] }
        | none => s
      s.pushStatus h (BitVec.ofNat 64 (id * 2 ^ 32 + 3 * 2 ^ 30 + e)))

/-- R176, R311: the message reaches every Roundabout within 2 µs. Group 0 names the innermost group of the issuing instance. -/
def execCancel (h : Hd) (b : XRR) (s : State) : Out :=
  .next (s.scalar h [b.xa] fun s =>
    let g := bits (s.x b.xa).toNat 0 13
    match (if g = 0 then s.inst.groups.getLast? else some (groupKey s.inst.ctx g)) with
    | none => s
    | some g => (List.range Config.numDies).foldl (fun s d => s.message (s.cn / 8) d 5000 (.cancelMessage d g))
        { s with cancels := s.cancels ++ [(g, List.range Config.numDies)] })

/-- The instances of a set enter the ready lists of its queue's home (R306); a template reference that names nothing brings none (R290). -/
def State.listSet (s : State) (q : SpawnSet) (readyAt : Nat) : State :=
  let r := bits (s.readCommitted q.ctx (s.queueAddr q.ctx q.queue) 8) 0 32
  if !refValid r then s else
  s.listInsts { graph := (s.launchOf r).map (·.graph), node := r, die := q.queue % 12, ctx := q.ctx, base := q.base, prio := q.prio,
                groups := q.groups, patch := q.patch, set := some (q.id, q.key), readyAt := readyAt }

/-- The ring of a set's queue has room for one more entry (R305). -/
def State.ringRoom (s : State) (die : Nat) (q : SpawnSet) : Bool :=
  let cap := bits (s.readCommitted q.ctx (s.queueAddr q.ctx q.queue + 16) 8) 0 32
  decide (((s.getDie die).rings.filter fun r => r.key == q.key).length < cap)

/-- Entry k of the ring of queue `key`, whose descriptor stands at a (R305). -/
def State.ringAddr (s : State) (ctx a k : Nat) : Nat :=
  (s.readCommitted ctx (a + 8) 8 + 32 * (k % max 1 (bits (s.readCommitted ctx (a + 16) 8) 0 32))) % 2 ^ 57

/-- The entry that the next set of a queue takes in its ring. -/
def State.nextRing (s : State) (die : Nat) (q : SpawnSet) : Nat :=
  s.ringAddr q.ctx (s.queueAddr q.ctx q.queue) (mget 0 (s.getDie die).tails q.key)

/-- The Mews agent appends a set to the ring of its queue, which has room (R305). A set whose entry has no translation yet is held like one that finds its
ring full, and so is one behind a held set of its queue (R306). -/
def State.appendRing (s : State) (die : Nat) (q : SpawnSet) (ahead : List SpawnSet) : Option State :=
  let va := s.nextRing die q
  if s.ringRoom die q && s.reachable q.ctx va 32 && !ahead.any fun h => h.key == q.key then
    let k := mget 0 (s.getDie die).tails q.key
    some ((s.writeVA (2 ^ 40) q.ctx s.clock va 32 q.entry).modDie die fun d =>
      { d with rings := d.rings ++ [{ q with slot := k }], tails := mset 0 d.tails q.key (k + 1) })
  else none

/-- Sets of a queue that came before wait in its ring, or are held for it. -/
def Die.waitsBefore (d : Die) (key : Nat) : Bool := d.rings.any (fun r => r.key == key) || d.heldSets.any fun r => r.key == key

/-- R306, R450: a dead set is discarded with log 0x10; the others enter the ready lists, or the ring of a queue that is not resident, or that older sets of
their queue still wait in. Sets of a context arrive in the order of their commits and spawns. -/
def execSpawnSetArrival (set : Nat) (s : State) : Out :=
  let s := s.acknowledge (.spawnSetArrival set)
  .next (match s.flying.find? fun q => q.id == set with
    | none => s
    | some q =>
      let a := s.queueAddr q.ctx q.queue
      let die := q.queue % 12
      if (s.flying.find? fun h => h.ctx == q.ctx) != some q then s.post (s.clock + 1) (.spawnSetArrival set)
      else if !s.reachable q.ctx a 32 then (s.askFor q.ctx a 32).waitFor q.ctx a 32 (.spawnSetArrival set)
      else
        let s := { s with flying := s.flying.erase q }
        if !s.queueLive q.ctx q.queue q.gen then
          { s with log := s.log ++ [(⟨0x10, die, 0x7F, 0, 0, (s.clock - s.readyClock) / Config.tickClocks, BitVec.ofNat 64 (q.queue * 4096 + q.gen)⟩ : LogEntry)],
                   logCount := s.logCount + 1 }
        else if (s.getDie die).resident.contains q.key && !(s.getDie die).waitsBefore q.key then s.listSet q q.ready
        else match s.appendRing die q (s.getDie die).heldSets with
          | some t => t
          | none => (s.askFor q.ctx (s.nextRing die q) 32).modDie die fun d => { d with heldSets := d.heldSets ++ [q] })

/-- R306: the held sets of a die are tried again, in order. -/
def execMewsRingRetry (die : Nat) (s : State) : Out :=
  .next ((s.getDie die).heldSets.foldl (fun (p : State × List SpawnSet) q =>
    match p.1.appendRing die q p.2 with
    | some t => (t.modDie die fun d => { d with heldSets := d.heldSets.erase q }, p.2)
    | none => (p.1.askFor q.ctx (p.1.nextRing die q) 32, p.2 ++ [q])) (s, [])).1

/-- A resident slot of the die is free, or can be freed: DEDUCED, one whose queue has no listed instance and no set that waits, which R305 does not say
(NOTES.md, Assumption 15). -/
def State.residentSlot (s : State) (die : Nat) : Option (List Nat) :=
  let d := s.getDie die
  if d.resident.length < 4096 then some d.resident
  else (d.resident.find? fun k => !(s.insts.any fun p => p.2.queue == some k && p.2.waits) && !d.waitsBefore k).map d.resident.erase

/-- The set whose ring is drained next, and the queues that are resident from then on: the ring of a queue that is resident already, else that of the oldest
ring entry, which takes a free slot. -/
def State.drainNext (s : State) (die : Nat) : Option (SpawnSet × List Nat) :=
  let d := s.getDie die
  match d.rings.find? fun r => d.resident.contains r.key with
  | some q => some (q, d.resident)
  | none => match d.rings, s.residentSlot die with
    | q :: _, some res => some (q, res ++ [q.key])
    | _, _ => none
def State.mayDrain (s : State) (die : Nat) : Bool := (s.drainNext die).isSome

/-- R306: the queue of the oldest ring entry becomes resident, and the entries of its ring are drained into the ready lists in order. They wait for the
pages of the descriptor and of the ring. -/
def execQueueRingDrain (die : Nat) (s : State) : Out :=
  let d := s.getDie die
  .next (match s.drainNext die with
    | some (q, res) =>
      let sets := d.rings.filter fun r => r.key == q.key
      let a := s.queueAddr q.ctx q.queue
      let at_ := fun (r : SpawnSet) => s.ringAddr r.ctx a r.slot
      if !s.reachable q.ctx a 32 then s.askFor q.ctx a 32
      else if sets.any fun r => !s.reachable r.ctx (at_ r) 32 then sets.foldl (fun (s : State) r => s.askFor r.ctx (at_ r) 32) s
      else
      let sets := sets.map fun r => r.ofEntry (s.readCommitted r.ctx (at_ r) 32)
      let s := s.setDie die { d with resident := res, rings := d.rings.filter fun r => r.key != q.key }
      sets.foldl (fun s r => s.listSet r s.clock) s
    | none => s)

/-! ### Cancellation (R311, R399, R451) -/

/-- One instance of a cancelled group: listed work goes, a running instance is asked to stop at its next boundary. -/
def State.cancelOne (s : State) (i : Nat) : State :=
  let x := s.getInst i
  match x.st with
  | .ready | .preempted | .preparing | .saving | .retired => (s.modInst i fun x => { x with stopAt := some s.clock }).killInst i .cancelled
  | .running =>
    if x.stopAt.isSome then s
    else
      let s := s.setInst i { x with stopAt := some (s.clock + x.iterMax * Config.clocksPerUs), preemptFor := none }
      x.decks.foldl (fun s n => if (s.getDeck n).halted then s else s.modDeck n fun d => { d with pend21 := 2 }) (s.abandonPages i)
  | .cancelled | .ended => s

/-- The completions of cancelled nodes whose pages are there are written; the other pages are asked for (R312). -/
def State.writeCompletions (s : State) : State :=
  s.hostWrites.foldl (fun s w =>
    if s.reachable w.1 w.2.1 8 then { s.writeVA (2 ^ 40) w.1 s.clock w.2.1 8 w.2.2.toNat with hostWrites := s.hostWrites.erase w } else s.askFor w.1 w.2.1 8) s

/-- A waiting member node ends as a cancelled node (R311, R312). -/
def State.cancelWaiting (s : State) (r : Nat) : State :=
  let ws := s.nodeWords r
  let s := match (if isCode ws then hostCompletion ws true else none) with
    | some h => { s with hostWrites := s.hostWrites ++ [(s.nodeCtx r, h.1, h.2)] }.writeCompletions
    | none => s
  ((s.setNodeState r 3).sendTokens r false).nodeFinished r

/-- The message of a cancellation has reached a die: the oldest cancellation of the group that waits for it there (R311). -/
def reached (group die : Nat) : List (Nat × List Nat) → List (Nat × List Nat)
  | [] => []
  | c :: cs => if c.1 = group ∧ c.2.contains die then (if c.2.length = 1 then cs else (group, c.2.filter (· != die)) :: cs) else c :: reached group die cs

/-- R311: what one Roundabout does with a cancellation. A node that commits in this clock completes normally, and its spawn sets are cancelled (R312): sets
of the group are dropped wherever they stand or travel, as cancelled nodes, and those of a node that commits before its own die is reached never set out
(`State.commitNode`). -/
def execCancelMessage (die group : Nat) (s : State) : Out :=
  let s := s.acknowledge (.cancelMessage die group)
  let s := { s with cancels := reached group die s.cancels }
  let mine := (s.insts.filter fun p => p.2.die == die && p.2.groups.contains group && p.2.st != .ended).filter fun p => !s.nodeCommits p.2.shadowNode
  let keys := (mine.map fun p => p.2.shadowNode).eraseDups
  let s := mine.foldl (fun s p => s.cancelOne p.1) s
  let waiting := s.launches.flatMap fun l => l.nodes.filter fun r =>
    refDie r == die && (s.groupsOf r).contains group && s.nodeState r == 0 && !isTemplate (s.recordWords (some l) r)
  let s := waiting.foldl (fun s r => s.cancelWaiting r) s
  let keep := fun (q : SpawnSet) => !q.groups.contains group
  let sets := (s.getDie die).rings ++ (s.getDie die).heldSets ++ s.flying ++
    (s.insts.filter fun p => p.2.die == die && p.2.st == .retired).flatMap fun p => p.2.staged
  let s := sets.foldl (fun s q => if keep q then s else s.cancelSet q) s
  let s := s.modDie die fun d => { d with rings := d.rings.filter keep, heldSets := d.heldSets.filter keep }
  let s := { s with
    flying := s.flying.filter keep,
    insts := (s.mapInsts fun _ x => if x.die = die then { x with staged := x.staged.filter keep } else x).insts }
  .next (s.postNext ((keys.filter s.nodeCancels).map Instr.nodeComplete))

end Sys2Proof.Machine
end

