-- ==== Sys2Proof/Machine/Preempt.lean ====
section
/-! DEFINITION. Pre-emption: the save at a boundary, the resumption, and the spill of reserved rows (spec 02 R43, spec 13 R313-R318, R460). -/
namespace Sys2Proof.Machine

/-! ### Ranges of committed memory -/

/-- The pages of n bytes from va. -/
def rangePages (va n : Nat) : List Nat :=
  if n = 0 then [] else (List.range ((va + n - 1) / pageBytes + 1 - va / pageBytes)).map (va / pageBytes + ·)

/-- The blocks of HBM4 in the pages of a range. -/
def State.rangeBlocks (s : State) (ctx va n : Nat) : List Nat :=
  (rangePages va n).flatMap fun p => match s.resolvePage (2 ^ 40) ctx p s.clock with | some b => pageBlocks b | none => []

/-- Every page of a range is translated and its blocks can be served; pages that are not translated are asked for. -/
def State.rangeReady (s : State) (ctx va n : Nat) : Bool :=
  ((rangePages va n).all fun p => (s.resolvePage (2 ^ 40) ctx p s.clock).isSome) && !s.mustQueue (s.rangeBlocks ctx va n)
def State.askRange (s : State) (ctx va n : Nat) : State :=
  ((rangePages va n).filter fun p => (s.resolvePage (2 ^ 40) ctx p s.clock).isNone).foldl (fun s p => s.askPage ctx p) s

/-- Ranges that are not ready are asked for, and event ev comes about when they are served, or are to be tried again (R335). -/
def State.awaitRanges (s : State) (ctx : Nat) (rs : List (Nat × Nat)) (ev : Instr) : State :=
  let s := rs.foldl (fun (s : State) r => s.askRange ctx r.1 r.2) s
  let bs := rs.flatMap fun r => s.rangeBlocks ctx r.1 r.2
  if rs.all (fun r => (rangePages r.1 r.2).all fun p => (s.resolvePage (2 ^ 40) ctx p s.clock).isSome) then s.joinQueue bs ev else s.post (s.clock + 1) ev

/-- A page of the range lies where HBM4 has no location (R331). -/
def State.rangeBad (s : State) (ctx va n : Nat) : Option Nat :=
  (rangePages va n).findSome? fun p => (s.resolvePage (2 ^ 40) ctx p s.clock).bind fun b => noSuchPlace (b + pageBytes - 1)

/-- A range is written, or read, 512 bytes at a time. -/
def State.writeRange (s : State) (ctx va n w : Nat) : State :=
  (List.range ((n + 511) / 512)).foldl (fun s k => s.writeVA (2 ^ 40) ctx s.clock (va + 512 * k) (min 512 (n - 512 * k)) (getAt w (512 * k) 512)) s
def State.readRange (s : State) (ctx va n : Nat) : Nat :=
  packBytes 512 ((List.range ((n + 511) / 512)).map fun k => s.readCommitted ctx (va + 512 * k) (min 512 (n - 512 * k)))

/-! ### The core part (R316) -/

/-- Index i of a block: current A and S, previous A and S, and in byte 16 the bits of R278 in the order it lists them. -/
def Block.entry (b : Block) (i : Nat) : Nat :=
  let c := b.sig i
  let p := b.sigP i
  let flag := fun (x : Bool) (k : Nat) => if x then 2 ^ k else 0
  packBytes 4 [c.a.toNat, c.s.toNat, p.a.toNat, p.s.toNat, flag c.valid 0 + flag p.valid 1 + flag (b.skip.getLsbD i) 2 + flag (b.forced.getLsbD i) 3]

/-- A block with the entries its descriptor counts. One that is not configured has all its bits zero (R278). -/
def blockBytes (b : Option Block) : Nat × Nat :=
  match b with
  | some b => (b.desc.toNat + putAt 8 b.theta.toNat + putAt 16 (packBytes 20 ((List.range b.count).map b.entry)), 16 + 20 * b.count)
  | none => (0, 36)

/-- A block read back, and its length. -/
def blockOf (w num : Nat) : Block × Nat :=
  let desc := BitVec.ofNat 64 (getAt w 0 8)
  let b0 : Block := ⟨num, desc, BitVec.ofNat 32 (getAt w 8 8), [], [], 0, 0⟩
  let e := fun (i : Nat) => getAt w (16 + 20 * i) 20
  let sig := fun (i o v : Nat) => (⟨BitVec.ofNat 32 (getAt (e i) o 4), BitVec.ofNat 32 (getAt (e i) (o + 4) 4), bits (e i) (128 + v) 1 == 1⟩ : Sig)
  let is := List.range b0.count
  let set := fun (k : Nat) => indexBits (is.filter fun i => bits (e i) (128 + k) 1 == 1)
  ({ b0 with cur := is.foldl (fun m i => mset Sig.none_ m i (sig i 0 0)) [], prev := is.foldl (fun m i => mset Sig.none_ m i (sig i 8 1)) [],
             skip := set 2, forced := set 3 }, 16 + 20 * b0.count)

/-- Semaphores, `sdcfg` and blocks of a core, and their length. -/
def Core.partBytes (k : Core) : Nat × Nat :=
  let sems := packBytes 4 ((List.range 64).map fun n => (k.sem n).value.toNat + (k.sem n).target.toNat * 2 ^ 16)
  (List.range 16).foldl (fun (q : Nat × Nat) b => let r := blockBytes (k.block b); (q.1 + putAt q.2 r.1, q.2 + r.2)) (sems + putAt 256 k.sdcfg.toNat, 264)

/-- The array state behind it: 32 cells a row; then each slot: its mode record (mode, columns, scales present), codes, block scales. -/
def Core.arrayRows (k : Core) : List Nat := (List.range 1536).map fun r => packBytes 16 ((List.range 32).map fun c => (mget 0 k.acc (32 * r + c)).toNat)
def WSlot.bytes (x : WSlot) : Nat :=
  x.mode + x.n * 2 ^ 8 + (if x.scaled then 2 ^ 32 else 0) + putAt 8 x.img + putAt (8 + 98304) x.simg
def slotBytes : Nat := 8 + 98304 + 2048
def arrayBytes : Nat := 786432 + 16 * slotBytes

/-- A slot read back: its operands and checksums are built again from its codes (R261, R316). -/
def slotOfBytes (w : Nat) (cv : Curve) : WSlot :=
  WSlot.of (bits w 0 5) (bits w 8 16) (bits w 32 1 == 1) (getAt w 8 98304) (getAt w (8 + 98304) 2048) cv

/-- The accumulator rows go to memory at va. -/
def State.writeRows (s : State) (ctx va : Nat) (k : Core) : State :=
  k.arrayRows.zipIdx.foldl (fun (s : State) (r : Nat × Nat) => s.writeRange ctx (va + 512 * r.2) 512 r.1) s

/-- The weight slots, b bytes each, go to memory at va. -/
def State.writeSlots (s : State) (ctx va b : Nat) (k : Core) : State :=
  (List.range 16).foldl (fun s w => s.writeRange ctx (va + b * w) b (k.slot w).bytes) s

/-- The core part goes to memory at va. -/
def State.writePart (s : State) (ctx va : Nat) (k : Core) (array : Bool) : State :=
  let p := k.partBytes
  let s := s.writeRange ctx va p.2 p.1
  if !array then s else (s.writeRows ctx (va + p.2) k).writeSlots ctx (va + p.2 + 786432) slotBytes k

/-- The core part is read back from va; the slot directory is empty (R75, R316). -/
def State.readPart (s : State) (ctx va : Nat) (v : Saved) (array : Bool) (k : Core) : Core :=
  let head := s.readRange ctx va (264 + 16 * (16 + 20 * 1024))
  let sems := (List.range 64).foldl (fun m n =>
    let w := getAt head (4 * n) 4
    mset Sem.reset m n ⟨BitVec.ofNat 16 w, BitVec.ofNat 16 (w / 2 ^ 16), 0, w % 2 ^ 16, 0, []⟩) []
  let (blocks, len) := (List.range 16).foldl (fun (q : Map Block × Nat) b =>
    let r := blockOf (head / 256 ^ q.2) (mget 0 v.blocks b)
    (match mfind v.blocks b with | some _ => mput q.1 b r.1 | none => q.1, q.2 + r.2)) ([], 264)
  let k := { k with sems := sems, sdcfg := BitVec.ofNat 64 (getAt head 256 8) &&& 0x3F1FFFFF, ways := [], blocks := blocks, pendTiles := [] }
  if !array then k else
    let acc := (List.range 1536).foldl (fun m r =>
      let w := s.readRange ctx (va + len + 512 * r) 512
      (List.range 32).foldl (fun m c => mset 0 m (32 * r + c) (BitVec.ofNat 128 (getAt w (16 * c) 16))) m) []
    let slots := (List.range 16).foldl (fun m w =>
      mset WSlot.reset m w (slotOfBytes (s.readRange ctx (va + len + 786432 + slotBytes * w) slotBytes) (mget WSlot.reset.cv v.curves w))) []
    { k with acc := acc, slots := slots }

/-! ### The save (R313-R317) -/

/-- The victim may stop at the boundary at which it stands: no chain is open, every revocable syllable has passed, no fault is pending. -/
def State.boundaryFree (s : State) (i : Nat) : Bool :=
  s.atBoundary i && (s.getInst i).decks.all fun n => (s.getDeck n).chain.isNone && !(s.getDeck n).faultPending &&
    !((s.getDeck n).revoc.any fun r => r.left != 0 || r.failed.isSome)

/-- Everything the decks of instance i issued has performed: engine commands drained, array rows and their replays done, completion words in rq4 where it
has room. -/
def State.saveReady (s : State) (i : Nat) : Bool :=
  s.instDrained (i, s.getInst i) && !(s.micro.any fun m => (s.getInst i).decks.contains m.deck) &&
    (s.getInst i).coresOf.all fun c => (List.range 4).all fun e =>
      ((s.getCore c).engine e).held.all fun h => !(s.getInst i).decks.contains h.deck || !(s.getDeck h.deck).rqRoom h.q

/-- The decks of which an image is written: those that have not halted, and deck 0 of each core of a gang, whose image carries the core part. -/
def State.savedDecks (s : State) (i : Nat) (x : Inst) : List Nat :=
  x.decks.filter fun n => (s.getDeck n).inst == some i && (!(s.getDeck n).halted || (x.kind != 0 && n % 4 == 0))

/-- The image of a deck carries the core part, and with it the array state (R314, R316). -/
def Inst.hasPart (x : Inst) (n : Nat) : Bool := x.kind != 0 && n % 4 == 0
def Inst.hasArray (x : Inst) (n : Nat) : Bool := x.hasPart n && field x.words 0 58 1 == 1

/-- The image of deck n, the clock of whose next bundle is ct, and the record of it. Entries that a latch is still to fill are left to the latch. -/
def State.saveDeck (s : State) (x : Inst) (n : Nat) : Nat × Saved :=
  let d := s.getDeck n
  let k := s.getCore (n / 4)
  let lat := d.capture
  let full := fun (q : Nat) => mget [] d.rq q
  let d1 := { d with latches := lat, rq := (List.range 8).foldl (fun m q => mset [] m q ((full q).filter (·.arrived))) [] }
  let (img, len) := d1.image ⟨x.node, k.leaseHolder == some (n % 4), k.leaseReq.contains (n % 4), false, x.hasArray n, x.hasPart n, d.frozen.getD s.clock, [], 0⟩
  (img, { deck := n, len := len, halted := d.halted, kern := d.kern, iters := d.iters, ids := lat.map fun l => l.dest.qid,
          reserved := (List.range 8).flatMap fun q => ((full q).zipIdx.filter fun e => !e.1.arrived).map fun e => (16 * q + e.2, e.1.id),
          lds := lat.filterMap fun l => if d.ldsWait.any (fun q => q.1 = l.seq) then (match l.dest with | .x r => some r | _ => none) else none,
          held := (List.range 4).flatMap fun e => ((k.engine e).held.filter fun h => h.deck == n).map fun h => (e, h),
          blocks := k.blocks.map fun b => (b.1, b.2.num), curves := k.slots.map fun w => (w.1, w.2.cv) })

/-- Where the image of deck n of an instance stands. -/
def State.imageAddr (s : State) (x : Inst) (n : Nat) : Nat := s.saveAddr x.ctx (s.slotFor x) (2 ^ 23 * x.decks.idxOf n)

/-- The bytes of a deck's save slot. -/
def State.imageBytes (s : State) (x : Inst) (v : Saved) : Nat :=
  v.len + (if x.hasPart v.deck then (s.getCore (v.deck / 4)).partBytes.2 else 0) + (if x.hasArray v.deck then arrayBytes else 0)

/-- R127, R313: at the boundary the decks stop, and results that would land after the clock of the next bundle land no more; once all has drained, and the pages
of the save slot are there, the images are written, the decks are free and the victim is listed again. -/
def execPreemptSave (inst : Nat) (s : State) : Out :=
  let x := s.getInst inst
  if x.st = .running ∧ x.preemptFor.isSome ∧ !x.doomed ∧ x.stopAt.isNone ∧ s.boundaryFree inst then
    .next (x.decks.foldl (fun s n => s.modDeck n fun d => { d with frozen := some (max s.clock d.nextE) })
      (s.setInst inst { x with st := .saving }))
  else if x.st = .saving ∧ s.saveReady inst then
    let s := x.decks.foldl (fun s n => (s.quiesce n).landDeck n ((s.getDeck n).frozen.getD s.clock)) s
    let saved := (s.savedDecks inst x).map (s.saveDeck x)
    let ranges := saved.map fun q => (s.imageAddr x q.2.deck, s.imageBytes x q.2)
    if ranges.any fun r => !s.rangeReady x.ctx r.1 r.2 then .next (s.awaitRanges x.ctx ranges (.preemptSave inst))
    else match ranges.findSome? fun r => s.rangeBad x.ctx r.1 r.2 with
      | some pa => .fault (.noSuchAddress pa)
      | none =>
        let s := saved.foldl (fun (s : State) q =>
          let va := s.imageAddr x q.2.deck
          let s := s.writeRange x.ctx va q.2.len q.1
          if x.hasPart q.2.deck then s.writePart x.ctx (va + q.2.len) (s.getCore (q.2.deck / 4)) (x.hasArray q.2.deck) else s) s
        let slot := s.slotFor x
        let s := x.decks.foldl (fun s n => ((s.dropHeld n).dropLease n).modDeck n fun _ => Deck.reset) s
        let x := { x with
          st := .preempted, saved := saved.map (·.2), slot := some slot, readyAt := s.clock, waitFrom := s.clock, due := false, preemptFor := none,
          budget := s.lifeLeft x }
        .next (s.setInst inst x).askSelections
  else .next s

/-- A victim that waits for its save and on whose decks a fault has become pending goes on: the fault is taken first (NOTES.md, Assumption 82). -/
def State.thaw (s : State) (i : Nat) : State :=
  let x := s.getInst i
  if x.st = .saving ∧ x.decks.any fun n => (s.getDeck n).faultPending then
    x.decks.foldl (fun s n => s.modDeck n fun d => { d with frozen := none, nextA := max d.nextA s.clock, nextE := max d.nextE s.clock })
      (s.setInst i { x with st := .running })
  else s

/-! ### Resumption -/

/-- The queues of an image (R314): queue k of 16, oq0 to rq7; entries are numbered from `id`. -/
def queuesOf (w id : Nat) : Map (List QEntry) × Map (List QEntry) :=
  let occ := fun k => bits (getAt w (0x680 + 8 * k) 8) 0 4
  let first := fun k => ((List.range k).map occ).sum
  let base := fixedBytes + 544 * bits (getAt w 32 8) 0 8
  let entries := fun k => (List.range (occ k)).map fun i =>
    (⟨id + first k + i, BitVec.ofNat 4096 (getAt w (base + 512 * (first k + i)) 512),
      BitVec.ofNat 5 (bits (getAt w (0x680 + 8 * k) 8) (5 * i + 4) 5), true, false⟩ : QEntry)
  ((List.range 8).foldl (fun m k => mset [] m k (entries k)) [], (List.range 8).foldl (fun m k => mset [] m k (entries (8 + k))) [])

/-- The entries that latches are still to fill stand in their places again. -/
def reserveAgain (rq : Map (List QEntry)) (rs : List (Nat × Nat)) : Map (List QEntry) :=
  rs.foldl (fun m r =>
    let es := mget [] m (r.1 / 16)
    mset [] m (r.1 / 16) (es.take (r.1 % 16) ++ ⟨r.2, 0, 0, false, false⟩ :: es.drop (r.1 % 16))) rq

/-- A deck as its image w has it, resuming in clock c in user mode (R313, R315, R387). -/
def Saved.deckAt (v : Saved) (w i c seq : Nat) : Deck :=
  let (oq, rq) := queuesOf w (seq + 128)
  let ck := getAt w 0x518 8
  let d := { Deck.reset with heldIds := v.ids }.restore w c seq
  { d with
    inst := some i, halted := v.halted, nextA := c, nextE := c, sup := false, oq := oq, rq := reserveAgain rq v.reserved, kern := v.kern, iters := v.iters,
    heldIds := [], ldsWait := d.latches.filterMap fun l => (match l.dest with | .x q => if v.lds.contains q && l.rank = 0 then some (l.seq, q) else none | _ => none),
    ckChecked := BitVec.ofNat 32 (bits ck 32 32), ckFail := bits ck 31 1 == 1, ckRow := BitVec.ofNat 10 (bits ck 0 10) }

/-- The next row of each core in a list of spilled rows. -/
def nextRows (rows : List (Nat × Nat × Nat)) : List (Nat × Nat × Nat) :=
  rows.foldl (fun acc r => if acc.any fun q => q.1 == r.1 then acc else acc ++ [r]) []

/-- A copy of instance i is under way at core c. -/
def State.copying (s : State) (i c : Nat) : Bool :=
  s.micro.any fun m => m.core == c && match m.act with | .copyOut j _ _ => j == i | .copyIn j _ _ => j == i | _ => false

/-- The next row of each core whose turn it is in Tram 1 sets out after a free delay, a row out to the save slot or back (R318); rows whose place in
memory is not there wait for it. -/
def State.copyRows (s : State) (i : Nat) (rows : List (Nat × Nat × Nat)) (out : Bool) : State :=
  let x := s.getInst i
  (nextRows rows).foldl (fun s r =>
    let s := s.enterTram r.1 i
    let va := s.saveAddr x.ctx (s.slotFor x) (spillOffset + 512 * r.2.2)
    if !s.tramTurn r.1 i || s.copying i r.1 then s
    else if !s.reachable x.ctx va 512 then s.askFor x.ctx va 512
    else
      let (t, s) := s.delay
      s.access (s.clock + 1 + t) r.1 (4 * r.1) false copyPrio (if out then .copyOut i r.2.1 r.2.2 else .copyIn i r.2.1 r.2.2)) s

/-- Copies of an instance leave the Trams in which none of `rows` is left. -/
def State.leaveTrams (s : State) (i : Nat) (rows : List (Nat × Nat × Nat)) : State :=
  (s.getInst i).coresOf.foldl (fun s c => if rows.any fun r => r.1 == c then s else s.leaveTram c i) s

/-- A row goes to the save slot; one that has expired in the meantime is no longer there to be copied. An uncorrectable granule is a machine check for the
instance (R318, R444). -/
def State.copyOut (s : State) (c i row k : Nat) : State :=
  let x := s.getInst i
  let s := s.modInst i fun x => { x with spills := x.spills.filter fun r => r != (c, row, k) }
  if (s.getCore c).meet row != .data then s
  else
    let s := s.correct c row 0 7
    let va := s.saveAddr x.ctx (s.slotFor x) (spillOffset + 512 * k)
    let s := (s.writeVA (2 ^ 40) x.ctx s.clock va 512 (s.rowImage c row).toNat).modInst i fun x => { x with spilled := x.spilled ++ [(c, row, k)] }
    if (s.getCore c).badIn row 0 7 then (s.logError 0x01 c (4 * c) x.node (BitVec.ofNat 64 (512 * row))).checkInst i else s

/-- A spilled row comes back as a whole-row write; an uncorrectable granule of the save slot is a machine check for the instance (R318, R444). -/
def State.copyIn (s : State) (c i row k : Nat) : State :=
  let x := s.getInst i
  let va := s.saveAddr x.ctx (s.slotFor x) (spillOffset + 512 * k)
  let s := match s.badHbm (2 ^ 40) x.ctx s.clock va 512 with
    | some pa => (s.logError 0x09 c (4 * c) x.node (BitVec.ofNat 64 pa)).checkInst i
    | none => s.correctHbm (2 ^ 40) x.ctx s.clock va 512
  let data := s.readCommitted x.ctx va 512
  (s.performWrite c row wholeMask (BitVec.ofNat 4096 data) none).modInst i fun x => { x with spilled := x.spilled.filter fun r => r != (c, row, k) }

/-- R43, R313, R315, R318: spilled rows come back as whole-row writes, decks and cores are restored from the save slot, and a deck that held or awaited the
lease enters the request set. A transfer phase goes on at the cycle at which it stopped (NOTES.md, Assumption 83). -/
def execPreemptResume (inst : Nat) (s : State) : Out :=
  let x := s.getInst inst
  .next (if x.st ≠ .preparing ∨ x.saved.isEmpty ∧ x.decks.isEmpty then s
    else if !x.spills.isEmpty ∨ s.copiesAhead inst x then s.post (s.clock + 1) (.preemptResume inst)
    else if !x.spilled.isEmpty then ((s.leaveTrams inst x.spilled).copyRows inst x.spilled false).post (s.clock + 1) (.preemptResume inst)
    else if x.saved.any fun v => !s.rangeReady x.ctx (s.imageAddr x v.deck) (s.imageBytes x v) then
      s.awaitRanges x.ctx (x.saved.map fun v => (s.imageAddr x v.deck, s.imageBytes x v)) (.preemptResume inst)
    else
      let s := s.leaveTrams inst []
      let s := x.saved.foldl (fun s v =>
        let va := s.imageAddr x v.deck
        let w := s.readRange x.ctx va v.len
        let w2 := getAt w 16 8
        let s := { (s.dropHeld v.deck).setDeck v.deck (v.deckAt w inst s.clock s.seq) with seq := s.seq + 256 }
        let k := s.getCore (v.deck / 4)
        let k := if x.hasPart v.deck then s.readPart x.ctx (va + v.len) v (x.hasArray v.deck) k else k
        let k := if (bits w2 34 1 = 1 ∨ bits w2 35 1 = 1) ∧ !k.leaseReq.contains (v.deck % 4) then { k with leaseReq := k.leaseReq ++ [v.deck % 4] } else k
        let k := v.held.foldl (fun (k : Core) (h : Nat × Held) => k.setEngine h.1 { k.engine h.1 with held := (k.engine h.1).held ++ [h.2] }) k
        s.setCore (v.deck / 4) k) s
      s.forgetVersions.setInst inst { x with
        st := .running, dispatchedAt := s.clock, views := [], saved := [], budget := none,
        xfer := x.xfer.map fun t => { t with q := t.q + (s.clock - x.readyAt) } })

/-! ### The spill (R318) -/

/-- The rows to spill, in increasing order of remaining life. -/
def State.spillRows (s : State) (x : Inst) : List (Nat × Nat) :=
  let rows := x.coresOf.flatMap fun c => ((s.reservedRows x c).filter fun r => !((s.getCore c).tile (r / 32)).cfg.getLsbD 1).map fun r => (c, r)
  let life := fun (p : Nat × Nat) => s.rowLimit p.1 p.2 - (s.getCore p.1).age p.2
  rows.foldl (fun acc p =>
    let rec ins : List (Nat × Nat) → List (Nat × Nat)
      | [] => [p]
      | q :: qs => if life p < life q then p :: q :: qs else q :: ins qs
    ins acc) []

/-- R318: the reserved rows go to the save slot, through Tram 1 of their core, one after the other. -/
def execSpillStart (inst : Nat) (s : State) : Out :=
  let x := s.getInst inst
  let s := if x.st = .preempted ∧ x.budget.isSome then
      s.setInst inst { x with budget := none, spills := (s.spillRows x).zipIdx.map fun p => (p.1.1, p.1.2, p.2) } else s
  let rows := (s.getInst inst).spills
  .next (if rows.isEmpty then s.leaveTrams inst [] else ((s.leaveTrams inst rows).copyRows inst rows true).post (s.clock + 1) (.spillStart inst))

end Sys2Proof.Machine
end

