-- ==== Sys2Proof/Machine/Fabric.lean ====
section
/-! DEFINITION. The transfer phase of a superstep gang: schedule entries, rows sent by `xmit`, exact reductions (spec 08 R209-R211, spec 14
R324-R329, spec 21 R407). -/
namespace Sys2Proof.Machine

/-- The ports of a router (R319). -/
def portsOf (g : Nat) : List Nat :=
  if g % 4 < 2 then [0, 1, 2, 3, 4] else if g % 4 = 2 then [8, 9, 10, 11] else [12, 13, 14, 15]

/-- The core on port 0 of a core router (R319). -/
def coreAt (g : Nat) : Nat := g / 16 * 8 + g / 4 % 4 * 2 + g % 4

/-- The cycle of the transfer phase in which the issuing deck stands, if it is a superstep gang's and a phase is open (R407). -/
def State.phaseCycle (s : State) : Option Int :=
  match s.dk.inst with
  | some i => if (s.getInst i).kind = 2 then s.cycle i else none
  | none => none

/-! ### Schedule entries (R209) -/

/-- R209, R324, R407: an entry issued in its own cycle or later takes effect in the cycle after its issue. -/
def execXsel (h : Hd) (b : XFS) (s : State) : Out :=
  .next (s.irrevocable h [] fun s =>
    match s.phaseCycle with
    | none => s.raise h 0x06 0 0
    | some now =>
      let eff := max b.cycle.toNat (now + 1).toNat
      s.modCk fun k => { k with sched := k.sched ++ [⟨portRouter s.cn b.outp.toNat, b.outp.toNat, b.inp.toNat, eff, s.dn⟩] })

/-! ### Rows sent along a scheduled path (R210, R325) -/

/-- The eight flits of a row enter the source router's output port in cycles c to c + 7: input 16 + p stands for "sent to port p". -/
def State.sendFlits (s : State) (xid port c : Nat) : State :=
  { s with flits := s.flits ++ (List.range 8).map fun k => (⟨xid, k, portRouter s.cn port, 16 + port, c + k⟩ : Flit) }

/-- R210, R401, R407. -/
def execXmit (h : Hd) (b : XFM) (s : State) : Out :=
  .next (
    if b.kind = 0 then
      s.irrevocable h [] fun s =>
        s.operands h 0 [b.src.toNat] none
          (fun _ _ => match s.phaseCycle with
            | none => some (0x06, 0, 0)
            | some now => if now > (b.cycle.toNat : Int) then some (0x06, 0, 0) else none)
          fun s vs =>
            let v := vs.headD VReg.zero
            let row : Xrow := ⟨s.seq, s.dk.inst.getD 0, v.data, v.tag, b.src.toNat, true, s.dn, []⟩
            { (s.sendFlits s.seq b.port.toNat b.cycle.toNat) with xrows := s.xrows ++ [row], seq := s.seq + 1 }
    else
      let xa := BitVec.ofNat 6 (bits b.src.toNat 3 6)
      s.irrevocable h [xa] fun s =>
        let w := s.x xa
        match addrOf w with
        | .store a =>
          if s.frameBarred (a / 16384) then s.raise h 0x11 0 w
          else
            match s.phaseCycle with
            | none => s.raise h 0x06 0 0
            | some now =>
              if now + 2 > (b.cycle.toNat : Int) then s.raise h 0x06 0 0
              else
                let row : Xrow := ⟨s.seq, s.dk.inst.getD 0, 0, 0, a / 512, false, s.dn, []⟩
                let s' := s.sendFlits s.seq b.port.toNat b.cycle.toNat
                { s' with xrows := s.xrows ++ [row], seq := s.seq + 1 }.access (s.clock + 2) s.cn s.dn false (deckPrio s.dn false)
                  (.xmitRead row.xid (a / 512))
        | _ => s.raise h 0x0B 0 w)

/-- The read point of a row that `xmit` sends (R210): a row that holds no valid data sends bytes the manual does not state, a free value
(NOTES.md, Assumption 8). -/
def State.xmitSample (s : State) (n c xid row : Nat) : State :=
  let k := s.getCore c
  let s := s.consume n c row 0 7
  let (img, s) := if k.meet row == .data then (s.rowImage c row, s) else (Config.freeRow s.free, { s with free := s.free + 1 })
  { s with xrows := s.xrows.map fun (r : Xrow) => if r.xid = xid then { r with data := img, tag := (k.tile (row / 32)).tag } else r }

/-- Every output whose entry in force names the flit's input forwards it (R209, R325): the copies on their way, and the cores reached. -/
def State.forward (s : State) (x : Inst) (f : Flit) : List Flit × List Nat :=
  let outs := if 16 ≤ f.inp then (if s.entryAt x f.router (f.inp - 16) f.at_ = some 0 then [f.inp - 16] else [])
    else (portsOf f.router).filter fun o => s.entryAt x f.router o f.at_ == some f.inp
  (outs.filterMap fun o => (linkOf f.router o).map fun l => (⟨f.xid, f.k, l.1, l.2.1, f.at_ + l.2.2 + 6⟩ : Flit),
    if outs.contains 0 then [coreAt f.router] else [])

/-- A flit has left port 0 into core c; the eighth makes the row due in the next cycle (R325): flit 8 stands for that. -/
def State.flitArrives (s : State) (f : Flit) (c : Nat) : State :=
  match s.xrows.find? fun r => r.xid == f.xid with
  | none => s
  | some r =>
    if r.got.contains (c, f.k) then s
    else
      let got := r.got ++ [(c, f.k)]
      let s := { s with xrows := s.xrows.map fun (q : Xrow) => if q.xid = f.xid then { q with got := got } else q }
      if (got.filter fun p => p.1 == c).length = 8 then { s with flits := s.flits ++ [(⟨f.xid, 8, c, 0, f.at_ + 1⟩ : Flit)] } else s

/-- A flit fails its CRC: it is dropped, and the instance takes a machine check (R448). -/
def State.loseFlit (s : State) (i : Nat) (f : Flit) : State :=
  { s with lineErrors := s.lineErrors.erase (.flit f.xid f.k) }.checkInst i

/-- What the gang's routers do in cycle t, at its end: flits at their outputs are forwarded, delivered or discarded (R324, R325). -/
def State.moveFlits (s : State) (i t : Nat) : State :=
  let x := s.getInst i
  let mine := (s.xrows.filter fun r => r.inst == i).map (·.xid)
  let now := s.flits.filter fun f => f.k != 8 && f.at_ == t && mine.contains f.xid
  let s := { s with flits := s.flits.filter fun f => !(f.k != 8 && f.at_ == t && mine.contains f.xid) }
  now.foldl (fun s f =>
    if s.lineErrors.contains (.flit f.xid f.k) then s.loseFlit i f else
    let r := s.forward x f
    let s := { s with flits := s.flits ++ r.1 }
    r.2.foldl (fun s c => s.flitArrives f c) s) s

/-- A whole row is written at its delivery cycle (R210): a register of the deck with the same number as the sender, after that deck's own
writes of the clock, or a store row, which takes its bank as a remote access (R55). A queue name has no register to write. -/
def State.deliverRow (s : State) (f : Flit) : State :=
  match s.xrows.find? fun r => r.xid == f.xid with
  | none => s
  | some r =>
    if r.isReg then
      if r.dst < 320 then
        s.addLatch (4 * f.router + r.deck % 4)
          { land := s.clock, rank := 4, seq := 0, dest := .v r.dst, mask := BitVec.allOnes 128, data := r.data, tag := r.tag, flags := 0 }
      else s
    else s.access s.clock f.router r.deck false remotePrio (.arrive r.dst r.data r.tag)

/-- The deliveries that fall in cycle t of gang i (R325): none at cycle L or later. -/
def State.deliverRows (s : State) (i t : Nat) : State :=
  let mine := (s.xrows.filter fun r => r.inst == i).map (·.xid)
  let due := s.flits.filter fun f => f.k == 8 && decide (f.at_ ≤ t) && mine.contains f.xid
  let s := { s with flits := s.flits.filter fun f => !(f.k == 8 && decide (f.at_ ≤ t) && mine.contains f.xid) }
  due.foldl (fun s f => s.deliverRow f) s

/-! ### Exact reductions (R211, R326-R329) -/

/-- A partial: flags and sum (R327). -/
def partialOf (ninf pinf nan ovf : Bool) (sum : Int) : BitVec 320 :=
  let b := fun (c : Bool) (k : Nat) => if c then 2 ^ k else 0
  BitVec.ofNat 320 ((sum % 2 ^ 312).toNat + b ovf 312 + b nan 313 + b pinf 314 + b ninf 315)

/-- The sum field of a partial. -/
def partialSum (p : BitVec 320) : Int := (p.setWidth 312).toInt

/-- What an FP32 code contributes (R327). -/
def partialCode (w : Lane) : BitVec 320 :=
  match decIEEE fp32 w.toNat with
  | .nan _ => partialOf false false true false 0
  | .inf sg => partialOf sg (!sg) false false 0
  | .fin sg m e => partialOf false false false false (signedMant sg m e (-149))

/-- Two partials combined: sums added, flags ORed (R327). -/
def addPartial (p q : BitVec 320) : BitVec 320 :=
  ((p.setWidth 312 + q.setWidth 312).setWidth 320) ||| ((p ||| q) &&& (0xF : BitVec 320) <<< 312)

/-- What one partial holds beyond another. -/
def subPartial (p q : BitVec 320) : BitVec 320 := (p.setWidth 312 - q.setWidth 312).setWidth 320 ||| (p &&& (0xF : BitVec 320) <<< 312)

/-- The root rounds the exact total of a register (R211, R327). -/
def roundPartial (p : BitVec 320) : Nat :=
  if p.getLsbD 312 || p.getLsbD 313 || (p.getLsbD 314 && p.getLsbD 315) then canonNaN fp32
  else if p.getLsbD 314 then 0x7F800000
  else if p.getLsbD 315 then 0xFF800000
  else (rndIEEE fp32 0 0 (.fin (decide (partialSum p < 0)) (partialSum p).natAbs (-149))).1

/-- The registers of a slot's range (R326). -/
def slotRegs (slot : Nat) : List Nat := (List.range 128).map fun l => (slot + l) % 4096
/-- Two ranges share a register. -/
def slotsMeet (a b : Nat) : Bool := decide ((a + 4096 - b) % 4096 < 128 ∨ (b + 4096 - a) % 4096 < 128)

/-- The lanes of a row add to the registers of a slot's range in router g (R326). -/
def State.addLanes (s : State) (g slot : Nat) (row : Image) : State :=
  { s with partials := (List.range 128).foldl (fun m l =>
      let k := g * 4096 + (slot + l) % 4096
      mset 0 m k (addPartial (mget 0 m k) (partialCode (row.extractLsb' (32 * l) 32)))) s.partials }

/-- R211, R326, R401, R407: the lanes of vN add to their registers in the issuing core's router. -/
def execXred (h : Hd) (b : XFR) (s : State) : Out :=
  .next (s.irrevocable h [b.xa] fun s =>
    s.operands h 0 [b.src.toNat] none
      (fun _ vs =>
        let v := vs.headD VReg.zero
        if v.tag ≠ 0 then some (0x03, v.tag.toNat, 0)
        else if bits (s.x b.xa).toNat 12 52 ≠ 0 then some (0x06, 0, 0)
        else match s.phaseCycle with
          | none => some (0x06, 0, 0)
          | some now => if now > (b.cycle.toNat : Int) then some (0x06, 0, 0) else none)
      fun s vs =>
        let v := vs.headD VReg.zero
        let slot := bits (s.x b.xa).toNat 0 12
        let g := coreRouter s.cn
        (s.modInst (s.dk.inst.getD 0) fun x => { x with contribs := x.contribs ++ [⟨slot, s.dn, b.cycle.toNat, false⟩] }).addLanes g slot v.data)

/-- The lowest-numbered core of a gang, whose router is the root (R328). -/
def Inst.root (x : Inst) : Nat := x.coresOf.foldl min 95

/-- The cycle in which the result of a slot is delivered (R328): Cmax + 2 × Dmax + 96 over the contributions to its range. -/
def Inst.resultCycle (x : Inst) (slot : Nat) : Nat :=
  let cs := x.contribs.filter fun c => slotsMeet c.slot slot
  (cs.map (·.cycle)).foldl max 0 + 2 * (cs.map fun c => pathDelay (c.deck / 4) x.root).foldl max 0 + 96

/-- The bound groups that a slot's range touches (R329, R341). -/
def State.boundGroups (s : State) (slot : Nat) : List Nat :=
  ((slotRegs slot).map (· / 128)).eraseDups.filter fun g => (mget 0 s.viaduct (0x1000 + 8 * g)).getLsbD 63

/-- The members of group g's peer set other than this device (R340, R341). -/
def State.peersOf (s : State) (g : Nat) : List Nat :=
  let set := bits (mget 0 s.viaduct (0x1000 + 8 * g)).toNat 0 12
  let entry := fun (k : Nat) => bits (mget 0 s.viaduct (0x2000 + 32 * set + 8 * (k / 4))).toNat (16 * (k % 4)) 16
  ((List.range 15).filter fun k => bits (entry k) 15 1 == 1).map (fun k => bits (entry k) 0 12) |>.filter fun d =>
    d != bits (mget 0 s.viaduct 0).toNat 0 12

/-- The image of a result: 128 FP32 lanes. -/
def lanesImage (ws : List Nat) : Image := BitVec.ofNat 4096 (packBytes 4 ws)

/-- A result enters rq6 of a contributor; a full queue holds it (R51, R211). The fabric's held entries stand as engine 3 of the core. -/
def State.pushReduction (s : State) (n : Nat) (img : Image) : State :=
  if (s.getDeck n).rqRoom 6 && !((s.getCore (n / 4)).engine 3).held.any (fun h => h.deck == n) then s.pushRq n 6 img 0
  else s.modCore (n / 4) fun k => k.setEngine 3 { k.engine 3 with held := (k.engine 3).held ++ [⟨n, 6, img, 0⟩] }

/-- The total of a register over the routers of a gang's cores, at the root (R211, R326). -/
def State.total (s : State) (x : Inst) (r : Nat) : BitVec 320 :=
  x.coresOf.foldl (fun acc c => addPartial acc (mget 0 s.partials (coreRouter c * 4096 + r))) 0

/-- The root rounds a slot and sends the result to its contributors. -/
def State.roundSlot (s : State) (slot : Nat) (parts : Map (BitVec 320)) (decks : List Nat) : State :=
  let img := lanesImage ((slotRegs slot).map fun r => roundPartial (mget 0 parts r))
  decks.foldl (fun s n => s.pushReduction n img) s

/-- A group's 128 partials added into registers that are kept already. -/
def addGroup (m : Map (BitVec 320)) (g : Nat) (ps : List (BitVec 320)) : Map (BitVec 320) :=
  m.map fun p => if p.1 / 128 = g then (p.1, addPartial p.2 (ps.getD (p.1 % 128) 0)) else p

/-- The results of an instance all of whose messages have come are rounded and delivered (R329). -/
def State.closeBound (s : State) (i : Nat) : State :=
  let done := (s.getInst i).bound.filter fun b => b.missing.isEmpty
  done.foldl (fun s b => s.roundSlot b.slot b.parts b.decks) (s.modInst i fun x => { x with bound := x.bound.filter fun b => !b.missing.isEmpty })

/-- A peer's partials go to the first result that misses a message of that device for the group; results of the same phase that follow it have them too. -/
def Inst.takePartials (x : Inst) (g dev : Nat) (ps : List (BitVec 320)) : Option Inst :=
  match x.bound.find? fun b => b.missing.contains (g, dev) with
  | none => none
  | some b0 =>
    let (bs, _) := x.bound.foldl (fun (acc : List Bound × Bool) (b : Bound) =>
      if acc.2 then (acc.1 ++ [if b.since = b0.since then { b with parts := addGroup b.parts g ps } else b], true)
      else if b.missing.contains (g, dev) then (acc.1 ++ [{ b with parts := addGroup b.parts g ps, missing := b.missing.erase (g, dev) }], true)
      else (acc.1 ++ [b], false)) ([], false)
    some { x with
      bound := bs,
      peerParts := if x.squareAt = b0.since then
          (List.range 128).foldl (fun m l => mset 0 m (128 * g + l) (addPartial (mget 0 m (128 * g + l)) (ps.getD l 0))) x.peerParts
        else x.peerParts }

/-- A peer's partials: an instance takes them, or they wait (R329). -/
def State.peerPartials (s : State) (g dev : Nat) (ps : List (BitVec 320)) : State :=
  match s.insts.findSome? fun (p : Nat × Inst) => (p.2.takePartials g dev ps).map fun x => (p.1, x) with
  | some (i, x) => (s.setInst i x).closeBound i
  | none => { s with peers := s.peers ++ [(g, dev, ps)] }

/-- What the root of instance i has summed in group g since it last sent goes to the group's peers (R329); over a port that is down it is lost, and the
instance waits for its acknowledgement until that is late (R448, R449). -/
def State.sendGroup (s : State) (i g : Nat) : State :=
  let x := s.getInst i
  let now := (List.range 128).map fun l => s.total x (128 * g + l)
  let c := packBytes 40 ((List.range 128).map fun l => (subPartial (now.getD l 0) (mget 0 x.sentParts (128 * g + l))).toNat)
  let s := s.setInst i { x with sentParts := (List.range 128).foldl (fun m l => mset 0 m (128 * g + l) (now.getD l 0)) x.sentParts }
  (s.peersOf g).foldl (fun s d =>
    if s.portDown d then { s.lostTraffic with signals := s.signals ++ [(⟨i, Config.numCores + x.root, 0, [], s.clock⟩ : Signal)] } else s.send 5 d g c) s

/-- A partial on its way to the root fails its check: the sum of the slot is lost, and the instance takes a machine check (R448). -/
def State.loseSum (s : State) (inst slot : Nat) : State :=
  { s with lineErrors := s.lineErrors.erase (.sum inst slot) }.checkInst inst

/-- R211, R328, R329: the contributions to a slot that have come due are rounded once and delivered; of a bound slot the root's partials go to
its peers, and the result waits for one message of each member for each of its groups. A slot to which an `xred` adds after that is delivered once more, to
the decks that have had no result (NOTES.md, Assumption 120). -/
def execXredResultDelivery (inst slot : Nat) (s : State) : Out :=
  let x := s.getInst inst
  let due := ((x.contribs.filter fun c => c.slot == slot && !c.done).map (·.deck)).eraseDups
  let decks := due.filter fun n => !(x.contribs.any fun c => c.slot == slot && c.done && c.deck == n)
  if due.isEmpty then .next s
  else
    let s := s.setInst inst { x with contribs := x.contribs.map fun c => if c.slot = slot then { c with done := true } else c }
    if s.lineErrors.contains (.sum inst slot) then .next (s.loseSum inst slot) else
    let own := (slotRegs slot).map fun r => (r, s.total x r)
    let gs := s.boundGroups slot
    if gs.isEmpty then .next (s.roundSlot slot own decks)
    else
      let s := gs.foldl (fun s g => s.sendGroup inst g) s
      let missing := gs.flatMap fun g => (s.peersOf g).map fun d => (g, d)
      let s := s.modInst inst fun x => { x with bound := x.bound ++
        [⟨slot, decks, own.map (fun p => (p.1, addPartial p.2 (mget 0 x.peerParts p.1))), x.squareAt, missing⟩] }
      let waiting := s.peers
      .next ((waiting.foldl (fun (s : State) (p : Nat × Nat × List (BitVec 320)) => s.peerPartials p.1 p.2.1 p.2.2) { s with peers := [] }).closeBound inst)

/-- R329: a peer's partials arrive; a result for which every member's partials are present is rounded and delivered. -/
def execPeerPartialArrival (source : Nat × Nat) (partials : List (BitVec 320)) (s : State) : Out := .next (s.peerPartials source.1 source.2 partials)

/-! ### Puts and gets of peers (R123, R204, R340) -/

/-- The row of a get is read: it goes back to the device (message 8), or why it does not: the cause of R409, or a row that is Invalid under the silent policy
(message 9; R419). -/
def State.peerSample (s : State) (core device row : Nat) : State :=
  let k := s.getCore core
  let place := core * Config.storeRows + row
  if !(k.tile (row / 32)).published then s.send 9 device place 0x14
  else match k.engineMeet row with
    | .inl c => s.send 9 device place c
    | .inr true => s.send 9 device place 0
    | .inr false => (s.correct core row 0 7).send 8 device place ((s.rowImage core row).toNat + (k.tile (row / 32)).tag.toNat * 2 ^ 4096)

/-- The core that a peer's input is for. -/
def FromPeer.core : FromPeer → Nat
  | .put c .. | .signal c _ | .get _ c _ => c

/-- What a peer has sent to a core stands still at the core's router: the output into the core carries a schedule (R324), or the core has no clock
(R343). -/
def State.peerHeld (s : State) (m : FromPeer) : Bool := s.outputHeld (coreRouter m.core) 0 || (s.getCore m.core).power.cur == 2

/-- What peers have sent goes on, in order for each core: a row into a receivable tile and the read of a get take their banks as remote accesses, a row for
any other tile is refused, and a signal adds once every row sent before it has performed. -/
def State.servePeers (s : State) : State :=
  let (s, left) := s.inbound.foldl (fun (acc : State × List FromPeer) m =>
    let s := acc.1
    if s.peerHeld m || acc.2.any fun q => q.core == m.core then (s, acc.2 ++ [m]) else
    match m with
    | .put c row data tag =>
      if ((s.getCore c).tile (row / 32)).receivable then (s.access s.clock c (4 * c) false remotePrio (.arrive row data tag), acc.2)
      else (s.send 9 (2 ^ 12) (c * Config.storeRows + row) 0x14, acc.2)
    | .get dev c row => (s.access s.clock c (4 * c) false remotePrio (.peerRead dev row), acc.2)
    | .signal c n =>
      if s.micro.any fun q => q.core == c && (match q.act with | .arrive .. => true | _ => false) then (s, acc.2 ++ [m])
      else (s.semAdd c n 1, acc.2)) (s, [])
  { s with inbound := left }

end Sys2Proof.Machine
end

