-- ==== Sys2Proof/Machine/HostPort.lean ====
section
/-! DEFINITION. What the host does to the device: BAR0, launches, translations, page requests and invalidations (spec 13 R295-R298, spec 14
R332, R336-R341, spec 15 R342, R344, R348, spec 22 R424-R429). -/
namespace Sys2Proof.Machine

/-! ### Translations (R79, R424, R457) -/

/-- The 64 KiB pages of one answer: base, host memory or HBM4, and whether the page is one of 2 MiB; bases are aligned to the page's size. -/
def pagesOfAnswer (ctx page : Nat) (a : Nat × Bool × Bool) : List Trans :=
  if a.2.2 then (List.range 32).map fun k => ⟨ctx, page / 32 * 32 + k, a.2.1, a.1 / 2 ^ 21 * 2 ^ 21 + pageBytes * k, true, none⟩
  else [⟨ctx, page, a.2.1, a.1 / pageBytes * pageBytes, false, none⟩]

/-- A `hld` that waits for this page, all of whose pages are translated now, gets its record; one with another page missing asks for it. -/
def State.wakeHld (s : State) (ctx page : Nat) : State :=
  (s.extWait.filter fun w => w.ctx == ctx && (pagesOf w.va 64).any fun p => plainPage p == page).foldl (fun s w =>
    let i := match (s.getDeck w.deck).inst with | some i => s.getInst i | none => Inst.absent
    match s.missing i.shadowNode ctx w.view w.va 64 with
    | some p => s.askPage ctx p
    | none => ((pagesOf w.va 64).foldl (fun s p => s.walk (w.deck / 4) ctx p) s).fetchRecord w.deck i w.view w.va w.entry w.gen) s

/-- A translation is installed: the page replaces one the device already holds and that no invalidation has withdrawn. -/
def State.installPage (s : State) (ctx page : Nat) (a : Nat × Bool × Bool) : State :=
  let new := pagesOfAnswer ctx page a
  let s := { s with trans := (s.trans.filter fun t => t.till.isSome || !new.any fun n => n.ctx == t.ctx && n.page == t.page) ++ new }
  (new.map (·.page)).foldl (fun s p => s.wakeHld ctx p) s

/-- Who waits for a page: `hld`s, by the place of their entry in the list, and engines, with the clock from which they wait (R424). -/
def State.pageWaiters (s : State) (ctx page : Nat) : List (Nat × (ExtWait ⊕ (Nat × Nat))) :=
  ((s.extWait.filter fun w => w.ctx == ctx && (match (s.getDeck w.deck).inst with
      | some i => (s.missing (s.getInst i).shadowNode ctx w.view w.va 64).any fun p => plainPage p == page
      | none => false)).map fun w => (w.at_, Sum.inl w)) ++
  (s.cores.flatMap fun c => (List.range 3).filterMap fun e => match (c.2.engine e).cur with
    | some r => (match r.page with
      | some (p, at_) => if (s.cmdInst r.cmd).ctx = ctx ∧ plainPage p = page then some (at_, Sum.inr (c.1, e)) else none
      | none => none)
    | none => none)

/-- The virtual address at which row r of a command meets page p. -/
def State.faultAddr (s : State) (q : Running) (eng core p : Nat) : Nat :=
  let j := q.cmd.job eng (s.getCore core)
  let r := q.todo.headD 0
  let base := match j with
    | .cache _ blk => 16384 * blk + 512 * r
    | .load _ _ off | .back _ _ off => (match j.extent q.cmd (s.cmdInst q.cmd) with | some e => e.base + 512 * (off + r) | none => 0)
    | _ => 0
  max base (p * pageBytes) % 2 ^ 57

/-- An engine that stands at a page the host does not map: the first one there faults with 0x0C, any other waits (R424, R426). -/
def State.pageAbsent (s : State) (core eng : Nat) (first : Bool) : State :=
  match s.running core eng with
  | none => s
  | some q =>
    match q.page, first with
    | some (p, _), true =>
      (s.setRunning core eng { q with behind := q.fault, fault := some (0x0C, BitVec.ofNat 64 (s.faultAddr q eng core p), q.todo.headD 0), raised := false, taken := false }).settleFault
        core eng
    | some _, false => s.setRunning core eng { q with raised := true, taken := true }
    | none, _ => s

/-- R424, R457: the translation agent's answer. A page it does not map is requested from the host, and the first access that touched it faults;
every other access waits. An answer that nobody asked for is discarded. -/
def execAtsTranslationCompletion (ctx page : Nat) (answer : Option (Nat × Bool × Bool)) (s : State) : Out :=
  if !s.atsReq.contains (ctx, page) then .next s
  else
    let s := { s with atsReq := s.atsReq.erase (ctx, page) }
    match answer with
    | some a => .next (s.installPage ctx page a)
    | none =>
      let ws := s.pageWaiters ctx page
      let first := ws.foldl (fun (b : Option (Nat × (ExtWait ⊕ (Nat × Nat)))) w => match b with | none => some w | some v => if w.1 < v.1 then some w else b) none
      let s := s.send 1 ctx page 0
      match first with
      | none => .next { s with pageReq := s.pageReq ++ [(ctx, page, none)] }
      | some (_, f) =>
        let inst := match f with
          | .inl w => (s.getDeck w.deck).inst
          | .inr (c, e) => (match s.running c e with | some q => q.cmd.inst | none => none)
        let s := { s with pageReq := s.pageReq ++ [(ctx, page, inst)] }
        let s := ws.foldl (fun s w => match w.2 with
          | .inr (c, e) => s.pageAbsent c e (match f with | .inr g => g == (c, e) | .inl _ => false)
          | .inl _ => s) s
        .next (match f with
          | .inl w =>
            let s := { s with extWait := s.extWait.erase w }
            (match (s.getDeck w.deck).revoc.find? fun r => r.key == w.gen * 64 + w.entry && bits r.syl 33 8 == 0x8A && r.left != 0 with
              | some r => s.failCheck w.deck r.seq 0x0C 0 r.xa
              | none => s)
          | .inr _ => s)

/-- An instance that is being prepared needs a page that has no translation: of its extents, of its trip count, or of the pool from which its shadows
come (R80, R308). -/
def State.prepares (s : State) (x : Inst) (ctx page : Nat) : Bool :=
  x.st == .preparing && !x.placed && x.ctx == ctx &&
    ((x.exts.filter fun e => !e.lazy_ && e.share.isNone).any (fun e => e.pages.any fun p => plainPage p == page) ||
      (match x.tripAddr with | some a => (pagesOf a 4).contains page | none => false) ||
      (s.poolFresh ctx (s.shadowNeed x)).any fun k => s.poolPage ctx k == page)

/-- R424: a positive response installs the translation; a failed one ends the node of the instance that made the request as a cancelled
node. A response to an abandoned request is discarded. -/
def execPageRequestResponse (ctx page : Nat) (answer : Option (Nat × Bool × Bool)) (s : State) : Out :=
  .next (match s.pageReq.find? fun p => p.1 == ctx && p.2.1 == page with
    | none => s
    | some req =>
      let s := { s with pageReq := s.pageReq.erase req, answered := s.answered ++ req.2.2.toList }
      match answer with
      | some a => s.installPage ctx page a
      | none =>
        let is : List Nat := match req.2.2 with
          | some i => [i]
          | none => (s.insts.filter fun (p : Nat × Inst) => s.prepares p.2 ctx page).map (·.1)
        (is.foldl (fun s i => s.endNode i) s).postNext (is.flatMap fun i => (s.nodeInsts (s.getInst i).shadowNode).map fun p => Instr.cancelForcedStop p.1))

/-! ### Invalidations (R127, R428, R429) -/

/-- The pages of a range. -/
def inRange (base len page : Nat) : Bool := decide (base < (page + 1) * pageBytes ∧ page * pageBytes < base + len)

/-- R428: translations of the range hold for each sequencer of the context until its next quiescent point. -/
def execAtsInvalidateRequest (ctx base len : Nat) (s : State) : Out :=
  let waiting := (s.insts.filter fun p => p.2.ctx == ctx && (p.2.st == .running || p.2.st == .saving)).flatMap fun p =>
    (p.2.decks.filter fun n => (s.getDeck n).inst == some p.1 && !(s.getDeck n).halted).flatMap fun n => [(p.1, 2 * n), (p.1, 2 * n + 1)]
  .next { s with
    trans := s.trans.map fun t => if t.ctx = ctx ∧ inRange base len t.page ∧ t.till.isNone then { t with till := some s.clock } else t,
    invals := s.invals ++ [⟨s.seq, ctx, base, len, s.clock, waiting⟩], seq := s.seq + 1 }

/-- R428: every core has acknowledged: the completion goes to the host and the old translations are gone. -/
def execInvalidationComplete (inval : Nat) (s : State) : Out :=
  .next (match s.invals.find? fun v => v.id == inval with
    | none => s
    | some v =>
      if !v.waiting.isEmpty then s
      else
        let old := fun (t : Trans) => t.ctx == v.ctx && inRange v.base v.len t.page && t.till == some v.at_
        let s := { s with invals := s.invals.filter fun w => w.id != inval, trans := s.trans.filter fun t => !old t,
                          cores := s.cores.map fun (c : Nat × Core) => (c.1, { c.2 with walker := c.2.walker.filter fun w => !(w.1 == v.ctx && inRange v.base v.len w.2) }) }
        s.send 2 v.id 0 0)

/-- The instances that have not acknowledged within their inval time (R420, R429). -/
def State.lateInsts (s : State) (v : Inval) : List Nat :=
  ((v.waiting.map (·.1)).eraseDups).filter fun i => decide (v.at_ + (s.getInst i).invalUs * Config.clocksPerUs ≤ s.clock)

/-- R429: they are rolled back, which counts as their acknowledgement. -/
def execInvalidationWatchdog (inval : Nat) (s : State) : Out :=
  .next (match s.invals.find? fun v => v.id == inval with
    | none => s
    | some v => (s.lateInsts v).foldl (fun s i => s.rollBack i) s)

/-! ### Registers of BAR0 (R337) -/

/-- R297, R298: the patch window is captured at once; a trigger of a graph whose launch runs or waits takes one of the 8 entries of the launch
queue, and one that finds it full is ignored. -/
def State.trigger (s : State) (value : Word) : State :=
  let g := bits value.toNat 56 8
  let n := bits value.toNat 0 7
  if n > 64 then s
  else
    let pairs := (List.range n).map fun k =>
      let w := (mget 0 s.patchWin (2 * k)).toNat
      (bits w 32 32, bits w 0 32, mget 0 s.patchWin (2 * k + 1))
    if s.launches.any (fun l => l.graph == g) || s.launchQ.any (fun q => q.1 == g) then
      if s.launchQ.length ≥ 8 then s else { s with launchQ := s.launchQ ++ [(g, pairs)] }
    else { s with launchQ := s.launchQ ++ [(g, pairs)] }.postNext [.launchStart g]
def execTriggerWrite (value : Word) (s : State) : Out := .next (s.trigger value)

/-- R338: the launches that hold slot r and have no live node end. -/
def State.launchesEnd (s : State) (r : Nat) : State :=
  (s.launches.filter fun l => s.inGraph l.graph r).foldl (fun s l => s.checkLaunchEnd l.graph) s

/-- R293, R295, R296, R298, R338: a write to the selected slot, or on die 0 to the selected context descriptor. A word of a record of a running
launch is changed for the next launch only, and its runtime word not at all. -/
def State.uploadWrite (s : State) (die off : Nat) (value : Word) : State :=
  let sel := (s.getDie die).select.toNat
  let w := off / 8
  if bits sel 31 1 = 1 then
    if die = 0 ∧ w < 4 then { s with mem := Memory.write s.mem (ctxBase (bits sel 0 8) + 8 * w) 8 value.toNat } else s
  else
    let r := refOf die (bits sel 0 15)
    let s := { s with uploaded := true }
    if w = 1 ∧ s.launches.any (fun l => l.nodes.contains r) then s
    else
      let old := s.slotWord r w
      let keep := fun (l : Launch) => s.inGraph l.graph r && !l.overlay.any (fun o => o.1 == r && o.2.1 == w)
      let s := { s with launches := s.launches.map fun l => if keep l then { l with overlay := l.overlay ++ [(r, w, old)] } else l }
      (s.setSlotWord r w value).launchesEnd r
def execUploadWindowWrite (die off : Nat) (value : Word) (s : State) : Out :=
  .next (if die < Config.numDies ∧ off < 256 then s.uploadWrite die off value else s)

/-- R332: accepted before the first graph upload, and only if the map stays one to one. -/
def State.maskWrite (s : State) (k : Nat) (value : Word) : State :=
  let m := bits value.toNat 0 30
  if s.uploaded ∨ 13 ≤ k ∨ bits m 0 (k + 1) ≠ 2 ^ k then s else { s with hmask := mput s.hmask k (BitVec.ofNat 64 m) }
def execHmaskWrite (k : Nat) (value : Word) (s : State) : Out := .next (s.maskWrite k value)

/-- The programming window is open while no core is in Run (R348). -/
def State.windowOpen (s : State) : Bool := s.cores.all fun c => c.2.power.cur != 0
/-- R65, R348: the limit, kept between 16 and the band's ceiling, takes effect at the next tick; outside the window the error bit is set. -/
def State.tableWrite (s : State) (entry : Nat) (value : Lane) : State :=
  if !s.windowOpen then { s with winErr := true }
  else if 64 ≤ entry ∨ 6 ≤ entry % 8 then s
  else { s with tempPending := s.tempPending ++ [(entry, BitVec.ofNat 16 (max 16 (min (bits value.toNat 0 16) (ceiling (entry / 8)))))] }
def execTempTableWrite (entry : Nat) (value : Lane) (s : State) : Out := .next (s.tableWrite entry value)

/-! ### Power words (R342, R344, R345, R452) -/

/-- The power word of a core or die. -/
def State.powerOf (s : State) (isDie : Bool) (n : Nat) : Power := if isDie then (s.getDie n).power else (s.getCore n).power
def State.setPower (s : State) (isDie : Bool) (n : Nat) (p : Power) : State :=
  if isDie then s.modDie n fun d => { d with power := p } else s.modCore n fun c => { c with power := p }

/-- A core number kept in a rising list without repeats. -/
def addStart (n : Nat) : List Nat → List Nat
  | [] => [n]
  | m :: ms => if n < m then n :: m :: ms else if n = m then m :: ms else m :: addStart n ms

/-- A request for a state (R344, R452): Run for a core of a die that is not Active or has tripped is refused, 0b11 is ignored, and a core that
leaves Off joins the staggered starts (R345). -/
def State.powerRequest (s : State) (isDie : Bool) (n r : Nat) : State :=
  let p := s.powerOf isDie n
  if r ≥ 3 ∨ (isDie ∧ Config.numDies ≤ n) ∨ (!isDie ∧ Config.numCores ≤ n) then s
  else if !isDie && r == 0 && ((s.getDie (n / 8)).power.cur != 0 || (s.getDie (n / 8)).tripped) then
    s.setPower isDie n { p with req := p.cur, err := true }
  else
    let s := s.setPower isDie n { p with req := r }
    if isDie then s
    else if p.cur = 2 ∧ r ≠ 2 then { s with starting := addStart n s.starting } else { s with starting := s.starting.filter (· != n) }

/-- A write of a whole power word: bit 11 clears err, bits 1:0 request a state. -/
def State.powerWrite (s : State) (isDie : Bool) (n : Nat) (value : Word) : State :=
  let s := if value.getLsbD 11 then s.setPower isDie n { s.powerOf isDie n with err := false } else s
  s.powerRequest isDie n (bits value.toNat 0 2)

def execCoreReqRun (core : Nat) (s : State) : Out := .next (s.powerRequest false core 0)
def execCoreReqGate (core : Nat) (s : State) : Out := .next (s.powerRequest false core 1)
def execCoreReqOff (core : Nat) (s : State) : Out := .next (s.powerRequest false core 2)
def execDieReqActive (die : Nat) (s : State) : Out := .next (s.powerRequest true die 0)
def execDieReqRetain (die : Nat) (s : State) : Out := .next (s.powerRequest true die 1)
def execDieReqOff (die : Nat) (s : State) : Out := .next (s.powerRequest true die 2)

/-! ### The register file of BAR0 (R337) -/

/-- A 64-bit host write at byte offset off of BAR0 (R337). Read-only places ignore it. -/
def State.barWrite (s : State) (off : Nat) (value : Word) : State :=
  if off = 0 then { s with winErr := s.winErr && !value.getLsbD 1 }
  else if off = 0x1000 then s.trigger value
  else if 0x1400 ≤ off ∧ off < 0x1800 then { s with patchWin := mset 0 s.patchWin ((off - 0x1400) / 8) value }
  else if 0x10000 ≤ off ∧ off < 0x10000 + 0x1000 * Config.numDies then
    let d := (off - 0x10000) / 0x1000
    let o := off % 0x1000
    if o < 256 then s.uploadWrite d o value
    else if o = 0x100 then s.modDie d fun x => { x with select := value.setWidth 32 }
    else s
  else if 0x20000 ≤ off ∧ off < 0x26000 then
    { s with graphTable := mset 0 s.graphTable ((off - 0x20000) / 8) (BitVec.ofNat 64 (bits value.toNat 0 40)) }
  else if 0x30000 ≤ off ∧ off < 0x30000 + 0x100 * Config.numDies then
    if off % 0x100 = 0 then s.modDie ((off - 0x30000) / 0x100) fun d => { d with rbcfg := if value.setWidth 16 = 0 then 1 else value.setWidth 16 } else s
  else if 0x40000 ≤ off ∧ off < 0x40100 then
    (s.tableWrite ((off - 0x40000) / 4) (value.setWidth 32)).tableWrite ((off - 0x40000) / 4 + 1) ((value >>> 32).setWidth 32)
  else if 0x41000 ≤ off ∧ off < 0x41000 + 8 * Config.numCores then s.powerWrite false ((off - 0x41000) / 8) value
  else if 0x41400 ≤ off ∧ off < 0x41400 + 8 * Config.numDies then s.powerWrite true ((off - 0x41400) / 8) value
  else if 0x42000 ≤ off ∧ off < 0x42068 then s.maskWrite ((off - 0x42000) / 8) value
  else if 0x50000 ≤ off ∧ off < 0x80000 then { s with viaduct := mset 0 s.viaduct ((off - 0x50000) / 8 * 8) value }
  else s
def execRegisterWrite (off : Nat) (value : Word) (s : State) : Out := .next (s.barWrite off value)

/-- The words of an entry of the error log (R434). -/
def LogEntry.word (e : LogEntry) (k : Nat) : Nat :=
  if k = 0 then e.kind * 2 ^ 56 + e.die % 16 * 2 ^ 52 + e.core % 128 * 2 ^ 45 + e.deck % 4 * 2 ^ 43 + e.node % 2 ^ 32
  else if k = 1 then e.time else if k = 2 then e.detail.toNat else 0

/-- The 64-bit word that the host reads at byte offset off of BAR0 (R337, R338, R342, R434). Write-only and unnamed places read zero. -/
def State.barRead (s : State) (off : Nat) : Nat :=
  let power := fun (p : Power) => p.req + p.cur * 2 ^ 8 + (if p.req ≠ p.cur then 2 ^ 10 else 0) + (if p.err then 2 ^ 11 else 0)
  if off = 0 then (if s.ready then 1 else 0) + (if s.winErr then 2 else 0)
  else if 0x700 ≤ off ∧ off < 0x730 then
    (mget 0 s.corrected ((off - 0x700) / 4)).toNat + (mget 0 s.corrected ((off - 0x700) / 4 + 1)).toNat * 2 ^ 32
  else if off = 0x7F8 then s.logCount
  else if 0x800 ≤ off ∧ off < 0x1000 then
    let slot := (off - 0x800) / 32
    -- the latest entry at this slot of the ring
    if slot < s.logCount then (match s.log[s.logCount - 1 - (s.logCount - 1 - slot) % 64]? with | some e => e.word ((off - 0x800) / 8 % 4) | none => 0) else 0
  else if 0x1400 ≤ off ∧ off < 0x1800 then (mget 0 s.patchWin ((off - 0x1400) / 8)).toNat
  else if off = 0x2000 then s.launchQ.length % 16 + (match s.launches with | l :: _ => l.graph * 2 ^ 8 | [] => 0) + s.ignored % 128 * 2 ^ 16
  else if 0x10000 ≤ off ∧ off < 0x10000 + 0x1000 * Config.numDies then
    let d := (off - 0x10000) / 0x1000
    let o := off % 0x1000
    let sel := (s.getDie d).select.toNat
    if o < 256 then
      if bits sel 31 1 = 0 then (s.slotWord (refOf d (bits sel 0 15)) (o / 8)).toNat
      else if d = 0 ∧ o < 32 then s.ctxWord (bits sel 0 8) (o / 8) else 0
    else if o = 0x100 then sel
    else 0
  else if 0x20000 ≤ off ∧ off < 0x26000 then (mget 0 s.graphTable ((off - 0x20000) / 8)).toNat
  else if 0x30000 ≤ off ∧ off < 0x30000 + 0x100 * Config.numDies ∧ off % 0x100 = 0 then (s.getDie ((off - 0x30000) / 0x100)).rbcfg.toNat
  else if 0x40000 ≤ off ∧ off < 0x40100 then
    let e := (off - 0x40000) / 4
    s.limitOf (e / 8) (e % 8) + s.limitOf ((e + 1) / 8) ((e + 1) % 8) * 2 ^ 32
  else if 0x41000 ≤ off ∧ off < 0x41000 + 8 * Config.numCores then power (s.getCore ((off - 0x41000) / 8)).power
  else if 0x41400 ≤ off ∧ off < 0x41400 + 8 * Config.numDies then power (s.getDie ((off - 0x41400) / 8)).power
  else if 0x42000 ≤ off ∧ off < 0x42068 then s.hashMask ((off - 0x42000) / 8)
  else if 0x50000 ≤ off ∧ off < 0x80000 then (mget 0 s.viaduct ((off - 0x50000) / 8 * 8)).toNat
  else 0

end Sys2Proof.Machine
end

