-- ==== Sys2Proof/Machine/Power.lean ====
section
/-! DEFINITION. Power states, staggered starts, reset and the test access port (spec 15 R342-R350). -/
namespace Sys2Proof.Machine

/-- No instance is dispatched on core c (R344). -/
def State.coreIdle (s : State) (c : Nat) : Bool := (coreDecks c).all fun n => (s.getDeck n).inst.isNone

/-- The cores of die d. -/
def dieCores (d : Nat) : List Nat := (List.range 8).map (8 * d + ·)

/-- A pending request meets its condition (R344). A core that is Off leaves it by CORE_START. -/
def State.powerDue (s : State) (isDie : Bool) (n : Nat) : Bool :=
  let p := s.powerOf isDie n
  p.req != p.cur &&
    (if isDie then
      (if p.req = 1 then (dieCores n).all fun c => (s.getCore c).power.cur != 0
       else if p.req = 2 then (dieCores n).all fun c => (s.getCore c).power.cur == 2 else true)
     else p.cur != 2 && (p.req == 0 || s.coreIdle n))

/-- The contents of core c are lost: its store, its instruction store, its registers and everything in flight there (R343). -/
def State.loseCore (s : State) (c : Nat) : State :=
  let p := (s.getCore c).power
  let s := s.setCore c { Core.reset with power := p }
  let s := (coreDecks c).foldl (fun s n => s.setDeck n Deck.reset) s
  let keep := fun (a : Nat) => !(decide (storeBase c ≤ a ∧ a < storeBase c + 2 ^ 26) || decide (istoreBase c ≤ a ∧ a < istoreBase c + 2 ^ 19))
  { s with mem := s.mem.filter (fun q => keep q.1), micro := s.micro.filter fun m => m.core != c }

/-- The contents of the stacks of die d are lost (R343). -/
def State.loseStacks (s : State) (d : Nat) : State :=
  { s with mem := s.mem.filter (fun q => !(inHbm q.1 && (s.hbmPlace (q.1 - 2 ^ 41)).stack / 2 == d)),
           hbm := { s.hbm with starting := s.hbm.starting.filter fun k => k / 2 != d,
                               compressed := s.hbm.compressed.filter (fun b => (s.hbmPlace (512 * b.1 - 2 ^ 41)).stack / 2 != d),
                               badGran := s.hbm.badGran.filter (fun g => (s.hbmPlace (64 * g - 2 ^ 41)).stack / 2 != d),
                               weak := s.hbm.weak.filter fun g => (s.hbmPlace (64 * g - 2 ^ 41)).stack / 2 != d } }

/-- The two stacks of die d are to start (R345); accesses to them wait until they have. -/
def State.startStacks (s : State) (d : Nat) : State :=
  { s with hbm := { s.hbm with starting := addStart (2 * d) (addStart (2 * d + 1) s.hbm.starting) } }

/-- The stack of the lowest number starts, 50 µs after any other (R345). -/
def State.stackStep (s : State) : State :=
  match s.hbm.starting with
  | [] => s
  | _ :: rest =>
    if s.clock < s.hbm.nextStack then s
    else { s with hbm := { s.hbm with starting := rest, nextStack := s.clock + 50 * Config.clocksPerUs } }

/-- R343, R344: the request takes effect. -/
def execPowerStateChange (isDie : Bool) (n : Nat) (s : State) : Out :=
  let p := s.powerOf isDie n
  .next (if !s.powerDue isDie n then s
    else
      let s' := s.setPower isDie n { p with cur := p.req }
      if isDie then
        if p.req = 2 then s'.loseStacks n else if p.cur = 2 then s'.startStacks n else s'
      else if p.req = 2 then s'.loseCore n
      else if p.req = 0 then
        if (s.getDie (n / 8)).power.cur ≠ 0 then s.setPower isDie n { p with req := p.cur, err := true } else s'.askSelections
      else s')

/-- The core whose start is due (R345): 2 µs after the start before it, in increasing core number. -/
def State.startDue (s : State) : Option Nat := if s.clock < s.nextStart then none else s.starting.head?

/-- R345: the core leaves Off, its `clk` counting from 0. -/
def execCoreStart (core : Nat) (s : State) : Out :=
  let p := (s.getCore core).power
  .next (if s.startDue ≠ some core then s
    else
      let s := { s with starting := s.starting.filter (· != core) }
      if (s.getDie (core / 8)).power.cur ≠ 0 ∧ p.req = 0 then s.setPower false core { p with req := p.cur, err := true }
      else
        ({ s.modCore core fun k => { k with power := { p with cur := p.req }, clkBase := s.clock } with
            nextStart := s.clock + 2 * Config.clocksPerUs }).askSelections)

/-- R347: PERST# is deasserted. Every core and die reads Off; each die turns Active before its stacks are to start, so that their starts, 50 µs apart in
increasing number (R345), end by 1.15 ms, and ready comes after that and within 100 ms, after lengths that are free (NOTES.md, Assumption 7). Host memory
keeps its contents. -/
def execResetDeassert (s : State) : Out :=
  let ts := (List.range Config.numDies).map fun d => s.clock + min (Config.freeDelay (s.free + d)) (100 * Config.clocksPerUs * d)
  let ready := s.clock + max 2875000 (min (Config.freeDelay (s.free + Config.numDies)) 250000000)
  .next { State.reset with
    clock := s.clock, readyClock := s.clock, ready := false, boot := some ⟨ts, ready⟩, free := s.free + Config.numDies + 1, seq := s.seq,
    dies := (List.range Config.numDies).map fun d => (d, { Die.reset with power := ⟨2, 2, false⟩ }),
    mem := s.mem.filter fun q => decide (2 ^ 60 ≤ q.1) }

/-- The device on its way to ready (R347), with a stack start of 50 µs between two starts: dies whose clock has come turn Active and their stacks are to
start; at last the ready bit is set, from which the error log counts its ticks (R434). -/
def State.bootStep (s : State) : State :=
  match s.boot with
  | none => s
  | some b =>
    let s := (List.range Config.numDies).foldl (fun (s : State) d =>
      if (s.getDie d).power.cur == 2 && decide (b.dies.getD d 0 ≤ s.clock) then (s.setPower true d ⟨0, 0, false⟩).startStacks d else s) s
    if s.clock < b.readyAt then s else { s with boot := none, ready := true, readyClock := s.clock }

/-- R350: test logic reset, written as no code, empties the instruction registers of the chain. A boundary-scan instruction, one code for each die in
chain order, is accepted only while every die is Off. -/
def execTapInstruction (codes : List Nat) (s : State) : Out :=
  .next (if codes.isEmpty || (List.range Config.numDies).all fun d => (s.getDie d).power.cur == 2 then { s with tap := codes.take Config.numDies } else s)

/-- The die whose Roundabout brings an event about. -/
def State.dieOfEvent (s : State) (ev : Instr) : Option Nat :=
  match ev with
  | .tokenArrival q _ => some (refDie q)
  | .loopBodyEnd q => some (refDie q)
  | .nodeComplete q => if q < 2 ^ 32 then some (refDie q) else (s.nodeInsts q).head?.map (·.2.die)
  | .roundaboutSelection d => some d
  | .agingTick d => some d
  | .mewsRingRetry d => some d
  | .queueRingDrain d => some d
  | .cancelMessage d _ => some d
  | .dispatch i => some (s.getInst i).die
  | .preemptSave i => some (s.getInst i).die
  | .preemptResume i => some (s.getInst i).die
  | .spillStart i => some (s.getInst i).die
  | .spawnSetArrival q => ((s.flying.find? fun f => f.id == q).map fun f => f.queue % 12)
  | _ => none

/-- The core at whose semaphores a remote signal adds. -/
def coreOfEvent : Instr → Option Nat
  | .remoteSignalArrival c _ => some c
  | _ => none

/-- What would bring an event about has no clock: the Roundabout of a die that is Off, or a core that is (R343). -/
def State.asleep (s : State) (ev : Instr) : Bool :=
  (s.dieOfEvent ev).any (fun d => (s.getDie d).power.cur == 2) || (coreOfEvent ev).any fun c => (s.getCore c).power.cur == 2

end Sys2Proof.Machine
end

