-- ==== Sys2Proof/Machine/Checks.lean ====
section
/-! DEFINITION. What the hardware checks in a deck: the registers a syllable reads and their parity (spec 23 R437), residues (R438), the Parapet's own
copies and what it compares (R442, R443). -/
namespace Sys2Proof.Machine

/-! ### The registers that a syllable reads -/

/-- Scalar registers. -/
def xReads : Instr → List (BitVec 6)
  | .add _ b | .sub _ b | .and _ b | .or _ b | .xor _ b | .shl _ b | .shr _ b | .sra _ b | .mul _ b | .mulh _ b | .mulhu _ b | .min _ b | .minu _ b
  | .max _ b | .maxu _ b | .sel _ b | .ldq _ b | .ldqt _ b | .tcfg _ b | .trel _ b | .mclr _ b | .cthr _ b => [b.xa, b.xb]
  | .clz _ b | .popc _ b | .bext _ b | .ret _ b | .sema _ b | .semt _ b | .cancel _ b | .xfork _ b | .plive _ b | .vlive _ b | .ppin _ b | .pfree _ b
  | .tage _ b | .pub _ b | .pubR _ b | .mscl _ b | .csig _ b | .cskip _ b | .cmap _ b | .crst _ b => [b.xa]
  | .spawn _ b | .hidx _ b | .mldb _ b | .mma _ b | .mrd _ b => [b.xd, b.xa, b.xb]
  | .bins _ b => [b.xd, b.xa]
  | .addi _ b | .andi _ b | .ori _ b | .xori _ b | .shli _ b | .shri _ b | .srai _ b | .mtsrSlipw _ b | .mtsrFmode _ b | .mtsrFflags _ b | .mtsrCrv _ b
  | .mtsrSdcfg _ b | .mtsrTvec _ b | .ldsB _ b | .ldsH _ b | .ldsW _ b | .ldsD _ b | .hld _ b | .probe _ b => [b.xa]
  | .stsB _ b | .stsH _ b | .stsW _ b | .stsD _ b => [b.xa, b.xd]
  | .movhi _ b => [b.xd]
  | .cmp _ b => [b.xa, b.xb]
  | .cmpi _ b => [b.xa]
  | .loop _ b => [BitVec.ofNat 6 (bits b.low.toNat 12 6)]
  | .ecmd _ b => [b.xcmd, b.xcount]
  | .xmit _ b => if b.kind = 0 then [] else [BitVec.ofNat 6 (bits b.src.toNat 3 6)]
  | .xred _ b => [b.xa]
  | .vbcast _ b | .vidx _ b | .vins _ b => [xField b.na]
  | .vst _ b => [xField b.na, xField b.nb]
  | .tshp _ b => [b.xa]
  | .tscl _ b => [b.xa]
  | _ => []

/-- Vector names. -/
def vReads : Instr → List Nat
  | .vadd _ b | .vsub _ b | .vmul _ b | .vmin _ b | .vmax _ b | .vabsd _ b | .vsel _ b | .vperm _ b | .vcmpd _ b | .vand _ b | .vor _ b | .vxor _ b =>
    [b.a, b.b2]
  | .vfma _ b | .vfms _ b | .vfnma _ b | .vdot4 _ b | .vmadi _ b => [b.a, b.b2, b.d]
  | .vabs _ b | .vneg _ b | .vmov _ b | .vext _ b | .vslide _ b | .vrev _ b | .vredsum _ b | .vredmax _ b | .vredmin _ b | .vscan _ b | .vrcpe _ b | .vrsqe _ b
  | .vexp2e _ b | .vlog2e _ b | .vcvt _ b | .vexpnd _ b | .vtag _ b | .vtopk _ b | .vnot _ b | .vclz _ b | .vpopc _ b | .vpop _ b => [b.a]
  | .vshl _ b | .vshr _ b | .vsra _ b => if b.m.getLsbD 0 then [b.a] else [b.a, b.b2]
  | .vcmp _ b => [b.na.toNat, b.nb.toNat]
  | .vst _ b => [b.d]
  | .xmit _ b => if b.kind = 0 then [b.src.toNat] else []
  | .xred _ b => [b.src.toNat]
  | .tld _ b => [b.vn.toNat]
  | _ => []

/-- Predicates, beside those of the guard. -/
def pReads : Instr → List Nat
  | .sel _ b | .boq _ b => [bits b.m.toNat 0 5]
  | .cmp _ b => if b.comb = 0 then [] else [b.pd.toNat, b.pe.toNat]
  | .cmpi _ b => if b.comb = 0 then [] else [b.pd.toNat, b.pe.toNat]
  | .vcmp _ b => if b.comb = 0 then [] else [b.pd.toNat, b.pe.toNat]
  | .ptt _ b => [b.pa.toNat, b.pb.toNat, b.pc.toNat]
  | .vsel _ b | .vexpnd _ b => [b.m.toNat]
  | _ => []

/-- t-registers: of a subtree the live leaves and the weights they meet, on the way down the adjoints too. -/
def tReads (d : Deck) : Instr → List Nat
  | .tst _ b => (List.range (b.n.toNat + 1)).map (b.t.toNat + ·)
  | .tup _ b => let w := (mget 0 d.shapes b.shape.toNat).toNat; leafRegs w b.tbase.toNat ++ weightRegs w b.tbase.toNat
  | .tdn _ b =>
    let w := (mget 0 d.shapes b.shape.toNat).toNat
    b.t.toNat :: leafRegs w b.tbase.toNat ++ weightRegs w b.tbase.toNat ++ (leafRegs w b.tbase.toNat).map (· + 256)
  | _ => []

/-- The predicates that a guard with truth table tt looks at. -/
def guardReads (h : Hd) : List Nat := if h.tt = 0 ∨ h.tt = 0xFF then [] else [h.pa.toNat, h.pb.toNat, h.pc.toNat]

/-- What instruction i reads in deck d: register file and number. One whose guard is off in every lane reads its guard only. -/
def readsOf (d : Deck) (i : Instr) : List (RegFile × Nat) :=
  match opcodeOf i with
  | none => []
  | some (h, _) =>
    (guardReads h).map (RegFile.p, ·) ++
      (if d.guard h = 0 then [] else (xReads i).map (fun r => (RegFile.x, r.toNat)) ++ (vReads i).map (RegFile.v, ·) ++ (pReads i).map (RegFile.p, ·) ++
        (tReads d i).map (RegFile.t, ·))

/-! ### Parity (R437; NOTES.md, Assumption 99) -/

/-- A place as the detail of a log entry names it: file, number, word. -/
def RegFile.code : RegFile → Nat
  | .x => 0 | .p => 1 | .v => 2 | .t => 3 | .entry => 4
def Place.code (p : Place) : Nat := p.file.code * 2 ^ 40 + p.num % 2 ^ 32 * 2 ^ 8 + p.word % 2 ^ 8

/-- The place that a detail names; a queue entry by its queue (0-7 oq, 8-15 rq) × 16 + its place in it. -/
def Deck.placeOf (d : Deck) (w : Nat) : Option Place :=
  let n := bits w 8 32
  let at_ := fun (f : RegFile) => some (⟨f, n, bits w 0 8⟩ : Place)
  match bits w 40 3 with
  | 0 => at_ .x
  | 1 => at_ .p
  | 2 => at_ .v
  | 3 => at_ .t
  | 4 => (((if n / 16 < 8 then mget [] d.oq (n / 16) else mget [] d.rq (n / 16 - 8)))[n % 16]?).map fun e => ⟨.entry, e.id, bits w 0 8⟩
  | _ => none

/-- A word of deck n, or an accumulator cell of core c (file 5), is left with bad parity. -/
def State.spoilParity (s : State) (c n w : Nat) : State :=
  if bits w 40 3 = 5 then s.modCore c fun k => { k with badCells := insertUniq (bits w 8 32) k.badCells }
  else match (s.getDeck n).placeOf w with
    | some p => s.modDeck n fun d => { d with parity := p :: d.parity.filter (· != p) }
    | none => s

/-- The words that a result writes are good again. -/
def Latch.covers (l : Latch) (p : Place) : Bool :=
  match l.dest with
  | .x r => p.file == .x && p.num == r
  | .p r => p.file == .p && p.num == r && l.mask.extractLsb' (32 * p.word) 32 != 0
  | .v r => p.file == .v && p.num == r && l.mask.getLsbD p.word
  | .t r => p.file == .t && decide (r ≤ p.num) && l.mask.getLsbD (p.num - r)
  | .tAdj r .. => p.file == .t && p.num == r
  | .oq _ id | .rq _ id => p.file == .entry && p.num == id
  | .flags | .spr _ => false

/-- Numbers of the entries in a deck's queues. -/
def Deck.entryIds (d : Deck) : List Nat := (d.oq ++ d.rq).flatMap fun q => q.2.map (·.id)

/-- A bundle of deck n with these instructions has issued from state s0: a read of a word with bad parity is a machine check for its instance. -/
def State.checkParity (s s0 : State) (n : Nat) (is : List Instr) : State :=
  let d := s0.getDeck n
  if d.parity.isEmpty then s else
    let rs := is.flatMap (readsOf d)
    let left := (s.getDeck n).entryIds
    let met := d.parity.filter fun p => if p.file = .entry then d.entryIds.contains p.num && !left.contains p.num else rs.contains (p.file, p.num)
    met.foldl (fun s p =>
      let s := s.logError 0x02 (n / 4) n (match d.inst with | some i => (s.getInst i).node | none => 0) (BitVec.ofNat 64 p.code)
      match d.inst with | some i => s.checkInst i | none => s) s

/-- The cells of a row of the accumulator with bad parity. -/
def Core.cellsIn (k : Core) (row width : Nat) : List Nat := k.badCells.filter fun n => decide (width * row ≤ n ∧ n < width * (row + 1))

/-- A step of the array on a row of the accumulator: a row of an `mma` reads it, which is a check for its instance, and writes it; a clear writes it; a row
of an `mrd` reads it, which is a check for the lease holder's. -/
def State.checkCells (s : State) (m : Micro) : State :=
  let k := s.getCore m.core
  let found := fun (s : State) (n : Nat) (i : Option Nat) (cells : List Nat) => cells.foldl (fun s a => s.arrayCheck m.core n i 0x02 (BitVec.ofNat 64 (5 * 2 ^ 40 + a * 2 ^ 8))) s
  let good := fun (s : State) (cells : List Nat) => s.modCore m.core fun k => { k with badCells := k.badCells.filter fun a => !cells.contains a }
  if k.badCells.isEmpty then s else
    match m.act with
    | .mmaRow g i _ (some _) => let cs := k.cellsIn (g.acc0 + i) (modeCols (k.slot g.slot).mode); good (found s g.deck g.inst cs) cs
    | .clrRow r w => good s (k.cellsIn r w)
    | .mrdRow q => match k.leaseHolder with
      | some h => found s (4 * m.core + h) (s.getDeck (4 * m.core + h)).inst (k.cellsIn q.accRow q.width)
      | none => found s q.deck q.inst (k.cellsIn q.accRow q.width)
    | _ => s

/-! ### Residues (R438) -/

/-- A vector result of deck n is faulty in the lanes of a mask: the youngest one still in flight lands with free data there. -/
def State.faultyLanes (s : State) (n : Nat) (mask : Word) : State :=
  match (s.getDeck n).latches.reverse.find? fun l => l.rank == 2 && (match l.dest with | .v _ | .rq .. => true | _ => false) with
  | none => s
  | some l =>
    let spoil := fun (q : Latch) => if q.seq = l.seq then { q with data := mergeLanes (mask.setWidth 128) q.data (Config.freeRow s.free) } else q
    ({ s with free := s.free + 1 }).modDeck n fun d => { d with latches := d.latches.map spoil }

/-- A column adder of core c is faulty in the columns of a mask: the cells of the row that performs in this clock take free data (NOTES.md, Assumption 99). -/
def State.faultyColumns (s : State) (c : Nat) (mask : Word) : State :=
  match s.micro.findSome? fun m => match m.act with | .mmaRow g i .. => if m.core = c ∧ m.at_ ≤ s.clock then some (g, i) else none | _ => none with
  | none => s
  | some (g, i) =>
    let w := modeCols ((s.getCore c).slot g.slot).mode
    ((List.range (min 64 w)).filter fun j => mask.getLsbD j).foldl (fun s j =>
      ({ s with free := s.free + 1 }).modCore c fun k => { k with acc := mset 0 k.acc (w * (g.acc0 + i) + j) ((Config.freeRow s.free).setWidth 128) }) s

/-- A residue mismatch, in a deck's lanes, or, with a number above 3, in the column adders of the core, which is the lease holder's instance's. -/
def State.checkResidue (s : State) (core deck : Nat) (detail : Word) : State :=
  if deck < 4 then (s.faultyLanes (4 * core + deck) detail).checkDeck 0x03 (4 * core + deck) detail
  else match (s.getCore core).leaseHolder with
    | some h => (s.faultyColumns core detail).checkDeck 0x03 (4 * core + h) detail
    | none => s.logError 0x03 core (4 * core) 0 detail

/-! ### The Parapet (R442, R443) -/

/-- The Parapet that equals its deck. -/
def Deck.parapet (d : Deck) : Parapet := d.par.getD ⟨d.x, d.p, d.loopsA, d.loopsE, [], []⟩

/-- A bit of a Parapet's copies flips: of a scalar register, a predicate, or the count of the top level of a loop stack. -/
def Parapet.flip (p : Parapet) (w : Nat) : Parapet :=
  let n := bits w 8 6
  let b := bits w 0 8
  let top := fun (ls : List Level) => match ls with | l :: r => { l with rem := l.rem ^^^ (1 <<< b) } :: r | [] => []
  match bits w 40 3 with
  | 0 => if n = 0 then p else { p with x := mset 0 p.x n (mget 0 p.x n ^^^ (1 <<< b)) }
  | 1 => if n % 32 = 31 then p else { p with p := mset 0 p.p (n % 32) (mget 0 p.p (n % 32) ^^^ (1 <<< b)) }
  | 2 => { p with loopsA := top p.loopsA }
  | _ => { p with loopsE := top p.loopsE }

/-- The Parapet of deck n differs from it in a bit. -/
def State.flipParapet (s : State) (n w : Nat) : State := s.modDeck n fun d => { d with par := some (d.parapet.flip w) }

/-- The deck with the Parapet's copies in place of its own. -/
def Deck.withParapet (d : Deck) (p : Parapet) : Deck := { d with x := p.x, p := p.p, loopsA := p.loopsA, loopsE := p.loopsE }

/-- A result for a scalar register or a predicate. -/
def Latch.forParapet (l : Latch) : Bool := match l.dest with | .x _ | .p _ => true | _ => false

/-- What deck n has landed in this clock, `ls`, and the Parapet's own results that are due, land in the Parapet; the results it has computed itself it does not
copy. -/
def Parapet.land (p : Parapet) (ls : List Latch) (due : Latch → Bool) : Parapet :=
  let now := (ls.filter fun l => l.forParapet && !p.skip.contains l.seq) ++ p.own.filter due
  let d := (now.foldl (fun acc l => insertLatch l acc) []).foldl (fun d l => d.land l) { Deck.reset with x := p.x, p := p.p }
  { p with x := d.x, p := d.p, own := p.own.filter fun l => !due l, skip := p.skip.filter fun k => !ls.any fun l => l.seq == k }

/-- The landings of deck n in a clock, for its parity and its Parapet too. -/
def State.landChecked (s : State) (n : Nat) : State :=
  let d := s.getDeck n
  let t := s.landDeck n s.clock
  if d.parity.isEmpty && d.par.isNone then t else
    let c := match d.frozen with | some f => min f s.clock | none => s.clock
    let due := fun (l : Latch) => d.trapWait.isNone && decide (l.land ≤ c)
    let ls := d.latches.filter due
    t.modDeck n fun e => { e with parity := e.parity.filter fun p => !ls.any fun l => l.covers p, par := e.par.map fun p => p.land ls due }

/-- What the table of R442 has compared for a syllable, as a deck has it: Guard(0) first where it is compared; off, it leaves nothing else to compare. -/
def comparedOf (d : Deck) : Instr → List Nat
  | .ecmd h b => guarded d h [(d.getX b.xcmd).toNat, bits (d.getX b.xcount).toNat 0 32, bits (d.getX b.xcount).toNat 63 1]
  | .stsB h b | .stsH h b | .stsW h b | .stsD h b => guarded d h [(d.getX b.xa + b.imm.signExtend 64).toNat]
  | .vst _ b => [(d.getX (xField b.na) + d.getX (xField b.nb)).toNat]
  | .semw h _ => guarded d h []
  | .sema h b | .semt h b | .cancel h b | .xfork h b => guarded d h [(d.getX b.xa).toNat]
  | .spawn h b => guarded d h [(d.getX b.xa).toNat, (d.getX b.xb).toNat, (d.getX b.xd).toNat]
  | _ => []
where
  guarded (d : Deck) (h : Hd) (vs : List Nat) : List Nat := if (d.guard h).getLsbD 0 then 1 :: vs else [0]

/-- Targets and counts of the control syllables of a bundle that has run in state s (R442): its taken target, and the loop levels set up beyond those of
deck d. -/
def State.controlOf (s : State) (n : Nat) (d : Deck) : Option CodeAddr × List Level :=
  let e := s.getDeck n
  (s.issue.target, e.loopsA.take (e.loopsA.length - d.loopsA.length) ++ e.loopsE.take (e.loopsE.length - d.loopsE.length))

/-- What a mismatch on a syllable of deck n stops (R443): the command that it has just entered, or the store that it has just issued. -/
def State.dropCompared (s s0 : State) (n : Nat) (h : Hd) : State :=
  let mine := fun (m : Cmd) => m.deck == n && m.way.isNone && m.at_ == s.clock && m.ex == isEx h
  let s := (List.range 3).foldl (fun s e =>
    let old := ((s0.getCore (n / 4)).engine e).queue
    s.modCore (n / 4) fun k => k.setEngine e ((k.engine e).dropCmds (fun m => mine m && !old.contains m) s.clock)) s
  { s with micro := s.micro.filter fun m => !(m.deck == n && m.isStore && m.ex == isEx h && decide (s0.seq ≤ m.seq) && (match m.act with | .write .. => true | _ => false)) }

end Sys2Proof.Machine
end

