-- ==== Sys2Proof/Machine/Reliability.lean ====
section
/-! DEFINITION. Machine checks, HBM4 refresh, scrubbing and repair, links and messages, thermal trips (spec 14 R333, spec 23 R432-R452). -/
namespace Sys2Proof.Machine

/-! ### Machine checks (R432, R434, R442, R443) -/

/-- The instances that have a deck on core c. -/
def State.instsOn (s : State) (c : Nat) : List Nat := ((coreDecks c).filterMap fun n => (s.getDeck n).inst).eraseDups

/-- An error leaves granules uncorrectable; the manual states no value that a read of them delivers, so their bytes are free values
(NOTES.md, Assumption 8). `gs` are places in the model's memory in units of 64 bytes. -/
def State.spoilBytes (s : State) (gs : List Nat) : State :=
  gs.foldl (fun s g => { s with mem := Memory.write s.mem (64 * g) 64 (Config.freeRow s.free).toNat, free := s.free + 1 }) s

/-- Granule g of core c's store is uncorrectable (R435). -/
def State.spoilGranule (s : State) (c g : Nat) : State :=
  if (s.getCore c).badGran.contains g then s
  else (s.spoilBytes [storeBase c / 64 + g]).modCore c fun k => { k with badGran := k.badGran ++ [g] }

/-- Granules of HBM4 are uncorrectable (R444). -/
def State.spoilHbm (s : State) (gs : List Nat) : State :=
  let new := gs.filter fun g => !s.hbm.badGran.contains g
  let s := s.spoilBytes new
  { s with hbm := { s.hbm with badGran := s.hbm.badGran ++ new } }

/-- A header with an uncorrectable route: the first packet that stands at router g is dropped there, and nothing of what it is part of is delivered
(R449). -/
def State.dropPacket (s : State) (g : Nat) : State :=
  match s.packets.find? fun p => match p.left with | h :: _ => h.1 == g | [] => false with
  | none => s
  | some p => { s with packets := s.packets.filter fun q => q.id != p.id }

/-- An error arises and nothing meets it yet (NOTES.md, Assumption 99): in a granule of the store (0x01) or of HBM4 (0x09) one that the check corrects,
with bit 62 of the detail, or an uncorrectable one; bad parity of a word of a deck or of an accumulator cell (0x02, R437); a single error in a packet's
header, which the router corrects and counts (R434, R449). -/
def State.errorArises (s : State) (kind core n : Nat) (detail : Word) : State :=
  let soft := detail.getLsbD 62
  if kind = 0x01 then
    if soft then s.modCore core fun k => { k with weak := insertUniq (bits detail.toNat 6 20) k.weak } else s.spoilGranule core (bits detail.toNat 6 20)
  else if kind = 0x09 then
    let g := hbmBase (detail.toNat % 2 ^ 52) / 64
    if soft then { s with hbm := { s.hbm with weak := insertUniq g s.hbm.weak } } else s.spoilHbm [g]
  else if kind = 0x02 then s.spoilParity core n (detail.toNat % 2 ^ 63)
  else if kind = 0x0D then s.countErrors (detail.toNat % 2 ^ 62 / 16) 1
  else s

/-- R432, R434-R449: an error that the checks of the hardware find, by the kind of its log entry: on the deck of that number of the core; with bit 63 of the
detail one that only arises, and for kind 0x06 a bit of the deck's Parapet that flips, whose comparisons find it (R442). A packet
dropped for its header (0x0D), a repair (0x0B, 0x0C) and a replay that has succeeded (0x04) reach no instance, an overdue refresh (0x08) every one of the
core. An uncorrectable granule (0x01 at a store address, 0x09 at a physical address) stays so until it is written whole (R436). -/
def execMachineCheck (kind core deck : Nat) (detail : Word) (s : State) : Out :=
  let n := 4 * core + deck % 4
  .next (if detail.getLsbD 63 && (kind == 0x01 || kind == 0x02 || kind == 0x09 || kind == 0x0D) then s.errorArises kind core n detail
    else
      let s := if kind = 0x01 then s.spoilGranule core (bits detail.toNat 6 20) else if kind = 0x09 then s.spoilHbm [hbmBase (detail.toNat % 2 ^ 52) / 64] else s
      let s := if kind = 0x0D then s.dropPacket detail.toNat else s
      if kind = 0x0B ∨ kind = 0x0C ∨ kind = 0x0D then
        { s with log := s.log ++ [(⟨kind, core / 8, 0x7F, 0, 0, (s.clock - s.readyClock) / Config.tickClocks, detail⟩ : LogEntry)], logCount := s.logCount + 1 }
      else if kind = 0x04 then s.logError 0x04 core n (match (s.getDeck n).inst with | some i => (s.getInst i).node | none => 0) detail
      else if kind = 0x08 then (s.instsOn core).foldl (fun s i => s.checkInst i) (s.logError 0x08 core (4 * core) 0 detail)
      else if kind = 0x06 then s.flipParapet n detail.toNat
      else if kind = 0x03 then s.checkResidue core deck detail
      else s.checkDeck kind n detail)

/-- A doomed deck has stayed 2,048 clocks in its handler of 0x23 (R432). -/
def State.handlerLate (s : State) (n : Nat) : Bool :=
  let d := s.getDeck n
  !d.halted && (match d.checkedAt with | some c => decide (c + 2048 ≤ s.clock) | none => false)

/-- R432: the deck ends; the rollback follows when every deck of the instance has ended. -/
def execMachineCheckHandlerTimeout (deck : Nat) (s : State) : Out := .next (if s.handlerLate deck then s.stopDeck deck else s)

/-! ### HBM4 (R333, R446, R447) -/

/-- Clocks between two refreshes of a bank, by the class of its layer: 32, 16 and 8 ms. -/
def refreshInterval (cls : Nat) : Nat := 32000 * Config.clocksPerUs / 2 ^ cls
def State.refreshClass (s : State) (stack ch : Nat) : Nat := mget 0 s.hbm.interval (16 * stack + ch / 2)

/-- R333: the bank is held for 280 ns. A stack of a die that is not Active refreshes itself. -/
def execHbmRefresh (stack ch pc bank : Nat) (s : State) : Out :=
  .next (if (s.getDie (stack / 2)).power.cur ≠ 0 then s
    else { s with hbm := { s.hbm with hold := mput s.hbm.hold ((stack * 32 + ch) * 32 + pc * 16 + bank) (s.clock + 700) } })

/-- R333: thresholds of 85 and 95 °C with 2 °C of hysteresis. -/
def nextClass (cls celsius : Nat) : Nat :=
  if celsius > 95 ∨ (cls = 2 ∧ celsius > 93) then 2 else if celsius > 85 ∨ (1 ≤ cls ∧ celsius > 83) then 1 else 0
def execHbmRefreshIntervalChange (stack layer celsius : Nat) (s : State) : Out :=
  .next { s with hbm := { s.hbm with interval := mset 0 s.hbm.interval (16 * stack + layer) (nextClass (mget 0 s.hbm.interval (16 * stack + layer)) celsius) } }

/-- R446: the scrubber reads a block of HBM4, by its place in the model's memory in units of 512 bytes: one that needed correction gets a
write-back later, an uncorrectable one is logged. `bad` are its granules that are found uncorrectable; a correction is an input here (`corrected`) or
that of an error in `Hbm.weak`. -/
def execHbmScrubRead (block : Nat) (corrected : Bool) (bad : List Nat) (s : State) : Out :=
  let pa := 512 * block - 2 ^ 41
  let h := s.hbmPlace pa
  let s := s.spoilHbm ((bad.filter (· < 8)).map (8 * block + ·))
  let ws := s.hbm.weak.filter (s.hbm.reads (512 * block) 512)
  if s.hbm.badGran.any (s.hbm.reads (512 * block) 512) || s.hbm.lostBlock block then
    .next { s with log := s.log ++ [(⟨0x0A, h.stack / 2, 0x7F, 0, 0, (s.clock - s.readyClock) / Config.tickClocks, BitVec.ofNat 64 pa⟩ : LogEntry)],
                   logCount := s.logCount + 1 }
  else if corrected || !ws.isEmpty then
    let s := ws.foldl (fun s _ => s.countSymbol h) (if corrected then s.countSymbol h else s)
    let (t, s) := s.delay
    .next (({ s with hbm := { s.hbm with scrubs := s.hbm.scrubs.filter (· != block) ++ [block] } }).post (s.clock + 1 + t) (.hbmScrubWriteback block))
  else .next s

/-- R446: the corrected block is written back as it stands, which rewrites its granules, unless a demand write has cancelled that. It waits at its memory
router like any access (R333, R335, R344, R447). -/
def execHbmScrubWriteback (block : Nat) (s : State) : Out :=
  .next (if !s.hbm.scrubs.contains block then s
    else if s.mustQueue [block - 2 ^ 32] then s.joinQueue [block - 2 ^ 32] (.hbmScrubWriteback block)
    else { s with hbm := { s.hbm with
      weak := s.hbm.weak.filter (fun g => !s.hbm.reads (512 * block) 512 g), scrubs := s.hbm.scrubs.filter (· != block) } })

/-- A channel of the stack pauses. -/
def State.stackPaused (s : State) (stack : Nat) : Bool := (List.range 32).any fun c => decide (s.clock < mget 0 s.hbm.pause (32 * stack + c))

/-- R447: the pin is swapped to a redundant lane while its channel pauses for at most 60 µs; without one it stays in service. One channel of a
stack pauses at a time. -/
def execPinRepair (stack ch pin : Nat) (s : State) : Out :=
  let key := 32 * stack + ch
  let entry := fun (k : Nat) => (⟨k, stack / 2, 0x7F, 0, 0, (s.clock - s.readyClock) / Config.tickClocks, BitVec.ofNat 64 (stack * 4096 + ch * 64 + pin)⟩ : LogEntry)
  .next (if s.stackPaused stack then s.post (s.clock + 1) (.pinRepair stack ch pin)
    else if Config.redundantLanes ≤ mget 0 s.hbm.lanesUsed key then { s with log := s.log ++ [entry 0x0C], logCount := s.logCount + 1 }
    else
      let (t, s) := s.delay
      let stop := s.clock + min (t + 1) (60 * Config.clocksPerUs)
      ({ s with log := s.log ++ [entry 0x0B], logCount := s.logCount + 1,
                hbm := { s.hbm with pause := mput s.hbm.pause key stop, lanesUsed := mput s.hbm.lanesUsed key (mget 0 s.hbm.lanesUsed key + 1),
                                    symbols := mdel s.hbm.symbols (key * 64 + pin) } }).post stop (.pinRepairEnd stack ch))

/-- R447: the waiting accesses go on. -/
def execPinRepairEnd (stack ch : Nat) (s : State) : Out :=
  .next (if s.clock < mget 0 s.hbm.pause (32 * stack + ch) then s else { s with hbm := { s.hbm with pause := mdel s.hbm.pause (32 * stack + ch) } })

/-! ### Links and messages (R448, R449) -/

/-- R448: the link is down. -/
def execLinkDown (link : Nat) (s : State) : Out :=
  .next { s with linksDown := if s.linksDown.contains link then s.linksDown else s.linksDown ++ [link], logCount := s.logCount + 1,
                 log := s.log ++ [(⟨0x0F, 0, 0x7F, 0, 0, (s.clock - s.readyClock) / Config.tickClocks, BitVec.ofNat 64 link⟩ : LogEntry)] }

/-- R449: an acknowledgement from core `dest` has not come within 65,536 clocks. -/
def execE2eTimeout (inst dest : Nat) (s : State) : Out :=
  let x := s.getInst inst
  let n := x.decks.headD 0
  .next (if (s.lateAcks inst).contains dest then (s.logError 0x0E (n / 4) n x.node (BitVec.ofNat 64 dest)).checkInst inst else s)

/-- R449: a message that is not acknowledged yet is sent again, unless it is still on its way; the receiver discards what it has already had by its sequence
number. -/
def execMessageResend (seq : Nat) (s : State) : Out :=
  match s.unacked.find? fun u => u.seq == seq with
  | none => .next s
  | some u =>
    let s := if s.awaits u.ev then s else s.messageOut u.src u.dst farOff u.ev
    let (v, s) := s.delay
    .next (s.post (s.clock + 1 + v) (.messageResend seq))

/-! ### Thermal trips (R452) -/

/-- The core stops at once and goes to Off. -/
def State.tripCore (s : State) (c : Nat) : State := (s.setPower false c { (s.getCore c).power with cur := 2, req := 2 }).loseCore c

/-- R452: a sensor of the die reads 125 °C or more: its instances are rolled back, its cores go to Off and the die to Retain. -/
def execThermalTrip (die celsius : Nat) (s : State) : Out :=
  .next (if celsius < 125 then s
    else
      let is := ((dieCores die).flatMap s.instsOn).eraseDups
      let s := { s with log := s.log ++ [(⟨0x12, die, 0x7F, 0, 0, (s.clock - s.readyClock) / Config.tickClocks, BitVec.ofNat 64 celsius⟩ : LogEntry)],
                        logCount := s.logCount + 1, starting := s.starting.filter fun c => c / 8 != die }
      let s := s.modDie die fun d => { d with tripped := true, sensor := celsius, power := { d.power with cur := 1, req := 1 } }
      let s := is.foldl (fun s i => s.rollBack i) s
      (dieCores die).foldl (fun s c => s.tripCore c) s)

/-- R452: Run requests are no longer refused once the hottest sensor reads below 115 °C. -/
def execThermalTripClear (die celsius : Nat) (s : State) : Out :=
  .next (s.modDie die fun d => { d with sensor := celsius, tripped := d.tripped && decide (115 ≤ celsius) })

end Sys2Proof.Machine
end

