-- ==== Sys2Proof/Machine/Traps.lean ====
section
/-! DEFINITION. Which trap a deck takes at a boundary, its entry as an event, mutual stalls, the iteration timer (spec 20 R376-R399, spec 21
R400, R402). -/
namespace Sys2Proof.Machine

/-! ### Candidates (R377, R378, R391) -/

/-- A code address lies in a `.noint` region (R391). -/
def Core.inRegion (k : Core) (pc : CodeAddr) : Bool := k.regions.any fun r => r.1 ≤ pc && pc ≤ r.2

/-- The fault of lowest issue number; of equal ones that of the lower engine (R378). -/
def lowestFault : List Pending → Option Pending
  | [] => none
  | p :: ps => match lowestFault ps with
    | none => some p
    | some q => if q.num < p.num ∨ (q.num = p.num ∧ q.eng < p.eng) then some q else some p

/-- An engine fault as a trap (R377). -/
def Pending.trap (p : Pending) (order : Nat) : Trap := ⟨p.cause, p.info, p.addr, order⟩

/-- A late fault is a candidate of order 2: the oldest failure of an access syllable or of the array, by issue (R378, R400). In supervisor mode
the array's faults wait (R459). -/
def Deck.lateTrap (d : Deck) : Option Trap :=
  let acc := d.oldestFailure.bind fun r => r.failed.map fun f => (r.seq, (⟨f.1, f.2.1, f.2.2, 2⟩ : Trap))
  let arr := if d.sup then none else lowestFault d.arrFaults
  match acc, arr with
  | some (q, t), some p => if p.num < q then some (p.trap 2) else some t
  | some (_, t), none => some t
  | none, some p => some (p.trap 2)
  | none, none => none

/-- The interrupts of orders 3-5 that are pending (R391), each by a number: the timer, a message, the fault of an engine's command. -/
def Deck.pendingKeys (d : Deck) : List Nat :=
  (if d.pend20 then [0] else []) ++ (if d.pend21 ≠ 0 then [1] else []) ++ d.engFaults.map fun p => 2 + 4 * p.num + p.eng

/-- The interrupt of a deck in user mode, in the order of R378, orders 3-5 unless a region defers them (R379, R391). -/
def Deck.interrupt (d : Deck) (deferred : Bool) : Option Trap :=
  if d.sup then none
  else if d.pend23 then some ⟨0x23, 0, 0, 1⟩
  else if deferred then none
  else match lowestFault d.engFaults with
    | some p => some (p.trap 3)
    | none =>
      if d.pend21 ≠ 0 then some ⟨0x21, BitVec.ofNat 64 d.pend21, 0, 4⟩ else if d.pend20 then some ⟨0x20, 0, 0, 5⟩ else none

/-- The execute sequencer stands in a region and fewer than 256 bundles have issued in regions since the oldest became pending (R391). -/
def State.deferred (s : State) (n : Nat) : Bool :=
  (s.getCore (n / 4)).inRegion (s.getDeck n).pcE && (s.getDeck n).pendingKeys.all fun k => decide (mget 0 (s.getDeck n).nointCount k < 256)

/-- The interrupt that was pending when this clock began still stands. -/
def Deck.stillPending (d : Deck) (t : Trap) : Bool :=
  match t.order with
  | 1 => d.pend23
  | 3 => d.engFaults.any fun p => p.info == t.info
  | 4 => decide (d.pend21 ≠ 0)
  | _ => d.pend20

/-- The candidate a boundary of deck n in this clock takes first; synchronous causes are found at issue (R376, R378). -/
def Deck.nextTrap (d : Deck) : Option Trap :=
  let irq := d.irq.filter d.stillPending
  if d.sup then (match d.lateTrap with | some t => some t | none => d.pendTrap.filter (·.order == 7))
  else match irq.filter (·.order == 1), d.lateTrap, irq, d.pendTrap with
    | some t, _, _, _ => some t
    | none, some t, _, _ => some t
    | none, none, some t, _ => some t
    | none, none, none, t => t.filter (·.order == 6)

/-- The deck issues bundles, or would: it has not halted, and no trap entry, return or save is under way. -/
def Deck.live (d : Deck) : Bool := d.inst.isSome && !d.halted && !d.hold && d.frozen.isNone

/-- The bundle of the execute sequencer stands at issue in this clock, or would in the clock that a taken branch loses (R376). -/
def Deck.standsAt (d : Deck) (clock : Nat) : Bool := d.live && (decide (d.nextE ≤ clock) || (d.nextE == clock + 1 && d.lostAt == some clock))

/-- The bundle that deck n's execute sequencer stands at. -/
def State.bundleAt (s : State) (c : Nat) (pc : CodeAddr) : Bundle := decodeBundle (Memory.read s.mem (istoreBase c + 32 * pc.toNat) 32)

/-- An enabled `wfi` stands at issue: interrupts are not taken before it (R184). DESIGN CHOICE: neither are they where another syllable of its bundle holds
it (NOTES.md, Assumption 124). -/
def State.atWfi (s : State) (n : Nat) : Bool :=
  match (s.bundleAt (n / 4) (s.getDeck n).pcE).s with
  | .ok (.wfi h _) => ((s.getDeck n).guard h).getLsbD 0
  | _ => false

/-- Interrupt t is not taken where deck n stands: before an enabled `wfi` (R184). -/
def State.wfiKeeps (s : State) (n : Nat) (t : Trap) : Bool := decide (t.cause = 0x20 ∨ t.cause = 0x21 ∨ t.cause = 0x23) && s.atWfi n

/-- A trap is taken at this boundary of deck n; an interrupt that has become pending in this very clock and comes before it is taken in its place (R378;
spec 21, "A fault, a mismatch and a timer together"). -/
def State.preferred (s : State) (n : Nat) (t : Trap) : Trap :=
  match (s.getDeck n).interrupt (s.deferred n) with
  | some q => if q.order < t.order && !s.wfiKeeps n q then q else t
  | none => t

/-- The trap deck n takes in this clock before its bundle issues. -/
def State.dueTrap (s : State) (n : Nat) : Option Trap :=
  let d := s.getDeck n
  if !d.standsAt s.clock then none else (d.nextTrap.filter fun t => !s.wfiKeeps n t).map (s.preferred n)

/-- TRAP_ENTRY has something to do on deck n: a candidate to take, or an entry whose wait has ended (R380). -/
def State.entryDue (s : State) (n : Nat) : Bool :=
  match (s.getDeck n).trapWait with
  | some _ => !((s.getDeck n).revoc.any Revoc.open)
  | none => (s.dueTrap n).isSome

/-- R376-R386: the deck takes its candidate, or the entry it waits with goes on. -/
def execTrapEntry (deck : Nat) (s : State) : Out :=
  .next (if (s.getDeck deck).trapWait.isSome then s.enterTrap deck
    else match s.dueTrap deck with
      | some t => s.takeTrap deck t
      | none => s)

/-! ### Mutual stalls (R394) -/

/-- Both sequencers have stalled for 64 clocks on each other. -/
def State.mutuallyStalled (s : State) (n : Nat) : Bool :=
  let d := s.getDeck n
  d.live && d.fork && (match d.waitA, d.waitE with | some a, some e => decide (max a e + 64 ≤ s.clock) | _, _ => false)

def execMutualStall (deck : Nat) (s : State) : Out :=
  .next (if s.mutuallyStalled deck && (s.getDeck deck).trapWait.isNone then
    s.takeTrap deck (s.preferred deck ⟨0x0F, tinfoOf false 1 (s.getDeck deck).pcE 2, 0, 6⟩) else s)

/-! ### The iteration timer (R397, R398) -/

/-- Deck n has a timer and an instance that runs. -/
def State.timed (s : State) (n : Nat) : Bool :=
  let d := s.getDeck n
  d.inst.isSome && !d.halted && (match d.inst with | some i => (s.getInst i).st == .running | none => false)

/-- The clocks of `iter_max` of deck n's instance. -/
def State.iterClocks (s : State) (n : Nat) : Nat :=
  (match (s.getDeck n).inst with | some i => (s.getInst i).iterMax | none => 0) * Config.clocksPerUs

/-- R397: 0x20 becomes pending once, at half of `iter_max`. -/
def execIterTimerHalf (deck : Nat) (s : State) : Out :=
  .next (if s.timed deck && (s.getDeck deck).timer == s.iterClocks deck / 2 then s.modDeck deck fun d => { d with pend20 := true } else s)

/-- R398: 0x21 with reason 1, at `iter_max`. -/
def execIterOverrun (deck : Nat) (s : State) : Out :=
  .next (if s.timed deck && (s.getDeck deck).timer == s.iterClocks deck then s.modDeck deck fun d => { d with pend21 := 1 } else s)

end Sys2Proof.Machine
end

