-- ==== Sys2Proof/Machine/Dispatch.lean ====
section
/-! DEFINITION. Which meaning each instruction has: one arm per constructor of Instr. -/
namespace Sys2Proof.Machine

def exec (i : Instr) (s : State) : Host.Outcome State Fault Refusal :=
  match i with
  | .nop h b => Sys2Proof.Machine.execNop h b s
  | .add h b => Sys2Proof.Machine.execAdd h b s
  | .sub h b => Sys2Proof.Machine.execSub h b s
  | .and h b => Sys2Proof.Machine.execAnd h b s
  | .or h b => Sys2Proof.Machine.execOr h b s
  | .xor h b => Sys2Proof.Machine.execXor h b s
  | .shl h b => Sys2Proof.Machine.execShl h b s
  | .shr h b => Sys2Proof.Machine.execShr h b s
  | .sra h b => Sys2Proof.Machine.execSra h b s
  | .mul h b => Sys2Proof.Machine.execMul h b s
  | .mulh h b => Sys2Proof.Machine.execMulh h b s
  | .mulhu h b => Sys2Proof.Machine.execMulhu h b s
  | .min h b => Sys2Proof.Machine.execMin h b s
  | .minu h b => Sys2Proof.Machine.execMinu h b s
  | .max h b => Sys2Proof.Machine.execMax h b s
  | .maxu h b => Sys2Proof.Machine.execMaxu h b s
  | .sel h b => Sys2Proof.Machine.execSel h b s
  | .clz h b => Sys2Proof.Machine.execClz h b s
  | .popc h b => Sys2Proof.Machine.execPopc h b s
  | .bext h b => Sys2Proof.Machine.execBext h b s
  | .bins h b => Sys2Proof.Machine.execBins h b s
  | .addi h b => Sys2Proof.Machine.execAddi h b s
  | .andi h b => Sys2Proof.Machine.execAndi h b s
  | .ori h b => Sys2Proof.Machine.execOri h b s
  | .xori h b => Sys2Proof.Machine.execXori h b s
  | .shli h b => Sys2Proof.Machine.execShli h b s
  | .shri h b => Sys2Proof.Machine.execShri h b s
  | .srai h b => Sys2Proof.Machine.execSrai h b s
  | .movi h b => Sys2Proof.Machine.execMovi h b s
  | .movhi h b => Sys2Proof.Machine.execMovhi h b s
  | .cmp h b => Sys2Proof.Machine.execCmp h b s
  | .cmpi h b => Sys2Proof.Machine.execCmpi h b s
  | .ptt h b => Sys2Proof.Machine.execPtt h b s
  | .br h b => Sys2Proof.Machine.execBr h b s
  | .call h b => Sys2Proof.Machine.execCall h b s
  | .ret h b => Sys2Proof.Machine.execRet h b s
  | .brq h b => Sys2Proof.Machine.execBrq h b s
  | .boq h b => Sys2Proof.Machine.execBoq h b s
  | .loop h b => Sys2Proof.Machine.execLoop h b s
  | .loopi h b => Sys2Proof.Machine.execLoopi h b s
  | .rep h b => Sys2Proof.Machine.execRep h b s
  | .fork h b => Sys2Proof.Machine.execFork h b s
  | .join h b => Sys2Proof.Machine.execJoin h b s
  | .syncs h b => Sys2Proof.Machine.execSyncs h b s
  | .syncw h b => Sys2Proof.Machine.execSyncw h b s
  | .halt h b => Sys2Proof.Machine.execHalt h b s
  | .mfsr h b => Sys2Proof.Machine.execMfsr h b s
  | .mtsrSlipw h b => Sys2Proof.Machine.execMtsrSlipw h b s
  | .mtsrFmode h b => Sys2Proof.Machine.execMtsrFmode h b s
  | .mtsrFflags h b => Sys2Proof.Machine.execMtsrFflags h b s
  | .mtsrCrv h b => Sys2Proof.Machine.execMtsrCrv h b s
  | .mtsrSdcfg h b => Sys2Proof.Machine.execMtsrSdcfg h b s
  | .mtsrTvec h b => Sys2Proof.Machine.execMtsrTvec h b s
  | .fenceDeck h b => Sys2Proof.Machine.execFenceDeck h b s
  | .fenceCore h b => Sys2Proof.Machine.execFenceCore h b s
  | .fenceGang h b => Sys2Proof.Machine.execFenceGang h b s
  | .fenceDevice h b => Sys2Proof.Machine.execFenceDevice h b s
  | .fenceSystem h b => Sys2Proof.Machine.execFenceSystem h b s
  | .qpt h b => Sys2Proof.Machine.execQpt h b s
  | .sq h b => Sys2Proof.Machine.execSq h b s
  | .squareComplete inst => Sys2Proof.Machine.execSquareComplete inst s
  | .transferPhaseEnd inst => Sys2Proof.Machine.execTransferPhaseEnd inst s
  | .semw h b => Sys2Proof.Machine.execSemw h b s
  | .sema h b => Sys2Proof.Machine.execSema h b s
  | .semaAddPerform core sem amount stores => Sys2Proof.Machine.execSemaAddPerform core sem amount stores s
  | .semt h b => Sys2Proof.Machine.execSemt h b s
  | .semr h b => Sys2Proof.Machine.execSemr h b s
  | .alease h b => Sys2Proof.Machine.execAlease h b s
  | .leaseGrant core => Sys2Proof.Machine.execLeaseGrant core s
  | .arel h b => Sys2Proof.Machine.execArel h b s
  | .spawn h b => Sys2Proof.Machine.execSpawn h b s
  | .cancel h b => Sys2Proof.Machine.execCancel h b s
  | .xfork h b => Sys2Proof.Machine.execXfork h b s
  | .trap h b => Sys2Proof.Machine.execTrap h b s
  | .rfe h b => Sys2Proof.Machine.execRfe h b s
  | .wfi h b => Sys2Proof.Machine.execWfi h b s
  | .widx h b => Sys2Proof.Machine.execWidx h b s
  | .plive h b => Sys2Proof.Machine.execPlive h b s
  | .vlive h b => Sys2Proof.Machine.execVlive h b s
  | .ldsB h b => Sys2Proof.Machine.execLdsB h b s
  | .ldsH h b => Sys2Proof.Machine.execLdsH h b s
  | .ldsW h b => Sys2Proof.Machine.execLdsW h b s
  | .ldsD h b => Sys2Proof.Machine.execLdsD h b s
  | .stsB h b => Sys2Proof.Machine.execStsB h b s
  | .stsH h b => Sys2Proof.Machine.execStsH h b s
  | .stsW h b => Sys2Proof.Machine.execStsW h b s
  | .stsD h b => Sys2Proof.Machine.execStsD h b s
  | .ldq h b => Sys2Proof.Machine.execLdq h b s
  | .remoteReadArrival req => Sys2Proof.Machine.execRemoteReadArrival req s
  | .remoteReadResponse req row => Sys2Proof.Machine.execRemoteReadResponse req row s
  | .ldqt h b => Sys2Proof.Machine.execLdqt h b s
  | .hld h b => Sys2Proof.Machine.execHld h b s
  | .hldRecordArrival deck entry gen => Sys2Proof.Machine.execHldRecordArrival deck entry gen s
  | .hidx h b => Sys2Proof.Machine.execHidx h b s
  | .probe h b => Sys2Proof.Machine.execProbe h b s
  | .probeFill core => Sys2Proof.Machine.execProbeFill core s
  | .ppin h b => Sys2Proof.Machine.execPpin h b s
  | .pfree h b => Sys2Proof.Machine.execPfree h b s
  | .tcfg h b => Sys2Proof.Machine.execTcfg h b s
  | .tcfgTakeEffect core tile => Sys2Proof.Machine.execTcfgTakeEffect core tile s
  | .trel h b => Sys2Proof.Machine.execTrel h b s
  | .trelTakeEffect core tile => Sys2Proof.Machine.execTrelTakeEffect core tile s
  | .tage h b => Sys2Proof.Machine.execTage h b s
  | .pub h b => Sys2Proof.Machine.execPub h b s
  | .pubR h b => Sys2Proof.Machine.execPubR h b s
  | .tileMarkTakeEffect core tile recv stores => Sys2Proof.Machine.execTileMarkTakeEffect core tile recv stores s
  | .ldk h b => Sys2Proof.Machine.execLdk h b s
  | .ecmd h b => Sys2Proof.Machine.execEcmd h b s
  | .tramCopy core eng => Sys2Proof.Machine.execTramCopy core eng s
  | .tramLoad core eng => Sys2Proof.Machine.execTramLoad core eng s
  | .tramStoreBack core eng => Sys2Proof.Machine.execTramStoreBack core eng s
  | .tramRemoteCopy core eng => Sys2Proof.Machine.execTramRemoteCopy core eng s
  | .tramGather core eng => Sys2Proof.Machine.execTramGather core eng s
  | .tramFill core eng => Sys2Proof.Machine.execTramFill core eng s
  | .tramBroadcast core eng => Sys2Proof.Machine.execTramBroadcast core eng s
  | .tramPut core eng => Sys2Proof.Machine.execTramPut core eng s
  | .tramGet core eng => Sys2Proof.Machine.execTramGet core eng s
  | .engineCommandResume core eng => Sys2Proof.Machine.execEngineCommandResume core eng s
  | .culvertFp32Add core => Sys2Proof.Machine.execCulvertFp32Add core s
  | .culvertI32Add core => Sys2Proof.Machine.execCulvertI32Add core s
  | .culvertFp32Max core => Sys2Proof.Machine.execCulvertFp32Max core s
  | .culvertFp32Min core => Sys2Proof.Machine.execCulvertFp32Min core s
  | .culvertI32Max core => Sys2Proof.Machine.execCulvertI32Max core s
  | .culvertI32Min core => Sys2Proof.Machine.execCulvertI32Min core s
  | .culvertOr core => Sys2Proof.Machine.execCulvertOr core s
  | .heldQueueEntryEnter core eng => Sys2Proof.Machine.execHeldQueueEntryEnter core eng s
  | .remoteSignalArrival core sem => Sys2Proof.Machine.execRemoteSignalArrival core sem s
  | .xsel h b => Sys2Proof.Machine.execXsel h b s
  | .xmit h b => Sys2Proof.Machine.execXmit h b s
  | .xred h b => Sys2Proof.Machine.execXred h b s
  | .xredResultDelivery inst slot => Sys2Proof.Machine.execXredResultDelivery inst slot s
  | .vadd h b => Sys2Proof.Machine.execVadd h b s
  | .vsub h b => Sys2Proof.Machine.execVsub h b s
  | .vmul h b => Sys2Proof.Machine.execVmul h b s
  | .vfma h b => Sys2Proof.Machine.execVfma h b s
  | .vfms h b => Sys2Proof.Machine.execVfms h b s
  | .vfnma h b => Sys2Proof.Machine.execVfnma h b s
  | .vmin h b => Sys2Proof.Machine.execVmin h b s
  | .vmax h b => Sys2Proof.Machine.execVmax h b s
  | .vabs h b => Sys2Proof.Machine.execVabs h b s
  | .vneg h b => Sys2Proof.Machine.execVneg h b s
  | .vabsd h b => Sys2Proof.Machine.execVabsd h b s
  | .vcmp h b => Sys2Proof.Machine.execVcmp h b s
  | .vsel h b => Sys2Proof.Machine.execVsel h b s
  | .vmov h b => Sys2Proof.Machine.execVmov h b s
  | .vbcast h b => Sys2Proof.Machine.execVbcast h b s
  | .vext h b => Sys2Proof.Machine.execVext h b s
  | .vins h b => Sys2Proof.Machine.execVins h b s
  | .vperm h b => Sys2Proof.Machine.execVperm h b s
  | .vslide h b => Sys2Proof.Machine.execVslide h b s
  | .vrev h b => Sys2Proof.Machine.execVrev h b s
  | .vredsum h b => Sys2Proof.Machine.execVredsum h b s
  | .vredmax h b => Sys2Proof.Machine.execVredmax h b s
  | .vredmin h b => Sys2Proof.Machine.execVredmin h b s
  | .vscan h b => Sys2Proof.Machine.execVscan h b s
  | .vrcpe h b => Sys2Proof.Machine.execVrcpe h b s
  | .vrsqe h b => Sys2Proof.Machine.execVrsqe h b s
  | .vexp2e h b => Sys2Proof.Machine.execVexp2e h b s
  | .vlog2e h b => Sys2Proof.Machine.execVlog2e h b s
  | .vcvt h b => Sys2Proof.Machine.execVcvt h b s
  | .vcmpd h b => Sys2Proof.Machine.execVcmpd h b s
  | .vexpnd h b => Sys2Proof.Machine.execVexpnd h b s
  | .vtag h b => Sys2Proof.Machine.execVtag h b s
  | .vtopk h b => Sys2Proof.Machine.execVtopk h b s
  | .vand h b => Sys2Proof.Machine.execVand h b s
  | .vor h b => Sys2Proof.Machine.execVor h b s
  | .vxor h b => Sys2Proof.Machine.execVxor h b s
  | .vnot h b => Sys2Proof.Machine.execVnot h b s
  | .vshl h b => Sys2Proof.Machine.execVshl h b s
  | .vshr h b => Sys2Proof.Machine.execVshr h b s
  | .vsra h b => Sys2Proof.Machine.execVsra h b s
  | .vclz h b => Sys2Proof.Machine.execVclz h b s
  | .vpopc h b => Sys2Proof.Machine.execVpopc h b s
  | .vidx h b => Sys2Proof.Machine.execVidx h b s
  | .vdot4 h b => Sys2Proof.Machine.execVdot4 h b s
  | .vmadi h b => Sys2Proof.Machine.execVmadi h b s
  | .vst h b => Sys2Proof.Machine.execVst h b s
  | .vpop h b => Sys2Proof.Machine.execVpop h b s
  | .mvq h b => Sys2Proof.Machine.execMvq h b s
  | .mbeg h b => Sys2Proof.Machine.execMbeg h b s
  | .mend h b => Sys2Proof.Machine.execMend h b s
  | .mldb h b => Sys2Proof.Machine.execMldb h b s
  | .mma h b => Sys2Proof.Machine.execMma h b s
  | .checksumReplay core => Sys2Proof.Machine.execChecksumReplay core s
  | .mrd h b => Sys2Proof.Machine.execMrd h b s
  | .mclr h b => Sys2Proof.Machine.execMclr h b s
  | .mscl h b => Sys2Proof.Machine.execMscl h b s
  | .mck h b => Sys2Proof.Machine.execMck h b s
  | .arrayClockGate core => Sys2Proof.Machine.execArrayClockGate core s
  | .tld h b => Sys2Proof.Machine.execTld h b s
  | .tst h b => Sys2Proof.Machine.execTst h b s
  | .tshp h b => Sys2Proof.Machine.execTshp h b s
  | .tscl h b => Sys2Proof.Machine.execTscl h b s
  | .tup h b => Sys2Proof.Machine.execTup h b s
  | .tdn h b => Sys2Proof.Machine.execTdn h b s
  | .csig h b => Sys2Proof.Machine.execCsig h b s
  | .cthr h b => Sys2Proof.Machine.execCthr h b s
  | .cskip h b => Sys2Proof.Machine.execCskip h b s
  | .cmap h b => Sys2Proof.Machine.execCmap h b s
  | .crst h b => Sys2Proof.Machine.execCrst h b s
  | .causewayService core => Sys2Proof.Machine.execCausewayService core s
  | .ageTick core => Sys2Proof.Machine.execAgeTick core s
  | .rowWarnPoint core row => Sys2Proof.Machine.execRowWarnPoint core row s
  | .rowLimitExpiry core row => Sys2Proof.Machine.execRowLimitExpiry core row s
  | .l7RefreshOverdue core row => Sys2Proof.Machine.execL7RefreshOverdue core row s
  | .refreshRequestEnter core => Sys2Proof.Machine.execRefreshRequestEnter core s
  | .refreshStart core => Sys2Proof.Machine.execRefreshStart core s
  | .refreshWriteback core row => Sys2Proof.Machine.execRefreshWriteback core row s
  | .bandStepHotter core => Sys2Proof.Machine.execBandStepHotter core s
  | .bandStepCooler core => Sys2Proof.Machine.execBandStepCooler core s
  | .launchStart graph => Sys2Proof.Machine.execLaunchStart graph s
  | .tempTableApply => Sys2Proof.Machine.execTempTableApply s
  | .powerStateChange isDie n => Sys2Proof.Machine.execPowerStateChange isDie n s
  | .coreStart core => Sys2Proof.Machine.execCoreStart core s
  | .resetDeassert => Sys2Proof.Machine.execResetDeassert s
  | .tokenArrival node skip => Sys2Proof.Machine.execTokenArrival node skip s
  | .loopBodyEnd node => Sys2Proof.Machine.execLoopBodyEnd node s
  | .roundaboutSelection die => Sys2Proof.Machine.execRoundaboutSelection die s
  | .dispatch inst => Sys2Proof.Machine.execDispatch inst s
  | .agingTick die => Sys2Proof.Machine.execAgingTick die s
  | .preemptSave inst => Sys2Proof.Machine.execPreemptSave inst s
  | .preemptResume inst => Sys2Proof.Machine.execPreemptResume inst s
  | .spillStart inst => Sys2Proof.Machine.execSpillStart inst s
  | .nodeComplete node => Sys2Proof.Machine.execNodeComplete node s
  | .spawnSetArrival set => Sys2Proof.Machine.execSpawnSetArrival set s
  | .mewsRingRetry die => Sys2Proof.Machine.execMewsRingRetry die s
  | .queueRingDrain die => Sys2Proof.Machine.execQueueRingDrain die s
  | .cancelMessage die group => Sys2Proof.Machine.execCancelMessage die group s
  | .cancelForcedStop inst => Sys2Proof.Machine.execCancelForcedStop inst s
  | .iterTimerHalf deck => Sys2Proof.Machine.execIterTimerHalf deck s
  | .iterOverrun deck => Sys2Proof.Machine.execIterOverrun deck s
  | .iterOverrunEnd inst => Sys2Proof.Machine.execIterOverrunEnd inst s
  | .trapEntry deck => Sys2Proof.Machine.execTrapEntry deck s
  | .mutualStall deck => Sys2Proof.Machine.execMutualStall deck s
  | .invalidationComplete inval => Sys2Proof.Machine.execInvalidationComplete inval s
  | .invalidationWatchdog inval => Sys2Proof.Machine.execInvalidationWatchdog inval s
  | .rollback inst => Sys2Proof.Machine.execRollback inst s
  | .hbmRefresh stack ch pc bank => Sys2Proof.Machine.execHbmRefresh stack ch pc bank s
  | .hbmScrubWriteback block => Sys2Proof.Machine.execHbmScrubWriteback block s
  | .pinRepair stack ch pin => Sys2Proof.Machine.execPinRepair stack ch pin s
  | .pinRepairEnd stack ch => Sys2Proof.Machine.execPinRepairEnd stack ch s
  | .e2eTimeout inst dest => Sys2Proof.Machine.execE2eTimeout inst dest s
  | .messageResend seq => Sys2Proof.Machine.execMessageResend seq s
  | .engineRowPerform core eng row => Sys2Proof.Machine.execEngineRowPerform core eng row s
  | .machineCheckHandlerTimeout deck => Sys2Proof.Machine.execMachineCheckHandlerTimeout deck s
  | .triggerWrite value => Sys2Proof.Machine.execTriggerWrite value s
  | .uploadWindowWrite die off value => Sys2Proof.Machine.execUploadWindowWrite die off value s
  | .hmaskWrite k value => Sys2Proof.Machine.execHmaskWrite k value s
  | .tempTableWrite entry value => Sys2Proof.Machine.execTempTableWrite entry value s
  | .registerWrite off value => Sys2Proof.Machine.execRegisterWrite off value s
  | .coreReqRun core => Sys2Proof.Machine.execCoreReqRun core s
  | .coreReqGate core => Sys2Proof.Machine.execCoreReqGate core s
  | .coreReqOff core => Sys2Proof.Machine.execCoreReqOff core s
  | .dieReqActive die => Sys2Proof.Machine.execDieReqActive die s
  | .dieReqRetain die => Sys2Proof.Machine.execDieReqRetain die s
  | .dieReqOff die => Sys2Proof.Machine.execDieReqOff die s
  | .pageRequestResponse ctx page answer => Sys2Proof.Machine.execPageRequestResponse ctx page answer s
  | .atsInvalidateRequest ctx base len => Sys2Proof.Machine.execAtsInvalidateRequest ctx base len s
  | .hbmRefreshIntervalChange stack layer celsius => Sys2Proof.Machine.execHbmRefreshIntervalChange stack layer celsius s
  | .linkDown link => Sys2Proof.Machine.execLinkDown link s
  | .thermalTrip die celsius => Sys2Proof.Machine.execThermalTrip die celsius s
  | .thermalTripClear die celsius => Sys2Proof.Machine.execThermalTripClear die celsius s
  | .tapInstruction codes => Sys2Proof.Machine.execTapInstruction codes s
  | .atsTranslationCompletion ctx page answer => Sys2Proof.Machine.execAtsTranslationCompletion ctx page answer s
  | .peerPartialArrival source partials => Sys2Proof.Machine.execPeerPartialArrival source partials s
  | .machineCheck kind core deck detail => Sys2Proof.Machine.execMachineCheck kind core deck detail s
  | .hbmScrubRead block corrected bad => Sys2Proof.Machine.execHbmScrubRead block corrected bad s

end Sys2Proof.Machine
end

