-- ==== Sys2Proof/Machine/Events.lean ====
section
/-! DEFINITION. What happens in a clock outside the bundles: points of accesses with bank arbitration, landings, what falls at the end of a
clock and at the start of the next, and which events are due (spec 02 R36, R41; spec 03 R55, R62-R69; spec 05 R110-R112; spec 15 R346;
spec 20 R396-R398). -/
namespace Sys2Proof.Machine

/-! ### Points (R55, R110-R112, R346) -/

/-- The agent of an access for arbitration: a deck, then Tram 0, Tram 1, the Culvert, the Causeway, remote accesses, the Roundabout's copies. A copy that
has waited 8 clocks is served ahead of all (R346). -/
def Micro.agent (m : Micro) (clock : Nat) : Nat :=
  if m.prio < 8 then m.deck % 4 + 1 else if m.prio = copyPrio ∧ m.at_ + 8 ≤ clock then 0 else m.prio + 1

/-- A source read of an engine, which comes after that engine's write of the same point (R205). -/
def Micro.engReads (m : Micro) : Nat := match m.act with | .engRead .. => 1 | _ => 0

/-- The order in which accesses are served: by agent, of one agent by documented point, then access sequencer first, an engine's write
first, then by issue. -/
def Micro.before (clock : Nat) (a b : Micro) : Bool :=
  let ka := [a.core, a.agent clock, a.at_, a.prio, a.engReads, a.seq]
  let kb := [b.core, b.agent clock, b.at_, b.prio, b.engReads, b.seq]
  decide (List.lex ka kb (fun x y => decide (x < y)))

def insertMicro (clock : Nat) (m : Micro) : List Micro → List Micro
  | [] => [m]
  | q :: qs => if m.before clock q then m :: q :: qs else q :: insertMicro clock m qs

/-- An act of the array that takes no store bank: 0 a write of accumulator or slot, 1 a row of `mrd`. -/
def Act.arrayStep : Act → Option Nat
  | .mmaRow .. => some 0
  | .clrRow .. => some 0
  | .mldbDone .. => some 0
  | .mrdRow .. => some 1
  | _ => none

/-- A setting that takes effect at the start of its clock. -/
def Act.isSetting : Act → Bool
  | .status .. => true
  | .semt .. => true
  | .pin .. => true
  | .clearLost .. => true
  | .blockCfg .. => true
  | .blockTheta .. => true
  | .blockDecide .. => true
  | _ => false

/-- A row of an `mma` moves with the rows before it that bank conflicts have delayed (R245). -/
def Act.follows (clock : Nat) : Act → Bool
  | .mmaRead g => decide (g.ready ≤ clock)
  | _ => true

/-- The store rows an access reads or writes at its point. -/
def State.rowsOf (s : State) (m : Micro) : List Nat :=
  match m.act with
  | .write row .. => [row]
  | .ldsRead _ a .. => [a / 512]
  | .ldqRead _ row .. => [row]
  | .ldqtRead _ _ _ words .. => (words.take 1).map (· / 4)
  | .hldRead _ _ _ a part => [(a + (if part = 0 then 0 else min 64 (128 - a % 128))) / 512]
  | .rmtRead req r => ((s.remotes.filter fun q => q.id == req).take 1).map fun q => q.row + r
  | .peerRead _ row => [row]
  | .engRead eng r rows _ => s.engRows m.core eng r rows
  | .engWrite _ _ _ dst _ _ => [dst]
  | .arrive row .. => [row]
  | .frame dk row .. => [frameRow dk + row]
  | .copyOut _ row _ => [row]
  | .copyIn _ row _ => [row]
  | .mldbRead l => if sameBank l.scaleNow [l.row + l.k] then l.scaleNow.toList else (l.row + l.k) :: l.scaleNow.toList
  | .mmaRead g =>
    let srcs := (g.todo.head?.map (·.2)).getD []
    if sameBank g.scaleNow srcs then g.scaleNow.toList else srcs ++ g.scaleNow.toList
  | .mrdWrite q _ => [q.dst]
  | .cwRead row => [row]
  | .xmitRead _ row => [row]
  | _ => []

/-- The gantry clock of a step of the gantry: the read or the perform of a row, a clear (R240). -/
def Micro.gantryClock (m : Micro) : Option Nat :=
  match m.act with
  | .mmaRead g => g.todo.head?.map fun p => g.at_ + p.1
  | .mmaRow g i _ _ => some (g.at_ + i)
  | .clrRow .. => some (m.at_ - 20)
  | _ => none

def Act.isRead : Act → Bool
  | .mmaRead _ => true
  | _ => false

/-- The gantry keeps the order of its clocks when a bank conflict delays a row: its rows are read in that order and perform in it, a clear among them
(R110, R240, R250, R258). -/
def State.gantryWaits (s : State) (m : Micro) : Bool :=
  match m.gantryClock with
  | none => false
  | some t => s.micro.any fun q => q.core == m.core && (!m.act.isRead || q.act.isRead) && (match q.gantryClock with | some u => decide (u < t) | none => false)

/-- One row of the accumulator is written, and one row of A read, in a clock (R110, R240): the gantry as a bank of its own. -/
def Micro.gantryPort (m : Micro) : List (Nat × Nat) :=
  match m.act with
  | .mmaRead _ => [(m.core, 65)]
  | .mmaRow .. | .clrRow .. => [(m.core, 64)]
  | _ => []

/-- The rows that an access of a deck has still to read, each with its documented point. -/
def State.pointsOf (s : State) (m : Micro) : List (Nat × Nat) :=
  match m.act with
  | .mmaRead g => g.todo.flatMap fun p => (p.2 ++ (g.scale.toList.map fun t => scaleRow t (p.2.headD 0))).map fun r => (r, g.at_ + 2 + p.1)
  | .mldbRead l => (List.range (l.rows - l.k)).map (fun d => (l.row + l.k + d, m.at_ + d)) ++
      l.scale.toList.flatMap fun t => (List.range (loadScaleRows l.n - l.sk)).map fun d => (32 * t + l.sk + d, m.at_ + d)
  | .ldqtRead _ _ _ words .. => words.zipIdx.map fun w => (w.1 / 4, m.at_ + w.2)
  | .hldRead _ _ _ a part => if part = 0 ∧ 64 < a % 128 then [(a / 512, m.at_), ((a + 127) / 128 * 128 / 512, m.at_ + 1)] else (s.rowsOf m).map fun r => (r, m.at_)
  | _ => (s.rowsOf m).map fun r => (r, m.at_)

/-- An access of a deck waits for one of the same deck to the same bank whose documented point is earlier and that has been delayed (R112). -/
def State.turnWaits (s : State) (m : Micro) : Bool :=
  decide (m.prio < 8) && (let banks := (s.rowsOf m).map bankOf
    !banks.isEmpty && s.micro.any fun q => q.core == m.core && q.deck == m.deck && decide (q.prio < 8) && decide (q.at_ < m.at_) &&
      (s.pointsOf q).any fun p => decide (p.2 < m.at_) && banks.contains (bankOf p.1))

/-- A row of an `mrd` waits for a replay (R441). -/
def State.replayWaits (s : State) (m : Micro) : Bool :=
  match m.act with
  | .mrdRow q => (s.getCore m.core).replayHolds q
  | _ => false

/-- An access takes effect. -/
def State.performMicro (s : State) (m : Micro) : State :=
  match m.act with
  | .write row mask data tag => s.storeBytes m.core row mask data tag
  | .ldsRead id a size rd => s.ldsSample m.deck m.core id a size rd
  | .ldqRead id row q ent want addr => s.ldqSample m.deck m.core id row q ent want addr
  | .ldqtRead id q ent words elems w img tag want silent => s.ldqtSample m.deck m.core m.at_ id q ent words elems w img tag want silent
  | .hldRead id entry gen addr part => s.hldSample m.deck m.core m.at_ id entry gen addr part
  | .rmtRead req r => s.remoteSample req r
  | .peerRead dev row => s.peerSample m.core dev row
  | .engRead eng r _ wAt => s.engSample m.core eng r wAt
  | .engWrite src eng r dst data tag => s.engPerform m.core src eng r dst data tag
  | .updates .. => s
  | .arrive row data tag => s.performWrite m.core row wholeMask data (some tag)
  | .frame dk row rows open_ => s.frameStep dk row open_ rows
  | .copyOut i row k => s.copyOut m.core i row k
  | .copyIn i row k => s.copyIn m.core i row k
  | .mldbRead l => s.mldbSample m.core m.at_ l
  | .mldbDone slot w => s.modCore m.core fun k => k.loadSlot slot w
  | .mmaRead g => s.mmaSample m.core g
  | .mmaRow g i srcs adds => s.mmaPerform m.core g i srcs adds
  | .clrRow accRow width => s.modCore m.core fun k => k.clearRow accRow width m.seq
  | .mrdRow q => s.mrdSample m q
  | .mrdWrite q img => s.mrdPerform m.core q img
  | .cwRead row => s.cwSample m.core m.at_ row
  | .xmitRead xid row => s.xmitSample m.deck m.core xid row
  | .status q id data => s.modDeck m.deck fun d => { d with rq := mset [] d.rq q (arrive (mget [] d.rq q) id data tagI32) }
  | .semt sem v => s.modCore m.core fun k => k.setSem sem { k.sem sem with target := v }
  | .pin way up => s.modCore m.core fun k => k.pinWay way up
  | .clearLost t => s.modCore m.core fun k => k.modTile t fun x => { x with lost := false }
  | .blockCfg b cfg => s.modCore m.core fun k => k.setBlock b m.seq cfg
  | .blockTheta b v => s.modCore m.core fun k => k.setTheta b v
  | .blockDecide b num skip forced cur => s.modCore m.core fun k => k.setDecision b num skip forced cur

/-- An access whose documented point has come, on a core that is clocked (R344). -/
def State.microDue (s : State) (m : Micro) : Bool := decide (m.at_ ≤ s.clock) && m.act.follows s.clock && (s.getCore m.core).power.cur == 0

/-- One access in turn: it takes its banks, or waits a clock for one that is taken or refreshed, or for a lock. -/
def State.serve (acc : State × List (Nat × Nat)) (m : Micro) : State × List (Nat × Nat) :=
  let (s, busy) := acc
  if !s.micro.contains m || s.lockWaits m || s.gantryWaits m || s.turnWaits m || s.replayWaits m then acc
  else match m.act with
  | .updates r fn base us => State.serveUpdates acc m r fn base us
  | _ =>
    let banks := (s.rowsOf m).map (fun r => (m.core, bankOf r)) ++ m.gantryPort
    if banks.any fun b => busy.contains b || (s.getCore b.1).refreshHolds s.clock b.2 then acc
    else ((({ s with micro := s.micro.erase m }).checkCells m).performMicro m, busy ++ banks)

/-- Due acts that a test picks, in order of service. -/
def State.dueMicros (s : State) (p : Micro → Bool) : List Micro :=
  (s.micro.filter fun m => s.microDue m && p m).foldl (fun acc m => insertMicro s.clock m acc) []

/-- The points of this clock: read-outs whose clock was the last, the array's writes, its read-outs, then the accesses to the banks. -/
def State.points (s : State) : State :=
  if !s.micro.any s.microDue then s else
  let one := fun (s : State) (p : Micro → Bool) => ((s.dueMicros p).foldl State.serve (s, [])).1
  let clock := s.clock
  let s := one s fun m => m.act.arrayStep == some 1 && decide (m.at_ < clock)
  let s := one s fun m => m.act.arrayStep == some 0
  let s := one s fun m => m.act.arrayStep == some 1
  let s := one s fun m => m.act.arrayStep.isNone && !m.act.isSetting
  if s.cores.any fun p => p.2.service.any (·.start == clock) then
    { s with cores := s.cores.map fun (p : Nat × Core) => (p.1, p.2.sampleTag clock) } else s

/-- The hottest sensor of die d. -/
def State.hottest (s : State) (d : Nat) : Nat := ((s.cores.filter fun p => p.1 / 8 == d).map fun p => p.2.sensor).foldl max 0

/-- The sensors that a tick has read: one at 125 °C or more trips its die, and a trip is over once every sensor of the die reads below 115 °C (R452). -/
def State.thermal (s : State) : State :=
  if s.clock % Config.tickClocks ≠ 0 then s
  else ((s.cores.map fun p => p.1 / 8).eraseDups).foldl (fun (s : State) d =>
    let t := s.hottest d
    match (if (s.getDie d).tripped then execThermalTripClear d t s else execThermalTrip d t s) with
    | .next t => t
    | _ => s) s

/-- Points, then landings, then the traps that boundaries of this clock take (R376, R394). -/
def State.pointsAndLandings (s : State) : State :=
  let s := s.thermal.points
  let s := s.decks.foldl (fun s p => s.landChecked p.1) s
  s.decks.foldl (fun s p => if s.entryDue p.1 then s.post s.clock (.trapEntry p.1) else if s.mutuallyStalled p.1 then s.post s.clock (.mutualStall p.1) else s) s

/-! ### The end of a clock -/

/-- Clocks of a deck's timer (R397): not those under the stall wire, but those between its own trap point and its return. -/
def State.timerRuns (s : State) (n : Nat) : Bool :=
  let d := s.getDeck n
  s.timed n && d.frozen.isNone &&
    (match d.inst with
    | some i => !s.wireRaised i || (match d.wire with | some 0 => true | some r => decide (s.clock < r) | none => false)
    | none => false)

/-- A deck at the end of a clock: its edges, its timer, the interrupt its next boundary finds, a return that is over. -/
def State.endDeck (s : State) (n : Nat) : State :=
  let d := s.getDeck n
  let runs := s.timerRuns n
  s.setDeck n { d.applyEdge with
    timer := if runs then d.timer + 1 else d.timer,
    irq := if d.live && d.trapWait.isNone then d.interrupt (s.deferred n) else none,
    wire := match d.wire with | some r => if r ≠ 0 ∧ r ≤ s.clock then none else some r | none => none }

/-- A semaphore in a new clock. -/
def Sem.newClock (x : Sem) : Sem := { x with used := 0, base := x.value.toNat, sum := 0 }

/-- A core in a new clock. -/
def Core.newClock (k : Core) (clock : Nat) : Core :=
  { k with sems := k.sems.map (fun p => (p.1, p.2.newClock)), refreshing := k.refreshing.filter fun r => decide (clock < r.2 + 4),
           arrayUsed := if k.leaseHolder.isSome || !k.leaseReq.isEmpty then clock else k.arrayUsed }

/-- The transfer phase of a gang moves on by a clock, or its counter stands still under the stall wire (R18, R324). -/
def State.endTransfer (s : State) (i : Nat) : State :=
  match (s.getInst i).xfer with
  | none => s
  | some x =>
    if s.wireRaised i then s.modInst i fun y => { y with xfer := some { x with q := x.q + 1 } }
    else if s.clock < x.q + 1 then s else s.moveFlits i (s.clock - (x.q + 1))

/-- Releases that take effect in the next clock, by core and tile (R196). -/
def State.dueReleases (s : State) : List (Nat × Nat) :=
  s.cores.flatMap fun p => ((p.2.tileReqs.map (·.1)).eraseDups.filter fun t => p.2.relDue t (s.clock + 1)).map fun t => (p.1, t)

/-- A setting of this clock takes effect. -/
def State.settings (s : State) : State :=
  ((s.dueMicros fun m => m.act.isSetting).foldl State.serve (s, [])).1


/-- A page somebody stands at is asked for, unless it has been (R424). -/
def State.askAgain (s : State) : State :=
  let s := s.extWait.foldl (fun s w =>
    match (s.getDeck w.deck).inst with
    | some i => match s.missing (s.getInst i).shadowNode w.ctx (w.view) w.va 64 with | some p => s.askPage w.ctx p | none => s
    | none => s) s
  s.cores.foldl (fun s c => (List.range 3).foldl (fun s e => match (c.2.engine e).cur with
    | some r => match r.page with
      | some (p, _) => if (s.resolvePage (s.cmdInst r.cmd).shadowNode (s.cmdInst r.cmd).ctx p (s.cmdView r.cmd)).isNone then s.askPage (s.cmdInst r.cmd).ctx p else s
      | none => s
    | none => s) s) s

/-! ### What falls in a new clock -/

/-- Events of a tick of 2,048 clocks (R11, R59, R64, R301, R348). -/
def State.tickEvents (s : State) : List Instr :=
  if s.clock % Config.tickClocks ≠ 0 then [] else
    let on := s.cores.filter fun p => p.2.power.cur != 2
    (if s.tempPending.isEmpty then [] else [Instr.tempTableApply]) ++
    on.flatMap (fun p => if p.2.hotter then [Instr.bandStepHotter p.1] else if p.2.cooler then [Instr.bandStepCooler p.1] else []) ++
    on.map (fun p => Instr.ageTick p.1) ++
    ((List.range Config.numDies).filter fun d => s.insts.any fun p => p.2.die == d && p.2.st != .ended).map Instr.agingTick ++
    ((List.range Config.numDies).filter fun d => !(s.getDie d).heldSets.isEmpty).map Instr.mewsRingRetry

/-- The sensors of cores that age nothing are read in every tick too. -/
def State.readSensors (s : State) : State :=
  if s.clock % Config.tickClocks ≠ 0 then s
  else { s with cores := s.cores.map fun p =>
    (p.1, if p.2.power.cur = 2 then { p.2 with sensor := Config.freeSensor p.1 (s.clock / Config.tickClocks) } else p.2) }

/-- Transfer phases that end and reduction results that come due (R173, R328). -/
def State.phaseEvents (s : State) : List Instr :=
  s.insts.flatMap fun (p : Nat × Inst) =>
    match p.2.xfer with
    | none => []
    | some x =>
      if s.clock < x.q + 1 then [] else
        let t := s.clock - (x.q + 1)
        if x.len ≤ t then [Instr.transferPhaseEnd p.1]
        else ((p.2.contribs.filter fun c => !c.done).map (·.slot)).eraseDups.filterMap fun sl =>
          if p.2.resultCycle sl ≤ t then some (Instr.xredResultDelivery p.1 sl) else none

/-- Banks of HBM4 whose refresh falls in this clock, spread evenly over each interval (R333). -/
def State.hbmRefreshes (s : State) : List Instr :=
  [0, 1, 2].filterMap fun cls =>
    let iv := refreshInterval cls
    let p := s.clock % iv
    let k := (p * 24576 + iv - 1) / iv
    if k * iv / 24576 = p ∧ k < 24576 ∧ s.refreshClass (k / 1024) (k / 32 % 32) = cls then
      some (.hbmRefresh (k / 1024) (k / 32 % 32) (k / 16 % 2) (k % 16)) else none

/-- The block of HBM4, by physical address, whose patrol read falls in this clock: each once in 24 hours at an even rate (R446), in rising order
(NOTES.md, Assumption 123). -/
def State.scrubBlock (s : State) : Option Nat :=
  let n := Config.hbmBytes / 512
  let p := s.clock % Config.scrubClocks + 1
  let k := (p * n + Config.scrubClocks - 1) / Config.scrubClocks
  if k * Config.scrubClocks / n = p then some (k - 1) else none

/-- The patrol read of block k, by physical address. -/
def State.patrolRead (s : State) (k : Nat) : State :=
  match execHbmScrubRead (hbmBase (512 * k) / 512) false [] s with
  | .next t => t
  | _ => s

/-- The patrol scrubber at the end of a clock: the block whose read falls in it joins those that wait, and the ones whose accesses do not wait at their
memory router are read (R446), after the demand accesses of the clock: a read whose bank has served one waits, for at most 64 µs (R346). -/
def State.scrubStep (s : State) : State :=
  let all := s.hbm.patrol ++ s.scrubBlock.toList.map fun k => (k, s.clock)
  if all.isEmpty then s else
    let waits := fun (k : Nat × Nat) => s.mustQueue [k.1] ||
      (s.hbm.busy.contains (s.hbmPlace (512 * k.1)).key && decide (s.clock < k.2 + 64 * Config.clocksPerUs))
    (all.filter fun k => !waits k).foldl (fun s k => s.patrolRead k.1) { s with hbm := { s.hbm with patrol := all.filter waits } }

/-- What one core does in a new clock. -/
def State.coreEvents (s : State) (c : Nat) (k : Core) : List Instr :=
  (if k.power.cur = 0 then
    (List.range 3).flatMap (fun e => if s.resumeReady c e then [Instr.engineCommandResume c e] else []) ++
    (List.range 4).flatMap (fun e => if (k.engine e).held.any fun h => (s.getDeck h.deck).rqRoom h.q then [Instr.heldQueueEntryEnter c e] else []) ++
    (if k.serviceReady s.clock then [Instr.causewayService c] else []) ++
    (if k.mayGate s.clock then [Instr.arrayClockGate c] else [])
   else []) ++
  (((k.tileReqs.map (·.1)).eraseDups.filter fun t => k.cfgDue t s.clock).map fun t => Instr.tcfgTakeEffect c t) ++
  (if (k.nextRefresh s.clock).isSome then [Instr.refreshStart c] else [])

/-- What one deck's timers bring in a new clock (R397, R398, R432). -/
def State.deckEvents (s : State) (n : Nat) (d : Deck) (ran : Bool) : List Instr :=
  (if ran && d.timer == s.iterClocks n / 2 then [Instr.iterTimerHalf n] else []) ++
  (if ran && d.timer == s.iterClocks n then [Instr.iterOverrun n] else []) ++
  (if ran && d.timer == 2 * s.iterClocks n then (match d.inst with | some i => [Instr.iterOverrunEnd i] | none => []) else []) ++
  (if s.handlerLate n then [Instr.machineCheckHandlerTimeout n] else [])

/-- Acknowledgements that are 65,536 clocks late, of instances that have taken no machine check yet (R449). -/
def State.lateEvents (s : State) : List Instr :=
  s.insts.flatMap fun p => if p.2.doomed || !(p.2.live || p.2.st == .retired) then [] else (s.lateAcks p.1).eraseDups.map (Instr.e2eTimeout p.1)

/-- What the device as a whole does in a new clock. -/
def State.deviceEvents (s : State) : List Instr :=
  ((List.range Config.numDies).filter s.mayDrain).map Instr.queueRingDrain ++
  (match s.startDue with | some c => [Instr.coreStart c] | none => []) ++
  s.hbmRefreshes ++ s.lateEvents ++
  (s.invals.filter fun v => v.waiting.isEmpty).map (fun v => Instr.invalidationComplete v.id) ++
  (s.invals.filter fun v => !(s.lateInsts v).isEmpty).map (fun v => Instr.invalidationWatchdog v.id)

/-- Power changes whose condition is met set out: a core leaves Gate within 64 clocks, any other change is made at once (R343, R344). -/
def State.powerEvents (s : State) : State :=
  let go := fun (s : State) (isDie : Bool) (n : Nat) =>
    if !s.powerDue isDie n || s.awaits (.powerStateChange isDie n) then s
    else if !isDie && (s.getCore n).power.cur == 1 && (s.getCore n).power.req == 0 then
      let (t, s) := s.delay
      s.post (s.clock + min 64 t) (.powerStateChange isDie n)
    else s.post s.clock (.powerStateChange isDie n)
  let s := s.cores.foldl (fun s p => go s false p.1) s
  s.dies.foldl (fun s p => go s true p.1) s

/-- A save that is ready ends within 20 µs (R313); one on whose decks a fault has become pending is put off. -/
def State.saveEvents (s : State) : State :=
  s.insts.foldl (fun s (p : Nat × Inst) =>
    let s := s.thaw p.1
    if (s.getInst p.1).st == .saving && s.saveReady p.1 && !s.awaits (.preemptSave p.1) then
      let (t, s) := s.delay
      s.post (s.clock + min (20 * Config.clocksPerUs) t) (.preemptSave p.1)
    else s) s

/-- The clock ends: the routers, the decks. -/
def State.endClock (s : State) : State :=
  let s := s.insts.foldl (fun (s : State) (p : Nat × Inst) => s.endTransfer p.1) s
  s.decks.foldl (fun (s : State) (p : Nat × Deck) => s.endDeck p.1) s

/-- The next clock. -/
def State.tick (s : State) : State :=
  let clock := s.clock + 1
  { s with clock := clock, phase := .events, answered := [], hbm := { s.hbm with busy := [] }, cores := s.cores.map fun (p : Nat × Core) => (p.1, p.2.newClock clock) }

/-- What comes about at the start of a clock without an event of its own: bring-up, packets, accesses to HBM4 and inputs of peers that go on, settings,
locks and signals of commands that have ended, signatures, rows delivered by the fabric, completions that waited for their page, pages asked for again. -/
def State.startClock (s : State) : State :=
  let s := s.bootStep.stackStep.movePackets.serveQueue.servePeers
  let s := s.settings
  let s := s.cores.foldl (fun (s : State) (p : Nat × Core) => (((s.modCore p.1 fun k => k.endService s.clock).completeEngines p.1).relaunch p.1).holdAcks p.1) s
  let s := s.insts.foldl (fun (s : State) (p : Nat × Inst) => match p.2.xfer with
    | some x => if x.q + 1 ≤ s.clock ∧ s.clock < x.q + 1 + x.len then s.deliverRows p.1 (s.clock - (x.q + 1)) else s
    | none => s) s
  s.writeCompletions.askAgain

/-- The events that fall in this clock, given the decks whose timers have moved and the releases that are due. -/
def State.dueEvents (s : State) (ran : List Nat) (rel : List (Nat × Nat)) : List Instr :=
  s.phaseEvents ++ s.tickEvents ++ rel.map (fun r => Instr.trelTakeEffect r.1 r.2) ++
    s.cores.flatMap (fun p => s.coreEvents p.1 p.2) ++ s.decks.flatMap (fun p => s.deckEvents p.1 p.2 (ran.contains p.1)) ++ s.deviceEvents

/-- The clock ends and the next begins, with the events that are due. -/
def State.advance (s : State) : State :=
  let ran := (s.decks.filter fun p => s.timerRuns p.1).map (·.1)
  let rel := s.dueReleases
  let s := s.scrubStep.endClock.tick.startClock
  let s := (s.dueEvents ran rel).foldl (fun (s : State) e => s.post s.clock e) s.readSensors
  (s.powerEvents).saveEvents

/-! ### What ends a clock -/

/-- Every deck of instance i that has not halted stands at `sq`, and everything it has issued has performed (R120, R173). -/
def State.squareReady (s : State) (i : Nat) (x : Inst) : Bool :=
  let live := x.decks.filter fun n => (s.getDeck n).inst == some i && !(s.getDeck n).halted
  x.st == .running && !live.isEmpty &&
    live.all (fun n => (s.getDeck n).atSq.isSome && (s.getDeck n).stalledAt == some s.clock && x.squareAt != some s.clock) &&
    !(s.micro.any fun m => m.isStore && x.decks.contains m.deck) &&
    x.coresOf.all (fun c => (s.getCore c).cmds.all fun m => m.inst != some i) && !s.signals.any fun g => g.inst == i

/-- No deck of the instance is left running it. -/
def State.allEnded (s : State) (i : Nat) (x : Inst) : Bool := x.decks.all fun n => (s.getDeck n).inst != some i || (s.getDeck n).halted

/-- What ends the clock for one instance: its stop, its save, its rollback, the end of its node. -/
def State.instEvent (s : State) (i : Nat) (x : Inst) : Option Instr :=
  Option.filter (fun ev => !s.asleep ev) <|
  if s.squareReady i x then some (.squareComplete i)
  else if s.stopDue i then some (.cancelForcedStop i)
  else if x.doomed && s.allEnded i x && x.st != .ended && x.st != .cancelled && x.st != .ready then some (.rollback i)
  else if x.st == .running && x.preemptFor.isSome && x.stopAt.isNone && !x.doomed && s.boundaryFree i then some (.preemptSave i)
  else if x.st != .ended && !s.awaits (.nodeComplete x.shadowNode) && (s.nodeCommits x.shadowNode || s.nodeCancels x.shadowNode) then
    some (.nodeComplete x.shadowNode)
  else none

/-- A command that leaves its queue in this clock, on a core that is clocked. -/
def State.leavingEngine (s : State) (c : Nat) (k : Core) : Option Instr :=
  if k.power.cur ≠ 0 then none
  else ((List.range 3).find? fun e => s.leaveReady c e).bind fun e => s.headLeaves c e

/-- The next event that ends this clock: a lease that is free and requested, or an instance's. -/
def State.lateEvent (s : State) : Option Instr :=
  match s.cores.find? fun p => p.2.leaseHolder.isNone && p.2.nextLease.isSome with
  | some (c, _) => some (.leaseGrant c)
  | none => s.insts.findSome? fun p => s.instEvent p.1 p.2

/-- After those, the waits of engine commands that are satisfied, one at a time (R141, R168). -/
def State.lateWait (s : State) : Option (Nat × Nat) :=
  s.cores.findSome? fun p => if p.2.power.cur ≠ 0 then none else (s.nextWait p.1).map fun e => (p.1, e)

/-- Then the commands that leave their queues. -/
def State.lateLeave (s : State) : Option Instr := s.cores.findSome? fun p => s.leavingEngine p.1 p.2

end Sys2Proof.Machine
end

