-- ==== Sys2Proof/Machine/Bundle.lean ====
section
/-! DEFINITION. Issuing a bundle: its syllables in slot order as one action that either takes effect whole, stalls whole or traps whole, what
follows it (R156, R159, R160, R23, R24), and which deck issues next (spec 02 R22-R37, spec 06 R129-R136, spec 07 R156-R165, spec 20
R376-R396). -/
namespace Sys2Proof.Machine

/-! ### Syllables -/

/-- What has run of a bundle: the state so far; the state before it with the requests its stalled syllables leave standing; whether one has
stalled, how many, and all only on the other sequencer; the trap of the first slot that raised one, with that slot. -/
structure Ran where
  acc : State
  base : State
  stalls : Nat
  other : Bool
  raised : Option (Nat × Trap)

/-- Queues of which a syllable frees entries: one for each entry it pops (R36, R216). -/
def State.popsOf (s : State) : Syl → List Nat
  | .ok i =>
    if s.dk.rq.isEmpty && s.dk.aToE.isEmpty then []
    else match exec i (s.modIssue fun j => { j with freeing := (List.range 32).map (· % 8) }) with
      | .next t =>
        if t.issue.stall || t.issue.raised.isSome then []
        else (if t.dk.edge.popAE then [outcomeQueue] else []) ++ (List.range 8).flatMap fun q =>
          List.replicate ((mget [] s.dk.rq q).countP fun e => !(mget [] t.dk.rq q).any fun f => f.id == e.id) q
      | _ => []
  | _ => []

/-- Cause 0x01 or 0x02 of a syllable that is not an instruction (R136). -/
def State.illegal (s : State) (k : Slot) (e : Illegal) : State :=
  s.raiseInfo (match e with | .encoding => 0x01 | .nonzero => 0x02) (tinfoOf false (rankOf k) s.issue.pc 0) 0 6

/-- One syllable of the bundle being issued. -/
def State.syllable (s : State) (k : Slot) : Syl → Host.Outcome State Fault Refusal
  | .empty => .next s
  | .bad e => .next (s.illegal k e)
  | .ok i => exec i s

/-- The requests that a stalled syllable leaves standing: for the lease, and at the Square (R41, R173). -/
def State.keepRequests (s t : State) : State :=
  (s.modCk fun k => { k with leaseReq := t.ck.leaseReq }).modDk fun d => { d with atSq := t.dk.atSq }

/-- The next syllable of a bundle, with the entries that later ones free. A join bundle goes on in lockstep once both its `join` have run
(R35). -/
def Ran.run (r : Ran) (k : Slot) (y : Syl) (freeing : List Nat) : Host.Outcome Ran Fault Refusal :=
  let s := r.acc.modIssue fun i => { i with stall := false, waitOther := false, raised := none, freeing := freeing }
  match s.syllable k y with
  | .next t =>
    match t.issue.raised with
    | some q => .next { r with raised := match r.raised with | some (a, p) => if rankOf k < a then some (rankOf k, q) else some (a, p) | none => some (rankOf k, q) }
    | none =>
      if t.issue.stall then
        .next { r with stalls := r.stalls + 1, other := r.other && t.issue.waitOther, base := r.base.keepRequests t }
      else .next { r with acc := if k = .s ∧ t.issue.joins then t.modDk (fun d => { d with fork := false }) else t }
  | .fault f => .fault f
  | .refused q => .refused q

/-- Syllables in order, each with the queue entries that those behind it free. -/
def Ran.runAll (r : Ran) : List (Slot × Syl) → Host.Outcome Ran Fault Refusal
  | [] => .next r
  | (k, y) :: rest =>
    match r.run k y (rest.flatMap fun q => r.base.popsOf q.2) with
    | .next r' => r'.runAll rest
    | o => o

/-- The syllable is an `rfe`. -/
def isRfe : Syl → Bool
  | .ok (.rfe _ _) => true
  | _ => false

/-- The syllables of a bundle that a sequencer executes (R33): slot A by the access sequencer, the others by the execute sequencer. A return
from a trap acts after the rest of its bundle. -/
def slotsOf (b : Bundle) (side : Option Bool) : List (Slot × Syl) :=
  match side with
  | some false => [(.a, b.a)]
  | some true => [(.s, b.s), (.v, b.v), (.x, b.x)]
  | none => if isRfe b.s then [(.a, b.a), (.v, b.v), (.x, b.x), (.s, b.s)] else [(.a, b.a), (.s, b.s), (.v, b.v), (.x, b.x)]

/-! ### After a bundle (R156, R159, R160) -/

/-- R159: the next address, the stack after the evaluation, and whether its lowest level was evaluated. -/
def evalLoops (a : CodeAddr) : List Level → CodeAddr × List Level × Bool
  | [] => (a + 1, [], false)
  | l :: ls =>
    if l.stop = a then
      if 0 < l.rem.toNat then (l.start, { l with rem := l.rem - 1 } :: ls, ls.isEmpty)
      else
        let r := evalLoops a ls
        (r.1, r.2.1, ls.isEmpty || r.2.2)
    else (a + 1, l :: ls, false)

/-- Bundles issued in `.noint` regions since each pending interrupt became pending (R391). -/
def Deck.countRegion (d : Deck) (inside : Bool) : Deck :=
  { d with nointCount := d.pendingKeys.foldl (fun m k => mput m k (mget 0 d.nointCount k + (if inside then 1 else 0))) [] }

/-- A kernel-iteration boundary of a deck (R24, R397): a new iteration begins in this clock. -/
def Deck.passBoundary (d : Deck) : Deck := { d with boundary := true, iters := d.iters + 1, timer := 0, pend20 := false }

/-- An invalidation waits for a sequencer of deck n (R127). -/
def State.invalWaits (s : State) (n : Nat) : Bool := s.invals.any fun v => v.waiting.any fun w => w.2 / 2 == n

/-- What both sequencers of deck n have issued to extents has completed (R127). -/
def State.drained (s : State) (n : Nat) : Bool := s.extentsDone n false s.seq (s.clock + 1) && s.extentsDone n true s.seq (s.clock + 1)

/-- A bundle at address a has passed over the kernel's end bundle: a level above 0 stayed on top of this loop stack (R405). -/
def Deck.passesEnd (d : Deck) (a : CodeAddr) (ls : List Level) : Bool :=
  d.inKernel && !d.sup && (ls.getLast?.any fun l => l.stop == a) && !(evalLoops a ls).2.2

/-- Lockstep, no branch taken: both stacks are evaluated; level 0 of the kernel brings a boundary, and the kernel's end bundle passed over is a
loop fault of the next bundle (R23, R24, R159, R405). -/
def State.stepLoops (s : State) (n : Nat) : State :=
  let d := s.getDeck n
  let a := s.issue.pc
  let (next, ls, low) := evalLoops a d.loopsE
  let atEnd := d.inKernel && !d.sup && d.loopsE.getLast?.any fun l => l.stop == a
  let d' := { d with pcA := next, pcE := next, loopsA := ls, loopsE := ls, nextA := s.clock + 1, nextE := s.clock + 1 }
  if !atEnd then s.setDeck n d'
  else if !low then s.setDeck n { d' with overrunEnd := true }
  else
    let leave := fun (k : Kernel) => if ls.isEmpty then { k with stage := 2 } else k
    s.setDeck n { d'.passBoundary with kern := d'.kern.map leave }

/-- Lockstep ends (R33, R34, R162): the stack is evaluated as after any bundle, and each copy pops what its own target leaves, level 0 of a kernel too.
That raises no 0x10: DESIGN CHOICE, R405 speaks of a taken branch, and `fork` has no taken-branch timing (NOTES.md, Assumption 113). -/
def State.startFork (s : State) (n : Nat) (ta te : CodeAddr) : State :=
  s.modDeck n fun d =>
    let ls := (evalLoops s.issue.pc d.loopsE).2.1
    { d with
      fork := true, slip := 0, slipBound := bits d.slipw.toNat 0 10, pcA := ta, pcE := te, loopsA := popLevels ta ls, loopsE := popLevels te ls,
      nextA := s.clock + 1, nextE := s.clock + 1, waitA := none, waitE := none }

/-- The deck halts: its lease goes, and with the last deck the instance retires (R30, R43, R127). -/
def State.haltDeck (s : State) (n : Nat) : State :=
  let s := s.quiesce n
  match (s.getDeck n).inst with
  | none => s.modDeck n fun d => { d with halted := true }
  | some i =>
    let s := ((s.dropFaults n i).dropLease n).modDeck n fun d =>
      { d with halted := true, boundary := false, pend20 := false, pend21 := 0, pend23 := false, pendTrap := none, irq := none, checkedAt := none }
    if (s.getInst i).decks.all fun m => (s.getDeck m).inst != some i || (s.getDeck m).halted then s.retireInst i else s

/-- A lockstep bundle has issued. -/
def State.afterLockstep (s : State) (n : Nat) : State :=
  let i := s.issue
  let s := if i.releases then s.dropLease n else s
  if i.returned then s
  else if i.halts then s.haltDeck n
  else match i.forks with
    | some (ta, te) => s.startFork n ta te
    | none =>
      match i.target with
      | some t => s.modDeck n fun d =>
          let ls := if i.popLoops then popLevels t d.loopsE else d.loopsE
          { d with pcA := t, pcE := t, loopsA := ls, loopsE := ls, nextA := s.clock + 2, nextE := s.clock + 2, lostAt := some (s.clock + 1) }
      | none => s.stepLoops n

/-- A bundle of the access sequencer has issued in fork mode (R33, R34). -/
def State.afterAccess (s : State) (n : Nat) : State :=
  let i := s.issue
  s.modDeck n fun d =>
    let d := { d with slip := d.slip + 1, waitA := none }
    match i.target with
    | some t => { d with pcA := t, loopsA := if i.popLoops then popLevels t d.loopsA else d.loopsA, nextA := s.clock + 2 }
    | none => { d with pcA := (evalLoops i.pc d.loopsA).1, loopsA := (evalLoops i.pc d.loopsA).2.1, nextA := s.clock + 1, overrunA := d.overrunA || d.passesEnd i.pc d.loopsA }

/-- A bundle of the execute sequencer has issued in fork mode. A bundle of the access sequencer that stalled in this clock tries again when
the A-to-E queue has lost an entry (R36). -/
def State.afterExecute (s : State) (n : Nat) : State :=
  let i := s.issue
  let s := if i.releases then s.dropLease n else s
  s.modDeck n fun d =>
    let d := { d with slip := d.slip - 1, waitE := none, nextA := if d.edge.popAE && d.waitA.isSome && d.nextA == s.clock + 1 then s.clock else d.nextA }
    match i.target with
    | some t => { d with pcE := t, loopsE := if i.popLoops then popLevels t d.loopsE else d.loopsE, nextE := s.clock + 2, lostAt := some (s.clock + 1) }
    | none => { d with pcE := (evalLoops i.pc d.loopsE).1, loopsE := (evalLoops i.pc d.loopsE).2.1, nextE := s.clock + 1, overrunEnd := d.overrunEnd || d.passesEnd i.pc d.loopsE }

/-! ### One bundle -/

/-- The bundle stalls in this clock: it stands at issue again in the next. -/
def State.stallBundle (s : State) (n : Nat) (side : Option Bool) (other : Bool) : State :=
  s.modDeck n fun d =>
    let d := { d with stalledAt := some s.clock }
    let wait := fun (w : Option Nat) => if other then some (w.getD s.clock) else none
    match side with
    | none => { d with nextA := s.clock + 1, nextE := s.clock + 1 }
    | some false => { d with nextA := s.clock + 1, waitA := wait d.waitA }
    | some true => { d with nextE := s.clock + 1, waitE := wait d.waitE }

/-- The state in which a bundle of a sequencer begins to issue. -/
def State.beginBundle (s : State) (n : Nat) (side : Option Bool) (pc : CodeAddr) (anew : Option Again) : State :=
  { s with issue := { Issue.idle with deck := n, side := side, pc := pc, seq0 := s.seq, anew := anew } }

/-- A trap of a bundle (R376, R377): in fork mode one of the access sequencer has its trap point where the execute sequencer's bundle stands
at issue. -/
def State.trapBundle (s : State) (n : Nat) (side : Option Bool) (t : Trap) : State :=
  if side = some false ∧ !(s.getDeck n).standsAt s.clock then s.modDeck n fun d => { d with nextA := s.clock + 1 }
  else s.takeTrap n (s.preferred n t)

/-- The bundle has issued: what follows depends on the mode it issued in. -/
def State.finishBundle (s : State) (n : Nat) (side : Option Bool) : State :=
  let d := s.getDeck n
  let inside := (s.getCore (n / 4)).inRegion s.issue.pc
  let s := s.setDeck n (if side = some false then d else { d.countRegion inside with boundary := d.boundary && d.sup })
  let s := match side with
    | none => s.afterLockstep n
    | some false => s.afterAccess n
    | some true => s.afterExecute n
  { s with issue := Issue.idle }

/-- The quiescent point of a `halt` holds the bundle while an invalidation waits for it and what earlier bundles issued has not drained (R127). -/
def State.haltWaits (s : State) (n : Nat) : Bool :=
  s.issue.halts && s.invalWaits n && !(s.extentsDone n false s.issue.seq0 s.clock && s.extentsDone n true s.issue.seq0 s.clock)

/-- Results of deck n that are in flight: latches, `lds` results still to be read, rows of an `mrd` still to be sampled (R383). -/
def State.inFlight (s : State) (n : Nat) : Nat :=
  let d := s.getDeck n
  d.latches.length + (d.ldsWait.filter fun w => !d.latches.any fun l => l.seq == w.1).length +
    (s.micro.filter fun m => m.deck == n && match m.act with | .mrdRow _ => true | _ => false).length

/-- The loop fault of a bundle whose predecessor passed over the kernel's end bundle (R405). -/
def State.passedEnd (s : State) (n : Nat) (side : Option Bool) (pc : CodeAddr) : Option Trap :=
  let d := s.getDeck n
  let t := fun (slot : Nat) => some (⟨0x10, tinfoOf false slot pc 2, 0, 6⟩ : Trap)
  if d.sup then none
  else if d.overrunEnd && side != some false then t 1
  else if d.overrunA && side != some true then t 0
  else none

/-- The instructions of a list of syllables. -/
def instrsOf (ys : List (Slot × Syl)) : List Instr := ys.filterMap fun y => match y.2 with | .ok i => some i | _ => none

/-- The results for scalar registers and predicates that slots A and S of deck n's bundle have brought since state s0. -/
def State.ownResults (s s0 : State) (n : Nat) : List Latch :=
  (s.getDeck n).latches.filter fun l => decide (s0.seq ≤ l.seq) && l.forParapet && decide (l.rank ≤ 1)

/-- A bundle of deck n that ran from state s0 to `acc` has issued, and s is what followed it. A Parapet that differs from its deck executes the bundle's
slots A and S on its own copies and compares (R442): a mismatch is a machine check for the instance, and the compared command or store goes (R443). -/
def State.runParapet (s s0 acc : State) (n : Nat) (side : Option Bool) (b : Bundle) : State :=
  let d := s0.getDeck n
  match (acc.getDeck n).par, d.par with
  | some _, some p =>
    let ys := (slotsOf b side).filter fun y => y.1 == .a || y.1 == .s
    let q := s0.setDeck n (d.withParapet p)
    match (⟨q, q, 0, true, none⟩ : Ran).runAll ys with
    | .next r =>
      let e := (r.acc.finishBundle n side).getDeck n
      let p' := { p with loopsA := e.loopsA, loopsE := e.loopsE, own := p.own ++ r.acc.ownResults s0 n, skip := p.skip ++ (acc.ownResults s0 n).map (·.seq) }
      let bad := (instrsOf ys).filter fun i => comparedOf d i != comparedOf (d.withParapet p) i
      let s := bad.foldl (fun s i => match opcodeOf i with | some (h, _) => s.dropCompared s0 n h | none => s) (s.modDeck n fun d => { d with par := some p' })
      if bad.isEmpty && acc.controlOf n d == r.acc.controlOf n (d.withParapet p) then s
      else
        let s := s.logError 0x06 (n / 4) n (match d.inst with | some i => (s.getInst i).node | none => 0) (s0.issue.pc.setWidth 64)
        match d.inst with | some i => s.checkInst i | none => s
    | _ => s
  | _, _ => s

/-- What the hardware checks of a bundle that has issued: the parity of what it has read, the Parapet's comparisons. -/
def State.checkBundle (s s0 acc : State) (n : Nat) (side : Option Bool) (b : Bundle) : State :=
  (s.checkParity s0 n (instrsOf (slotsOf b side))).runParapet s0 acc n side b

/-- A sequencer of deck n, or in lockstep mode and at a join both, tries its bundle in this clock. One whose results would bring those in flight above
128 is held (R383). -/
def State.runBundle (s : State) (n : Nat) (side : Option Bool) (pc : CodeAddr) (b : Bundle) : Host.Outcome State Fault Refusal :=
  let s0 := s.beginBundle n side pc none
  match (⟨s0, s0, 0, true, none⟩ : Ran).runAll (slotsOf b side) with
  | .fault f => .fault f
  | .refused r => .refused r
  | .next r =>
    if r.stalls ≠ 0 ∨ r.acc.haltWaits n ∨ (s.inFlight n < r.acc.inFlight n ∧ 128 < r.acc.inFlight n) then
      let base := if r.stalls = 1 then r.base else r.base.modDeck n fun d => { d with atSq := none }
      .next { (base.stallBundle n side (r.other && r.stalls ≠ 0)) with issue := Issue.idle }
    else match (s.passedEnd n side pc).or (r.raised.map (·.2)) with
      | some t => .next { (s0.trapBundle n side t) with issue := Issue.idle }
      | none => .next ((r.acc.finishBundle n side).checkBundle s0 r.acc n side b)

/-- A syllable that `rfe` issues again, unguarded, with its captured operands (R387). A stalled one tries again in the next clock; one that
fails at issue is a failure of the trap bundle. -/
def State.replay (s : State) (n : Nat) (a : Again) : Host.Outcome State Fault Refusal :=
  let s0 := s.beginBundle n none a.pc (some a)
  let drop := fun (s : State) => s.modDeck n fun d => { d with again := d.again.drop 1 }
  match s0.syllable .a (decodeSyl .a (a.syl % 2 ^ 56 + 0xFF * 2 ^ 56)) with
  | .next t =>
    match t.issue.raised with
    | some q => .next (drop { s with
        decks := mput s.decks n (let d := s.getDeck n; { d with revoc := d.revoc ++ [(⟨s.seq, false, a.syl, a.pc, a.xa, a.xb, [], 1, a.done, 0, some (q.cause, q.info, q.addr), 0⟩ : Revoc)] }),
        seq := s.seq + 1 })
    | none =>
      if t.issue.stall then .next (s.modDeck n fun d =>
          { d with again := d.again.map (fun q => { q with at_ := max q.at_ (s.clock + 1) }), nextA := max d.nextA (s.clock + 1), nextE := max d.nextE (s.clock + 1) })
      else .next { (drop t) with issue := Issue.idle }
  | .fault f => .fault f
  | .refused r => .refused r

/-! ### Who issues (R24, R32-R35, R313, R383, R396) -/

/-- A stop or a pre-emption waits for the boundary at which deck n stands, and no other deck of its gang has gone beyond it (R24). A pre-emption passes over
a boundary at which the deck has a chain open or a fault pending, and goes on to a later one (R313). -/
def State.heldAtBoundary (s : State) (n : Nat) : Bool :=
  let d := s.getDeck n
  d.boundary && !d.sup && (match d.inst with
    | none => false
    | some i =>
      let x := s.getInst i
      (x.stopAt.isSome || (x.preemptFor.isSome && d.chain.isNone && !d.faultPending)) &&
        x.decks.all fun m =>
          let e := s.getDeck m
          e.halted || e.inst != some i || decide (e.iters < d.iters) || (e.iters == d.iters && e.boundary))

/-- The gang's stall wire holds deck n (R396). -/
def State.heldByWire (s : State) (n : Nat) : Bool :=
  let d := s.getDeck n
  !d.sup && (match d.inst with | some i => s.wireRaised i | none => false)

/-- Deck n may issue in this clock: no trap entry, hold, boundary, wire, power state or 128 results in flight stands against it. -/
def State.mayIssue (s : State) (n : Nat) : Bool :=
  let d := s.getDeck n
  d.live && d.trapWait.isNone && decide (s.inFlight n < 128) && !s.heldAtBoundary n && !s.heldByWire n &&
    (s.getCore (n / 4)).power.cur == 0 && !(d.boundary && !d.sup && s.invalWaits n && !s.drained n)

/-- An enabled `join`. -/
def Deck.joins (d : Deck) : Syl → Bool
  | .ok (.join h _) => (d.guard h).getLsbD 0
  | _ => false

/-- The bundle at both sequencers' address is a join that both have reached and that some slot's guard enables (R35; NOTES.md, Assumption 113). -/
def State.jointDue (s : State) (n : Nat) : Bool :=
  let d := s.getDeck n
  let b := s.bundleAt (n / 4) d.pcE
  d.pcA == d.pcE && decide (d.nextA ≤ s.clock) && decide (d.nextE ≤ s.clock) && (d.joins b.s || d.joins b.a)

/-- The slip bound holds a sequencer (R34). Within one clock the access sequencer is taken first (Assumption 44), so the execute sequencer at −slipw may
issue in the very clock in which the other does, and the access sequencer at +slipw may not: DESIGN CHOICE, R34 says only "until the other
sequencer issues a bundle" (Assumption 113). -/
def Deck.slipHolds (d : Deck) (side : Option Bool) : Bool :=
  match side with
  | none => false
  | some false => d.slip == (d.slipBound : Int)
  | some true => d.slip == -(d.slipBound : Int)

/-- In fork mode an `alease` that is not granted, or a `wfi` with nothing pending, that stands at issue stalls the deck: both sequencers (R41, R184).
DESIGN CHOICE: a bundle that the slip bound holds does not stand at issue (NOTES.md, Assumption 113). -/
def State.stallsDeck (s : State) (n : Nat) : Bool :=
  let d := s.getDeck n
  !d.slipHolds (some true) && (decide (d.nextE ≤ s.clock) || (d.nextE == s.clock + 1 && d.stalledAt == some s.clock && !d.edge.popAE)) &&
    (match (s.bundleAt (n / 4) d.pcE).s with
      | .ok (.alease h _) => (d.guard h).getLsbD 0 && (s.getCore (n / 4)).leaseHolder != some (n % 4)
      | .ok (.wfi h _) => (d.guard h).getLsbD 0 && !(d.pend20 || d.pend21 != 0 || d.pend23)
      | _ => false)

/-- What deck n may try in this clock: none, or lockstep (none), access, execute. -/
def State.sideDue (s : State) (n : Nat) : Option (Option Bool) :=
  let d := s.getDeck n
  if !s.mayIssue n then none
  else if !d.fork then (if d.nextE ≤ s.clock then some none else none)
  else if s.jointDue n then some none
  else if d.nextA ≤ s.clock && !s.stallsDeck n then some (some false)
  else if d.nextE ≤ s.clock then some (some true)
  else none

/-- A replay of deck n is due (R387). -/
def State.replayDue (s : State) (n : Nat) : Option Again :=
  let d := s.getDeck n
  if d.live && d.trapWait.isNone then d.again.head?.filter fun a => decide (a.at_ ≤ s.clock) else none

/-- Execution stands at the kernel address for the first time (R23). In fork mode the kernel is not entered: DESIGN CHOICE, R23 sets up level 0 of both
stacks at once and does not say what a sequencer that reaches the address alone does (NOTES.md, Assumption 113). -/
def State.entersKernel (s : State) (n : Nat) : Bool :=
  let d := s.getDeck n
  !d.fork && !d.sup && decide (d.nextE ≤ s.clock) && s.mayIssue n && (match d.kern with | some k => k.stage == 0 && k.kernel == d.pcE | none => false)

/-- R23, R24: level 0 of both stacks is set up and the first iteration begins; with a trip count of 0 execution goes on at the epilogue. -/
def State.enterKernel (s : State) (n : Nat) : State :=
  let d := s.getDeck n
  match d.kern with
  | none => s
  | some k =>
    if k.trip = 0 then s.setDeck n { d with kern := some { k with stage := 2 }, pcA := k.epilogue, pcE := k.epilogue }
    else
      let l : Level := ⟨k.kernel, k.epilogue - 1, BitVec.ofNat 32 (k.trip - 1)⟩
      let par := d.par.map fun (p : Parapet) => { p with loopsA := p.loopsA ++ [l], loopsE := p.loopsE ++ [l] }
      let d := { d with kern := some { k with stage := 1 }, loopsA := d.loopsA ++ [l], loopsE := d.loopsE ++ [l], par := par }
      s.setDeck n d.passBoundary

/-- Deck n acts in this clock: a replay, its entry into the kernel, or a bundle. -/
def State.runDeck (s : State) (n : Nat) : Host.Outcome State Fault Refusal :=
  match s.replayDue n with
  | some a => s.replay n a
  | none =>
    if s.entersKernel n then .next (s.enterKernel n)
    else match s.sideDue n with
      | none => .next s
      | some side =>
        let d := s.getDeck n
        let pc := if side = some false then d.pcA else d.pcE
        let s := if d.boundary && !d.sup then s.quiesce n else s
        if d.slipHolds side then .next (s.stallBundle n side true) else s.runBundle n side pc (s.bundleAt (n / 4) pc)

/-- Deck n has something to do in this clock. -/
def State.deckDue (s : State) (n : Nat) : Bool := (s.replayDue n).isSome || s.entersKernel n || (s.sideDue n).isSome

/-- The bundle that deck n of a superstep gang would try takes a trap in this clock, which stops its gang in the same clock (R396). -/
def State.wouldTrap (s : State) (n : Nat) : Bool :=
  (match (s.getDeck n).inst with | some i => (s.getInst i).kind == 2 | none => false) && !(s.getDeck n).sup &&
    (match s.runDeck n with | .next t => (t.getDeck n).wire == some 0 | _ => false)

/-- The deck that acts next: one whose bundle traps, then the lowest. -/
def State.nextDeck (s : State) : Option Nat :=
  let due := (s.decks.map (·.1)).filter s.deckDue
  match due.find? s.wouldTrap with
  | some n => some n
  | none => due.head?

/-! ### One action of the machine -/

/-- An event of this clock or an earlier one, and the agenda without it. -/
def State.nextEvent (s : State) : Option (Instr × State) :=
  match s.agenda with
  | (t, e) :: rest => if t ≤ s.clock then some (e, { s with agenda := rest }) else none
  | [] => none

/-- One action: an event; the points and landings of the clock; a bundle or what else a deck does; an event that ends the clock; the next clock
(NOTES.md, Assumption 6). -/
def State.act (s : State) : Host.Outcome State Fault Refusal :=
  match s.phase with
  | .events => match s.nextEvent with
    | some (e, s') => if s'.asleep e then .next (s'.post (s'.clock + 1) e) else exec e s'
    | none => .next { s.pointsAndLandings with phase := .settle }
  | .settle => match s.nextEvent with
    | some (e, s') => if s'.asleep e then .next (s'.post (s'.clock + 1) e) else exec e s'
    | none => .next { s with phase := .issue }
  | .issue => match s.nextDeck with
    | some n => s.runDeck n
    | none => .next { s with phase := .finish }
  | .finish => match s.nextEvent with
    | some (e, s') => if s'.asleep e then .next (s'.post (s'.clock + 1) e) else exec e s'
    | none => match s.lateEvent, s.lateWait, s.lateLeave with
      | some e, _, _ => exec e s
      | none, some (c, e), _ => .next (s.takeWait c e)
      | none, none, some e => exec e s
      | none, none, none => match s.noLocation with
        | some pa => .fault (.noSuchAddress pa)
        | none => .next s.advance

end Sys2Proof.Machine
end

