-- ==== Sys2Proof/Machine/Step.lean ====
section
/-! DEFINITION. One step of the machine, and an instruction placed where the next step fetches it. -/
namespace Sys2Proof.Machine

/-- One step: one action of the machine (NOTES.md, Assumption 6). -/
def step (s : State) : Host.Outcome State Fault Refusal := s.act

/-- Instance 0 runs on deck 0 of core 0 alone, from bundle 0, in the issue phase of this clock, with the bundle w in that core's instruction
store (NOTES.md, Assumption 5). -/
def State.placed (s : State) (w : Nat) : State :=
  let s := { s with mem := Memory.write s.mem (istoreBase 0) 32 w }
  let s := s.modCore 0 fun k => { k with power := ⟨0, 0, false⟩ }
  let s := s.setInst 0 { Inst.absent with st := .running, decks := [0], dispatchedAt := s.clock, node := 2 ^ 31 }
  { s.setDeck 0 { startDeck 0 0 s.clock Inst.absent with kern := none } with
    phase := .issue, nextInst := max s.nextInst 1, issue := Issue.idle }

/-- The state with the bundle of these bits placed where step issues its next bundle. -/
def State.withFetchWord (s : State) (nbits w : Nat) : State := s.placed (w % 2 ^ nbits)

end Sys2Proof.Machine
end

