-- ==== Sys2Proof/Safety.lean ====
section
/-! DEFINITION. The terms in which claims about the machine are stated: when a syllable runs, what a frame is, and the invariant of every step. -/
namespace Sys2Proof.Machine

/-! ### When a syllable runs -/

/-- Guard(0) enables the syllable and no pending `lds` holds a register it reads (R134, R187). -/
abbrev State.Runs (s : State) (h : Hd) (rs : List (BitVec 6)) : Prop := s.guard0 h = true ∧ s.waitsLds rs = false

/-- A control instruction acts in its slot: slot A acts only in fork mode (R32). -/
abbrev State.Acts (s : State) (h : Hd) (rs : List (BitVec 6)) : Prop := s.controls h = true ∧ s.Runs h rs

/-- The access sequencer's earlier revocable syllables have all passed (R385). -/
abbrev State.Passed (s : State) (h : Hd) (rs : List (BitVec 6)) : Prop :=
  s.Runs h rs ∧ (isEx h = true ∨ s.dk.revoc.any (fun r => r.left != 0 || r.failed.isSome) = false)

/-- A first issue of a revocable syllable, of which fewer than 64 are open (R385). -/
abbrev State.MayRecord (s : State) (h : Hd) (rs : List (BitVec 6)) : Prop :=
  s.Runs h rs ∧ s.issue.anew = none ∧ (s.dk.revoc.filter Revoc.open).length < 64

/-- The array takes a command of this deck: it holds the lease, is not warming up, and the port is free (R41, R240, R251). -/
abbrev State.Granted (s : State) (h : Hd) (rs : List (BitVec 6)) (port : Nat) : Prop :=
  s.Runs h rs ∧ s.ck.leaseHolder = some (s.dn % 4) ∧ s.ck.warmUntil ≤ s.clock ∧ port ≤ s.clock

/-- A vector syllable (R52, R53, R134, R216): some lane is enabled, its sources, in field order, are registers or poppable queue entries whose
values are vs, taking them leaves the deck d, and a result queue it pushes into has room. -/
abbrev State.Ready (s : State) (h : Hd) (srcs : List Nat) (nd : Nat) (vs : List VReg) (d : Deck) : Prop :=
  s.dk.guard h ≠ 0 ∧ s.dk.takeAll srcs = .inr (vs, d) ∧ ∀ q, pushOf nd = some q → s.rqRoomNow q = true

/-- Under queue mode suppress a syllable with queue operands that runs clears p30 (R52). -/
abbrev State.ran (s : State) (h : Hd) (qm : Nat) (queues : Bool) : State := if qm = 1 && queues then s.writeP30 h false else s

/-- A vector result: the sources are taken, the image and its tag go to the destination under the guard, the flags land with it. -/
abbrev State.gives (s : State) (h : Hd) (qm lat nd : Nat) (srcs : List Nat) (d : Deck) (img : Image) (tag : Tag) (fl : BitVec 8) : State :=
  (((s.setDk d).writeV h lat nd (s.dk.guard h) img tag).raiseFlags h lat fl).ran h qm ((pushOf nd).isSome || srcs.any isQueueName)

/-- Every enabled element of an image of tag t is the code f gives, and the flags are those of the enabled elements (R87, R215). -/
abbrev ElementsAre (t : Nat) (mask : Pred) (img : Image) (fl : BitVec 8) (f : Nat → Res) : Prop :=
  (∀ e, e < tagElems t → elemOn t mask e = true → elemAt t img e = (f e).1 % 2 ^ tagBits t) ∧
  ∀ k, k < 8 → (fl.getLsbD k = true ↔ ∃ e, e < tagElems t ∧ elemOn t mask e = true ∧ (f e).2.getLsbD k = true)

/-- A machine check has reached instance i: it is doomed; of its decks that still run, one in user mode has 0x23 pending, one in supervisor mode has
ended (R432). -/
abbrev State.Checks (s t : State) (i : Nat) : Prop :=
  (t.getInst i).doomed = true ∧ ∀ n ∈ (s.getInst i).decks, (s.getDeck n).inst = some i → (s.getDeck n).halted = false →
    ((s.getDeck n).sup = false → (t.getDeck n).pend23 = true) ∧ ((s.getDeck n).sup = true → (t.getDeck n).halted = true)

/-- The issuing deck runs instance i. -/
abbrev State.HasInst (s : State) (i : Nat) : Prop := s.dk.inst = some i

/-! ### Frames -/

/-- Everything but the decks, the issue and the numbers of issue is as before. -/
abbrev State.SameDevice (s t : State) : Prop :=
  t.mem = s.mem ∧ t.cores = s.cores ∧ t.dies = s.dies ∧ t.insts = s.insts ∧ t.micro = s.micro ∧ t.agenda = s.agenda ∧ t.clock = s.clock ∧
    t.phase = s.phase ∧ t.shadows = s.shadows ∧ t.trans = s.trans ∧ t.launches = s.launches ∧ t.msgs = s.msgs ∧ t.log = s.log

/-- No other deck has changed. -/
abbrev State.OtherDecks (s t : State) (n : Nat) : Prop := ∀ m, m ≠ n → t.getDeck m = s.getDeck m

/-- Deck d' is deck d but for results in flight. -/
abbrev Deck.OnlyResults (d d' : Deck) : Prop := { d' with latches := d.latches } = d

/-- Every byte of memory reads as before. -/
abbrev State.SameBytes (s t : State) : Prop := ∀ a, t.mem.byte a = s.mem.byte a

/-! ### What holds of every state -/

/-- Memory is in its canonical form. -/
abbrev State.Inv (s : State) : Prop := s.mem.wf = true

end Sys2Proof.Machine
end

