-- ==== Sys2Proof/Certificates/Slice0/Obligations.lean ====
section
/-! DEFINITION. The statements for the provers. -/
open Sys2Proof Sys2Proof.Machine

/-! ### Encoding (spec 06) -/

/-- R129-R145: for every well-formed instruction with an encoding, the decoder of its slot reads the encoder's word as that instruction. -/
def Obligations.DecodeOfEncode : Prop :=
  ∀ (i : Instr) (h : Hd) (op : Nat) (ks : List Slot) (y : Nat), i.wf = true → opcodeOf i = some (h, op, ks) → encode i = some y →
    y < 2 ^ 64 ∧ decodeSyl h.slot y = .ok i

/-- R130, R136: whatever a decoder accepts is well formed, stands in the slot it was read from, and its map holds its opcode. -/
def Obligations.DecodedIsWellFormed : Prop :=
  ∀ (k : Slot) (y : Nat) (i : Instr), decodeSyl k y = .ok i →
    i.wf = true ∧ ∃ h op ks, opcodeOf i = some (h, op, ks) ∧ h.slot = k ∧ k ∈ ks ∧ op = bits y 33 8

/-- R135: with TT = 0x00 a syllable is never decoded, whatever its other bits; with TT = 0xFF the guard is 1 in every lane, whatever the
predicate fields. -/
def Obligations.SpecialTruthTables : Prop :=
  (∀ (k : Slot) (y : Nat), bits y 56 8 = 0 → decodeSyl k y = .empty) ∧
  (∀ (s : State) (k : Slot), s.syllable k .empty = .next s) ∧
  (∀ (d : Deck) (h : Hd) (l : Nat), h.tt = 0xFF → l < 128 → (d.guard h).getLsbD l = true)

/-- R130, R133, R135, R136, R138, R143-R146: syllables the spec writes out to the bit, in each of the four maps, and one word in three slots. -/
def Obligations.WordsDecode : Prop :=
  decodeSyl .a 0xFF00003038E00010 = .ok (.addi ⟨.a, 0xFF, 0, 0, 0⟩ ⟨7, 7, 16⟩) ∧
  decodeSyl .s 0xFF000080001FFFFB = .ok (.br ⟨.s, 0xFF, 0, 0, 0⟩ ⟨0, 0, 0x1FFFFB⟩) ∧
  decodeSyl .v 0x301940080C025080 = .ok (.vfma ⟨.v, 0x30, 3, 5, 0⟩ ⟨12, 4, 322, 0, 0⟩) ∧
  decodeSyl .s 0xFF00003E2800020E = .ok (.movi ⟨.s, 0xFF, 0, 0, 0⟩ ⟨5, 0x20E⟩) ∧
  decodeSyl .s 0xFF0000427FC8A020 = .ok (.cmp ⟨.s, 0xFF, 0, 0, 0⟩ ⟨7, 31, 9, 0, 20, 1, 0⟩) ∧
  decodeSyl .s 0xFF0000446F807808 = .ok (.cmpi ⟨.s, 0xFF, 0, 0, 0⟩ ⟨6, 31, 0, 0, 15, 8⟩) ∧
  decodeSyl .s 0xFF00008D00100008 = .ok (.loopi ⟨.s, 0xFF, 0, 0, 0⟩ ⟨1, 4, 8⟩) ∧
  decodeSyl .s 0xF01000DE00000000 = .ok (.rfe ⟨.s, 0xF0, 2, 0, 0⟩ ⟨0, 0, 0, 0⟩) ∧
  decodeSyl .a 0xFF0001100100001A = .ok (.ldq ⟨.a, 0xFF, 0, 0, 0⟩ ⟨0, 8, 0, 0x1A⟩) ∧
  decodeSyl .a 0xFF000128028C0000 = .ok (.ecmd ⟨.a, 0xFF, 0, 0, 0⟩ ⟨0, 5, 6, 0⟩) ∧
  decodeSyl .a 0xF028012A20A80004 = .ok (.xmit ⟨.a, 0xF0, 5, 0, 0⟩ ⟨1, 0, 21, 0, 4⟩) ∧
  decodeSyl .x 0xC0088002140B0000 = .ok (.vst ⟨.x, 0xC0, 1, 2, 0⟩ ⟨20, 22, 0, 0, 0⟩) ∧
  decodeSyl .x 0xFF00002651660000 = .ok (.mma ⟨.x, 0xFF, 0, 0, 0⟩ ⟨10, 11, 12, 0⟩) ∧
  decodeSyl .x 0xFF00004865000100 = .ok (.tup ⟨.x, 0xFF, 0, 0, 0⟩ ⟨101, 0, 0, 1, 0, 0⟩) ∧
  decodeSyl .x 0xFF00006439200000 = .ok (.cskip ⟨.x, 0xFF, 0, 0, 0⟩ ⟨7, 9, 0, 0⟩) ∧
  decodeSyl .v 0xFF00002A00000000 = .ok (.vredsum ⟨.v, 0xFF, 0, 0, 0⟩ ⟨0, 0, 0, 0, 0⟩) ∧
  decodeSyl .s 0xFF00002A00000000 = .bad .encoding ∧ decodeSyl .s 0xFF00000000000001 = .bad .nonzero ∧ decodeSyl .x 1 = .empty

/-! ### Reset and dispatch -/

/-- R342, R343, R347: at ready every die is Active and every core Off, no graph has been uploaded, no launch runs, and no error has been
logged.
Model's choices: log 3, and log 4 for the last holder of each lease. -/
def Obligations.ResetDevice : Prop :=
  State.reset.ready = true ∧ (∀ c, (State.reset.getCore c).power = ⟨2, 2, false⟩) ∧ (∀ d, (State.reset.getDie d).power = ⟨0, 0, false⟩) ∧
  (∀ c n, (State.reset.getCore c).row n = ⟨.released, 0, false⟩) ∧ State.reset.uploaded = false ∧ State.reset.launches = [] ∧ State.reset.insts = [] ∧ State.reset.log = [] ∧
  (∀ c, (State.reset.getCore c).leaseLast = 3)

/-- R29: the state in which a deck of an instance starts. -/
def Obligations.DeckAtDispatch : Prop :=
  ∀ (i n clock : Nat) (x : Inst),
    let d := startDeck i n clock x
    d.pcA = BitVec.ofNat 14 (field x.words 4 0 14) ∧ d.pcE = d.pcA ∧ d.fork = false ∧ d.sup = false ∧
    (∀ r : BitVec 6, d.getX r = if 1 ≤ r.toNat ∧ r.toNat ≤ 4 then x.args.getD (r.toNat - 1) 0 else 0) ∧
    (∀ r : BitVec 5, d.getP r = if r = 31 then BitVec.allOnes 128 else 0) ∧ (∀ n, mget VReg.zero d.v n = VReg.zero) ∧ (∀ n, mget 0 d.t n = 0) ∧
    (∀ q, mget [] d.oq q = []) ∧ (∀ q, mget [] d.rq q = []) ∧ d.aToE = [] ∧ d.eToA = [] ∧ d.loopsA = [] ∧ d.loopsE = [] ∧ d.sync = 0 ∧
    (∀ k, mget LEntry.zero d.lcache k = LEntry.zero) ∧ (∀ k, mget 0x3F800000 d.ms k = 0x3F800000) ∧ d.fmode = 0 ∧ d.fflags = 0 ∧ d.slipw = 64 ∧
    d.wid = x.wid ∧ (∀ k, mget (crvReset k) d.crv k = crvReset k) ∧ d.tvec = BitVec.ofNat 14 (field x.words 17 40 14) ∧ d.tcause = 0 ∧ d.tinfo = 0 ∧
    d.ckChecked = 0 ∧ d.ckFail = false ∧ d.ckPend = 0 ∧ d.tmode = false ∧ d.tscale = 0 ∧ (∀ k, mget 0 d.shapes k = 0) ∧ d.treeCount = 0 ∧
    d.plive = BitVec.allOnes 32 ∧ d.vlive = BitVec.allOnes 320

/-! ### Steps -/

/-- A bundle of one syllable: when deck n is next in lockstep mode, standing at a bundle whose only syllable is a well-formed instruction in slot
k, and exec of it neither stalls, nor raises a trap, nor brings more than 128 results in flight, the step is exec of it at the state in which the
bundle begins to issue, followed by what follows a bundle (the loop stacks, the next address) and by what the hardware checks of it, which is nothing while no word of the deck
has bad parity and its Parapet equals it. An event that is due is what the step does, and it leaves the agenda; one of a die or core that is Off waits.
Model's choices: log 6, 99. -/
def Obligations.StepRunsDecoded : Prop :=
  (∀ (s : State) (n : Nat) (k : Slot) (i : Instr) (t : State), s.phase = .issue → s.nextDeck = some n → s.replayDue n = none →
      s.entersKernel n = false → s.sideDue n = some none → (s.getDeck n).overrunEnd = false →
      (s.getDeck n).overrunA = false → (s.getDeck n).boundary = false →
      s.bundleAt (n / 4) (s.getDeck n).pcE =
        ⟨if k = .a then .ok i else .empty, if k = .s then .ok i else .empty, if k = .v then .ok i else .empty, if k = .x then .ok i else .empty⟩ →
      exec i (s.beginBundle n none (s.getDeck n).pcE none) = .next t → t.issue.stall = false → t.issue.waitOther = false → t.issue.raised = none →
      t.issue.freeing = [] → t.issue.joins = false → t.haltWaits n = false → (s.inFlight n < t.inFlight n → t.inFlight n ≤ 128) →
      step s = .next ((t.finishBundle n none).checkBundle (s.beginBundle n none (s.getDeck n).pcE none) t n none (s.bundleAt (n / 4) (s.getDeck n).pcE))) ∧
  (∀ (s s0 t : State) (n : Nat) (side : Option Bool) (b : Bundle), (s0.getDeck n).parity = [] → (s0.getDeck n).par = none →
      s.checkBundle s0 t n side b = s) ∧
  (∀ (s : State) (c : Nat) (e : Instr) (rest : List (Nat × Instr)), s.agenda = (c, e) :: rest → c ≤ s.clock →
      s.phase ≠ .issue →
      let s' := { s with agenda := rest }
      (s'.asleep e = false → step s = exec e s') ∧ (s'.asleep e = true → step s = .next (s'.post (s.clock + 1) e)))

/-! ### Invariants and rules of the whole machine -/

/-- Memory is in its canonical form at reset.
Model's choices: log 1, 2. -/
def Obligations.ResetMemoryCanonical : Prop := State.reset.Inv

/-- Every step keeps memory in its canonical form, whatever state it starts from.
Model's choices: log 1, 2. -/
def Obligations.StepKeepsMemoryCanonical : Prop :=
  ∀ (s t : State), s.Inv → step s = .next t → t.Inv

/-- No instruction or event is without a meaning, and every instruction that has an encoding gives a next state from every state: ordinary data
never end a run. -/
def Obligations.EverythingHasAMeaning : Prop :=
  (∀ (i : Instr) (s : State) (r : Refusal), exec i s ≠ .refused r) ∧
  (∀ (i : Instr) (s : State), (opcodeOf i).isSome = true → ∃ t, exec i s = .next t)

/-! ### Scalar instructions (spec 07) -/

/-- R149, R150: the two-operand forms at latency 1, and the products at latency 3; the immediate forms give what their register counterparts give
with the immediate in place of xb. -/
def Obligations.ScalarForms : Prop :=
  (∀ (h : Hd) (b : XRR) (s : State), s.Runs h [b.xa, b.xb] →
      let x := s.x b.xa
      let y := s.x b.xb
      exec (.add h b) s = .next (s.writeX h 1 b.xd (BitVec.ofNat 64 (x.toNat + y.toNat))) ∧
      exec (.sub h b) s = .next (s.writeX h 1 b.xd (BitVec.ofInt 64 (x.toInt - y.toInt))) ∧
      exec (.and h b) s = .next (s.writeX h 1 b.xd (x &&& y)) ∧
      exec (.or h b) s = .next (s.writeX h 1 b.xd (x ||| y)) ∧
      exec (.xor h b) s = .next (s.writeX h 1 b.xd (x ^^^ y)) ∧
      exec (.shl h b) s = .next (s.writeX h 1 b.xd (BitVec.ofNat 64 (x.toNat * 2 ^ (y.toNat % 64)))) ∧
      exec (.shr h b) s = .next (s.writeX h 1 b.xd (BitVec.ofNat 64 (x.toNat / 2 ^ (y.toNat % 64)))) ∧
      exec (.sra h b) s = .next (s.writeX h 1 b.xd (BitVec.ofInt 64 (x.toInt / 2 ^ (y.toNat % 64)))) ∧
      exec (.mul h b) s = .next (s.writeX h 3 b.xd (BitVec.ofNat 64 (x.toNat * y.toNat))) ∧
      exec (.mulh h b) s = .next (s.writeX h 3 b.xd (BitVec.ofInt 64 (x.toInt * y.toInt / 2 ^ 64))) ∧
      exec (.mulhu h b) s = .next (s.writeX h 3 b.xd (BitVec.ofNat 64 (x.toNat * y.toNat / 2 ^ 64))) ∧
      exec (.min h b) s = .next (s.writeX h 1 b.xd (if x.toInt ≤ y.toInt then x else y)) ∧
      exec (.minu h b) s = .next (s.writeX h 1 b.xd (if x.toNat ≤ y.toNat then x else y)) ∧
      exec (.max h b) s = .next (s.writeX h 1 b.xd (if x.toInt ≤ y.toInt then y else x)) ∧
      exec (.maxu h b) s = .next (s.writeX h 1 b.xd (if x.toNat ≤ y.toNat then y else x))) ∧
  (∀ (h : Hd) (b : XI) (s : State), s.Runs h [b.xa] →
      let x := s.x b.xa
      let m := b.imm.signExtend 64
      exec (.addi h b) s = .next (s.writeX h 1 b.xd (x + m)) ∧
      exec (.andi h b) s = .next (s.writeX h 1 b.xd (x &&& m)) ∧
      exec (.ori h b) s = .next (s.writeX h 1 b.xd (x ||| m)) ∧
      exec (.xori h b) s = .next (s.writeX h 1 b.xd (x ^^^ m)) ∧
      (b.imm.toNat ≤ 63 →
        exec (.shli h b) s = .next (s.writeX h 1 b.xd (BitVec.ofNat 64 (x.toNat * 2 ^ b.imm.toNat))) ∧
        exec (.shri h b) s = .next (s.writeX h 1 b.xd (BitVec.ofNat 64 (x.toNat / 2 ^ b.imm.toNat))) ∧
        exec (.srai h b) s = .next (s.writeX h 1 b.xd (BitVec.ofInt 64 (x.toInt / 2 ^ b.imm.toNat)))) ∧
      (Instr.wf (.shli h b) = true → b.imm.toNat ≤ 63) ∧ (Instr.wf (.shri h b) = true → b.imm.toNat ≤ 63) ∧
      (Instr.wf (.srai h b) = true → b.imm.toNat ≤ 63))

/-- R149, R153: leading zeros, one bits, and the two field instructions, bit by bit. -/
def Obligations.BitCountsAndFields : Prop :=
  ∀ (h : Hd) (b : XRR) (s : State), s.Runs h [b.xd, b.xa, b.xb] →
    let x := s.x b.xa
    let lsb := bits b.m.toNat 0 6
    let width := bits b.m.toNat 6 6 + 1
    (∃ n, n ≤ 64 ∧ x.toNat < 2 ^ (64 - n) ∧ (x ≠ 0 → 2 ^ (63 - n) ≤ x.toNat ∧ n < 64) ∧
      exec (.clz h b) s = .next (s.writeX h 1 b.xd (BitVec.ofNat 64 n))) ∧
    exec (.popc h b) s = .next (s.writeX h 1 b.xd (BitVec.ofNat 64 ((List.range 64).filter fun l => x.getLsbD l).length)) ∧
    (b.m.getLsbD 12 = false → exec (.bext h b) s = .next (s.writeX h 1 b.xd (BitVec.ofNat 64 (x.toNat / 2 ^ lsb % 2 ^ width)))) ∧
    (b.m.getLsbD 12 = true → lsb + width ≤ 64 → ∃ v : Word, (v.toInt - (x.toNat / 2 ^ lsb % 2 ^ width : Nat)) % 2 ^ width = 0 ∧
      -2 ^ (width - 1) ≤ v.toInt ∧ v.toInt < 2 ^ (width - 1) ∧ exec (.bext h b) s = .next (s.writeX h 1 b.xd v)) ∧
    ∃ v : Word, exec (.bins h b) s = .next (s.writeX h 1 b.xd v) ∧
      ∀ i, i < 64 → v.getLsbD i = if lsb ≤ i ∧ i < lsb + width then x.getLsbD (i - lsb) else (s.x b.xd).getLsbD i

/-- R152, stated: `sel`. -/
def Obligations.SelChoosesByBit0 : Prop :=
  ∀ (h : Hd) (b : XRR) (s : State), s.Runs h [b.xa, b.xb] →
    (Instr.wf (.sel h b) = true → bits b.m.toNat 5 10 = 0) ∧
    exec (.sel h b) s = .next (s.writeX h 1 b.xd
      (if (s.dk.getP (BitVec.ofNat 5 (bits b.m.toNat 0 5))).getLsbD 0 = true then s.x b.xa else s.x b.xb))

/-- R151, stated: `movi` and `movhi`, and that the three of them build any 64-bit constant. -/
def Obligations.MoviMovhi : Prop :=
  (∀ (h : Hd) (b : XL) (s : State), s.Runs h [] → exec (.movi h b) s = .next (s.writeX h 1 b.xd (BitVec.ofInt 64 b.imm.toInt))) ∧
  (∀ (h : Hd) (b : XL) (s : State), s.Runs h [b.xd] →
    exec (.movhi h b) s = .next (s.writeX h 1 b.xd (BitVec.ofNat 64 ((s.x b.xd).toNat * 2 ^ 27 + b.imm.toNat)))) ∧
  (∀ v : Word,
    let a := BitVec.ofInt 64 (BitVec.ofNat 27 (v.toNat / 2 ^ 54)).toInt
    let b := BitVec.ofNat 64 (a.toNat * 2 ^ 27 + v.toNat / 2 ^ 27 % 2 ^ 27)
    BitVec.ofNat 64 (b.toNat * 2 ^ 27 + v.toNat % 2 ^ 27) = v)

/-- R139, R154, R155: the compares give c to every lane of pd and its complement to every lane of pe, as they are or with what stands there by
and (`comb` 1) or by or (`comb` 2); `ptt` its table's bit to every lane. -/
def Obligations.ComparesAndTables : Prop :=
  (∀ (h : Hd) (b : PCX) (s : State), s.Runs h [b.xa, b.xb] →
    let x := s.x b.xa
    let y := s.x b.xb
    let c : Bool := match b.cond.toNat with
      | 0 => decide (x = y) | 1 => decide (x ≠ y) | 2 => decide (x.toInt < y.toInt) | 3 => decide (y.toInt ≤ x.toInt)
      | 4 => decide (x.toNat < y.toNat) | 5 => decide (y.toNat ≤ x.toNat) | 6 => decide (x.toInt ≤ y.toInt) | 7 => decide (y.toInt < x.toInt)
      | 8 => decide (x.toNat ≤ y.toNat) | _ => decide (y.toNat < x.toNat)
    let v : Pred := if c then BitVec.allOnes 128 else 0
    let r := if b.comb = 1 then (s.dk.getP b.pd &&& v, s.dk.getP b.pe &&& ~~~v)
      else if b.comb = 2 then (s.dk.getP b.pd ||| v, s.dk.getP b.pe ||| ~~~v) else (v, ~~~v)
    exec (.cmp h b) s = .next ((s.writeP h 2 b.pd r.1).writeP h 2 b.pe r.2)) ∧
  (∀ (h : Hd) (b : PCI) (s : State), s.Runs h [b.xa] →
    let v : Pred := if condition b.cond.toNat (s.x b.xa) (BitVec.ofInt 64 b.imm.toInt) then BitVec.allOnes 128 else 0
    let r := if b.comb = 1 then (s.dk.getP b.pd &&& v, s.dk.getP b.pe &&& ~~~v)
      else if b.comb = 2 then (s.dk.getP b.pd ||| v, s.dk.getP b.pe ||| ~~~v) else (v, ~~~v)
    exec (.cmpi h b) s = .next ((s.writeP h 2 b.pd r.1).writeP h 2 b.pe r.2)) ∧
  (∀ (h : Hd) (b : PCT) (s : State), s.Runs h [] →
    ∃ v : Pred, exec (.ptt h b) s = .next (s.writeP h 2 b.pd v) ∧ ∀ l, l < 128 → v.getLsbD l =
      b.tt.getLsbD ((if (s.dk.getP b.pa).getLsbD l then 4 else 0) + (if (s.dk.getP b.pb).getLsbD l then 2 else 0) +
        (if (s.dk.getP b.pc).getLsbD l then 1 else 0)))

/-- R166, stated: `nop` has opcode 0x00 in maps A and S (and, by spec 06's tables, in V and X) and has no effect; its body must be zero; the
canonical no-op, with TT = 0x00, is not decoded and has none. -/
def Obligations.NopHasNoEffect : Prop :=
  (∀ (h : Hd) (b : NB) (s : State), exec (.nop h b) s = .next s) ∧
  (∀ (h : Hd) (b : NB), h.tt ≠ 0 → (h.slot = .a ∨ h.slot = .s) → (Instr.wf (.nop h b) = true ↔ b.z = 0)) ∧
  (∀ h b, opcodeOf (.nop h b) = some (h, 0, [.a, .s, .v, .x])) ∧ (∀ k, encode (.nop ⟨k, 0, 0, 0, 0⟩ ⟨0⟩) = some 0 ∧ decodeSyl k 0 = .empty) ∧
  (∀ s : State, s.syllable .a .empty = .next s ∧ s.syllable .s .empty = .next s)

/-- R38, R45, R147: a result written at issue + lat is in its register once it has landed there, and not before; x0 takes none. -/
def Obligations.ScalarResultLands : Prop :=
  ∀ (h : Hd) (lat : Nat) (r : BitVec 6) (v : Word) (s : State), 0 < lat →
    s.writeX h lat 0 v = s ∧
    (s.dk.trapWait = none → s.dk.frozen = none → s.dk.latches = [] →
      (((s.writeX h lat r v).landDeck s.dn (s.clock + lat)).getDeck s.dn).getX r = (if r = 0 then 0 else v) ∧
      (((s.writeX h lat r v).landDeck s.dn (s.clock + lat - 1)).getDeck s.dn).getX r = s.x r ∧
      ∀ q : BitVec 6, q ≠ r → (((s.writeX h lat r v).landDeck s.dn (s.clock + lat)).getDeck s.dn).getX q = s.x q)

/-- R149-R155, R212-R239: what the scalar and predicate instructions and the vector instructions leave as it is: all but results in flight, and, for a
vector instruction that raises no trap, the queues it pops and pushes and the generator that a stochastic conversion steps. -/
def Obligations.ScalarAndVectorFrame : Prop :=
  (∀ (s t : State) (h : Hd) (b : XRR) (c : XI) (l : XL) (x : PCX) (y : PCI) (z : PCT) (n : NB) (i : Instr),
      i ∈ [Instr.add h b, .sub h b, .and h b, .or h b, .xor h b, .shl h b, .shr h b, .sra h b, .mul h b, .mulh h b, .mulhu h b, .min h b, .minu h b,
        .max h b, .maxu h b, .sel h b, .clz h b, .popc h b, .bext h b, .bins h b, .addi h c, .andi h c, .ori h c, .xori h c, .shli h c, .shri h c,
        .srai h c, .movi h l, .movhi h l, .cmp h x, .cmpi h y, .ptt h z, .nop h n] →
      exec i s = .next t → s.SameDevice t ∧ s.OtherDecks t s.dn ∧ s.dk.OnlyResults t.dk ∧ t.issue = { s.issue with stall := t.issue.stall } ∧
        ∃ new, t.dk.latches = s.dk.latches ++ new ∧ ∀ r ∈ new, s.clock < r.land) ∧
  (∀ (s t : State) (h : Hd) (b : VRR) (c : PCV) (i : Instr),
    i ∈ [Instr.vadd h b, .vsub h b, .vmul h b, .vfma h b, .vfms h b, .vfnma h b, .vmin h b, .vmax h b, .vabs h b, .vneg h b, .vabsd h b, .vcmp h c, .vsel h b,
      .vmov h b, .vbcast h b, .vext h b, .vins h b, .vperm h b, .vslide h b, .vrev h b, .vredsum h b, .vredmax h b, .vredmin h b, .vscan h b, .vrcpe h b,
      .vrsqe h b, .vexp2e h b, .vlog2e h b, .vcvt h b, .vcmpd h b, .vexpnd h b, .vtag h b, .vtopk h b, .vand h b, .vor h b, .vxor h b, .vnot h b, .vshl h b,
      .vshr h b, .vsra h b, .vclz h b, .vpopc h b, .vidx h b, .vdot4 h b, .vmadi h b, .vpop h b] →
    exec i s = .next t → t.issue.raised = none → s.SameDevice t ∧ s.OtherDecks t s.dn ∧
      { t.dk with latches := s.dk.latches, oq := s.dk.oq, rq := s.dk.rq, lfsr := s.dk.lfsr } = s.dk ∧
      t.issue = { s.issue with stall := t.issue.stall, waitOther := t.issue.waitOther } ∧
      ∃ new, t.dk.latches = s.dk.latches ++ new ∧ ∀ r ∈ new, s.clock < r.land)

/-- R134, R147: a scalar syllable whose Guard(0) is 0 does nothing. -/
def Obligations.DisabledScalarDoesNothing : Prop :=
  ∀ (s : State) (h : Hd) (b : XRR) (c : XI) (l : XL) (q : BR) (p : LP) (e : EC), s.guard0 h = false →
    exec (.add h b) s = .next s ∧ exec (.mul h b) s = .next s ∧ exec (.movi h l) s = .next s ∧ exec (.br h q) s = .next s ∧
    exec (.call h q) s = .next s ∧ exec (.loopi h p) s = .next s ∧ exec (.syncw h c) s = .next s ∧ exec (.halt h b) s = .next s ∧
    exec (.mtsrTvec h c) s = .next s ∧ exec (.semw h b) s = .next s ∧ exec (.trap h c) s = .next s ∧ exec (.stsD h c) s = .next s ∧
    (s.issue.anew = none → exec (.ldsD h c) s = .next s) ∧ exec (.ecmd h e) s = .next s ∧ exec (.mma h b) s = .next s

/-! ### Control (spec 02, spec 07) -/

/-- R140, R156, R157: a branch sets the bundle's target, `call` also its link; `ret` goes to a register, `brq` where the popped outcome sends it;
`boq` pushes bit 0 of its predicate. -/
def Obligations.Branches : Prop :=
  ∀ (h : Hd) (b : BR) (c : XRR) (s : State), s.dk.inKernel = false →
    let goes := fun (s : State) (t : CodeAddr) (pops : Bool) => s.modIssue fun i => { i with target := some t, popLoops := pops, taken := true }
    let dest := BitVec.ofInt 14 (s.issue.pc.toNat + b.off.toInt)
    (s.Acts h [] → exec (.br h b) s = .next (goes s dest true)) ∧
    (s.Acts h [] → exec (.call h b) s = .next (goes (s.writeX h 1 b.xd (BitVec.ofNat 64 ((s.issue.pc.toNat + 1) % 2 ^ 14))) dest false)) ∧
    (s.Acts h [c.xa] → exec (.ret h c) s = .next (goes s (BitVec.ofNat 14 (s.x c.xa).toNat) false)) ∧
    (∀ o os, h.slot = .s → s.dk.aToE = o :: os → s.Acts h [] →
      let s' := s.modDk fun d => { d with edge := { d.edge with popAE := true } }
      exec (.brq h b) s = .next (if o then goes s' dest true else s')) ∧
    (h.slot = .a → s.dk.aToE.length + s.dk.edge.pushAE.length < 16 → s.Runs h [] →
      exec (.boq h c) s = .next (s.modDk fun d => { d with edge := { d.edge with
        pushAE := d.edge.pushAE ++ [(s.dk.getP (BitVec.ofNat 5 (bits c.m.toNat 0 5))).getLsbD 0] } }))

/-- R158: with a free level, a loop of n > 0 repetitions puts one level on the stacks of its sequencer, n − 1 repetitions remaining; a count of 0
passes the body over. -/
def Obligations.Loops : Prop :=
  ∀ (h : Hd) (b : LP) (s : State), s.dk.inKernel = false → (s.loops h).length < 4 → (∀ l ∈ s.loops h, l.stop ≠ s.issue.pc) →
    let put := fun (n : Nat) (stop : CodeAddr) =>
      if n = 0 then s.modIssue fun i => { i with target := some (stop + 1), popLoops := true, taken := true }
      else
        let l : Level := ⟨s.issue.pc + 1, stop, BitVec.ofNat 32 (n - 1)⟩
        s.modDk fun d => { d with loopsA := if d.fork ∧ h.slot ≠ .a then d.loopsA else l :: d.loopsA,
                                  loopsE := if d.fork ∧ h.slot = .a then d.loopsE else l :: d.loopsE }
    (s.Acts h [BitVec.ofNat 6 (bits b.low.toNat 12 6)] → (s.dk.fork = false → s.dk.loopsA = s.dk.loopsE) →
      exec (.loop h b) s = .next (put (min (s.x (BitVec.ofNat 6 (bits b.low.toNat 12 6))).toNat (2 ^ 32 - 1)) (s.issue.pc + b.stop))) ∧
    (s.Acts h [] → exec (.loopi h b) s = .next (put b.low.toNat (s.issue.pc + b.stop))) ∧
    (s.Acts h [] → exec (.rep h b) s = .next (put b.low.toNat (s.issue.pc + 1)))

/-- R33, R35, R37, R162-R165: fork and join, the sync bits, `halt`.
Model's choices: log 43, 49. -/
def Obligations.ForkJoinSyncHalt : Prop :=
  ∀ (h : Hd) (f : BRF) (b : XRR) (c : XI) (s : State), s.Runs h [] →
    (s.dk.fork = false → exec (.fork h f) s = .next (s.modIssue fun i => { i with
      forks := some (BitVec.ofInt 14 (i.pc.toNat + f.offA.toInt), BitVec.ofInt 14 (i.pc.toNat + f.offE.toInt)) })) ∧
    (s.dk.fork = true → exec (.fork h f) s = .next (s.raise h 0x0F 1 0)) ∧
    (s.dk.fork = false → exec (.join h b) s = .next s) ∧
    (s.dk.fork = true → s.bothHere = true → s.storesPending (s.earlierStores true ++ s.earlierStores false) = false →
      exec (.join h b) s = .next (if s.dk.loopsA = s.dk.loopsE then s.modIssue fun i => { i with joins := true } else s.raise h 0x0F 0 0)) ∧
    (s.dk.fork = true → s.bothHere = true → s.storesPending (s.earlierStores true ++ s.earlierStores false) = true → exec (.join h b) s = .next s.stalled) ∧
    (c.imm.toNat ≤ 15 → ∃ m : BitVec 16, (∀ k, k < 16 → m.getLsbD k = decide (k = c.imm.toNat)) ∧
      exec (.syncs h c) s = .next (s.modDk fun d => { d with edge := { d.edge with syncSet := d.edge.syncSet ||| m } }) ∧
      (s.dk.sync.getLsbD c.imm.toNat = true → exec (.syncw h c) s = .next (s.modDk fun d => { d with edge := { d.edge with syncClr := d.edge.syncClr ||| m } }))) ∧
    (s.dk.fork = false → s.dk.chain = none → exec (.halt h b) s = .next (s.modIssue fun i => { i with halts := true }))

/-- R148, R178, R180: special registers are read at latency 1 and written for the next bundle; a supervisor register in user mode raises 0x11. -/
def Obligations.SpecialRegisters : Prop :=
  ∀ (h : Hd) (b : XI) (s : State), s.Runs h [b.xa] →
    let put := fun (n : Nat) => Host.Outcome.next (φ := Fault) (ρ := Refusal) (s.result h 1 (.spr n) 0 ((s.x b.xa).setWidth 4096) 0)
    (b.imm.toNat < 0x40 ∨ s.dk.sup = true → exec (.mfsr h b) s = .next (s.writeX h 1 b.xd (s.readSpr b.imm.toNat))) ∧
    (0x40 ≤ b.imm.toNat → s.dk.sup = false → exec (.mfsr h b) s = .next (s.raise h 0x11 0 0)) ∧
    exec (.mtsrSlipw h b) s = put 0x010 ∧ exec (.mtsrFmode h b) s = put 0x011 ∧ exec (.mtsrFflags h b) s = put 0x012 ∧
    (b.imm.toNat < 0x40 → exec (.mtsrCrv h b) s = put b.imm.toNat) ∧ exec (.mtsrSdcfg h b) s = put 0x030 ∧
    (s.dk.sup = true → exec (.mtsrTvec h b) s = put 0x040) ∧ (s.dk.sup = false → exec (.mtsrTvec h b) s = .next (s.raise h 0x11 0 0)) ∧
    exec (.widx h b) s = .next (s.writeX h 1 b.xd (widField s.dk.wid s.inst.widths b.imm.toNat)) ∧
    s.readSpr 0x000 = s.dk.wid ∧ s.readSpr 0x001 = BitVec.ofNat 64 (s.dn % 4) ∧ s.readSpr 0x002 = BitVec.ofNat 64 s.cn ∧
    s.readSpr 0x003 = BitVec.ofNat 64 (s.clock - s.ck.clkBase) ∧ s.readSpr 0x010 = s.dk.slipw ∧ s.readSpr 0x041 = BitVec.ofNat 64 s.dk.tcause.toNat

/-- R178: what a write leaves in each register: only its defined fields, no `slipw` of 0, no reserved rounding mode, a clean `crv`. -/
def Obligations.SpecialRegisterFields : Prop :=
  ∀ (d : Deck) (w : Word),
    (d.writeSpr 0x010 w).slipw = (if w.toNat % 1024 = 0 then 1 else BitVec.ofNat 64 (w.toNat % 1024)) ∧
    (d.writeSpr 0x011 w).fmode = BitVec.ofNat 64 ((w.toNat / 8 % 4) * 8 + (if w.toNat / 32 % 8 > 4 then 0 else w.toNat / 32 % 8) * 32) ∧
    ((d.writeSpr 0x012 w).fflags.getLsbD 5 = false ∧ ∀ k, k < 8 → k ≠ 5 → (d.writeSpr 0x012 w).fflags.getLsbD k = w.getLsbD k) ∧
    (d.writeSpr 0x040 w).tvec = BitVec.ofNat 14 w.toNat ∧
    (∀ n, 0x020 ≤ n → n ≤ 0x02F → mget (crvReset (n - 0x020)) (d.writeSpr n w).crv (n - 0x020) =
      BitVec.ofNat 64 ((if n = 0x020 ∨ w.toNat / 2 ^ 32 > 0x7F800000 then 0 else w.toNat / 2 ^ 32) * 2 ^ 32 +
        (let sl := w.toNat / 2 ^ 27 % 32; if 8 < sl ∧ sl < 16 then 8 else if 16 ≤ sl ∧ sl < 24 then 24 else sl) * 2 ^ 27)) ∧
    (∀ n, n ≠ 0x010 → (d.writeSpr n w).slipw = d.slipw) ∧ (∀ n, (d.writeSpr n w).x = d.x) ∧ (∀ n, (d.writeSpr n w).wid = d.wid)

/-- R117, R127, R171-R173: a fence, a quiescent point and a Square let the bundle go once what they wait for has happened, and change nothing of
the device; `qpt` passes the point for its sequencers.
Model's choices: log 10. -/
def Obligations.FencesAndPoints : Prop :=
  ∀ (h : Hd) (b : XRR) (s : State), s.Runs h [] →
    (s.storesPending (s.earlierStores (isEx h)) = false → s.loadsDone s.dn (isEx h) false = true →
      exec (.fenceDeck h b) s = .next s ∧ exec (.fenceCore h b) s = .next s) ∧
    (s.storesPending (s.earlierStores (isEx h)) = false → s.loadsDone s.dn (isEx h) true = true → exec (.fenceGang h b) s = .next s) ∧
    (s.storesPending (s.earlierStores (isEx h)) = false → s.loadsDone s.dn (isEx h) true = true → s.ownCmds s.dn (isEx h) s.clock = [] →
      exec (.fenceDevice h b) s = .next s ∧ exec (.fenceSystem h b) s = .next (if s.ackPending s.dn (isEx h) then s.stalled else s)) ∧
    (s.storesPending (s.earlierStores (isEx h)) = true → exec (.fenceDeck h b) s = .next s.stalled) ∧
    (s.extentsDone s.dn (isEx h) s.issue.seq0 s.clock = true → exec (.qpt h b) s = .next (s.passQuiescent s.dn (isEx h))) ∧
    (s.dk.fork = false → s.inst.squareAt = some s.clock → exec (.sq h b) s = .next (s.modDk fun d => { d with atSq := none }))

/-- R167, R168: a wait that its semaphore satisfies, an add that performs once the sequencer's stores have, a target set in the next clock, a read;
the adds of one clock are summed and the value clamped once to 0-65,535, whatever their order.
Model's choices: log 10, and log 114 for the ordering that an acquiring wait takes over core by core. -/
def Obligations.Semaphores : Prop :=
  (∀ (h : Hd) (b : XRR) (s : State), s.Runs h [b.xa] → s.guard0 h = true →
      let n := bits b.m.toNat 0 6
      let q := s.ck.sem n
      (b.m.getLsbD 6 = true → q.target.toNat ≤ q.value.toNat →
        exec (.semw h b) s = .next (s.modCk fun k => (k.setSem n { q with value := q.value - q.target, used := q.used + q.target.toNat }).acquire q.rel)) ∧
      (b.m.getLsbD 6 = false → q.target.toNat ≤ q.value.toNat + q.used → exec (.semw h b) s = .next (s.modCk fun k => k.acquire q.rel)) ∧
      (q.value.toNat + q.used < q.target.toNat → exec (.semw h b) s = .next s.stalled) ∧
      exec (.sema h b) s = .next (s.post (s.clock + 1)
        (.semaAddPerform s.cn n ((BitVec.ofNat 16 (s.x b.xa).toNat).toInt + (b.m.toNat / 2 ^ 7 % 2 ^ 8 : Nat)) (s.earlierStores (isEx h)))) ∧
      exec (.semt h b) s = .next (s.access (s.clock + 1) s.cn s.dn (isEx h) 0 (.semt n (BitVec.ofNat 16 (s.x b.xa).toNat))) ∧
      exec (.semr h b) s = .next (s.writeX h 1 b.xd (BitVec.ofNat 64 (q.value.toNat + q.used + q.target.toNat * 2 ^ 16))) ∧
      (∀ core sem (amount : Int) stores, s.storesPending stores = false →
        exec (.semaAddPerform core sem amount stores) s = .next (s.semAdd core sem amount)) ∧
      (∀ core sem, s.signals = [] → exec (.remoteSignalArrival core sem) s = .next (s.semAdd core sem 1)) ∧
      (∀ g, s.signals = [g] → ∃ t, exec (.remoteSignalArrival g.core g.sem) s = .next t ∧ t.signals = [] ∧
        ((t.getCore g.core).sem g.sem).value = (((s.getCore g.core).sem g.sem).add 1).value ∧
        ((t.getCore g.core).sem g.sem).target = ((s.getCore g.core).sem g.sem).target ∧ t.mem = s.mem)) ∧
  (∀ (x : Sem) (ks : List Int), x.sum = 0 → x.base = x.value.toNat → ks ≠ [] →
      ((ks.foldl Sem.add x).value.toNat : Int) = max 0 (min 65535 (x.value.toNat + ks.sum)) ∧ (ks.foldl Sem.add x).target = x.target)

/-- R41, R170: the holder's `alease` goes on; without the lease it requests and stalls; a free lease goes to the first requester after the last
holder; `arel` gives it up at the end of its bundle. -/
def Obligations.Leases : Prop :=
  (∀ (h : Hd) (b : XRR) (s : State), s.Runs h [] →
    (s.ck.leaseHolder = some (s.dn % 4) → exec (.alease h b) s = .next s) ∧
    (s.ck.leaseHolder ≠ some (s.dn % 4) → ∃ t, exec (.alease h b) s = .next t ∧ t.issue.stall = true ∧ s.dn % 4 ∈ t.ck.leaseReq) ∧
    (s.dk.chain = none → exec (.arel h b) s = .next (s.modIssue fun i => { i with releases := true }))) ∧
  (∀ (core d : Nat) (s : State), (s.getCore core).leaseHolder = none → (s.getCore core).leaseLast < 4 → d < 4 →
    d ∈ (s.getCore core).leaseReq → (∀ e, e < 4 → e ∈ (s.getCore core).leaseReq →
      (d + 3 - (s.getCore core).leaseLast) % 4 ≤ (e + 3 - (s.getCore core).leaseLast) % 4) →
    ∃ t, exec (.leaseGrant core) s = .next t ∧ (t.getCore core).leaseHolder = some d ∧ (t.getCore core).leaseLast = d ∧
      d ∉ (t.getCore core).leaseReq ∧ t.mem = s.mem)

/-- R182-R184, R181: `trap` marks its deck for the next bundle; `wfi` goes on when an interrupt is pending; `plive` and `vlive` set the live
masks; `rfe` in user mode raises 0x11. -/
def Obligations.TrapsWaitsMasks : Prop :=
  ∀ (h : Hd) (b : XRR) (c : XI) (s : State), s.Runs h [b.xa] →
    (s.dk.sup = false → exec (.trap h c) s = .next (s.modDk fun d => { d with pendTrap := some ⟨0x22, BitVec.ofNat 64 (c.imm.toNat % 2 ^ 20), 0, 6⟩ })) ∧
    (s.dk.pend20 = true ∨ s.dk.pend21 ≠ 0 ∨ s.dk.pend23 = true → exec (.wfi h b) s = .next s) ∧
    (s.dk.pend20 = false → s.dk.pend21 = 0 → s.dk.pend23 = false → exec (.wfi h b) s = .next s.stalled) ∧
    exec (.plive h b) s = .next (s.modDk fun d => { d with plive := BitVec.ofNat 32 (s.x b.xa).toNat }) ∧
    (∃ m : BitVec 320, exec (.vlive h b) s = .next (s.modDk fun d => { d with vlive := m }) ∧
      (bits b.m.toNat 0 3 ≤ 4 → ∀ i, i < 320 → m.getLsbD i =
        if i / 64 = bits b.m.toNat 0 3 then (s.x b.xa).getLsbD (i % 64) else s.dk.vlive.getLsbD i)) ∧
    (s.dk.sup = false → exec (.rfe h b) s = .next (s.raise h 0x11 0 0)) ∧
    (s.dk.sup = true → s.dk.fork = false → s.inst.doomed = false →
      exec (.rfe h b) s = .next ((s.trapReturn s.dn).modIssue fun i => { i with returned := true }))

/-! ### Traps (spec 20) -/

/-- R376, R379, R380, R382, R402: a deck in user mode with no access open takes a synchronous trap: cause and information are saved, it
goes to supervisor mode, out of fork mode, to the trap vector, with empty loop stacks; its registers stand; the other decks and memory do not change. In
supervisor mode a synchronous cause is a double fault: the deck issues nothing more and the error log has an entry of kind 0x07 with its address.
Model's choices: log 48. -/
def Obligations.TrapEntry : Prop :=
  (∀ (s : State) (n : Nat) (t : Trap), (s.getDeck n).sup = false → (s.getDeck n).revoc = [] → (s.getDeck n).arrFaults = [] →
      t.order = 6 →
      let d := s.getDeck n
      let d' := (s.takeTrap n t).getDeck n
      d'.tcause = BitVec.ofNat 8 t.cause ∧ d'.tinfo = t.info ∧ d'.sup = true ∧ d'.fork = false ∧ d'.pcA = d.tvec ∧ d'.pcE = d.tvec ∧
      d'.loopsA = [] ∧ d'.loopsE = [] ∧ d'.latches = [] ∧ d'.hold = true ∧ d'.wire = some 0 ∧ d'.x = d.x ∧ d'.p = d.p ∧ d'.v = d.v ∧ d'.t = d.t ∧ d'.tvec = d.tvec ∧
      s.OtherDecks (s.takeTrap n t) n ∧ (s.takeTrap n t).mem = s.mem) ∧
  (∀ (s : State) (n : Nat) (t : Trap), (s.getDeck n).sup = true → (s.getDeck n).inst = none →
      ((s.takeTrap n t).getDeck n).hold = true ∧ (s.takeTrap n t).mem = s.mem ∧ (s.takeTrap n t).logCount = s.logCount + 1 ∧
      (s.takeTrap n t).log = s.log ++ [⟨0x07, n / 4 / 8, n / 4, n % 4, 0, (s.clock - s.readyClock) / 2048, BitVec.ofNat 64 (s.getDeck n).pcE.toNat⟩])

/-- R315, R382, R387: what the header of a trap frame holds, by byte offset; and of what an image was made of a return reads back both addresses, the mode,
the vector, the cause and its information in its defined bits, the live mask of the predicates and every scalar register.
Model's choices: log 82. -/
def Obligations.FrameHoldsContext : Prop :=
  (∀ (d : Deck) (e : Extra), e.node < 2 ^ 64 →
      let w := (d.image e).1
      getAt w 0 8 = d.wid.toNat ∧ getAt w 8 8 = e.node ∧
      bits (getAt w 16 8) 0 14 = d.pcA.toNat ∧ bits (getAt w 16 8) 16 14 = d.pcE.toNat ∧ bits (getAt w 16 8) 32 1 = (if d.fork then 1 else 0) ∧
      bits (getAt w 16 8) 33 1 = (if d.sup then 1 else 0) ∧ getAt w 40 8 = d.plive.toNat ∧
      getAt w 0x60 8 = d.tvec.toNat ∧ getAt w 0x68 8 = d.tcause.toNat ∧ getAt w 0x70 8 = d.tinfo.toNat ∧ getAt w 0x78 8 = e.addr.toNat) ∧
  (∀ (d d0 : Deck) (e : Extra) (r seq : Nat),
      let d' := d0.restore (d.image e).1 r seq
      d'.wid = d.wid ∧ d'.pcA = d.pcA ∧ d'.pcE = d.pcE ∧ d'.fork = d.fork ∧ d'.sup = d.sup ∧ d'.tvec = d.tvec ∧ d'.tcause = d.tcause ∧
      d'.tinfo = tinfoField d.tcause.toNat d.tinfo ∧ d'.plive = d.plive ∧ ∀ q : BitVec 6, d'.getX q = d.getX q)

/-- R387: `rfe` resumes the deck 16 clocks, the rows of the frame and the replay entries after its issue, as the frame says. -/
def Obligations.ReturnFromTrap : Prop :=
  ∀ (s : State) (n : Nat),
    let w := s.frameImage n (frameLength (s.frameImage n fixedBytes))
    let r := s.clock + 16 + imageRows (frameLength (s.frameImage n fixedBytes)) + bits (getAt w 88 8) 0 7
    let d' := (s.trapReturn n).getDeck n
    d'.pcA = BitVec.ofNat 14 (getAt w 16 8) ∧ d'.sup = (bits (getAt w 16 8) 33 1 == 1) ∧ d'.fork = (bits (getAt w 16 8) 32 1 == 1) ∧
    d'.nextA = r ∧ d'.nextE = r ∧ d'.wire = some r ∧ d'.hold = false ∧ (s.trapReturn n).mem = s.mem ∧ s.OtherDecks (s.trapReturn n) n

/-- R378, R394, R397: the events that bring a deck to a trap or make an interrupt pending on it.
Model's choices: log 47. -/
def Obligations.TrapEvents : Prop :=
  ∀ (s : State) (n : Nat),
    (∀ t, (s.getDeck n).trapWait = none → s.dueTrap n = some t → exec (.trapEntry n) s = .next (s.takeTrap n t)) ∧
    ((s.getDeck n).trapWait ≠ none → exec (.trapEntry n) s = .next (s.enterTrap n)) ∧
    (s.mutuallyStalled n = true → (s.getDeck n).trapWait = none → (s.getDeck n).interrupt (s.deferred n) = none →
      exec (.mutualStall n) s = .next (s.takeTrap n ⟨0x0F, tinfoOf false 1 (s.getDeck n).pcE 2, 0, 6⟩)) ∧
    (∀ q, s.mutuallyStalled n = true → (s.getDeck n).trapWait = none → (s.getDeck n).interrupt (s.deferred n) = some q → q.order < 6 →
      s.wfiKeeps n q = false → exec (.mutualStall n) s = .next (s.takeTrap n q)) ∧
    (s.timed n = true → (s.getDeck n).timer = s.iterClocks n / 2 →
      ∃ t, exec (.iterTimerHalf n) s = .next t ∧ t.getDeck n = { s.getDeck n with pend20 := true } ∧ s.OtherDecks t n ∧ t.mem = s.mem) ∧
    (s.timed n = true → (s.getDeck n).timer = s.iterClocks n →
      ∃ t, exec (.iterOverrun n) s = .next t ∧ t.getDeck n = { s.getDeck n with pend21 := 1 } ∧ s.OtherDecks t n ∧ t.mem = s.mem)

/-! ### Spawning (spec 07 R174-R177) -/

/-- R174-R176: `spawn` stages one set with its instance and reserves a status word in rq5; `xfork` reserves a token there for a new share of its
extent; `cancel` of a subgroup goes to every die; without a group it does nothing.
Model's choices: log 75. -/
def Obligations.Spawning : Prop :=
  ∀ (h : Hd) (b : XRR) (s : State) (i : Nat), s.Runs h [b.xa, b.xb, b.xd] → s.HasInst i → s.rqRoomNow 5 = true → bits b.m.toNat 13 2 = 0 →
    (bits (s.x b.xa).toNat 13 19 = 0 → s.reachable s.inst.ctx (s.queueAddr s.inst.ctx (bits (s.x b.xa).toNat 44 20)) 32 = true →
      s.queueLive s.inst.ctx (bits (s.x b.xa).toNat 44 20) (bits (s.x b.xa).toNat 32 12) = true → s.stagedOn (s.cn / 8) < Config.stagingSets →
      ∃ t set, exec (.spawn h b) s = .next t ∧ (t.getInst i).staged = (s.getInst i).staged ++ [set] ∧ set.queue = bits (s.x b.xa).toNat 44 20 ∧
        set.gen = bits (s.x b.xa).toNat 32 12 ∧ set.base = s.x b.xb ∧ (mget [] t.dk.rq 5).length = (mget [] s.dk.rq 5).length + 1 ∧ t.mem = s.mem) ∧
    (∀ e, s.inst.ext (bits (s.x b.xa).toNat 0 4) = some e →
      ∃ t, exec (.xfork h b) s = .next t ∧ t.shares = s.shares ++ [⟨2 ^ 31 + s.nextShare % 2 ^ 31, s.inst.ctx, e.base, e.len, [], 0, false⟩] ∧
        t.nextShare = s.nextShare + 1 ∧ (mget [] t.dk.rq 5).length = (mget [] s.dk.rq 5).length + 1 ∧ t.mem = s.mem) ∧
    (s.inst.ext (bits (s.x b.xa).toNat 0 4) = none → exec (.xfork h b) s = .next (s.raise h 0x0B 0 0)) ∧
    (bits (s.x b.xa).toNat 0 13 ≠ 0 → exec (.cancel h b) s = .next ((List.range 12).foldl (fun s d =>
      s.message (s.cn / 8) d 5000 (.cancelMessage d (groupKey (s.getInst i).ctx (bits (s.x b.xa).toNat 0 13))))
      { s with cancels := s.cancels ++ [(groupKey (s.getInst i).ctx (bits (s.x b.xa).toNat 0 13), List.range 12)] })) ∧
    (bits (s.x b.xa).toNat 0 13 = 0 → s.inst.groups = [] → exec (.cancel h b) s = .next s)

/-! ### Access instructions (spec 08) -/

/-- R185-R188: a scalar load records itself and reads its aligned bytes two clocks later; until then a reader of xd interlocks. At its read point a
load of a row that holds data, and that no other core has raced with, takes the bytes there, least significant first, zero-extended, and they land two clocks later.
Model's choices: log 16. -/
def Obligations.ScalarLoads : Prop :=
  (∀ (h : Hd) (b : XI) (s : State) (i : Instr) (k a : Nat), (i, k) ∈ [(Instr.ldsB h b, 0), (.ldsH h b, 1), (.ldsW h b, 2), (.ldsD h b, 3)] →
      s.MayRecord h [b.xa] → addrOf (s.x b.xa + b.imm.signExtend 64) = .store a → s.frameBarred (a / 16384) = false →
      ∃ t, exec i s = .next t ∧
        t.micro = s.micro ++ [⟨s.clock + 2, s.cn, s.dn, false, deckPrio s.dn false, s.seq + 1, .ldsRead s.seq (a / 2 ^ k * 2 ^ k) (2 ^ k) b.xd.toNat⟩] ∧
        t.dk.ldsWait = s.dk.ldsWait ++ (if b.xd = 0 then [] else [(s.seq, b.xd.toNat)]) ∧
        t.dk.revoc.map (·.seq) = s.dk.revoc.map (·.seq) ++ [s.seq] ∧ t.mem = s.mem ∧ t.cores = s.cores ∧ s.OtherDecks t s.dn) ∧
  (∀ (s : State) (n c id a k rd : Nat), s.liveRevoc n id = true → (s.getCore c).meet (a / 512) = .data → (s.getCore c).pendBits = [] →
      (s.getCore c).badGran = [] → (s.getCore c).hist = [] → rd ≠ 0 → k ≤ 3 → a % 2 ^ k = 0 →
      ∃ l, ((s.ldsSample n c id a (2 ^ k) rd).getDeck n).latches = (s.getDeck n).latches ++ [l] ∧ l.land = s.clock + 2 ∧ l.dest = .x rd ∧
        l.data = BitVec.ofNat 4096 (Memory.read s.mem (storeBase c + a) (2 ^ k)) ∧ (s.ldsSample n c id a (2 ^ k) rd).mem = s.mem)

/-- R186: a scalar store writes the low bytes of xd at its aligned address six clocks later, and nothing before. -/
def Obligations.ScalarStores : Prop :=
  ∀ (h : Hd) (b : XI) (s : State) (i : Instr) (k a : Nat), (i, k) ∈ [(Instr.stsB h b, 0), (.stsH h b, 1), (.stsW h b, 2), (.stsD h b, 3)] →
    s.Passed h [b.xa, b.xd] → addrOf (s.x b.xa + b.imm.signExtend 64) = .store a → s.frameBarred (a / 16384) = false →
    (s.ck.tile (a / 16384)).published = false →
    exec i s = .next (s.access (s.clock + 6) s.cn s.dn false (deckPrio s.dn false)
      (.write (alignedAddr a k / 512) (byteRange (alignedAddr a k % 512) (2 ^ k)) ((s.x b.xd).setWidth 4096 <<< (8 * (alignedAddr a k % 512))) none))

/-- R59, R61, R82: a write that performs changes the bytes of its mask in its row and no other byte of memory (the four bits at the end of a row of
packed 6-bit elements stay 0); a whole-row write makes the row valid with Age 0, a partial one leaves its state. -/
def Obligations.WritePerforms : Prop :=
  ∀ (s : State) (m : Micro) (row : Nat) (mask : BitVec 512) (data : Image), m.act = .write row mask data none →
    let t := s.performMicro m
    let base := storeBase m.core + 512 * row
    (∀ a, (a < base ∨ base + 512 ≤ a) → t.mem.byte a = s.mem.byte a) ∧
    (s.mem.wf = true → ∀ o, o < 512 → t.mem.byte (base + o) = if mask.getLsbD o then
        (let tag := ((s.getCore m.core).tile (row / 32)).tag
         if o = 511 ∧ (tag = 0x04 ∨ tag = 0x06) then data.extractLsb' (8 * o) 8 &&& 0x0F else data.extractLsb' (8 * o) 8)
      else s.mem.byte (base + o)) ∧
    (mask = wholeMask → (t.getCore m.core).row row = ⟨.valid, (s.getCore m.core).ticks, false⟩ ∧ (t.getCore m.core).age row = 0) ∧
    (mask ≠ wholeMask → (t.getCore m.core).row row = (s.getCore m.core).row row) ∧
    (∀ r, r ≠ row → (t.getCore m.core).row r = (s.getCore m.core).row r) ∧ t.decks = s.decks ∧ (∀ c, c ≠ m.core → t.getCore c = s.getCore c)

/-- R61, R401: a scalar load or store of any width outside the store traps: cause 0x0B with the address word; one of a frame tile in user mode 0x11; a
store to a published tile 0x13. -/
def Obligations.AccessTraps : Prop :=
  ∀ (h : Hd) (b : XI) (s : State),
    let w := s.x b.xa + b.imm.signExtend 64
    (∀ i ∈ [Instr.ldsB h b, .ldsH h b, .ldsW h b, .ldsD h b], s.MayRecord h [b.xa] →
      ((∀ a, addrOf w ≠ .store a) → exec i s = .next (s.raise h 0x0B 0 w)) ∧
      (∀ a, addrOf w = .store a → 4032 ≤ a / 16384 → s.dk.sup = false → exec i s = .next (s.raise h 0x11 0 w))) ∧
    (∀ i ∈ [Instr.stsB h b, .stsH h b, .stsW h b, .stsD h b], s.Passed h [b.xa, b.xd] →
      ((∀ a, addrOf w ≠ .store a) → exec i s = .next (s.raise h 0x0B 0 w)) ∧
      (∀ a, addrOf w = .store a → 4032 ≤ a / 16384 → s.dk.sup = false → exec i s = .next (s.raise h 0x11 0 w)) ∧
      (∀ a, addrOf w = .store a → s.frameBarred (a / 16384) = false → (s.ck.tile (a / 16384)).published = true →
        exec i s = .next (s.raise h 0x13 0 w)))

/-- R189, R190, R381: the loads into operand queues reserve their entries now; a local row is read at issue + 2 + r, a remote request sets out for its
core, an `ldqt` reads its first bank word at issue + 2; a row of a frame tile, here or in the other core, or a bank word of one, is barred in user mode.
Model's choices: log 7, 16. -/
def Obligations.QueueLoads : Prop :=
  ∀ (h : Hd) (b : XRR) (s : State), s.MayRecord h [b.xa, b.xb] →
    let w := s.x b.xa + s.x b.xb
    let q := bits b.m.toNat 0 3
    let rows := bits b.m.toNat 3 3 + 1
    (∀ a, addrOf w = .store a → (mget [] s.dk.oq q).length + rows ≤ 8 → a / 512 + rows ≤ 131072 → s.frameBarred ((a / 512 + rows - 1) / 32) = false →
      ∃ t, exec (.ldq h b) s = .next t ∧ (mget [] t.dk.oq q).length = (mget [] s.dk.oq q).length + rows ∧
        (∀ r, r < rows → ∃ m ∈ t.micro, m.at_ = s.clock + 2 + r ∧ m.core = s.cn ∧ ∃ want addr, m.act = .ldqRead s.seq (a / 512 + r) q (s.seq + 1 + r) want addr) ∧
        t.mem = s.mem ∧ t.cores = s.cores) ∧
    (∀ c a, addrOf w = .remote c a → (mget [] s.dk.oq q).length + rows ≤ 8 → a / 512 + rows ≤ 131072 → s.frameBarred ((a / 512 + rows - 1) / 32) = false →
      ∃ t r, exec (.ldq h b) s = .next t ∧ (mget [] t.dk.oq q).length = (mget [] s.dk.oq q).length + rows ∧ t.remotes = s.remotes ++ [r] ∧
        r.core = c ∧ r.row = a / 512 ∧ r.rows = rows ∧ r.issued = s.clock ∧ t.mem = s.mem ∧
        (c ≠ s.cn → ∃ p, t.packets = s.packets ++ [p] ∧ p.ev = .remoteReadArrival r.id ∧ p.at_ = s.clock + 6 ∧ p.left ≠ [])) ∧
    (∀ c a, addrOf w = .remote c a ∨ addrOf w = .store a → (mget [] s.dk.oq q).length + rows ≤ 8 → s.frameBarred ((a / 512 + rows - 1) / 32) = true →
      exec (.ldq h b) s = .next (s.raise h 0x11 0 w)) ∧
    (∀ e, s.dk.handle (s.x b.xa) = some e → e.arrived = true → (mget [] s.dk.oq q).length < 8 → recKind e.record = 0 →
      (bankWords (tagBits (recFormat e.record)) ((ldqtElems e.record (s.x b.xb)).filterMap fun x => x.2.1.map fun a => (x.1, a))).any
        (fun k => s.frameBarred (k / 128)) = true →
      exec (.ldqt h b) s = .next (s.raise h 0x11 0 0)) ∧
    (∀ e, s.dk.handle (s.x b.xa) = some e → e.arrived = true → (mget [] s.dk.oq q).length < 8 → recKind e.record = 0 →
      (recFaults e.record && (ldqtElems e.record (s.x b.xb)).any fun x => x.2.1.isNone) = false →
      (s.ck.tile (((8 * (recWord e.record 0 : Int) + recBits e.record (packedIndices (s.x b.xb) 0)) % 2 ^ 29).toNat / 8 / 16384)).tag.toNat = recFormat e.record →
      (ldqtElems e.record (s.x b.xb)).any (fun x => !x.2.2) = false →
      (bankWords (tagBits (recFormat e.record)) ((ldqtElems e.record (s.x b.xb)).filterMap fun x => x.2.1.map fun a => (x.1, a))).any
        (fun k => s.frameBarred (k / 128)) = false →
      ∃ t m, exec (.ldqt h b) s = .next t ∧ (mget [] t.dk.oq q).length = (mget [] s.dk.oq q).length + 1 ∧ t.micro = s.micro ++ [m] ∧
        m.at_ = s.clock + 2 ∧ t.mem = s.mem ∧ t.cores = s.cores)

/-- R189, R385: what happens to a remote load at its two ends: the owning core's bank samples row r at arrival + r; a row whose sample found data is
put into the entry reserved for it.
Model's choices: log 33. -/
def Obligations.RemoteLoads : Prop :=
  ∀ (s : State) (q : Remote), s.remotes = [q] →
    (∃ t, exec (.remoteReadArrival q.id) s = .next t ∧ t.mem = s.mem ∧ t.decks = s.decks ∧
      ∀ r, r < q.rows → ∃ m ∈ t.micro, m.at_ = s.clock + r ∧ m.core = q.core ∧ m.act = .rmtRead q.id r) ∧
    (∀ row img detail e, q.data = [(row, img, 0, detail)] → mget [] (s.getDeck q.deck).oq q.q = [e] → e.id = q.ids.getD row 0 → e.arrived = false →
      ∃ t f, exec (.remoteReadResponse q.id row) s = .next t ∧ mget [] (t.getDeck q.deck).oq q.q = [f] ∧ f.id = e.id ∧ f.arrived = true ∧
        f.data = img ∧ t.mem = s.mem)

/-- R72, R191, R192: `hld` steps its entry's generation, which xd takes with the entry's number, and reads the record; an arriving record that R70
allows fills the entry; `hidx` gives an element's address and whether it is in bounds.
Model's choices: log 32. -/
def Obligations.Handles : Prop :=
  (∀ (h : Hd) (b : XI) (s : State) (a : Nat), s.MayRecord h [b.xa] → addrOf (s.x b.xa) = .store a → a % 8 = 0 → a + 64 ≤ 2 ^ 26 →
    s.frameBarred ((a + 63) / 16384) = false →
    let e := bits b.imm.toNat 0 6
    let gen := (mget LEntry.zero s.dk.lcache e).gen + 1
    ∃ t m, exec (.hld h b) s = .next t ∧ (mget LEntry.zero t.dk.lcache e).gen = gen ∧ (mget LEntry.zero t.dk.lcache e).arrived = false ∧
      t.micro = s.micro ++ [m] ∧ m.at_ = s.clock + 2 ∧ m.act = .hldRead s.seq e gen.toNat a 0 ∧ t.mem = s.mem ∧
      (b.xd ≠ 0 → ∃ l ∈ t.dk.latches, l.land = s.clock + 1 ∧ l.dest = .x b.xd.toNat ∧ l.data = BitVec.ofNat 4096 (gen.toNat * 64 + e))) ∧
  (∀ (s : State) (n e gen : Nat) (r : Revoc), s.extWait = [] → gen < 64 → s.wantsRecord n e gen = true → (s.getDeck n).hldOf e gen = some r →
    recBad r.record = false →
    ∃ t, exec (.hldRecordArrival n e gen) s = .next t ∧ mget LEntry.zero (t.getDeck n).lcache e = ⟨BitVec.ofNat 6 gen, r.record, true⟩ ∧ t.mem = s.mem) ∧
  (∀ (h : Hd) (b : XRR) (s : State) (e : LEntry), s.Passed h [b.xa, b.xb, b.xd] → s.dk.handle (s.x b.xa) = some e → e.arrived = true →
    recKind e.record = 0 →
    let idx := packedIndices (s.x b.xb) (bits (s.x b.xd).toNat 0 16)
    let o := recBits e.record idx
    wholeByte e.record o = true → o % 8 = 0 →
    exec (.hidx h b) s = .next ((s.writeX h 3 b.xd (BitVec.ofNat 64 (((recWord e.record 0 : Int) + o / 8) % 2 ^ 26).toNat)).writeP h 3
      (BitVec.ofNat 5 (bits b.m.toNat 0 5)) (if recInside e.record idx then BitVec.allOnes 128 else 0)))

/-- R76-R78, R193, R194: a probe of a present block gives its tile slot at latency 2; a probe of an absent one starts its fill in the least recently
used way and sets bit 63; where the slot's tile is a frame tile, user mode traps; pins change the count one clock later, between 0 and 15.
Model's choices: log 41. -/
def Obligations.SlotDirectory : Prop :=
  (∀ (h : Hd) (b : XI) (s : State) (w : Nat), s.Passed h [b.xa] →
    let blk := bits (s.x b.xa).toNat 14 43
    (s.ck.findWay s.inst.ctx blk = some w → s.frameBarred (dirBase s.ck + w) = true → exec (.probe h b) s = .next (s.raise h 0x11 0 0)) ∧
    (s.ck.findWay s.inst.ctx blk = some w → (s.ck.way w).st = 2 → s.frameBarred (dirBase s.ck + w) = false →
      ∃ t, exec (.probe h b) s = .next t ∧ (t.ck.way w).used = s.seq + 1 ∧ (t.ck.way w).block = (s.ck.way w).block ∧
        t.dk.latches = ({ s with seq := s.seq + 1 }.writeX h 2 b.xd (BitVec.ofNat 64 (dirBase s.ck + w))).dk.latches ∧ t.mem = s.mem) ∧
    (s.ck.findWay s.inst.ctx blk = none → dirSets s.ck ≠ 0 → s.ck.victimWay blk = some w → s.ck.engineFull 1 = false → s.dk.fork = false →
      s.frameBarred (dirBase s.ck + w) = false →
      ∃ t c, exec (.probe h b) s = .next t ∧ t.ck.way w = ⟨blk, s.inst.ctx, 1, 0, s.seq + 1⟩ ∧ (t.ck.engine 1).queue = (s.ck.engine 1).queue ++ [c] ∧
        c.way = some (w, blk, dirBase s.ck + w) ∧ c.count = 32 ∧ t.dk.latches = ({ s with seq := s.seq + 1 }.writeX h 2 b.xd (BitVec.ofNat 64 (2 ^ 63 + (dirBase s.ck + w)))).dk.latches)) ∧
  (∀ (h : Hd) (b : XRR) (s : State) (w : Nat), s.Passed h [b.xa] → s.ck.findWay s.inst.ctx (bits (s.x b.xa).toNat 14 43) = some w →
    if s.frameBarred (dirBase s.ck + w) then exec (.ppin h b) s = .next (s.raise h 0x11 0 0) ∧ exec (.pfree h b) s = .next (s.raise h 0x11 0 0)
    else exec (.ppin h b) s = .next (s.access (s.clock + 1) s.cn s.dn (isEx h) 0 (.pin w true)) ∧
      exec (.pfree h b) s = .next (s.access (s.clock + 1) s.cn s.dn (isEx h) 0 (.pin w false))) ∧
  (∀ (k : Core) (w : Nat) (up : Bool), (k.way w).st ≠ 0 →
    ((k.pinWay w up).way w).pin = if up then min 15 ((k.way w).pin + 1) else (k.way w).pin - 1)

/-- R195-R199: requests for tiles and marks take effect from the next clock on; `tage` reads a row's status and clears its tile's lost bit if asked;
`ldk` reads the constant area of the instruction store.
Model's choices: log 34. -/
def Obligations.TileInstructions : Prop :=
  (∀ (h : Hd) (b : XRR) (s : State), s.Passed h [b.xa, b.xb] →
    let lo := (s.x b.xa).toNat % 4096
    let ts := (List.range (min (lo + (s.x b.xb).toNat) 4096 - lo)).map (lo + ·)
    (s.dk.sup = false → (∃ t ∈ ts, 4032 ≤ t) → exec (.trel h b) s = .next (s.raise h 0x11 0 0) ∧ exec (.tcfg h b) s = .next (s.raise h 0x11 0 0)) ∧
    ((s.dk.sup = true ∨ ∀ t ∈ ts, t < 4032) → exec (.trel h b) s = .next (s.modCk fun k => { k with tileReqs := k.tileReqs ++ ts.map fun t => (t, s.clock + 1, .rel) }) ∧
    exec (.tcfg h b) s = .next (s.modCk fun k => { k with
      tileReqs := k.tileReqs ++ ts.map fun t => (t, s.clock + 1, .cfg (BitVec.ofNat 8 (bits b.m.toNat 0 8)) s.dn s.dk.inst) }))) ∧
  (∀ (h : Hd) (b : XRR) (s : State), s.Passed h [b.xa] →
    let n := (s.x b.xa).toNat % 2 ^ 17
    (s.frameBarred (n / 32) = false →
      (b.m.getLsbD 0 = false → exec (.tage h b) s = .next (s.writeX h 2 b.xd (s.rowStatus s.cn n))) ∧
      (b.m.getLsbD 0 = true → exec (.tage h b) s = .next ((s.writeX h 2 b.xd (s.rowStatus s.cn n)).access (s.clock + 1) s.cn s.dn (isEx h) 0
        (.clearLost (n / 32))))) ∧
    (s.frameBarred ((s.x b.xa).toNat % 4096) = false → exec (.pub h b) s = .next (s.post (s.clock + 1) (.tileMarkTakeEffect s.cn ((s.x b.xa).toNat % 4096) false (s.earlierStores (isEx h)))) ∧
    exec (.pubR h b) s = .next (s.post (s.clock + 1) (.tileMarkTakeEffect s.cn ((s.x b.xa).toNat % 4096) true (s.earlierStores (isEx h)))))) ∧
  (∀ (s : State) (core tile : Nat) (recv : Bool) (stores : List Nat), s.storesPending stores = false → ((s.getCore core).tile tile).locks = [] →
    ∃ t, exec (.tileMarkTakeEffect core tile recv stores) s = .next t ∧ t.mem = s.mem ∧
      (if recv then ((t.getCore core).tile tile).receivable = true else ((t.getCore core).tile tile).published = true)) ∧
  (∀ (s : State) (core tile c : Nat) (rest : List (Nat × Nat × TileReq)), (s.getCore core).tileReqs = (tile, c, .rel) :: rest →
    ∃ t, exec (.trelTakeEffect core tile) s = .next t ∧ (t.getCore core).tileReqs = rest ∧
      (∀ j, j < 32 → ((t.getCore core).row (32 * tile + j)).st = .released) ∧ t.mem = s.mem) ∧
  (∀ (s : State) (core tile c deck : Nat) (inst : Option Nat) (g : BitVec 8) (rest : List (Nat × Nat × TileReq)),
    (s.getCore core).tileReqs = (tile, c, .cfg g deck inst) :: rest → c ≤ s.clock → (s.getCore core).tileBanksLocked tile = false →
    ∃ t, exec (.tcfgTakeEffect core tile) s = .next t ∧ ((t.getCore core).tile tile).cfg = g &&& 0x7E ∧ t.mem = s.mem) ∧
  (∀ (h : Hd) (b : XL) (s : State), s.Passed h [] →
    exec (.ldk h b) s = .next (s.writeX h 2 b.xd (BitVec.ofNat 64 (Memory.read s.mem (istoreBase s.cn + 8 * b.imm.toNat) 8))))

/-! ### Engines (spec 05, spec 08) -/

/-- R200, R401: an accepted command joins its engine's queue with the next issue number; a count of 0 has no effect; a full queue stalls; a bad
field or, in user mode, a frame tile raises 0x14, rows beyond an extent 0x0B.
Model's choices: log 28. -/
def Obligations.EngineCommands : Prop :=
  ∀ (h : Hd) (b : EC) (s : State), s.Passed h [b.xcmd, b.xcount] →
    let cmd := s.newCmd h (s.x b.xcmd) (s.x b.xcount)
    let j := cmd.job b.eng.toNat s.ck
    (cmd.count = 0 → exec (.ecmd h b) s = .next s) ∧
    (cmd.count ≠ 0 → (∀ d n i, j = .gather d n i → ∃ e, s.dk.handle (BitVec.ofNat 64 n) = some e ∧ e.arrived = true) → s.ck.engineFull b.eng.toNat = false → cmd.badField b.eng.toNat j = false →
      (cmd.user = false ∨ j.namesFrame s.cn (cmd.rows b.eng.toNat - 1) = false) → s.badExtent j cmd.count = none →
      ∃ t c, exec (.ecmd h b) s = .next t ∧ (t.ck.engine b.eng.toNat).queue = (s.ck.engine b.eng.toNat).queue ++ [c] ∧
        c.num = (s.ck.engine b.eng.toNat).count + 1 ∧ c.word = s.x b.xcmd ∧ c.count = bits (s.x b.xcount).toNat 0 32 ∧
        (t.ck.engine b.eng.toNat).count = (s.ck.engine b.eng.toNat).count + 1 ∧ t.mem = s.mem ∧ t.decks = s.decks) ∧
    (cmd.count ≠ 0 → s.ck.engineFull b.eng.toNat = true → exec (.ecmd h b) s = .next s.stalled) ∧
    (cmd.count ≠ 0 → s.ck.engineFull b.eng.toNat = false → (∀ d n i, j ≠ .gather d n i) →
      (cmd.badField b.eng.toNat j = true ∨ cmd.user = true ∧ j.namesFrame s.cn (cmd.rows b.eng.toNat - 1) = true →
        exec (.ecmd h b) s = .next (s.raise h 0x14 0 0)) ∧
      (∀ a, cmd.badField b.eng.toNat j = false → (cmd.user = false ∨ j.namesFrame s.cn (cmd.rows b.eng.toNat - 1) = false) →
        s.badExtent j cmd.count = some a → exec (.ecmd h b) s = .next (s.raise h 0x0B 0 a)))

/-- R111, R168, R201: the head of a queue that may leave leaves it, in the event of its operation; a consuming wait takes its target from the
semaphore when it is satisfied.
Model's choices: log 36. -/
def Obligations.CommandsLeave : Prop :=
  (∀ (core eng : Nat) (s : State) (ev : Instr) (c : Cmd) (rest : List Cmd),
    (ev ∈ [Instr.tramCopy core eng, .tramLoad core eng, .tramStoreBack core eng, .tramRemoteCopy core eng, .tramGather core eng, .tramFill core eng,
      .tramBroadcast core eng, .tramPut core eng, .tramGet core eng] ∨ (eng = 1 ∧ ev = .probeFill core) ∨
      (eng = 2 ∧ ev ∈ [Instr.culvertFp32Add core, .culvertI32Add core, .culvertFp32Max core, .culvertFp32Min core, .culvertI32Max core,
        .culvertI32Min core, .culvertOr core])) →
    ((s.getCore core).engine eng).queue = c :: rest → s.leaveReady core eng = true → s.headLeaves core eng = some ev →
    ∃ t, exec ev s = .next t ∧ ((t.getCore core).engine eng).queue = rest) ∧
  (∀ (core eng : Nat) (s : State) (c : Cmd) (rest : List Cmd), ((s.getCore core).engine eng).queue = c :: rest →
    let t := s.takeWait core eng
    ((t.getCore core).engine eng).queue = { c with waited := true } :: rest ∧
      ((t.getCore core).sem (c.f 56 6)).value = (if c.f 62 1 = 1 then ((s.getCore core).sem (c.f 56 6)).value - ((s.getCore core).sem (c.f 56 6)).target
        else ((s.getCore core).sem (c.f 56 6)).value) ∧ t.mem = s.mem ∧ t.decks = s.decks)

/-- R51, R55, R204, R424, R426: a row of a remote copy that comes in takes its bank in the other core; it performs there, and the command ends; a command that stood at a page goes on; an entry that an
engine holds enters its queue when there is room.
Model's choices: log 7, 37. -/
def Obligations.EngineEvents : Prop :=
  (∀ (s : State) (core eng r dstCore d src : Nat) (q : Running) (img : Image) (tag : Nat), s.running core eng = some q → q.launched = [r] → q.todo = [] →
    q.cmd.job eng (s.getCore core) = .remote dstCore d src → q.got = [(r, img, 2 * tag)] → s.receivable q [(dstCore, d + r)] = true → q.fault = none → dstCore ≠ core →
    s.rowUnderWay core eng r = false → (s.getCore core).power.cur = 0 →
    ∃ t m, exec (.engineRowPerform core eng r) s = .next t ∧ t.micro = s.micro ++ [m] ∧ m.at_ = s.clock ∧ m.core = dstCore ∧
      m.act = .engWrite core eng r (d + r) (some img) (some (BitVec.ofNat 5 tag)) ∧ t.mem = s.mem) ∧
  (∀ (s : State) (m : Micro) (core eng r dst : Nat) (q : Running) (img : Image) (tag : Tag), s.running core eng = some q → q.launched = [r] → q.todo = [] →
    q.cmd.way = none → q.cmd.touchesExtent = false → s.micro = [] → m.act = .engWrite core eng r dst (some img) (some tag) →
    let t := s.performMicro m
    t = ((s.putRow core eng m.core dst (some img) (some tag)).rowDone core eng r) ∧ ((t.getCore m.core).row dst).st = .valid ∧
      ((t.getCore core).engine eng).cur = none ∧
      (s.mem.wf = true → ∀ o, o < 511 → t.mem.byte (storeBase m.core + 512 * dst + o) = img.extractLsb' (8 * o) 8)) ∧
  (∀ (s : State) (core eng : Nat), s.resumeReady core eng = true →
    exec (.engineCommandResume core eng) s = .next (((s.modRunning core eng fun q =>
      { q with page := none, raised := false, taken := false, behind := none,
               fault := if q.fault.any (fun f => f.1 = 0x0C) then q.behind else q.fault }).launch core eng).settleFault core eng)) ∧
  (∀ (s : State) (core eng : Nat) (x : Held) (rest : List Held), ((s.getCore core).engine eng).held = x :: rest → (mget [] (s.getDeck x.deck).rq x.q).length < 4 →
    ∃ t e, exec (.heldQueueEntryEnter core eng) s = .next t ∧ ((t.getCore core).engine eng).held = rest ∧
      mget [] (t.getDeck x.deck).rq x.q = mget [] (s.getDeck x.deck).rq x.q ++ [e] ∧ e.data = x.data ∧ e.tag = x.tag ∧ e.arrived = true ∧ t.mem = s.mem)

/-! ### Vector instructions (spec 09) -/

/-- R49-R53, R216, R410, R411: what source names give, in field order: a register is read, a pop name takes the head of its queue, a peek name
leaves it. A source that is not poppable, or a full result queue, stalls, sets p30 or traps as the queue mode says, and takes nothing; operands of a
wrong tag raise 0x03 with the operand's number; a guard of 0 in every lane leaves everything as it is. -/
def Obligations.VectorOperands : Prop :=
  (∀ (d : Deck) (n : Nat) (ns : List Nat),
      let q := n % 8
      let head := fun (e : QEntry) => VReg.mk e.data e.tag
      (n < 320 → ∀ vs d', d.takeAll ns = .inr (vs, d') → d.takeAll (n :: ns) = .inr (mget VReg.zero d.v n :: vs, d')) ∧
      (∀ e es, 320 ≤ n → n < 328 → mget [] d.oq q = e :: es → e.arrived = true → ∀ vs d',
        { d with oq := mset [] d.oq q es }.takeAll ns = .inr (vs, d') → d.takeAll (n :: ns) = .inr (head e :: vs, d')) ∧
      (∀ e es, 328 ≤ n → n < 336 → mget [] d.oq q = e :: es → e.arrived = true → ∀ vs d', d.takeAll ns = .inr (vs, d') →
        d.takeAll (n :: ns) = .inr (head e :: vs, d')) ∧
      (∀ e es, 336 ≤ n → n < 344 → mget [] d.rq q = e :: es → e.arrived = true → ∀ vs d',
        { d with rq := mset [] d.rq q es }.takeAll ns = .inr (vs, d') → d.takeAll (n :: ns) = .inr (head e :: vs, d')) ∧
      (∀ e es, 344 ≤ n → mget [] d.rq q = e :: es → e.arrived = true → ∀ vs d', d.takeAll ns = .inr (vs, d') →
        d.takeAll (n :: ns) = .inr (head e :: vs, d')) ∧
      (320 ≤ n → n < 336 → (∀ e es, mget [] d.oq q = e :: es → e.arrived = false) → d.takeAll (n :: ns) = .inl n) ∧
      (336 ≤ n → (∀ e es, mget [] d.rq q = e :: es → e.arrived = false) → d.takeAll (n :: ns) = .inl n) ∧ d.takeAll [] = .inr ([], d)) ∧
  (∀ (h : Hd) (b : VRR) (s : State) (n : Nat), n ∈ [b.a, b.b2] → 320 ≤ n →
      (s.dk.guard h = 0 → exec (.vadd h b) s = .next s ∧ exec (.vmov h b) s = .next s ∧ exec (.vst h b) s = .next s) ∧
      (s.dk.guard h ≠ 0 → s.dk.takeAll [b.a, b.b2] = .inl n →
        (b.q = 0 → ∃ t, exec (.vadd h b) s = .next t ∧ t.issue.stall = true ∧ t.decks = s.decks ∧ t.mem = s.mem) ∧
        (b.q = 1 → exec (.vadd h b) s = .next (s.result h 1 (.p 30) (BitVec.allOnes 128) ((BitVec.allOnes 128).setWidth 4096) 0)) ∧
        (b.q = 2 → exec (.vadd h b) s = .next (s.raise h 0x04 (if 328 ≤ n ∧ n < 336 ∨ 344 ≤ n then n - 8 else n) 0))) ∧
      (∀ vs d r, s.dk.guard h ≠ 0 → s.dk.takeAll [b.a, b.b2] = .inr (vs, d) → b.d = 336 + r → r < 4 → 4 + s.issue.freeing.count r ≤ (mget [] d.rq r).length →
        (b.q = 0 → exec (.vadd h b) s = .next s.stalled) ∧ (b.q = 2 → exec (.vadd h b) s = .next (s.raise h 0x05 b.d 0))) ∧
      (∀ x y d, s.Ready h [b.a, b.b2] b.d [x, y] d → (tagA x.tag.toNat = false → exec (.vadd h b) s = .next (s.raise h 0x03 x.tag.toNat 0)) ∧
        (tagA x.tag.toNat = true → x.tag ≠ y.tag → exec (.vadd h b) s = .next (s.raise h 0x03 (y.tag.toNat + 32) 0))))

/-- R215, R218-R222: element by element, one rounding in the mode of the syllable or of `fmode`, integers exact and then wrapped or saturated, the
fused operations with one rounding, the dot product of four.
Model's choices: log 112 for the zero sum of +0 and −0 toward minus infinity. -/
def Obligations.VectorArithmetic : Prop :=
  ∀ (h : Hd) (b : VRR) (s : State) (x : VReg) (d : Deck),
    let t := x.tag.toNat
    let mask := s.dk.guard h
    let rm := if bits b.m.toNat 1 3 = 0 then bits s.dk.fmode.toNat 3 2 else bits b.m.toNat 1 3 - 1
    let fp := fun (rm : Nat) (v : Val × BitVec 8) => let r := rndIEEE (ffmtOf t) rm 0 v.1; ((r.1, r.2 ||| v.2) : Res)
    let val := fun (v : VReg) (e : Nat) => decIEEE (ffmtOf t) (elemAt t v.data e)
    let num := fun (v : VReg) (e : Nat) => intOf t (elemAt t v.data e)
    (∀ y, s.Ready h [b.a, b.b2] b.d [x, y] d → x.tag = y.tag → tagA t = true →
      ∀ i lat m sat f g, (i, lat, m, sat, f, g) ∈
        [(Instr.vadd h b, 2, rm, b.m.getLsbD 0, (fun u v => Val.add (rm == 2) u v : Val → Val → Val × BitVec 8), (fun u v => u + v : Int → Int → Int)),
         (.vsub h b, 2, rm, b.m.getLsbD 0, fun u v => Val.add (rm == 2) u v.neg, fun u v => u - v),
         (.vmul h b, 4, rm, b.m.getLsbD 0, Val.mul, fun u v => u * v),
         (.vmin h b, 2, 0, false, Val.minmax false, min), (.vmax h b, 2, 0, false, Val.minmax true, max),
         (.vabsd h b, 2, rm, b.m.getLsbD 0, fun u v => ((Val.add (rm == 2) u v.neg).1.abs, (Val.add (rm == 2) u v.neg).2), fun u v => (u - v).natAbs)] →
        ∃ img fl, exec i s = .next (s.gives h b.q lat b.d [b.a, b.b2] d img x.tag fl) ∧ ElementsAre t mask img fl fun e =>
          if isFTag t then fp m (f (val x e) (val y e)) else (intCode t sat (g (num x e) (num y e)), 0)) ∧
    (s.Ready h [b.a] b.d [x] d → tagA t = true → ∀ i f g, (i, f, g) ∈ [(Instr.vabs h b, Val.abs, (fun z => z.natAbs : Int → Int)), (.vneg h b, Val.neg, fun z => -z)] →
      ∃ img fl, exec i s = .next (s.gives h b.q 2 b.d [b.a] d img x.tag fl) ∧ ElementsAre t mask img fl fun e =>
        if isFTag t then fp 0 (f (val x e), 0) else (intCode t (b.m.getLsbD 0) (g (num x e)), 0)) ∧
    (∀ y z, s.Ready h [b.a, b.b2, b.d] b.d [x, y, z] d →
      (x.tag = y.tag → x.tag = z.tag → isFTag t = true → ∀ i f, (i, f) ∈
        [(Instr.vfma h b, (fun u v w => u.fma (rm == 2) v w : Val → Val → Val → Val × BitVec 8)), (.vfms h b, fun u v w => u.fma (rm == 2) v w.neg),
          (.vfnma h b, fun u v w => u.neg.fma (rm == 2) v w)] →
        ∃ img fl, exec i s = .next (s.gives h b.q 4 b.d [b.a, b.b2, b.d] d img x.tag fl) ∧
          ElementsAre t mask img fl fun e => fp rm (f (val x e) (val y e) (val z e))) ∧
      (x.tag = y.tag → x.tag = z.tag → isNTag t = true → ∃ img fl, exec (.vmadi h b) s = .next (s.gives h b.q 4 b.d [b.a, b.b2, b.d] d img x.tag fl) ∧
        ElementsAre t mask img fl fun e => (intCode t (b.m.getLsbD 0) (num x e * num y e + num z e), 0)) ∧
      ((x.tag = 0x0A ∨ x.tag = 0x0B) → (y.tag = 0x0A ∨ y.tag = 0x0B) → z.tag = 8 →
        ∃ img fl, exec (.vdot4 h b) s = .next (s.gives h b.q 4 b.d [b.a, b.b2, b.d] d img 8 fl) ∧ ElementsAre 8 mask img fl fun l =>
          let p := fun k => intOf x.tag.toNat (elemAt x.tag.toNat x.data (4 * l + k)) * intOf y.tag.toNat (elemAt y.tag.toNat y.data (4 * l + k))
          (intCode 8 (b.m.getLsbD 0) (intOf 8 (elemAt 8 z.data l) + p 0 + p 1 + p 2 + p 3), 0)))

/-- R225-R229, R236-R238: moves, constants, single lanes, lane moves, selects and the bitwise operations, lane by lane. -/
def Obligations.VectorMoves : Prop :=
  ∀ (h : Hd) (b : VRR) (s : State) (x : VReg) (d : Deck),
    let lane := fun (v : Image) (l : Nat) => bits v.toNat (32 * l) 32
    let pn := s.dk.getP (BitVec.ofNat 5 b.m.toNat)
    let moves := fun (i : Instr) (srcs : List Nat) (tag : Tag) (f : Nat → Nat) =>
      ∃ img, exec i s = .next (s.gives h b.q 2 b.d srcs d img tag 0) ∧ ∀ l, l < 128 → lane img l = f l
    (s.Ready h [b.a] b.d [x] d → isF x.tag.toNat = true →
      exec (.vmov h b) s = .next (s.gives h b.q 2 b.d [b.a] d x.data x.tag 0) ∧
      exec (.vpop h b) s = .next (s.gives h b.q 2 b.d [b.a] d x.data x.tag 0) ∧
      exec (.vtag h b) s = .next (s.gives h b.q 2 b.d [b.a] d x.data (BitVec.ofNat 5 b.b2) 0) ∧
      (tagA x.tag.toNat = true → exec (.vnot h b) s = .next (s.gives h b.q 2 b.d [b.a] d (~~~x.data) x.tag 0)) ∧
      moves (.vslide h b) [b.a] x.tag (fun l =>
        let k : Int := if b.b2 % 256 < 128 then b.b2 % 256 else (b.b2 % 256 : Int) - 256
        if b.m.getLsbD 0 then lane x.data ((l + k) % 128).toNat else if 0 ≤ l + k ∧ l + k ≤ 127 then lane x.data (l + k).toNat else 0) ∧
      (b.m.getLsbD 0 = false → moves (.vrev h b) [b.a] x.tag (fun l => lane x.data (127 - l))) ∧
      (b.m.getLsbD 0 = true → x.tag ≠ 4 → x.tag ≠ 6 → ∃ img, exec (.vrev h b) s = .next (s.gives h b.q 2 b.d [b.a] d img x.tag 0) ∧
        ∀ e, e < tagElems x.tag.toNat → elemAt x.tag.toNat img e = elemAt x.tag.toNat x.data (tagElems x.tag.toNat - 1 - e)) ∧
      moves (.vexpnd h b) [b.a] x.tag (fun l =>
        if pn.getLsbD l then lane x.data ((List.range l).filter fun m => pn.getLsbD m).length else 0)) ∧
    (∀ y, s.Ready h [b.a, b.b2] b.d [x, y] d →
      (x.tag = y.tag → isF x.tag.toNat = true → moves (.vsel h b) [b.a, b.b2] x.tag (fun l => if pn.getLsbD l then lane x.data l else lane y.data l)) ∧
      (isF x.tag.toNat = true → y.tag = 8 → moves (.vperm h b) [b.a, b.b2] x.tag (fun l => lane x.data (lane y.data l % 128))) ∧
      (x.tag = y.tag → tagA x.tag.toNat = true →
        exec (.vand h b) s = .next (s.gives h b.q 2 b.d [b.a, b.b2] d (x.data &&& y.data) x.tag 0) ∧
        exec (.vor h b) s = .next (s.gives h b.q 2 b.d [b.a, b.b2] d (x.data ||| y.data) x.tag 0) ∧
        exec (.vxor h b) s = .next (s.gives h b.q 2 b.d [b.a, b.b2] d (x.data ^^^ y.data) x.tag 0))) ∧
    (s.Ready h [] b.d [] s.dk → s.waitsLds [b.na.setWidth 6] = false → isF (b.b2 % 32) = true →
      let w := (s.x (b.na.setWidth 6)).toNat
      let t := b.b2 % 32
      ∀ i k, (i, k) ∈ [(Instr.vbcast h b, 0), (.vidx h b, 1)] → ∃ img, exec i s = .next (s.gives h b.q 2 b.d [] s.dk img (BitVec.ofNat 5 t) 0) ∧
        ∀ e, e < tagElems t → elemAt t img e = (w + k * e) % 2 ^ tagBits t) ∧
    (∀ l, l = b.b2 % 128 →
      ((s.dk.guard h).getLsbD l = false → exec (.vext h b) s = .next s ∧ exec (.vins h b) s = .next s) ∧
      ((s.dk.guard h).getLsbD l = true →
        (s.dk.takeAll [b.a] = .inr ([x], d) → exec (.vext h b) s =
          .next (((s.setDk d).writeX h 2 (b.nd.setWidth 6) (BitVec.ofNat 64 (lane x.data l))).ran h b.q (isQueueName b.a))) ∧
        (s.waitsLds [b.na.setWidth 6] = false → ∃ m : Pred, (∀ k, k < 128 → m.getLsbD k = decide (k = l)) ∧ ∃ img : Image,
          exec (.vins h b) s = .next (s.result h 2 (.v b.d) m img keepTag) ∧ lane img l = (s.x (b.na.setWidth 6)).toNat % 2 ^ 32)))

/-- R223, R224, R236: compares to predicates and to masks, of integers and of floating-point values, with their flags; shifts and counts. -/
def Obligations.VectorComparesAndShifts : Prop :=
  ∀ (h : Hd) (b : VRR) (c : PCV) (s : State) (x y : VReg) (d : Deck),
    let t := x.tag.toNat
    let mask := s.dk.guard h
    let num := fun (v : VReg) (e : Nat) => intOf t (elemAt t v.data e)
    let holds := fun (k : Nat) (u v : Int) => match k with
      | 0 => decide (u = v) | 1 => decide (u ≠ v) | 2 => decide (u < v) | 3 => decide (v ≤ u) | 4 => decide (u ≤ v) | 5 => decide (v < u)
      | 6 => false | _ => true
    let val := fun (v : VReg) (e : Nat) => decIEEE (ffmtOf t) (elemAt t v.data e)
    let relates := fun (k : Nat) (u v : Val) => match k with
      | 0 => decide (u.cmp v = some .eq) | 1 => decide (u.cmp v ≠ some .eq) | 2 => decide (u.cmp v = some .lt)
      | 3 => decide (u.cmp v = some .gt ∨ u.cmp v = some .eq) | 4 => decide (u.cmp v = some .lt ∨ u.cmp v = some .eq) | 5 => decide (u.cmp v = some .gt)
      | 6 => u.isNaN || v.isNaN | _ => !(u.isNaN || v.isNaN)
    let flags := fun (k : Nat) (u v : Val) => if 2 ≤ k ∧ k ≤ 5 ∧ (u.isNaN || v.isNaN) = true then fNV else u.snan ||| v.snan
    (mask ≠ 0 → s.dk.takeAll [c.na.toNat, c.nb.toNat] = .inr ([x, y], d) → x.tag = y.tag → tagA t = true →
      let into := fun (p : Pred) => if c.comb = 1 then (s.dk.getP c.pd &&& p, s.dk.getP c.pe &&& ~~~p)
        else if c.comb = 2 then (s.dk.getP c.pd ||| p, s.dk.getP c.pe ||| ~~~p) else (p, ~~~p)
      ∃ p fl, exec (.vcmp h c) s = .next ((((s.setDk d).writePMask h 2 c.pd mask (into p).1).writePMask h 2 c.pe mask (into p).2).raiseFlags h 2 fl) ∧
        (isFTag t = true →
          (∀ l, l < 128 → mask.getLsbD l = true →
            let es := (List.range (32 / tagBits t)).map fun k => 32 / tagBits t * l + k
            p.getLsbD l = if c.cond.toNat = 1 ∨ c.cond.toNat = 6 then es.any fun e => relates c.cond.toNat (val x e) (val y e)
              else es.all fun e => relates c.cond.toNat (val x e) (val y e)) ∧
          ∀ k, k < 8 → (fl.getLsbD k = true ↔ ∃ e, e < tagElems t ∧ mask.getLsbD (laneOf t e) = true ∧
            (flags c.cond.toNat (val x e) (val y e)).getLsbD k = true)) ∧
        (isNTag t = true → fl = 0 ∧ ∀ l, l < 128 → mask.getLsbD l = true →
          let es := (List.range (32 / tagBits t)).map fun k => 32 / tagBits t * l + k
          p.getLsbD l = if c.cond.toNat = 1 then es.any fun e => holds 1 (num x e) (num y e) else es.all fun e => holds c.cond.toNat (num x e) (num y e)) ∧
        (isFTag t = true → 2 ≤ c.cond.toNat → c.cond.toNat ≤ 5 → ∀ l e, l < 128 → mask.getLsbD l = true → laneOf t e = l →
          (Val.isNaN (decIEEE (ffmtOf t) (elemAt t x.data e)) = true ∨ Val.isNaN (decIEEE (ffmtOf t) (elemAt t y.data e)) = true) →
            p.getLsbD l = false ∧ fl.getLsbD 4 = true)) ∧
    (s.Ready h [b.a, b.b2] b.d [x, y] d → x.tag = y.tag → tagA t = true →
      (∃ img fl, exec (.vcmpd h b) s = .next (s.gives h b.q 2 b.d [b.a, b.b2] d img (if tagBits t = 32 then 8 else if tagBits t = 16 then 9 else 0x0A) fl) ∧
        (isNTag t = true → ElementsAre t mask img fl fun e => (if holds (bits b.m.toNat 0 3) (num x e) (num y e) then 2 ^ tagBits t - 1 else 0, 0)) ∧
        (isFTag t = true → ElementsAre t mask img fl fun e =>
          (if relates (bits b.m.toNat 0 3) (val x e) (val y e) then 2 ^ tagBits t - 1 else 0, flags (bits b.m.toNat 0 3) (val x e) (val y e)))) ∧
      (isNTag t = true → b.m.getLsbD 0 = false →
        let by_ := fun (e : Nat) => elemAt t y.data e % tagBits t
        ∀ i f, (i, f) ∈ [(Instr.vshl h b, (fun e => elemAt t x.data e * 2 ^ by_ e : Nat → Nat)), (.vshr h b, fun e => elemAt t x.data e / 2 ^ by_ e),
            (.vsra h b, fun e => (num x e / 2 ^ by_ e % 2 ^ tagBits t).toNat)] →
          ∃ img fl, exec i s = .next (s.gives h b.q 2 b.d [b.a, b.b2] d img x.tag fl) ∧ ElementsAre t mask img fl fun e => (f e, 0))) ∧
    (s.Ready h [b.a] b.d [x] d → isNTag t = true →
      (b.m.getLsbD 0 = true → ∀ i f, (i, f) ∈ [(Instr.vshl h b, (fun e => elemAt t x.data e * 2 ^ (b.b2 % tagBits t) : Nat → Nat)),
            (.vshr h b, fun e => elemAt t x.data e / 2 ^ (b.b2 % tagBits t)), (.vsra h b, fun e => (num x e / 2 ^ (b.b2 % tagBits t) % 2 ^ tagBits t).toNat)] →
          ∃ img fl, exec i s = .next (s.gives h b.q 2 b.d [b.a] d img x.tag fl) ∧ ElementsAre t mask img fl fun e => (f e, 0)) ∧
      (∃ img fl, ∃ n : Nat → Nat, exec (.vclz h b) s = .next (s.gives h b.q 2 b.d [b.a] d img x.tag fl) ∧ ElementsAre t mask img fl (fun e => (n e, 0)) ∧
        ∀ e, n e ≤ tagBits t ∧ elemAt t x.data e < 2 ^ (tagBits t - n e) ∧ (elemAt t x.data e ≠ 0 → 2 ^ (tagBits t - 1 - n e) ≤ elemAt t x.data e ∧ n e < tagBits t)) ∧
      ∃ img fl, exec (.vpopc h b) s = .next (s.gives h b.q 2 b.d [b.a] d img x.tag fl) ∧
        ElementsAre t mask img fl fun e => (((List.range (tagBits t)).filter fun k => (elemAt t x.data e).testBit k).length, 0))

/-- R107, R108, R230-R235, R237, R239: reductions and scans, estimates, conversions, ranking, the row store and the head of a result queue; a
floating-point scan takes the doubling tree of R108, a stochastic conversion steps the generator, a ranking goes by value or by magnitude, a NaN first.
Model's choices: log 112 for the zero sum of +0 and −0 toward minus infinity. -/
def Obligations.VectorReductionsAndConversions : Prop :=
  ∀ (h : Hd) (b : VRR) (c : XRR) (s : State) (x : VReg) (d : Deck),
    let t := x.tag.toNat
    let mask := s.dk.guard h
    let num := fun (e : Nat) => intOf t (elemAt t x.data e)
    let on := (List.range (tagElems t)).filter fun e => mask.getLsbD (laneOf t e)
    let lane := fun (v : Image) (l : Nat) => bits v.toNat (32 * l) 32
    let gives1 := fun (lat : Nat) (img : Image) (tag : Tag) (fl : BitVec 8) => s.gives h b.q lat b.d [b.a] d img tag fl
    (s.Ready h [b.a] b.d [x] d → tagA t = true →
      ∀ i k sat f, (i, k, sat, f) ∈ [(Instr.vredsum h b, Fold.sum, b.m.getLsbD 0, (fun zs => zs.foldl (· + ·) 0 : List Int → Int)),
          (.vredmax h b, .max, false, fun zs => zs.foldl max (intMin t)), (.vredmin h b, .min, false, fun zs => zs.foldl min (intMax t))] →
        ∃ img fl code, exec i s = .next (gives1 5 img x.tag fl) ∧ (∀ e, e < tagElems t → elemOn t mask e = true → elemAt t img e = code) ∧
          (isNTag t = true → code = intCode t sat (f (on.map num)) % 2 ^ tagBits t ∧ fl = 0) ∧
          (isFTag t = true → code = (reduce k t (if k = .sum then arithMode b.rmo s.dk.fmode else 0) sat mask x.data).1 % 2 ^ tagBits t)) ∧
    (s.Ready h [b.a] b.d [x] d → tagA t = true →
      ∃ img fl, exec (.vscan h b) s = .next (gives1 5 img x.tag fl) ∧
        (isNTag t = true → ∀ e, e < tagElems t → elemOn t mask e = true →
          let zs := (on.filter fun m => m ≤ e).map num
          elemAt t img e = intCode t (b.m.getLsbD 2) (match bits b.m.toNat 0 2 with
            | 0 => zs.foldl (· + ·) 0 | 1 => zs.foldl max (intMin t) | _ => zs.foldl min (intMax t)) % 2 ^ tagBits t) ∧
        (isFTag t = true →
          let k : Fold := match bits b.m.toNat 0 2 with | 0 => .sum | 1 => .max | _ => .min
          let level := fun (vs : List Res) (j : Nat) => vs.take (2 ^ j) ++ List.zipWith (k.combine t (bits s.dk.fmode.toNat 3 2)) vs (vs.drop (2 ^ j))
          let vs := (List.range (Nat.log2 (tagElems t))).foldl level ((List.range (tagElems t)).map fun e =>
            if mask.getLsbD (laneOf t e) then enter t (elemAt t x.data e) else (k.unit t, 0))
          ElementsAre t mask img fl fun e => vs.getD e (0, 0))) ∧
    (s.Ready h [b.a] b.d [x] d → t = 0 → ∀ i k, (i, k) ∈ [(Instr.vrcpe h b, Est.rcp), (.vrsqe h b, .rsq), (.vexp2e h b, .exp2), (.vlog2e h b, .log2)] →
      ∃ img fl, exec i s = .next (gives1 6 img x.tag fl) ∧ ElementsAre 0 mask img fl fun e => estimate k (elemAt 0 x.data e)) ∧
    (s.Ready h [b.a] b.d [x] d → isF t = true → t ≠ 0x0C →
      let fmt := b.b2 % 32
      (t = fmt → exec (.vcvt h b) s = .next (s.gives h b.q 3 b.d [b.a] d x.data x.tag 0)) ∧
      (t ≠ fmt → isF fmt = true →
        let rm := if t = 7 ∧ fmt = 0 then 0 else if bits b.b2 5 3 = 7 then bits s.dk.fmode.toNat 5 3 else bits b.b2 5 3
        let n := min (convCount t) (convCount fmt)
        let part := bits b.m.toNat 0 2 % (max (convCount t) (convCount fmt) / n)
        let into := if convCount t < convCount fmt then part * n else 0
        let from_ := if convCount t < convCount fmt then 0 else part * n
        let drawn := if rm = 4 ∧ fmt ≠ 7 then { d with lfsr := if d.lfsr.getLsbD 0 then (d.lfsr >>> 1) ^^^ 0x80200003 else d.lfsr >>> 1 } else d
        ∃ img fl, exec (.vcvt h b) s = .next ((((s.setDk drawn).writeV h 3 b.d (mask &&& laneRange fmt into n) img (BitVec.ofNat 5 fmt)).raiseFlags h 3 fl).ran h b.q
            ((pushOf b.d).isSome || isQueueName b.a)) ∧
          ∀ e, e < n → elemOn fmt mask (into + e) = true →
            elemAt fmt img (into + e) = (convert s.dk fmt rm (into + e) (convSource s.dk t (elemAt t x.data (from_ + e)))).1 % 2 ^ tagBits fmt)) ∧
    (mask ≠ 0 → s.dk.takeAll [b.a] = .inr ([x], d) → (t = 0 ∨ t = 8) →
      ∃ v i fl, exec (.vtopk h b) s = .next (((((s.setDk d).writeV h 5 b.d mask v x.tag).writeV h 5 (b.d + 1) mask i 8).raiseFlags h 5 fl).ran h b.q (isQueueName b.a)) ∧
        (∀ l, l < 128 → bits b.m.toNat 0 2 + 1 ≤ l % 8 → lane v l = 0 ∧ lane i l = 0xFFFFFFFF) ∧
        (t = 8 → b.m.getLsbD 2 = false → mask = BitVec.allOnes 128 → ∀ l, l < 128 → l % 8 < bits b.m.toNat 0 2 + 1 → l % 8 < 4 →
          lane i l < 8 ∧ lane v l = lane x.data (l / 8 * 8 + lane i l) ∧
          (((List.range 8).filter fun m => num (l / 8 * 8 + lane i l) < num (l / 8 * 8 + m) ∨
            (num (l / 8 * 8 + m) = num (l / 8 * 8 + lane i l) ∧ m < lane i l)).length = l % 8)) ∧
        (let key := fun (m : Nat) =>
          let v := if t = 0 then decIEEE fp32 (lane x.data m) else Val.ofInt (num m)
          if b.m.getLsbD 2 then v.abs else v
         let above := fun (u v : Val) => !v.isNaN && (u.isNaN || decide (v.cmp u = some .lt))
         mask = BitVec.allOnes 128 → ∀ l, l < 128 → l % 8 < bits b.m.toNat 0 2 + 1 → l % 8 < 4 →
          let g := l / 8 * 8
          lane i l < 8 ∧ lane v l = (if t = 0 ∧ Val.isNaN (decIEEE fp32 (lane x.data (g + lane i l))) = true then canonNaN fp32 else lane x.data (g + lane i l)) ∧
          ((List.range 8).filter fun m => above (key (g + m)) (key (g + lane i l)) ||
            (!above (key (g + lane i l)) (key (g + m)) && decide (m < lane i l))).length = l % 8)) ∧
    (∀ a, mask ≠ 0 → s.waitsLds [b.na.setWidth 6, b.nb.setWidth 6] = false → s.dk.takeAll [b.d] = .inr ([x], d) → isF x.tag.toNat = true →
      addrOf (s.x (b.na.setWidth 6) + s.x (b.nb.setWidth 6)) = .store a → s.frameBarred (a / 16384) = false → (s.ck.tile (a / 16384)).published = false →
      ∃ m : BitVec 512, (∀ k, k < 512 → m.getLsbD k = mask.getLsbD (k / 4)) ∧ exec (.vst h b) s =
        .next (((s.setDk d).access (s.clock + 6) s.cn s.dn true (deckPrio s.dn true) (.write (a / 512) m x.data (some x.tag))).ran h b.q (isQueueName b.d))) ∧
    (s.Runs h [] → s.dk.takeAll [(if c.m.getLsbD 3 then 344 else 336) + bits c.m.toNat 0 3] = .inr ([x], d) →
      exec (.mvq h c) s = .next (((s.setDk d).writeX h 2 c.xd (BitVec.ofNat 64 x.data.toNat)).ran h (bits c.m.toNat 13 2) true))

/-! ### The array (spec 10) -/

/-- R240-R261: what each matrix instruction does when the deck holds the lease, its port is free and its checks pass: the chain, the port's clocks and
the rows it schedules; a deck without the lease takes 0x0D; the block scales, the checksum word, the clock gate, a replay.
Model's choices: log 57, 61, 62, 64. -/
def Obligations.MatrixCommands : Prop :=
  ∀ (h : Hd) (b : XRR) (s : State),
    let m := b.m.toNat
    let count := fun (r : BitVec 6) => bits (s.x r).toNat 0 32
    (s.Granted h [] 0 → s.dk.chain = none → exec (.mbeg h b) s = .next (s.modDk fun d => { d with chain := some ⟨0, none⟩ })) ∧
    (s.Granted h [] 0 → s.dk.chain ≠ none → ∃ t, exec (.mend h b) s = .next t ∧ t.dk.chain = none ∧ t.mem = s.mem ∧
      (s.ck.leaseReq = [] → t.ck.leaseHolder = some (s.dn % 4)) ∧ (s.ck.leaseReq ≠ [] → t.ck.leaseHolder = none ∧ s.dn % 4 ∈ t.ck.leaseReq)) ∧
    (s.Runs h [] → s.ck.leaseHolder ≠ some (s.dn % 4) → s.dn % 4 ∉ s.ck.leaseReq →
      exec (.mbeg h b) s = .next (s.raise h 0x0D 0 0) ∧ exec (.mend h b) s = .next (s.raise h 0x0D 0 0)) ∧
    (s.Granted h [] 0 → (s.dk.chain ≠ none → exec (.mbeg h b) s = .next (s.raise h 0x0E 0 0)) ∧
      (s.dk.chain = none → exec (.mend h b) s = .next (s.raise h 0x0E 0 0))) ∧
    (∀ c, s.Granted h [b.xa, b.xb] s.ck.gantryFree → s.dk.chain = some c → c.cmds < 256 → 0 < count b.xb → count b.xb ≤ 32 →
      bits (s.x b.xa).toNat 0 10 + count b.xb ≤ 49152 / kindCols (bits m 0 2) →
      ∃ t, exec (.mclr h b) s = .next t ∧ t.dk.chain = some ⟨c.cmds + 1, c.kind⟩ ∧ t.ck.gantryFree = s.clock + count b.xb ∧ t.mem = s.mem ∧
        t.micro.length = s.micro.length + count b.xb ∧ ∀ i, i < count b.xb → ∃ q ∈ t.micro, q.at_ = s.clock + 20 + i ∧ q.core = s.cn ∧
          q.act = .clrRow (bits (s.x b.xa).toNat 0 10 + i) (kindCols (bits m 0 2))) ∧
    (∀ c a, s.Granted h [b.xd, b.xa, b.xb] s.ck.loadFree → s.slotRead s.cn (bits m 0 4) = false → s.dk.chain = some c → c.cmds < 256 →
      0 < count b.xd → count b.xd ≤ modeCols (bits m 4 5) → addrOf (s.x b.xa) = .store a → a / 512 + loadRows (bits m 4 5) (count b.xd) ≤ 131072 →
      (s.dk.sup = true ∨ (a / 512 + loadRows (bits m 4 5) (count b.xd) ≤ 129024 ∧ (bits m 9 1 = 1 → bits (s.x b.xb).toNat 0 12 < 4032))) →
      ∃ t q l, exec (.mldb h b) s = .next t ∧ t.dk.chain = some ⟨c.cmds + 1, c.kind⟩ ∧ t.micro = s.micro ++ [q] ∧ q.at_ = s.clock + 2 ∧
        q.act = .mldbRead l ∧ l.slot = bits m 0 4 ∧ l.fmt = bits m 4 5 ∧ l.n = count b.xd ∧ l.row = a / 512 ∧
        l.doneAt = s.clock + loadRows (bits m 4 5) (count b.xd) + 4 ∧ t.ck.loadFree = l.doneAt ∧ t.mem = s.mem) ∧
    (∀ c a, s.Granted h [b.xd, b.xa, b.xb] s.ck.gantryFree → s.slotLoads s.cn (bits m 0 4) = false → s.dk.chain = some c → c.cmds < 256 →
      let tap := isTapered (s.ck.slot (bits m 0 4)).mode
      (c.kind = none ∨ c.kind = some tap) → (tap = true ∨ bits m 5 1 = 0) → 0 < count b.xb → count b.xb ≤ 32 →
      bits (s.x b.xd).toNat 0 10 + count b.xb ≤ 49152 / modeCols (s.ck.slot (bits m 0 4)).mode →
      addrOf (s.x b.xa) = .store a → (∀ i, i < count b.xb → ∀ r ∈ aRows tap (a / 512) i, r < 131072 ∧ s.frameBarred (r / 32) = false) →
      (s.dk.sup = true ∨ (bits m 5 1 = 1 → bits (s.x b.xd).toNat 16 12 < 4032)) →
      let skip := fun (i : Nat) => decide (bits m 4 1 = 1) && s.ck.skipped (((aRows tap (a / 512) i).headD 0) / 32)
      ∃ t, exec (.mma h b) s = .next t ∧ t.dk.chain = some ⟨c.cmds + 1, some tap⟩ ∧ t.dk.ckPend = s.dk.ckPend + count b.xb ∧
        t.ck.gantryFree = s.clock + count b.xb ∧ t.mem = s.mem ∧
        (∀ i, i < count b.xb → skip i = true → ∃ q ∈ t.micro, ∃ g, q.at_ = s.clock + 20 + i ∧ q.act = .mmaRow g i (aRows tap (a / 512) i) none) ∧
        (∀ i, i < count b.xb → skip i = false → (∀ k, k < i → skip k = true) → ∃ q ∈ t.micro, ∃ g, q.at_ = s.clock + 2 + i ∧ q.act = .mmaRead g ∧
          g.slot = bits m 0 4 ∧ g.acc0 = bits (s.x b.xd).toNat 0 10 ∧
          g.todo = ((List.range (count b.xb)).filter fun i => !skip i).map fun i => (i, aRows tap (a / 512) i))) ∧
    (∀ a, s.Granted h [b.xd, b.xa, b.xb] s.ck.readFree → bits m 12 1 = 0 → (bits m 13 2 = 2 → bits (s.x b.xa).toNat 16 1 = 0) →
      s.ck.spoiled s.clock (kindCols (bits m 13 2)) (bits (s.x b.xa).toNat 0 10) (min (count b.xb) 32) = false → 0 < count b.xb → count b.xb ≤ 32 →
      bits (s.x b.xa).toNat 0 10 + count b.xb ≤ 49152 / kindCols (bits m 13 2) →
      (bits m 11 1 = 1 → bits (s.x b.xd).toNat 0 9 + count b.xb ≤ 320) →
      (bits m 11 1 = 0 → addrOf (s.x b.xd) = .store a ∧ a / 512 + count b.xb ≤ 131072 ∧ s.frameBarred ((a / 512 + count b.xb - 1) / 32) = false ∧
        ∀ j, j < count b.xb → (s.ck.tile ((a / 512 + j) / 32)).published = false) →
      ∃ t, exec (.mrd h b) s = .next t ∧ t.ck.readFree = s.clock + count b.xb ∧ t.micro.length = s.micro.length + count b.xb ∧ t.mem = s.mem ∧
        ∀ j, j < count b.xb → ∃ x ∈ t.micro, ∃ q, x.at_ = s.clock + j ∧ x.act = .mrdRow q ∧ q.accRow = bits (s.x b.xa).toNat 0 10 + j ∧
          q.toReg = decide (bits m 11 1 = 1) ∧ q.dst = (if bits m 11 1 = 1 then bits (s.x b.xd).toNat 0 9 else a / 512) + j ∧ q.fmt = bits m 0 5 ∧
          q.width = kindCols (bits m 13 2)) ∧
    (∀ a, s.Granted h [b.xd, b.xa, b.xb] s.ck.readFree → bits m 12 1 = 1 → bits m 11 1 = 0 → (bits m 13 2 = 2 → bits (s.x b.xa).toNat 16 1 = 0) →
      s.ck.spoiled s.clock (kindCols (bits m 13 2)) (bits (s.x b.xa).toNat 0 10) (min (count b.xb) 32) = false → 0 < count b.xb → count b.xb ≤ 32 →
      bits (s.x b.xa).toNat 0 10 + count b.xb ≤ 49152 / kindCols (bits m 13 2) → addrOf (s.x b.xd) = .store a → a / 512 + count b.xb ≤ 131072 →
      s.frameBarred ((a / 512 + count b.xb - 1) / 32) = false → (∀ j, j < count b.xb → (s.ck.tile ((a / 512 + j) / 32)).published = false) →
      ∃ t, exec (.mrd h b) s = .next t ∧ t.ck.readFree = s.clock + count b.xb ∧ t.mem = s.mem ∧
        t.micro.length = s.micro.length + ((List.range (count b.xb)).filter fun j => !s.ck.skipped ((a / 512 + j) / 32)).length) ∧
    (s.Runs h [b.xa] → exec (.mscl h b) s =
      .next (s.modDk fun d => { d with ms := mset 0x3F800000 d.ms (bits m 0 3) (BitVec.ofNat 32 (s.x b.xa).toNat) })) ∧
    (s.Runs h [] →
      let w := BitVec.ofNat 64 (s.dk.ckChecked.toNat * 2 ^ 32 + (if s.dk.ckFail then 2 ^ 31 else 0) + (if s.dk.ckPend = 0 then 0 else 2 ^ 30) + s.dk.ckRow.toNat)
      (b.m.getLsbD 0 = false → exec (.mck h b) s = .next (s.writeX h 2 b.xd w)) ∧
      (b.m.getLsbD 0 = true → exec (.mck h b) s = .next ((s.writeX h 2 b.xd w).modDk fun d => { d with ckChecked := 0, ckFail := false, ckRow := 0 }))) ∧
    (∀ core, (s.getCore core).mayGate s.clock = true → exec (.arrayClockGate core) s = .next (s.modCore core fun k => { k with gated := true })) ∧
    (∀ core r, (s.getCore core).replays = [r] → r.perf = none → s.micro = [] → 
      (s.getCore core).clearedSince r.g.num (r.g.acc0 + r.i) (modeCols ((s.getCore core).slot r.g.slot).mode) = false →
      ∃ t, exec (.checksumReplay core) s = .next t ∧ (t.getCore core).replays = [{ r with perf := some (max s.clock (s.getCore core).gantryFree + 20) }] ∧
        t.mem = s.mem)

/-- R103, R104, R250: a cell takes exact contributions modulo 2^112 with a sticky overflow bit, whatever the order of those that stay in range; read out
to FP32 with a scale of 1 it is one rounding of the sum in units of 2^-40, the canonical NaN after an overflow. -/
def Obligations.AccumulatorCells : Prop :=
  (∀ (cell : BitVec 128) (p : Int) (nan : Bool),
    let z := (cell.setWidth 112).toInt + p
    ((addCell cell p nan).getLsbD 112 = true ↔ nan = true ∨ cell.getLsbD 112 = true ∨ z < -2 ^ 111 ∨ 2 ^ 111 ≤ z) ∧
    (((addCell cell p nan).setWidth 112).toInt - z) % 2 ^ 112 = 0) ∧
  (∀ (ps : List Int), (∀ k, k ≤ ps.length → -2 ^ 111 ≤ (ps.take k).sum ∧ (ps.take k).sum < 2 ^ 111) →
    let c := ps.foldl (fun c p => addCell c p false) 0
    c.getLsbD 112 = false ∧ (c.setWidth 112).toInt = ps.sum) ∧
  ∀ (q : ReadOut) (cell : BitVec 128) (e : Nat), q.seqn = false → q.fmt = 0 → q.ms = 0x3F800000 → q.rm = 0 →
    (cell.getLsbD 112 = true → (q.cell cell e).1 = 0x7FC00000 ∧ (q.cell cell e).2.getLsbD 4 = true) ∧
    (cell.getLsbD 112 = false →
      let z := (cell.setWidth 112).toInt
      (q.cell cell e).1 = (rndIEEE fp32 0 0 (.fin (decide (z < 0)) z.natAbs (-40))).1)

/-! ### The Trestle (spec 11) -/

/-- R263-R276: `tup` takes a tree for 4 + c clocks and writes the root's code 6 + c clocks later; `tdn` adds each live leaf's share to its adjoint; `tld`
and `tst` move lanes, and do nothing when no lane they name is enabled; `tshp` and `tscl` set shapes and the mode. Nodes by their operations.
Model's choices: log 65, 66, 67, 121. -/
def Obligations.TrestleInstructions : Prop :=
  (∀ (h : Hd) (b : TRS) (s : State), s.Runs h [] → s.dk.treeFree s.clock = true →
    let w := (mget 0 s.dk.shapes b.shape.toNat).toNat
    let c := treeCost w b.tbase.toNat false
    let v := s.dk.nodeAt w b.tbase.toNat 0
    (b.copy = 0 → treeBeyond w b.tbase.toNat false = none →
      exec (.tup h b) s = .next (((s.setDk (s.dk.takeTree s.clock c)).writeT h (6 + c) (.t b.t.toNat) 1 (v.code.setWidth 4096) 0).raiseFlags h (6 + c) v.flags)) ∧
    (b.copy = 1 → treeBeyond w b.tbase.toNat false = none → s.rqRoomNow 7 = true →
      ∃ t, exec (.tup h b) s = .next t ∧ (mget [] t.dk.rq 7).length = (mget [] s.dk.rq 7).length + 1 ∧ t.dk.treeCount = s.dk.treeCount + 1 ∧ t.mem = s.mem ∧
        (∃ r ∈ t.dk.latches, r.land = s.clock + 6 + c ∧ r.dest = .t b.t.toNat ∧ r.data = v.code.setWidth 4096)) ∧
    (∀ r, b.copy = 0 → treeBeyond w b.tbase.toNat false = some r → exec (.tup h b) s = .next (s.raise h 0x12 r 0)) ∧
    (treeBeyond w b.tbase.toNat true = none →
      let c := treeCost w b.tbase.toNat true
      ∃ t, exec (.tdn h b) s = .next t ∧ t.mem = s.mem ∧ t.dk.treeCount = s.dk.treeCount + 1 ∧
        ∀ i ∈ liveLeaves w, ∃ r ∈ t.dk.latches, r.land = s.clock + (6 + c) ∧
          r.dest = .tAdj (b.tbase.toNat + shapeOff w i + 256) s.dk.tmode (s.dk.share w b.tbase.toNat i (tVal s.dk.tmode 0 (mget 0 s.dk.t b.t.toNat))).1)) ∧
  (∀ (h : Hd) (b : TRL) (s : State), b.t.toNat + b.n.toNat + 1 ≤ 512 →
    let below := BitVec.ofNat 128 (2 ^ (b.n.toNat + 1) - 1)
    let tag : Tag := if s.dk.tmode then 7 else 0
    (s.dk.guard h &&& below = 0 → exec (.tld h b) s = .next s ∧ exec (.tst h b) s = .next s) ∧
    (∀ x d, s.dk.guard h &&& below ≠ 0 → s.dk.takeAll [b.vn.toNat] = .inr ([x], d) → x.tag = tag → exec (.tld h b) s =
      .next (((s.setDk d).writeT h 2 (.t b.t.toNat) (s.dk.guard h &&& below) x.data 0).ran h b.qm.toNat (isQueueName b.vn.toNat))) ∧
    (s.dk.guard h &&& below ≠ 0 → (∀ q, pushOf b.vn.toNat = some q → s.rqRoomNow q = true) → ∃ img, exec (.tst h b) s =
        .next (((s.setDk s.dk).writeV h 2 b.vn.toNat (s.dk.guard h &&& below) img tag).ran h b.qm.toNat (pushOf b.vn.toNat).isSome) ∧
      ∀ l, l ≤ b.n.toNat → bits img.toNat (32 * l) 32 = (mget 0 s.dk.t (b.t.toNat + l)).toNat)) ∧
  (∀ (h : Hd) (b : TRH) (s : State), s.Runs h [b.xa] →
    ∃ w : Word, exec (.tshp h b) s = .next (s.modDk fun d => { d with shapes := mset 0 d.shapes b.shape.toNat w }) ∧
      ∀ k, k < 64 → w.getLsbD k = (decide (k < 62) && (s.x b.xa).getLsbD k)) ∧
  (∀ (h : Hd) (b : TRC) (s : State), s.Runs h [b.xa] →
    exec (.tscl h b) s = .next (s.modDk fun d => { d with tmode := decide (b.mode = 1), tscale := BitVec.ofNat 16 (s.x b.xa).toNat })) ∧
  ∀ (d : Deck) (w tbase n : Nat), n < 7 →
    let l := d.childOf w tbase n 0
    let r := d.childOf w tbase n 1
    let v := d.nodeAt w tbase n
    let rnd := fun (z : Val) => BitVec.ofNat 32 (tCode d.tmode d.tscale.toNat z).1
    (bits w (2 * n) 2 = 0 → v.code = rnd (l.val.add false r.val).1) ∧ (bits w (2 * n) 2 = 1 → v.code = rnd (l.val.mul r.val).1) ∧
    (bits w (2 * n) 2 = 2 → v.code = rnd (((d.weight tbase n 0).mul l.val).1.add false ((d.weight tbase n 1).mul r.val).1).1) ∧
    (bits w (2 * n) 2 = 3 → v = l)

/-! ### The Causeway (spec 12) -/

/-- R277-R289: settings take effect one clock later; `cskip` tests the indices whose two signatures are finite and decides four clocks later; `cmap`
and `csig` read the block; a service locks its tile and reads its first row.
Model's choices: log 68. -/
def Obligations.CausewayInstructions : Prop :=
  (∀ (h : Hd) (b : XRR) (s : State), s.Runs h [b.xa, b.xb] →
    let d := s.x b.xa
    let w := (s.x b.xb).setWidth 32
    let theta : Lane := if w = 0x7F800000 then 0x7F7FFFFF else if 2 ^ 31 ≤ w.toNat ∨ bits w.toNat 23 8 = 0xFF then 0 else w
    let sets := fun a => Host.Outcome.next (φ := Fault) (ρ := Refusal) (s.access (s.clock + 1) s.cn s.dn (isEx h) 0 a)
    (b.m.getLsbD 0 = true → exec (.cthr h b) s = sets (.blockTheta (bits d.toNat 0 4) theta)) ∧
    (b.m.getLsbD 0 = false → bits d.toNat 38 26 = 0 → bits d.toNat 4 12 + bits d.toNat 28 10 + 1 ≤ 4096 → bits d.toNat 16 12 + bits d.toNat 28 10 + 1 ≤ 4096 →
      exec (.cthr h b) s = sets (.blockCfg (bits d.toNat 0 4) (some (d, theta)))) ∧
    (b.m.getLsbD 0 = false → (bits d.toNat 38 26 ≠ 0 ∨ 4096 < bits d.toNat 4 12 + bits d.toNat 28 10 + 1 ∨
        4096 < bits d.toNat 16 12 + bits d.toNat 28 10 + 1) → exec (.cthr h b) s = .next (s.raise h 0x14 0 0))) ∧
  (∀ (h : Hd) (b : XRR) (s : State), s.Runs h [b.xa] →
    let n := bits (s.x b.xa).toNat 0 4
    let word := fun (x : Sig) => if x.valid then BitVec.ofNat 64 (x.a.toNat * 2 ^ 32 + x.s.toNat) else 0x7FC000007FC00000
    exec (.crst h b) s = .next (s.access (s.clock + 1) s.cn s.dn (isEx h) 0 (.blockCfg n none)) ∧
    (mfind s.ck.blocks n = none → exec (.cskip h b) s = .next (s.writeX h 4 b.xd 0) ∧ exec (.cmap h b) s = .next (s.writeX h 2 b.xd 0) ∧
      exec (.csig h b) s = .next (s.writeX h 2 b.xd 0x7FC000007FC00000)) ∧
    ∀ x, mfind s.ck.blocks n = some x →
      (s.ck.busyBlock s.clock n none = true → exec (.cskip h b) s = .next s.stalled) ∧
      (s.ck.busyBlock s.clock n none = false →
        let tested := (List.range (bits x.desc.toNat 28 10 + 1)).filter fun i => (mget Sig.none_ x.cur i).finite && (mget Sig.none_ x.prev i).finite
        let still := tested.filter fun i => !moved x.theta (mget Sig.none_ x.cur i) (mget Sig.none_ x.prev i)
        let out := fun (i : Nat) => bits x.desc.toNat 16 12 + i
        let skip := still.filter fun i => s.ck.rowsValid (out i)
        let forced := still.filter fun i => !s.ck.rowsValid (out i)
        ∃ ks fs, exec (.cskip h b) s = .next ((s.writeX h 4 b.xd (BitVec.ofNat 64 (tested.length * 2 ^ 32 + forced.length * 2 ^ 16 + skip.length))).access
            (s.clock + 4) s.cn s.dn (isEx h) 0 (.blockDecide n x.num ks fs (x.cur.filter fun p => p.2.valid))) ∧
          ∀ i, i < 1024 → ks.getLsbD i = skip.contains i ∧ fs.getLsbD i = forced.contains i) ∧
      (∀ g, g = bits (s.x b.xa).toNat 4 4 →
        exec (.cmap h b) s = .next (s.writeX h 2 b.xd (BitVec.ofNat 64 ((if b.m.getLsbD 0 then x.forced else x.skip).toNat / 2 ^ (64 * g))))) ∧
      (∀ i, i = bits (s.x b.xa).toNat 4 10 →
        (i ≤ bits x.desc.toNat 28 10 → b.m.getLsbD 0 = true → exec (.csig h b) s = .next (s.writeX h 2 b.xd (word (mget Sig.none_ x.prev i)))) ∧
        (i ≤ bits x.desc.toNat 28 10 → b.m.getLsbD 0 = false → s.ck.busyBlock s.clock n (some i) = false →
          exec (.csig h b) s = .next (s.writeX h 2 b.xd (word (mget Sig.none_ x.cur i)))) ∧
        (i ≤ bits x.desc.toNat 28 10 → b.m.getLsbD 0 = false → s.ck.busyBlock s.clock n (some i) = true → exec (.csig h b) s = .next s.stalled) ∧
        (bits x.desc.toNat 28 10 < i → exec (.csig h b) s = .next (s.writeX h 2 b.xd 0x7FC000007FC00000)))) ∧
  (∀ (s : State) (core : Nat) (p : PendTile) (x : Block), (s.getCore core).service = none → (s.getCore core).nextService s.clock = some p →
    mfind (s.getCore core).blocks p.block = some x →
    ∃ t v q, exec (.causewayService core) s = .next t ∧ (t.getCore core).service = some v ∧ v.block = p.block ∧ v.idx = p.idx ∧ v.start = s.clock ∧
      v.tile = bits x.desc.toNat 4 12 + p.idx ∧ ((t.getCore core).tile v.tile).locks = ((s.getCore core).tile v.tile).locks ++ [3] ∧
      t.micro = s.micro ++ [q] ∧ q.at_ = s.clock ∧ q.act = .cwRead (32 * v.tile) ∧ t.mem = s.mem ∧ t.decks = s.decks)

/-! ### The Milestone unit (spec 03) -/

/-- R59-R69, R348, R416, R417: a tick adds 1 to every Age and brings its warn points and limits; the warn policy, expiry, an overdue refresh; requests
enter in order while there is room; a refresh takes the row for four clocks and leaves it valid with Age 0; band steps; the limit table.
Model's choices: log 69, 70, 71. -/
def Obligations.RowLifetimes : Prop :=
  (∀ (s : State) (core : Nat), ∃ t, exec (.ageTick core) s = .next t ∧ t.mem = s.mem ∧ t.decks = s.decks ∧
    (∀ n, ((s.getCore core).row n).base ≤ (s.getCore core).ticks → (s.getCore core).age n < 0xFFFF → (t.getCore core).age n = (s.getCore core).age n + 1) ∧
    (s.clock, Instr.refreshRequestEnter core) ∈ t.agenda ∧
    ∀ n r, (n, r) ∈ (s.getCore core).rows → t.pastLimit core n ((t.getCore core).age n) = true → (s.clock, Instr.rowLimitExpiry core n) ∈ t.agenda) ∧
  (∀ (s : State) (core row : Nat),
    let k := s.getCore core
    let policy := bits (k.tile (row / 32)).cfg.toNat 2 2
    (s.pastWarn core row (k.age row) = true → ∃ t, exec (.rowWarnPoint core row) s = .next t ∧ t.mem = s.mem ∧
      (k.classOf (row / 32) = 7 ∨ policy = 1 → ((t.getCore core).row row).st = .queued ∧ (t.getCore core).offered = k.offered ++ [row]) ∧
      (k.classOf (row / 32) ≠ 7 → policy ≠ 1 → ((t.getCore core).row row).st = .warned ∧
        (t.getCore core).notes = if policy = 2 then k.notes ++ [(row, false)] else k.notes)) ∧
    (s.pastLimit core row (k.age row) = true → ∃ t, exec (.rowLimitExpiry core row) s = .next t ∧ t.mem = s.mem ∧
      ((t.getCore core).row row).st = .invalid ∧ row ∉ (t.getCore core).refreshQ ∧ row ∉ (t.getCore core).offered) ∧
    ((k.row row).st = .queued → (k.row row).overdue = false → k.classOf (row / 32) = 7 → s.rowLimit core row ≤ k.age row →
      (∀ d, d < 4 → (s.getDeck (4 * core + d)).inst = none) →
      ∃ t e, exec (.l7RefreshOverdue core row) s = .next t ∧ (t.getCore core).row row = { k.row row with overdue := true } ∧ t.log = s.log ++ [e] ∧
        e.kind = 0x08 ∧ e.core = core ∧ e.detail = BitVec.ofNat 64 row ∧ t.mem = s.mem) ∧
    (k.notes = [] → k.offered = [row] → k.refreshQ.length < 32 → ∃ t, exec (.refreshRequestEnter core) s = .next t ∧
      (t.getCore core).refreshQ = k.refreshQ ++ [row] ∧ (t.getCore core).offered = [] ∧ t.mem = s.mem) ∧
    (k.notes = [] → k.refreshQ.length = 32 → ∃ t, exec (.refreshRequestEnter core) s = .next t ∧
      (t.getCore core).refreshQ = k.refreshQ ∧ (t.getCore core).offered = k.offered) ∧
    (k.nextRefresh s.clock = some row → ∃ t, exec (.refreshStart core) s = .next t ∧ ((t.getCore core).row row).st = .refreshing ∧
      row ∉ (t.getCore core).refreshQ ∧ (s.clock + 3, Instr.refreshWriteback core row) ∈ t.agenda ∧ t.mem = s.mem) ∧
    ((k.row row).st = .refreshing → k.badIn row 0 7 = false → ∃ t, exec (.refreshWriteback core row) s = .next t ∧
      ((t.getCore core).row row).st = .valid ∧ (t.getCore core).age row = 0 ∧ t.mem = s.mem)) ∧
  (∀ (s : State) (core : Nat),
    let k := s.getCore core
    (k.band < 7 → 40 + 10 * (k.band + 1) ≤ k.sensor → ∃ t, exec (.bandStepHotter core) s = .next t ∧ (t.getCore core).band = k.band + 1 ∧
      (t.getCore core).reevalEnd = s.clock + 64 ∧ t.mem = s.mem) ∧
    (0 < k.band → k.sensor + 3 ≤ 40 + 10 * k.band → ∃ t, exec (.bandStepCooler core) s = .next t ∧ (t.getCore core).band = k.band - 1 ∧ t.mem = s.mem)) ∧
  (∀ (s : State) (e : Nat) (v : BitVec 16), s.tempPending = [(e, v)] → ∃ t, exec .tempTableApply s = .next t ∧ t.tempPending = [] ∧
    mfind t.tempTable e = some v ∧ t.mem = s.mem ∧ t.decks = s.decks)

/-! ### The fabric (spec 14) -/

/-- R120, R173, R209-R211, R324-R329: a Square opens the transfer phase of a superstep gang; schedule entries, rows sent and contributions within it, and
what is too late; the exact sum of partials; a result is one rounding of it; a peer's partials are kept, and complete the result that misses them; packets, and what peers send, wait while an
entry in force holds their output or their die or core is Off; rows and signals that peers send; the end of the phase.
Model's choices: log 86, 90, 118, 120. -/
def Obligations.FabricTransfers : Prop :=
  (∀ (s : State) (i : Nat), ∃ t, exec (.squareComplete i) s = .next t ∧ (t.getInst i).squareAt = some s.clock ∧ (t.getInst i).contribs = [] ∧
    (∀ c ∈ (s.getInst i).coresOf, ∀ r, r < 4096 → mget 0 t.partials (coreRouter c * 4096 + r) = 0) ∧ t.mem = s.mem ∧ ((s.getInst i).kind ≠ 2 → (t.getInst i).xfer = none)) ∧
  (∀ (s : State) (i : Nat), ∃ t, exec (.transferPhaseEnd i) s = .next t ∧ (t.getInst i).xfer = none ∧ t.mem = s.mem ∧ t.decks = s.decks ∧
    ∀ r ∈ t.xrows, r.inst ≠ i) ∧
  (∀ (h : Hd) (b : XFS) (s : State), s.Passed h [] →
    (∀ now, s.phaseCycle = some now → exec (.xsel h b) s = .next (s.modCk fun k => { k with
      sched := k.sched ++ [⟨portRouter s.cn b.outp.toNat, b.outp.toNat, b.inp.toNat, max b.cycle.toNat (now + 1).toNat, s.dn⟩] })) ∧
    (s.phaseCycle = none → exec (.xsel h b) s = .next (s.raise h 0x06 0 0))) ∧
  (∀ (h : Hd) (b : XFM) (s : State),
    let flits := (List.range 8).map fun k => (⟨s.seq, k, portRouter s.cn b.port.toNat, 16 + b.port.toNat, b.cycle.toNat + k⟩ : Flit)
    let xa := BitVec.ofNat 6 (b.src.toNat / 8 % 64)
    (∀ v d now, b.kind = 0 → s.Passed h [] → s.dk.takeAll [b.src.toNat] = .inr ([v], d) → s.phaseCycle = some now →
      ((now : Int) ≤ b.cycle.toNat → ∃ t r, exec (.xmit h b) s = .next t ∧ t.flits = s.flits ++ flits ∧ t.xrows = s.xrows ++ [r] ∧ r.xid = s.seq ∧
        r.data = v.data ∧ r.tag = v.tag ∧ r.isReg = true ∧ r.dst = b.src.toNat ∧ t.mem = s.mem) ∧
      ((b.cycle.toNat : Int) < now → exec (.xmit h b) s = .next (s.raise h 0x06 0 0))) ∧
    (∀ a now, b.kind = 1 → s.Passed h [xa] → addrOf (s.x xa) = .store a → s.frameBarred (a / 16384) = false → s.phaseCycle = some now →
      (now + 2 ≤ (b.cycle.toNat : Int) → ∃ t r m, exec (.xmit h b) s = .next t ∧ t.flits = s.flits ++ flits ∧ t.xrows = s.xrows ++ [r] ∧ r.xid = s.seq ∧
        r.isReg = false ∧ r.dst = a / 512 ∧ t.micro = s.micro ++ [m] ∧ m.at_ = s.clock + 2 ∧ m.act = .xmitRead s.seq (a / 512) ∧ t.mem = s.mem) ∧
      ((b.cycle.toNat : Int) < now + 2 → exec (.xmit h b) s = .next (s.raise h 0x06 0 0)))) ∧
  (∀ (h : Hd) (b : XFR) (s : State) (i : Nat) (v : VReg) (d : Deck) (now : Int), s.Passed h [b.xa] → s.HasInst i →
    s.dk.takeAll [b.src.toNat] = .inr ([v], d) → s.phaseCycle = some now →
    (v.tag = 0 → (s.x b.xa).toNat < 4096 → now ≤ (b.cycle.toNat : Int) → d.inst = some i →
      ∃ t, exec (.xred h b) s = .next t ∧ t.mem = s.mem ∧ (t.getInst i).contribs = (s.getInst i).contribs ++ [⟨(s.x b.xa).toNat, s.dn, b.cycle.toNat, false⟩] ∧
        ∀ l, l < 128 →
          let r := coreRouter s.cn * 4096 + ((s.x b.xa).toNat + l) % 4096
          mget 0 t.partials r = addPartial (mget 0 s.partials r) (partialCode (v.data.extractLsb' (32 * l) 32))) ∧
    (v.tag ≠ 0 → exec (.xred h b) s = .next (s.raise h 0x03 v.tag.toNat 0)) ∧
    (v.tag = 0 → 4096 ≤ (s.x b.xa).toNat → exec (.xred h b) s = .next (s.raise h 0x06 0 0))) ∧
  (∀ (p q : BitVec 320), ((p + q).setWidth 312).toInt = (partialSum (addPartial p q)) ∧
    ∀ k, 312 ≤ k → k < 316 → (addPartial p q).getLsbD k = (p.getLsbD k || q.getLsbD k)) ∧
  (∀ (s : State) (i slot n cycle : Nat), (s.getInst i).contribs = [⟨slot, n, cycle, false⟩] → s.boundGroups slot = [] → (mget [] (s.getDeck n).rq 6).length < 4 →
    ((s.getCore (n / 4)).engine 3).held = [] → LineError.sum i slot ∉ s.lineErrors →
    ∃ t e, exec (.xredResultDelivery i slot) s = .next t ∧ (t.getInst i).contribs = [⟨slot, n, cycle, true⟩] ∧ t.mem = s.mem ∧
      mget [] (t.getDeck n).rq 6 = mget [] (s.getDeck n).rq 6 ++ [e] ∧ e.arrived = true ∧ e.tag = 0 ∧
      ∀ l, l < 128 → bits e.data.toNat (32 * l) 32 = roundPartial (s.total (s.getInst i) ((slot + l) % 4096)) % 2 ^ 32) ∧
  (∀ (s : State) (g dev : Nat) (ps : List (BitVec 320)), (∀ p ∈ s.insts, ∀ b ∈ p.2.bound, (g, dev) ∉ b.missing) →
    exec (.peerPartialArrival (g, dev) ps) s = .next { s with peers := s.peers ++ [(g, dev, ps)] }) ∧
  (∀ (s : State) (g dev i n : Nat) (x : Inst) (b : Bound) (ps : List (BitVec 320)), s.insts = [(i, x)] → x.bound = [b] → b.missing = [(g, dev)] →
    b.decks = [n] → (mget [] (s.getDeck n).rq 6).length < 4 → ((s.getCore (n / 4)).engine 3).held = [] →
    ∃ t e, exec (.peerPartialArrival (g, dev) ps) s = .next t ∧ (t.getInst i).bound = [] ∧ t.peers = s.peers ∧ t.mem = s.mem ∧
      mget [] (t.getDeck n).rq 6 = mget [] (s.getDeck n).rq 6 ++ [e] ∧ e.arrived = true ∧ e.tag = 0 ∧
      ∀ l, l < 128 → bits e.data.toNat (32 * l) 32 = roundPartial (mget 0 (addGroup b.parts g ps) ((b.slot + l) % 4096)) % 2 ^ 32) ∧
  (∀ (s : State) (p : Packet) (g out link : Nat) (rest : List (Nat × Nat × Nat)), p.left = (g, out, link) :: rest → s.clock < p.stop → p.at_ ≤ s.clock →
    (s.outputHeld g out = true ∨ (s.getDie (g / 16)).power.cur = 2 → s.movePacket p = some p) ∧
    (s.outputHeld g out = false → (s.getDie (g / 16)).power.cur ≠ 2 → s.movePacket p = if rest = [] then none else some { p with left := rest, at_ := s.clock + link + 6 })) ∧
  (∀ (s : State) (m : FromPeer), s.inbound = [m] → s.outputHeld (coreRouter m.core) 0 = true ∨ (s.getCore m.core).power.cur = 2 → s.servePeers = s) ∧
  (∀ (s : State) (c row : Nat) (data : Image) (tag : Tag), s.inbound = [.put c row data tag] → s.outputHeld (coreRouter c) 0 = false →
    (s.getCore c).power.cur ≠ 2 →
    (((s.getCore c).tile (row / 32)).receivable = true → ∃ m, s.servePeers.micro = s.micro ++ [m] ∧ m.at_ = s.clock ∧ m.core = c ∧ m.act = .arrive row data tag ∧
      s.servePeers.inbound = [] ∧ s.servePeers.mem = s.mem) ∧
    (((s.getCore c).tile (row / 32)).receivable = false → s.servePeers.micro = s.micro ∧ s.servePeers.inbound = [] ∧ s.servePeers.mem = s.mem)) ∧
  ∀ (s : State) (c n : Nat), s.inbound = [.signal c n] → s.outputHeld (coreRouter c) 0 = false → (s.getCore c).power.cur ≠ 2 → s.micro = [] →
    s.servePeers = { s.semAdd c n 1 with inbound := [] }

/-! ### The Roundabouts (spec 02, spec 13, spec 22) -/

/-- R14, R19, R20, R31, R297-R299, R306, R311, R312: a launch takes its entry of the queue; a token lowers a counter, or makes its node ready; a loop
goes on while its predicate holds; a node whose instances have drained commits; spawn sets, rings and cancellation messages.
Model's choices: log 13, 74, 76, 84, 85, 102. -/
def Obligations.NodesAndSets : Prop :=
  (∀ (s : State) (g : Nat) (ps : List (Nat × Nat × Word)), s.launchQ = [(g, ps)] → (∀ l ∈ s.launches, l.graph ≠ g) →
    ∃ t, exec (.launchStart g) s = .next t ∧ t.launchQ = [] ∧ t.ignored = (ps.filter fun p => !s.patchOk g p).length) ∧
  (∀ (s : State) (r : Nat) (l : Launch), s.unacked = [] → s.launchOf r = some l → s.nodeState r = 0 → isTemplate (s.nodeWords r) = false →
    r ∉ l.skips →
    (s.nodeCount r = 0 → exec (.tokenArrival r false) s = .next s) ∧
    (1 < s.nodeCount r → exec (.tokenArrival r false) s = .next ((s.modLaunch l.graph id).setSlotWord r 1 (runtimeWord (s.nodeCount r - 1) 0 (s.nodeIters r)))) ∧
    (s.nodeCount r = 1 → exec (.tokenArrival r false) s =
      let t := (s.modLaunch l.graph id).setSlotWord r 1 (runtimeWord 0 0 (s.nodeIters r))
      .next (State.nodeReady t.depth t r))) ∧
  (∀ (s : State) (r : Nat),
    let ws := s.nodeWords r
    let a := field ws 2 0 57
    (s.launchOf r).isSome = true → s.nodeState r = 1 → nodeKind ws = 4 → (∀ b ∈ listed ws, 2 ≤ s.nodeState b) → s.reachable (s.nodeCtx r) a 8 = true →
    (s.readCommitted (s.nodeCtx r) a 8 ≠ 0 → s.nodeIters r < field ws 3 0 16 → exec (.loopBodyEnd r) s = .next (State.nodeReady s.depth s r)) ∧
    (s.readCommitted (s.nodeCtx r) a 8 = 0 ∨ field ws 3 0 16 ≤ s.nodeIters r → exec (.loopBodyEnd r) s = .next (s.completePlain r false))) ∧
  (∀ (s : State) (key i : Nat) (x : Inst) (rest : List (Nat × Inst)), s.nodeCommits key = true → s.nodeInsts key = (i, x) :: rest →
    bits (x.words.getD 20 0).toNat 0 57 = 0 → s.lateEntry (s.nodeInsts key) = none →
    (x.spawnSet.isSome = true → exec (.nodeComplete key) s = .next ((s.commitNode key (s.nodeInsts key)).endInsts (s.nodeInsts key))) ∧
    (x.spawnSet = none → exec (.nodeComplete key) s =
      .next (((((s.commitNode key (s.nodeInsts key)).endInsts (s.nodeInsts key)).setNodeState key 2).sendTokens key false).nodeFinished key))) ∧
  (∀ (s : State) (q : SpawnSet), s.unacked = [] → s.flying = [q] → s.reachable q.ctx (s.queueAddr q.ctx q.queue) 32 = true →
    (s.queueLive q.ctx q.queue q.gen = false → ∃ t e, exec (.spawnSetArrival q.id) s = .next t ∧ t.flying = [] ∧ t.log = s.log ++ [e] ∧ e.kind = 0x10 ∧
      e.detail = BitVec.ofNat 64 (q.queue * 4096 + q.gen) ∧ t.mem = s.mem ∧ t.insts = s.insts) ∧
    (s.queueLive q.ctx q.queue q.gen = true → q.key ∈ (s.getDie (q.queue % 12)).resident →
      (∀ r ∈ (s.getDie (q.queue % 12)).rings ++ (s.getDie (q.queue % 12)).heldSets, r.key ≠ q.key) →
      exec (.spawnSetArrival q.id) s = .next ({ s with flying := [] }.listSet q q.ready)) ∧
    (s.queueLive q.ctx q.queue q.gen = true →
      (q.key ∉ (s.getDie (q.queue % 12)).resident ∨ ∃ r ∈ (s.getDie (q.queue % 12)).rings, r.key = q.key) → s.ringRoom (q.queue % 12) q = true →
      (s.getDie (q.queue % 12)).heldSets = [] → s.reachable q.ctx (s.nextRing (q.queue % 12) q) 32 = true →
      let k := mget 0 (s.getDie (q.queue % 12)).tails q.key
      ∃ t, exec (.spawnSetArrival q.id) s = .next t ∧ (t.getDie (q.queue % 12)).rings = (s.getDie (q.queue % 12)).rings ++ [{ q with slot := k }] ∧
        mget 0 (t.getDie (q.queue % 12)).tails q.key = k + 1 ∧ t.flying = [] ∧ t.insts = s.insts)) ∧
  (∀ (s : State) (die : Nat) (q : SpawnSet),
    ((s.getDie die).heldSets = [q] → s.ringRoom die q = true → s.reachable q.ctx (s.nextRing die q) 32 = true →
      ∃ t, exec (.mewsRingRetry die) s = .next t ∧ (t.getDie die).heldSets = [] ∧
        (t.getDie die).rings = (s.getDie die).rings ++ [{ q with slot := mget 0 (s.getDie die).tails q.key }]) ∧
    ((s.getDie die).heldSets = [q] → s.ringRoom die q = false → ∃ t, exec (.mewsRingRetry die) s = .next t ∧ (t.getDie die).heldSets = [q] ∧
      (t.getDie die).rings = (s.getDie die).rings ∧ t.mem = s.mem) ∧
    (let a := s.queueAddr q.ctx q.queue
     let e := s.ringAddr q.ctx a q.slot
     (s.getDie die).rings = [q] → (s.getDie die).resident.length < 4096 → s.reachable q.ctx a 32 = true → s.reachable q.ctx e 32 = true →
      exec (.queueRingDrain die) s = .next ((s.modDie die fun d => { d with
          resident := if q.key ∈ d.resident then d.resident else d.resident ++ [q.key], rings := [] }).listSet
        (q.ofEntry (s.readCommitted q.ctx e 32)) s.clock))) ∧
  (∀ (s : State) (die group i : Nat) (x : Inst), s.unacked = [] → s.launches = [] → s.insts = [(i, x)] → x.die = die → group ∈ x.groups →
    x.st = .running → x.stopAt = none →
    ∃ t, exec (.cancelMessage die group) s = .next t ∧ (t.getInst i).stopAt = some (s.clock + x.iterMax * 2500) ∧ t.mem = s.mem ∧
      ∀ n ∈ x.decks, (s.getDeck n).halted = false → (t.getDeck n).pend21 = 2)

/-- R28, R29, R301-R303, R308, R312, R313, R317, R318, R398, R430: selection places the first ready instance on free decks; a prepared one starts;
aging; a pre-emption saves and resumes; a spill; the ends of instances that are cancelled, overrun or rolled back.
Model's choices: log 14, 78, 79, 80, 82, 83, 85. -/
def Obligations.InstancesOnDecks : Prop :=
  (∀ (s : State) (die i : Nat) (x : Inst) (ds : List Nat), s.insts = [(i, x)] → x.die = die → x.st = .ready → x.stopAt = none → x.doomed = false →
    x.due = false → (s.places x).find? (s.mayPlace i x) = some ds → ds.Nodup → (∀ n ∈ ds, s.holdsCode x (n / 4) = true) →
    ∃ t, exec (.roundaboutSelection die) s = .next t ∧ (t.getInst i).st = .preparing ∧ (t.getInst i).decks = ds ∧ (s.clock, Instr.dispatch i) ∈ t.agenda ∧
      (∀ n ∈ ds, (t.getDeck n).inst = some i ∧ (t.getDeck n).halted = true) ∧ (∀ n, n ∉ ds → t.getDeck n = s.getDeck n) ∧ t.mem = s.mem) ∧
  (∀ (s : State) (i : Nat), (s.getInst i).st = .preparing → (s.getInst i).prepared = true →
    (∀ a, (s.getInst i).tripAddr = some a → s.reachable (s.getInst i).ctx a 4 = true) →
    ∃ t, exec (.dispatch i) s = .next t ∧ (t.getInst i).st = .running ∧ (t.getInst i).dispatchedAt = s.clock ∧ t.mem = s.mem ∧
      (∀ n ∈ (s.getInst i).decks, t.getDeck n = startDeck i n s.clock (t.getInst i)) ∧ ∀ n, n ∉ (s.getInst i).decks → t.getDeck n = s.getDeck n) ∧
  (∀ (s : State) (die i : Nat) (x : Inst), s.insts = [(i, x)] → x.die = die → x.st = .ready →
    let limit := (s.getDie die).rbcfg.toNat * 2500
    ∃ t, exec (.agingTick die) s = .next t ∧ t.mem = s.mem ∧
      (s.clock < x.waitFrom + limit → t.getInst i = x) ∧
      (x.waitFrom + limit ≤ s.clock → x.level = 0 → t.getInst i = { x with due := true }) ∧
      (x.waitFrom + limit ≤ s.clock → x.level ≠ 0 → t.getInst i = { x with level := x.level - 1, waitFrom := s.clock })) ∧
  (∀ (s : State) (i : Nat),
    let x := s.getInst i
    (let s' := x.decks.foldl (fun (s : State) n => (s.quiesce n).landDeck n ((s.getDeck n).frozen.getD s.clock)) s
     let place := fun (n : Nat) => s'.imageAddr x n
     let bytes := fun (n : Nat) => s'.imageBytes x (s'.saveDeck x n).2
     x.st = .saving → s.saveReady i = true → (∀ n ∈ s'.savedDecks i x, s'.rangeReady x.ctx (place n) (bytes n) = true ∧ s'.rangeBad x.ctx (place n) (bytes n) = none) →
      ∃ t, exec (.preemptSave i) s = .next t ∧ (t.getInst i).st = .preempted ∧ (t.getInst i).preemptFor = none ∧ (t.getInst i).slot.isSome = true ∧
        (t.getInst i).saved.map (·.deck) = s'.savedDecks i x ∧ ∀ n ∈ x.decks, (t.getDeck n).inst = none) ∧
    (x.st = .running → x.preemptFor.isSome = true → x.doomed = false → x.stopAt = none → s.boundaryFree i = true →
      ∃ t, exec (.preemptSave i) s = .next t ∧ (t.getInst i).st = .saving ∧ t.mem = s.mem ∧
        ∀ n ∈ x.decks, (t.getDeck n).frozen = some (max s.clock (s.getDeck n).nextE)) ∧
    (∀ v, x.st = .preparing → x.saved = [v] → x.spills = [] → x.spilled = [] → s.copiesAhead i x = false →
      s.rangeReady x.ctx (s.imageAddr x v.deck) (s.imageBytes x v) = true →
      ∃ t, exec (.preemptResume i) s = .next t ∧ (t.getInst i).st = .running ∧ (t.getInst i).saved = [] ∧ (t.getInst i).dispatchedAt = s.clock ∧
        t.getDeck v.deck = v.deckAt (s.readRange x.ctx (s.imageAddr x v.deck) v.len) i s.clock s.seq ∧ t.mem = s.mem) ∧
    (x.st = .preempted → x.budget.isSome = true →
      ∃ t, exec (.spillStart i) s = .next t ∧ (t.getInst i).budget = none ∧ t.mem = s.mem ∧
        (t.getInst i).spills = (s.spillRows x).zipIdx.map fun p => (p.1.1, p.1.2, p.2)) ∧
    (∀ c row k, (c, row, k) ∈ x.spilled →
      let t := s.copyIn c i row k
      ((t.getCore c).row row).st = .valid ∧ (t.getCore c).age row = 0 ∧ (c, row, k) ∉ (t.getInst i).spilled) ∧
    (s.stopDue i = true → ∃ t, exec (.cancelForcedStop i) s = .next t ∧ (t.getInst i).st = .cancelled ∧ (x.copies = [] → t.mem = s.mem) ∧
      (s.clock, Instr.nodeComplete x.shadowNode) ∈ t.agenda ∧ ∀ n ∈ x.decks, (t.getDeck n).inst ≠ some i) ∧
    (∀ n, x.st = .running → n ∈ x.decks → (s.getDeck n).inst = some i → (s.getDeck n).halted = false → 2 * x.iterMax * 2500 ≤ (s.getDeck n).timer →
      ∃ t, exec (.iterOverrunEnd i) s = .next t ∧ (t.getInst i).st = .cancelled ∧ (x.copies = [] → t.mem = s.mem)) ∧
    (x.st = .running → x.stopAt = none → x.rollbacks < 3 →
      (∀ n ∈ x.decks, (s.getDeck n).engFaults = [] ∧ (s.getDeck n).arrFaults = []) → ∃ t, exec (.rollback i) s = .next t ∧ (t.getInst i).st = .ready ∧ (x.copies = [] → t.mem = s.mem) ∧
      (t.getInst i).rollbacks = x.rollbacks + 1 ∧ (t.getInst i).decks = [] ∧ ∀ n ∈ x.decks, (t.getDeck n).inst ≠ some i))

/-! ### The host and power (spec 14, spec 15, spec 22) -/

/-- R293-R298, R332, R337, R342-R350, R424-R429, R457: what the host's writes, its answers and its power requests do.
Model's choices: log 93, 94, 95, 96; log 1 for the places 2^34 and 2^35 in the model's memory, log 2 for the bytes that read 0 after Off, log 107 for the
codes of a test access port. -/
def Obligations.HostAndPower : Prop :=
  (∀ (s : State) (v : Word),
    let g := bits v.toNat 56 8
    let n := bits v.toNat 0 7
    let pairs := (List.range n).map fun k => (bits (mget 0 s.patchWin (2 * k)).toNat 32 32, bits (mget 0 s.patchWin (2 * k)).toNat 0 32, mget 0 s.patchWin (2 * k + 1))
    (n ≤ 64 → (∀ l ∈ s.launches, l.graph ≠ g) → (∀ q ∈ s.launchQ, q.1 ≠ g) → ∃ t, exec (.triggerWrite v) s = .next t ∧ t.launchQ = s.launchQ ++ [(g, pairs)] ∧
      (s.clock, Instr.launchStart g) ∈ t.agenda ∧ t.mem = s.mem) ∧
    (n ≤ 64 → (∃ l ∈ s.launches, l.graph = g) → s.launchQ.length < 8 → exec (.triggerWrite v) s = .next { s with launchQ := s.launchQ ++ [(g, pairs)] }) ∧
    ((∃ l ∈ s.launches, l.graph = g) → 8 ≤ s.launchQ.length → exec (.triggerWrite v) s = .next s) ∧
    (64 < n → exec (.triggerWrite v) s = .next s)) ∧
  (∀ (s : State) (die w : Nat) (v : Word), die < 12 → w < 32 →
    let sel := (s.getDie die).select.toNat
    (bits sel 31 1 = 0 → s.launches = [] → exec (.uploadWindowWrite die (8 * w) v) s =
      .next { s with uploaded := true, mem := Memory.write s.mem (2 ^ 34 + die * 2 ^ 23 + 256 * bits sel 0 15 + 8 * w) 8 v.toNat }) ∧
    (bits sel 31 1 = 1 → die = 0 → w < 4 → exec (.uploadWindowWrite die (8 * w) v) s =
      .next { s with mem := Memory.write s.mem (2 ^ 35 + 32 * bits sel 0 8 + 8 * w) 8 v.toNat })) ∧
  (∀ (s : State) (k : Nat) (v : Word), k < 13 → (s.uploaded = false → bits v.toNat 0 (k + 1) = 2 ^ k →
      exec (.hmaskWrite k v) s = .next { s with hmask := mput s.hmask k (BitVec.ofNat 64 (v.toNat % 2 ^ 30)) }) ∧
    (s.uploaded = true ∨ bits (v.toNat % 2 ^ 30) 0 (k + 1) ≠ 2 ^ k → exec (.hmaskWrite k v) s = .next s)) ∧
  (∀ (s : State) (e : Nat) (v : Lane), ((∃ c ∈ s.cores, c.2.power.cur = 0) → exec (.tempTableWrite e v) s = .next { s with winErr := true }) ∧
    ((∀ c ∈ s.cores, c.2.power.cur ≠ 0) → e < 64 → e % 8 < 6 → exec (.tempTableWrite e v) s =
      .next { s with tempPending := s.tempPending ++ [(e, BitVec.ofNat 16 (max 16 (min (v.toNat % 65536) (ceiling (e / 8)))))] }) ∧
    ((∀ c ∈ s.cores, c.2.power.cur ≠ 0) → 64 ≤ e ∨ 6 ≤ e % 8 → exec (.tempTableWrite e v) s = .next s)) ∧
  (∀ (s : State) (v : Word) (k d : Nat), k < 128 → d < 12 →
    exec (.registerWrite (0x1400 + 8 * k) v) s = .next { s with patchWin := mset 0 s.patchWin k v } ∧
    exec (.registerWrite (0x10100 + 0x1000 * d) v) s = .next (s.modDie d fun x => { x with select := BitVec.ofNat 32 v.toNat }) ∧
    exec (.registerWrite (0x20000 + 8 * k) v) s = .next { s with graphTable := mset 0 s.graphTable k (BitVec.ofNat 64 (v.toNat % 2 ^ 40)) } ∧
    exec (.registerWrite (0x30000 + 0x100 * d) v) s =
      .next (s.modDie d fun x => { x with rbcfg := if v.toNat % 65536 = 0 then 1 else BitVec.ofNat 16 v.toNat }) ∧
    exec (.registerWrite (0x50000 + 8 * k) v) s = .next { s with viaduct := mset 0 s.viaduct (8 * k) v } ∧
    exec (.registerWrite (0x42000 + 8 * (k % 13)) v) s = exec (.hmaskWrite (k % 13) v) s ∧
    (v.getLsbD 11 = false → ∀ r i, (r, i) ∈ [(0, Instr.coreReqRun (k % 96)), (1, .coreReqGate (k % 96)), (2, .coreReqOff (k % 96))] → bits v.toNat 0 2 = r →
      exec (.registerWrite (0x41000 + 8 * (k % 96)) v) s = exec i s) ∧
    (v.getLsbD 11 = false → ∀ r i, (r, i) ∈ [(0, Instr.dieReqActive d), (1, .dieReqRetain d), (2, .dieReqOff d)] → bits v.toNat 0 2 = r →
      exec (.registerWrite (0x41400 + 8 * d) v) s = exec i s) ∧
    exec (.registerWrite 0x1000 v) s = exec (.triggerWrite v) s ∧ exec (.registerWrite (0x10000 + 0x1000 * d + 8 * (k % 32)) v) s = exec (.uploadWindowWrite d (8 * (k % 32)) v) s) ∧
  (∀ (s : State) (c : Nat), c < 96 →
    let p := (s.getCore c).power
    let err := { p with req := p.cur, err := true }
    let ok := (s.getDie (c / 8)).power.cur = 0 ∧ (s.getDie (c / 8)).tripped = false
    (¬ok → exec (.coreReqRun c) s = .next (s.modCore c fun k => { k with power := err })) ∧
    (ok → ∃ t, exec (.coreReqRun c) s = .next t ∧ (t.getCore c).power = { p with req := 0 } ∧ (p.cur = 2 → c ∈ t.starting) ∧ t.mem = s.mem) ∧
    (∃ t, exec (.coreReqGate c) s = .next t ∧ (t.getCore c).power = { p with req := 1 } ∧ (p.cur = 2 → c ∈ t.starting) ∧ t.mem = s.mem) ∧
    (∃ t, exec (.coreReqOff c) s = .next t ∧ (t.getCore c).power = { p with req := 2 } ∧ c ∉ t.starting ∧ t.mem = s.mem)) ∧
  (∀ (s : State) (d r : Nat) (i : Instr), d < 12 → (i, r) ∈ [(Instr.dieReqActive d, 0), (.dieReqRetain d, 1), (.dieReqOff d, 2)] →
    exec i s = .next (s.modDie d fun x => { x with power := { x.power with req := r } })) ∧
  (∀ (s : State) (n : Nat),
    let p := (s.getCore n).power
    (p.cur = 0 → p.req = 1 → s.coreIdle n = true → exec (.powerStateChange false n) s = .next (s.modCore n fun k => { k with power := { p with cur := 1 } })) ∧
    (p.cur = 0 → p.req = 2 → s.coreIdle n = true → ∃ t, exec (.powerStateChange false n) s = .next t ∧ (t.getCore n).power.cur = 2 ∧
      (∀ r, ((t.getCore n).row r).st = .released) ∧ ∀ a, (storeBase n ≤ a ∧ a < storeBase n + 2 ^ 26) → t.mem.byte a = 0) ∧
    ((s.getDie n).power = ⟨0, 1, false⟩ → (∀ c, c < 8 → (s.getCore (8 * n + c)).power.cur ≠ 0) →
      exec (.powerStateChange true n) s = .next (s.modDie n fun d => { d with power := ⟨1, 1, false⟩ })) ∧
    (∀ rest, s.starting = n :: rest → s.nextStart ≤ s.clock → (s.getDie (n / 8)).power.cur = 0 →
      ∃ t, exec (.coreStart n) s = .next t ∧ (t.getCore n).power.cur = p.req ∧ (t.getCore n).clkBase = s.clock ∧ n ∉ t.starting ∧
        t.nextStart = s.clock + 5000 ∧ t.mem = s.mem)) ∧
  (∀ (s : State) (n r : Nat), (s.getDie n).power = ⟨2, r, false⟩ → r < 2 → (∀ c, c < 8 → (s.getCore (8 * n + c)).power.cur ≠ 0) →
    ∃ t, exec (.powerStateChange true n) s = .next t ∧ (t.getDie n).power = ⟨r, r, false⟩ ∧ 2 * n ∈ t.hbm.starting ∧ 2 * n + 1 ∈ t.hbm.starting ∧ t.mem = s.mem) ∧
  (∀ (s : State) (k : Nat) (rest : List Nat), s.hbm.starting = k :: rest →
    (s.hbm.nextStack ≤ s.clock → s.stackStep.hbm.starting = rest ∧ s.stackStep.hbm.nextStack = s.clock + 125000) ∧ (s.clock < s.hbm.nextStack → s.stackStep = s)) ∧
  (∀ s : State, ∃ t b, exec .resetDeassert s = .next t ∧ t.clock = s.clock ∧ t.ready = false ∧ t.boot = some b ∧ b.readyAt ≤ s.clock + 250000000 ∧
    (∀ d, d < 12 → (t.getDie d).power = ⟨2, 2, false⟩ ∧ s.clock ≤ b.dies.getD d 0 ∧ b.dies.getD d 0 ≤ s.clock + 2875000 ∧ b.dies.getD d 0 ≤ b.readyAt) ∧
    (∀ c, (t.getCore c).power = ⟨2, 2, false⟩) ∧ t.decks = [] ∧ t.launches = [] ∧ t.log = [] ∧ ∀ a, a < 2 ^ 60 → t.mem.byte a = Memory.byte [] a) ∧
  (∀ (s : State) (b : Boot), s.boot = some b →
    (∀ d, d < 12 → (s.getDie d).power.cur = 2 → b.dies.getD d 0 ≤ s.clock → (s.bootStep.getDie d).power = ⟨0, 0, false⟩) ∧
    (b.readyAt ≤ s.clock → s.bootStep.ready = true ∧ s.bootStep.readyClock = s.clock ∧ s.bootStep.boot = none) ∧
    (s.clock < b.readyAt → s.bootStep.ready = s.ready ∧ s.bootStep.boot = some b)) ∧
  (∀ (s : State) (codes : List Nat), (codes = [] ∨ (∀ d, d < 12 → (s.getDie d).power.cur = 2) → exec (.tapInstruction codes) s = .next { s with tap := codes.take 12 }) ∧
    (codes ≠ [] → (∃ d, d < 12 ∧ (s.getDie d).power.cur ≠ 2) → exec (.tapInstruction codes) s = .next s)) ∧
  (∀ (s : State) (ctx page pa : Nat) (host : Bool), s.atsReq = [(ctx, page)] → s.extWait = [] → ∃ t,
    exec (.atsTranslationCompletion ctx page (some (pa, host, false))) s = .next t ∧ t.atsReq = [] ∧
      (⟨ctx, page, host, pa / 65536 * 65536, false, none⟩ : Trans) ∈ t.trans ∧ t.mem = s.mem) ∧
  (∀ (s : State) (ctx page : Nat), s.atsReq = [(ctx, page)] → s.extWait = [] → s.cores = [] → ∃ t m,
    exec (.atsTranslationCompletion ctx page none) s = .next t ∧ t.pageReq = s.pageReq ++ [(ctx, page, none)] ∧ t.msgs = s.msgs ++ [m] ∧ t.mem = s.mem) ∧
  (∀ (s : State) (ctx page pa : Nat) (host : Bool) (i : Option Nat), s.pageReq = [(ctx, page, i)] → s.extWait = [] → ∃ t,
    exec (.pageRequestResponse ctx page (some (pa, host, false))) s = .next t ∧ t.pageReq = [] ∧
      (⟨ctx, page, host, pa / 65536 * 65536, false, none⟩ : Trans) ∈ t.trans ∧ t.mem = s.mem) ∧
  (∀ (s : State) (ctx base len : Nat), ∃ t v, exec (.atsInvalidateRequest ctx base len) s = .next t ∧ t.invals = s.invals ++ [v] ∧ v.id = s.seq ∧ v.ctx = ctx ∧
    v.base = base ∧ v.len = len ∧ v.at_ = s.clock ∧ t.mem = s.mem ∧ ∀ x ∈ t.trans, x.ctx = ctx → base < (x.page + 1) * 65536 → x.page * 65536 < base + len → x.till.isSome = true) ∧
  (∀ (s : State) (v : Inval), s.invals = [v] →
    (v.waiting = [] → ∃ t m, exec (.invalidationComplete v.id) s = .next t ∧ t.invals = [] ∧ t.msgs = s.msgs ++ [m] ∧ t.mem = s.mem ∧
      ∀ x ∈ t.trans, ¬(x.ctx = v.ctx ∧ v.base < (x.page + 1) * 65536 ∧ x.page * 65536 < v.base + v.len ∧ x.till = some v.at_)) ∧
    (∀ i n, v.waiting = [(i, n)] → v.at_ + (s.getInst i).invalUs * 2500 ≤ s.clock → exec (.invalidationWatchdog v.id) s = .next (s.rollBack i)))

/-! ### Errors, memory stacks, trips (spec 14, spec 23) -/

/-- R333, R432-R452: a machine check logs its error, dooms the instance and reaches its decks, and a replay that has succeeded or a repair is logged only;
the late handler ends its deck; refresh, scrub and repair of the stacks; links; an acknowledgement that is 65,536 clocks late; messages sent again; thermal
trips.
Model's choices: log 71, 97, 98, 99, 100, 104, 123. -/
def Obligations.ErrorsAndTrips : Prop :=
  (∀ (s : State) (kind core deck : Nat) (v : Word), deck < 4 →
    (kind = 0x02 ∧ v.getLsbD 63 = false ∨ kind = 0x03 ∨ kind = 0x05 →
      ((s.getDeck (4 * core + deck)).inst = none →
        ∃ t e, exec (.machineCheck kind core deck v) s = .next t ∧ t.log = s.log ++ [e] ∧ e.kind = kind ∧ e.core = core ∧ e.deck = deck ∧ e.detail = v ∧
          t.logCount = s.logCount + 1 ∧ t.insts = s.insts ∧ t.mem = s.mem) ∧
      (∀ i, (s.getDeck (4 * core + deck)).inst = some i → (s.getInst i).st = .running →
        ∃ t e, exec (.machineCheck kind core deck v) s = .next t ∧ t.log = s.log ++ [e] ∧ e.kind = kind ∧ e.core = core ∧ e.deck = deck ∧ e.detail = v ∧
          t.mem = s.mem ∧ s.Checks t i)) ∧
    (∃ t e, exec (.machineCheck 0x04 core deck v) s = .next t ∧ t.log = s.log ++ [e] ∧ e.kind = 0x04 ∧ e.detail = v ∧ t.insts = s.insts ∧ t.decks = s.decks ∧
      t.mem = s.mem) ∧
    (∀ k, k = 0x0B ∨ k = 0x0C → ∃ t e, exec (.machineCheck k core deck v) s = .next t ∧ t.log = s.log ++ [e] ∧ e.kind = k ∧ e.core = 0x7F ∧ e.detail = v ∧
      t.insts = s.insts ∧ t.decks = s.decks ∧ t.mem = s.mem)) ∧
  (∀ (s : State) (n c : Nat), (s.getDeck n).checkedAt = some c → (s.getDeck n).halted = false → c + 2048 ≤ s.clock →
    ∃ t, exec (.machineCheckHandlerTimeout n) s = .next t ∧ (t.getDeck n).halted = true ∧ t.mem = s.mem ∧ s.OtherDecks t n) ∧
  (∀ (s : State) (st ch pc bank : Nat), (s.getDie (st / 2)).power.cur = 0 → ∃ t, exec (.hbmRefresh st ch pc bank) s = .next t ∧
    mget 0 t.hbm.hold ((st * 32 + ch) * 32 + pc * 16 + bank) = s.clock + 700 ∧ t.mem = s.mem ∧ t.decks = s.decks) ∧
  (∀ (s : State) (st layer deg : Nat),
    let old := mget 0 s.hbm.interval (16 * st + layer)
    ∃ t, exec (.hbmRefreshIntervalChange st layer deg) s = .next t ∧ t.mem = s.mem ∧
      (95 < deg → mget 0 t.hbm.interval (16 * st + layer) = 2) ∧ (deg ≤ 83 → mget 0 t.hbm.interval (16 * st + layer) = 0) ∧
      (85 < deg → deg ≤ 93 → mget 0 t.hbm.interval (16 * st + layer) = 1) ∧
      (83 < deg → deg ≤ 85 → mget 0 t.hbm.interval (16 * st + layer) = if 1 ≤ old then 1 else 0) ∧
      (93 < deg → deg ≤ 95 → mget 0 t.hbm.interval (16 * st + layer) = if old = 2 then 2 else 1)) ∧
  (∀ (s : State) (block : Nat), (∀ g ∈ s.hbm.badGran, g / 8 ≠ block) → s.hbm.lostBlock block = false →
    ((∀ g ∈ s.hbm.weak, s.hbm.reads (512 * block) 512 g = false) → exec (.hbmScrubRead block false []) s = .next s) ∧
    (∀ c, (c = true ∨ ∃ g ∈ s.hbm.weak, s.hbm.reads (512 * block) 512 g = true) →
      ∃ t, exec (.hbmScrubRead block c []) s = .next t ∧ block ∈ t.hbm.scrubs ∧ t.mem = s.mem ∧ ∃ c, s.clock < c ∧ (c, Instr.hbmScrubWriteback block) ∈ t.agenda) ∧
    (∃ t e, exec (.hbmScrubRead block true [0]) s = .next t ∧ t.log = s.log ++ [e] ∧ e.kind = 0x0A ∧ 8 * block ∈ t.hbm.badGran)) ∧
  (∀ (s : State) (block : Nat),
    (block ∉ s.hbm.scrubs → exec (.hbmScrubWriteback block) s = .next s) ∧
    (block ∈ s.hbm.scrubs → s.mustQueue [block - 2 ^ 32] = true → ∃ t, exec (.hbmScrubWriteback block) s = .next t ∧ t.mem = s.mem ∧ t.hbm.weak = s.hbm.weak ∧
      t.hbm.queue = s.hbm.queue ++ [([block - 2 ^ 32], .hbmScrubWriteback block)]) ∧
    (block ∈ s.hbm.scrubs → s.mustQueue [block - 2 ^ 32] = false → ∃ t, exec (.hbmScrubWriteback block) s = .next t ∧ block ∉ t.hbm.scrubs ∧ t.mem = s.mem ∧
      t.decks = s.decks ∧ ∀ g, g ∈ t.hbm.weak ↔ g ∈ s.hbm.weak ∧ s.hbm.reads (512 * block) 512 g = false)) ∧
  (∀ (s : State) (st ch pin : Nat),
    let key := 32 * st + ch
    (s.stackPaused st = false → mget 0 s.hbm.lanesUsed key < Config.redundantLanes →
      ∃ t e stop, exec (.pinRepair st ch pin) s = .next t ∧ t.log = s.log ++ [e] ∧ e.kind = 0x0B ∧ mget 0 t.hbm.lanesUsed key = mget 0 s.hbm.lanesUsed key + 1 ∧
        mget 0 t.hbm.pause key = stop ∧ s.clock < stop ∧ stop ≤ s.clock + 150000 ∧ (stop, Instr.pinRepairEnd st ch) ∈ t.agenda ∧ t.mem = s.mem) ∧
    (s.stackPaused st = false → Config.redundantLanes ≤ mget 0 s.hbm.lanesUsed key → ∃ t e, exec (.pinRepair st ch pin) s = .next t ∧ t.log = s.log ++ [e] ∧
      e.kind = 0x0C ∧ t.hbm = s.hbm ∧ t.mem = s.mem) ∧
    (s.stackPaused st = true → exec (.pinRepair st ch pin) s = .next (s.post (s.clock + 1) (.pinRepair st ch pin))) ∧
    (mget 0 s.hbm.pause key ≤ s.clock → ∃ t, exec (.pinRepairEnd st ch) s = .next t ∧ (∀ c ∈ t.hbm.pause, c.1 ≠ key) ∧ t.mem = s.mem)) ∧
  (∀ (s : State) (link : Nat), link ∉ s.linksDown → ∃ t e, exec (.linkDown link) s = .next t ∧ t.linksDown = s.linksDown ++ [link] ∧ t.log = s.log ++ [e] ∧
    e.kind = 0x0F ∧ e.detail = BitVec.ofNat 64 link ∧ t.mem = s.mem) ∧
  (∀ (s : State) (i dest : Nat),
    (dest ∈ s.lateAcks i → (s.getInst i).st = .running → ∃ t e, exec (.e2eTimeout i dest) s = .next t ∧ t.log = s.log ++ [e] ∧ e.kind = 0x0E ∧
      e.detail = BitVec.ofNat 64 dest ∧ t.mem = s.mem ∧ s.Checks t i) ∧
    (dest ∉ s.lateAcks i → exec (.e2eTimeout i dest) s = .next s) ∧
    (∀ r ∈ s.remotes, (s.getDeck r.deck).inst = some i → r.core = dest → r.issued + 65536 ≤ s.clock → dest ∈ s.lateAcks i) ∧
    (∀ g ∈ s.signals, g.inst = i → g.core = dest → dest < 96 → g.sentAt + 65536 ≤ s.clock → dest ∈ s.lateAcks i)) ∧
  (∀ (s : State) (u : Unacked), s.unacked = [u] →
    (s.awaits u.ev = true → ∃ t d, exec (.messageResend u.seq) s = .next t ∧ s.clock < d ∧ (d, Instr.messageResend u.seq) ∈ t.agenda ∧ t.packets = s.packets ∧
      t.unacked = s.unacked ∧ t.mem = s.mem) ∧
    (s.awaits u.ev = false → ∃ t p d, exec (.messageResend u.seq) s = .next t ∧ t.packets = s.packets ++ [p] ∧ p.ev = u.ev ∧ s.clock < d ∧
      (d, Instr.messageResend u.seq) ∈ t.agenda ∧ t.unacked = s.unacked ∧ t.mem = s.mem)) ∧
  (∀ (s : State) (die deg : Nat), die < 12 → 125 ≤ deg → (∀ c, c < 8 → s.instsOn (8 * die + c) = []) →
    ∃ t e, exec (.thermalTrip die deg) s = .next t ∧ t.log = s.log ++ [e] ∧ e.kind = 0x12 ∧ (t.getDie die).tripped = true ∧
      (t.getDie die).power.cur = 1 ∧ ∀ c, c < 8 → (t.getCore (8 * die + c)).power.cur = 2) ∧
  (∀ (s : State) (die deg : Nat), deg < 115 → ∃ t, exec (.thermalTripClear die deg) s = .next t ∧ (t.getDie die).tripped = false ∧
    (t.getDie die).sensor = deg ∧ t.mem = s.mem) ∧
  (∀ (s : State) (die deg : Nat), 115 ≤ deg → ∃ t, exec (.thermalTripClear die deg) s = .next t ∧ (t.getDie die).tripped = (s.getDie die).tripped)
end

