-- ==== Sys2Proof/Laws/Encoding.lean ====
section
/-! SUPPORT. Every body layout is read back from the word it makes, and the parts of a syllable word are found in it again. -/
namespace Sys2Proof

theorem ofNat_toNat_of_lt {w : Nat} (n : Nat) (b : BitVec w) (h : n = b.toNat) : BitVec.ofNat w n = b := by
  subst h; simp

theorem encXRR_lt (b : XRR) : encXRR b < 2 ^ 33 := by
  have hxd := b.xd.isLt
  have hxa := b.xa.isLt
  have hxb := b.xb.isLt
  have hm := b.m.isLt
  simp only [encXRR]; omega

theorem decXRR_of (b : XRR) (y : Nat) (h : y % 2 ^ 33 = encXRR b) : decXRR y = b := by
  have hxd := b.xd.isLt
  have hxa := b.xa.isLt
  have hxb := b.xb.isLt
  have hm := b.m.isLt
  obtain ⟨xd, xa, xb, m⟩ := b
  simp only [encXRR] at *
  simp only [decXRR, bits]
  congr 1 <;> apply ofNat_toNat_of_lt <;> omega

theorem encVRR_lt (b : VRR) : encVRR b < 2 ^ 33 := by
  have hnd := b.nd.isLt
  have hna := b.na.isLt
  have hnb := b.nb.isLt
  have hqm := b.qm.isLt
  have hm := b.m.isLt
  simp only [encVRR]; omega

theorem decVRR_of (b : VRR) (y : Nat) (h : y % 2 ^ 33 = encVRR b) : decVRR y = b := by
  have hnd := b.nd.isLt
  have hna := b.na.isLt
  have hnb := b.nb.isLt
  have hqm := b.qm.isLt
  have hm := b.m.isLt
  obtain ⟨nd, na, nb, qm, m⟩ := b
  simp only [encVRR] at *
  simp only [decVRR, bits]
  congr 1 <;> apply ofNat_toNat_of_lt <;> omega

theorem encXI_lt (b : XI) : encXI b < 2 ^ 33 := by
  have hxd := b.xd.isLt
  have hxa := b.xa.isLt
  have himm := b.imm.isLt
  simp only [encXI]; omega

theorem decXI_of (b : XI) (y : Nat) (h : y % 2 ^ 33 = encXI b) : decXI y = b := by
  have hxd := b.xd.isLt
  have hxa := b.xa.isLt
  have himm := b.imm.isLt
  obtain ⟨xd, xa, imm⟩ := b
  simp only [encXI] at *
  simp only [decXI, bits]
  congr 1 <;> apply ofNat_toNat_of_lt <;> omega

theorem encXL_lt (b : XL) : encXL b < 2 ^ 33 := by
  have hxd := b.xd.isLt
  have himm := b.imm.isLt
  simp only [encXL]; omega

theorem decXL_of (b : XL) (y : Nat) (h : y % 2 ^ 33 = encXL b) : decXL y = b := by
  have hxd := b.xd.isLt
  have himm := b.imm.isLt
  obtain ⟨xd, imm⟩ := b
  simp only [encXL] at *
  simp only [decXL, bits]
  congr 1 <;> apply ofNat_toNat_of_lt <;> omega

theorem encPCX_lt (b : PCX) : encPCX b < 2 ^ 33 := by
  have hpd := b.pd.isLt
  have hpe := b.pe.isLt
  have hcond := b.cond.isLt
  have hcomb := b.comb.isLt
  have hxa := b.xa.isLt
  have hxb := b.xb.isLt
  have hz := b.z.isLt
  simp only [encPCX]; omega

theorem decPCX_of (b : PCX) (y : Nat) (h : y % 2 ^ 33 = encPCX b) : decPCX y = b := by
  have hpd := b.pd.isLt
  have hpe := b.pe.isLt
  have hcond := b.cond.isLt
  have hcomb := b.comb.isLt
  have hxa := b.xa.isLt
  have hxb := b.xb.isLt
  have hz := b.z.isLt
  obtain ⟨pd, pe, cond, comb, xa, xb, z⟩ := b
  simp only [encPCX] at *
  simp only [decPCX, bits]
  congr 1 <;> apply ofNat_toNat_of_lt <;> omega

theorem encPCI_lt (b : PCI) : encPCI b < 2 ^ 33 := by
  have hpd := b.pd.isLt
  have hpe := b.pe.isLt
  have hcond := b.cond.isLt
  have hcomb := b.comb.isLt
  have hxa := b.xa.isLt
  have himm := b.imm.isLt
  simp only [encPCI]; omega

theorem decPCI_of (b : PCI) (y : Nat) (h : y % 2 ^ 33 = encPCI b) : decPCI y = b := by
  have hpd := b.pd.isLt
  have hpe := b.pe.isLt
  have hcond := b.cond.isLt
  have hcomb := b.comb.isLt
  have hxa := b.xa.isLt
  have himm := b.imm.isLt
  obtain ⟨pd, pe, cond, comb, xa, imm⟩ := b
  simp only [encPCI] at *
  simp only [decPCI, bits]
  congr 1 <;> apply ofNat_toNat_of_lt <;> omega

theorem encPCV_lt (b : PCV) : encPCV b < 2 ^ 33 := by
  have hpd := b.pd.isLt
  have hpe := b.pe.isLt
  have hna := b.na.isLt
  have hnb := b.nb.isLt
  have hcond := b.cond.isLt
  have hcomb := b.comb.isLt
  simp only [encPCV]; omega

theorem decPCV_of (b : PCV) (y : Nat) (h : y % 2 ^ 33 = encPCV b) : decPCV y = b := by
  have hpd := b.pd.isLt
  have hpe := b.pe.isLt
  have hna := b.na.isLt
  have hnb := b.nb.isLt
  have hcond := b.cond.isLt
  have hcomb := b.comb.isLt
  obtain ⟨pd, pe, na, nb, cond, comb⟩ := b
  simp only [encPCV] at *
  simp only [decPCV, bits]
  congr 1 <;> apply ofNat_toNat_of_lt <;> omega

theorem encPCT_lt (b : PCT) : encPCT b < 2 ^ 33 := by
  have hpd := b.pd.isLt
  have htt := b.tt.isLt
  have hpa := b.pa.isLt
  have hpb := b.pb.isLt
  have hpc := b.pc.isLt
  have hz := b.z.isLt
  simp only [encPCT]; omega

theorem decPCT_of (b : PCT) (y : Nat) (h : y % 2 ^ 33 = encPCT b) : decPCT y = b := by
  have hpd := b.pd.isLt
  have htt := b.tt.isLt
  have hpa := b.pa.isLt
  have hpb := b.pb.isLt
  have hpc := b.pc.isLt
  have hz := b.z.isLt
  obtain ⟨pd, tt, pa, pb, pc, z⟩ := b
  simp only [encPCT] at *
  simp only [decPCT, bits]
  congr 1 <;> apply ofNat_toNat_of_lt <;> omega

theorem encBR_lt (b : BR) : encBR b < 2 ^ 33 := by
  have hxd := b.xd.isLt
  have hz := b.z.isLt
  have hoff := b.off.isLt
  simp only [encBR]; omega

theorem decBR_of (b : BR) (y : Nat) (h : y % 2 ^ 33 = encBR b) : decBR y = b := by
  have hxd := b.xd.isLt
  have hz := b.z.isLt
  have hoff := b.off.isLt
  obtain ⟨xd, z, off⟩ := b
  simp only [encBR] at *
  simp only [decBR, bits]
  congr 1 <;> apply ofNat_toNat_of_lt <;> omega

theorem encBRF_lt (b : BRF) : encBRF b < 2 ^ 33 := by
  have hz := b.z.isLt
  have hoffA := b.offA.isLt
  have hoffE := b.offE.isLt
  simp only [encBRF]; omega

theorem decBRF_of (b : BRF) (y : Nat) (h : y % 2 ^ 33 = encBRF b) : decBRF y = b := by
  have hz := b.z.isLt
  have hoffA := b.offA.isLt
  have hoffE := b.offE.isLt
  obtain ⟨z, offA, offE⟩ := b
  simp only [encBRF] at *
  simp only [decBRF, bits]
  congr 1 <;> apply ofNat_toNat_of_lt <;> omega

theorem encLP_lt (b : LP) : encLP b < 2 ^ 33 := by
  have hi := b.i.isLt
  have hstop := b.stop.isLt
  have hlow := b.low.isLt
  simp only [encLP]; omega

theorem decLP_of (b : LP) (y : Nat) (h : y % 2 ^ 33 = encLP b) : decLP y = b := by
  have hi := b.i.isLt
  have hstop := b.stop.isLt
  have hlow := b.low.isLt
  obtain ⟨i, stop, low⟩ := b
  simp only [encLP] at *
  simp only [decLP, bits]
  congr 1 <;> apply ofNat_toNat_of_lt <;> omega

theorem encEC_lt (b : EC) : encEC b < 2 ^ 33 := by
  have heng := b.eng.isLt
  have hxcmd := b.xcmd.isLt
  have hxcount := b.xcount.isLt
  have hz := b.z.isLt
  simp only [encEC]; omega

theorem decEC_of (b : EC) (y : Nat) (h : y % 2 ^ 33 = encEC b) : decEC y = b := by
  have heng := b.eng.isLt
  have hxcmd := b.xcmd.isLt
  have hxcount := b.xcount.isLt
  have hz := b.z.isLt
  obtain ⟨eng, xcmd, xcount, z⟩ := b
  simp only [encEC] at *
  simp only [decEC, bits]
  congr 1 <;> apply ofNat_toNat_of_lt <;> omega

theorem encXFM_lt (b : XFM) : encXFM b < 2 ^ 33 := by
  have hport := b.port.isLt
  have hkind := b.kind.isLt
  have hsrc := b.src.isLt
  have hz := b.z.isLt
  have hcycle := b.cycle.isLt
  simp only [encXFM]; omega

theorem decXFM_of (b : XFM) (y : Nat) (h : y % 2 ^ 33 = encXFM b) : decXFM y = b := by
  have hport := b.port.isLt
  have hkind := b.kind.isLt
  have hsrc := b.src.isLt
  have hz := b.z.isLt
  have hcycle := b.cycle.isLt
  obtain ⟨port, kind, src, z, cycle⟩ := b
  simp only [encXFM] at *
  simp only [decXFM, bits]
  congr 1 <;> apply ofNat_toNat_of_lt <;> omega

theorem encXFS_lt (b : XFS) : encXFS b < 2 ^ 33 := by
  have houtp := b.outp.isLt
  have hinp := b.inp.isLt
  have hz := b.z.isLt
  have hcycle := b.cycle.isLt
  simp only [encXFS]; omega

theorem decXFS_of (b : XFS) (y : Nat) (h : y % 2 ^ 33 = encXFS b) : decXFS y = b := by
  have houtp := b.outp.isLt
  have hinp := b.inp.isLt
  have hz := b.z.isLt
  have hcycle := b.cycle.isLt
  obtain ⟨outp, inp, z, cycle⟩ := b
  simp only [encXFS] at *
  simp only [decXFS, bits]
  congr 1 <;> apply ofNat_toNat_of_lt <;> omega

theorem encXFR_lt (b : XFR) : encXFR b < 2 ^ 33 := by
  have hxa := b.xa.isLt
  have hsrc := b.src.isLt
  have hz := b.z.isLt
  have hcycle := b.cycle.isLt
  simp only [encXFR]; omega

theorem decXFR_of (b : XFR) (y : Nat) (h : y % 2 ^ 33 = encXFR b) : decXFR y = b := by
  have hxa := b.xa.isLt
  have hsrc := b.src.isLt
  have hz := b.z.isLt
  have hcycle := b.cycle.isLt
  obtain ⟨xa, src, z, cycle⟩ := b
  simp only [encXFR] at *
  simp only [decXFR, bits]
  congr 1 <;> apply ofNat_toNat_of_lt <;> omega

theorem encTRS_lt (b : TRS) : encTRS b < 2 ^ 33 := by
  have ht := b.t.isLt
  have htbase := b.tbase.isLt
  have hshape := b.shape.isLt
  have hcopy := b.copy.isLt
  have hqm := b.qm.isLt
  have hz := b.z.isLt
  simp only [encTRS]; omega

theorem decTRS_of (b : TRS) (y : Nat) (h : y % 2 ^ 33 = encTRS b) : decTRS y = b := by
  have ht := b.t.isLt
  have htbase := b.tbase.isLt
  have hshape := b.shape.isLt
  have hcopy := b.copy.isLt
  have hqm := b.qm.isLt
  have hz := b.z.isLt
  obtain ⟨t, tbase, shape, copy, qm, z⟩ := b
  simp only [encTRS] at *
  simp only [decTRS, bits]
  congr 1 <;> apply ofNat_toNat_of_lt <;> omega

theorem encTRL_lt (b : TRL) : encTRL b < 2 ^ 33 := by
  have ht := b.t.isLt
  have hvn := b.vn.isLt
  have hn := b.n.isLt
  have hqm := b.qm.isLt
  have hz := b.z.isLt
  simp only [encTRL]; omega

theorem decTRL_of (b : TRL) (y : Nat) (h : y % 2 ^ 33 = encTRL b) : decTRL y = b := by
  have ht := b.t.isLt
  have hvn := b.vn.isLt
  have hn := b.n.isLt
  have hqm := b.qm.isLt
  have hz := b.z.isLt
  obtain ⟨t, vn, n, qm, z⟩ := b
  simp only [encTRL] at *
  simp only [decTRL, bits]
  congr 1 <;> apply ofNat_toNat_of_lt <;> omega

theorem encTRH_lt (b : TRH) : encTRH b < 2 ^ 33 := by
  have hz := b.z.isLt
  have hshape := b.shape.isLt
  have hz2 := b.z2.isLt
  have hxa := b.xa.isLt
  simp only [encTRH]; omega

theorem decTRH_of (b : TRH) (y : Nat) (h : y % 2 ^ 33 = encTRH b) : decTRH y = b := by
  have hz := b.z.isLt
  have hshape := b.shape.isLt
  have hz2 := b.z2.isLt
  have hxa := b.xa.isLt
  obtain ⟨z, shape, z2, xa⟩ := b
  simp only [encTRH] at *
  simp only [decTRH, bits]
  congr 1 <;> apply ofNat_toNat_of_lt <;> omega

theorem encTRC_lt (b : TRC) : encTRC b < 2 ^ 33 := by
  have hz := b.z.isLt
  have hmode := b.mode.isLt
  have hz2 := b.z2.isLt
  have hxa := b.xa.isLt
  simp only [encTRC]; omega

theorem decTRC_of (b : TRC) (y : Nat) (h : y % 2 ^ 33 = encTRC b) : decTRC y = b := by
  have hz := b.z.isLt
  have hmode := b.mode.isLt
  have hz2 := b.z2.isLt
  have hxa := b.xa.isLt
  obtain ⟨z, mode, z2, xa⟩ := b
  simp only [encTRC] at *
  simp only [decTRC, bits]
  congr 1 <;> apply ofNat_toNat_of_lt <;> omega

theorem encNB_lt (b : NB) : encNB b < 2 ^ 33 := by
  have hz := b.z.isLt
  simp only [encNB]; omega

theorem decNB_of (b : NB) (y : Nat) (h : y % 2 ^ 33 = encNB b) : decNB y = b := by
  have hz := b.z.isLt
  obtain ⟨z⟩ := b
  simp only [encNB] at *
  simp only [decNB, bits]
  congr 1 <;> apply ofNat_toNat_of_lt <;> omega

/-- The word of a syllable. -/
def sylWord (h : Hd) (op body : Nat) : Nat := encHd h + op * 2 ^ 33 + body

theorem sylWord_parts (h : Hd) (op body : Nat) (ho : op < 256) (hb : body < 2 ^ 33) :
    sylWord h op body < 2 ^ 64 ∧ sylWord h op body % 2 ^ 33 = body ∧ bits (sylWord h op body) 33 8 = op ∧
      bits (sylWord h op body) 56 8 = h.tt.toNat ∧ bits (sylWord h op body) 51 5 = h.pa.toNat ∧
      bits (sylWord h op body) 46 5 = h.pb.toNat ∧ bits (sylWord h op body) 41 5 = h.pc.toNat := by
  have h1 := h.tt.isLt
  have h2 := h.pa.isLt
  have h3 := h.pb.isLt
  have h4 := h.pc.isLt
  simp only [sylWord, encHd, bits]
  omega

theorem decHd_sylWord (h : Hd) (op body : Nat) (ho : op < 256) (hb : body < 2 ^ 33) : decHd h.slot (sylWord h op body) = h := by
  obtain ⟨-, -, -, h1, h2, h3, h4⟩ := sylWord_parts h op body ho hb
  simp [decHd, h1, h2, h3, h4]

end Sys2Proof
end

