-- ==== Sys2Proof/Laws/Maps.lean ====
section
/-! SUPPORT. What reading a table or memory gives after a change, and that memory keeps its canonical form. -/
namespace Sys2Proof.Machine

variable {α : Type}

@[simp] theorem mget_nil (d : α) (k : Nat) : mget d [] k = d := rfl

@[simp] theorem mget_mput_same (d : α) (m : Map α) (k : Nat) (v : α) : mget d (mput m k v) k = v := by
  induction m with
  | nil => simp [mput, mget]
  | cons p m ih =>
    obtain ⟨a, x⟩ := p
    simp only [mput]
    split
    · simp [mget]
    · split
      · simp [mget]
      · rename_i h1 h2; simp [mget, h2, ih]

theorem mget_mput_other (d : α) (m : Map α) {k j : Nat} (v : α) (h : k ≠ j) : mget d (mput m k v) j = mget d m j := by
  induction m with
  | nil => simp [mput, mget, h]
  | cons p m ih =>
    obtain ⟨a, x⟩ := p
    simp only [mput]
    split
    · simp [mget, h]
    · split
      · rename_i h1 h2; subst h2; simp [mget, h]
      · simp [mget, ih]

theorem mget_filter (d : α) (m : Map α) (p : Nat × α → Bool) (k : Nat) (h : ∀ v, p (k, v) = true) :
    mget d (m.filter p) k = mget d m k := by
  induction m with
  | nil => rfl
  | cons q m ih =>
    obtain ⟨a, x⟩ := q
    by_cases hk : a = k
    · subst hk; simp [h, mget]
    · by_cases hp : p (a, x) = true
      · simp [hp, mget, hk, ih]
      · simp [hp, mget, hk, ih]

theorem mget_absent (d : α) (m : Map α) (k : Nat) (h : ∀ q ∈ m, q.1 ≠ k) : mget d m k = d := by
  induction m with
  | nil => rfl
  | cons q m ih =>
    obtain ⟨a, x⟩ := q
    have : a ≠ k := h (a, x) (by simp)
    simp [mget, this]
    exact ih fun q hq => h q (by simp [hq])

@[simp] theorem mget_mdel_same (d : α) (m : Map α) (k : Nat) : mget d (mdel m k) k = d := by
  apply mget_absent
  intro q hq
  simp [mdel] at hq
  exact hq.2

theorem mget_mdel_other (d : α) (m : Map α) {k j : Nat} (h : k ≠ j) : mget d (mdel m k) j = mget d m j := by
  apply mget_filter
  intro v
  simp [Ne.symm h]

@[simp] theorem mget_mset_same [DecidableEq α] (d : α) (m : Map α) (k : Nat) (v : α) : mget d (mset d m k v) k = v := by
  unfold mset
  split
  · rename_i h; simp [h]
  · simp

theorem mget_mset_other [DecidableEq α] (d : α) (m : Map α) {k j : Nat} (v : α) (h : k ≠ j) : mget d (mset d m k v) j = mget d m j := by
  unfold mset
  split
  · exact mget_mdel_other d m h
  · exact mget_mput_other d m v h

theorem mget_append_left (d : α) (m n : Map α) (k : Nat) (h : ∀ q ∈ n, q.1 ≠ k) : mget d (m ++ n) k = mget d m k := by
  induction m with
  | nil => simpa using mget_absent d n k h
  | cons q m ih => obtain ⟨a, x⟩ := q; simp [mget, ih]

theorem mget_append_right (d : α) (m n : Map α) (k : Nat) (h : ∀ q ∈ m, q.1 ≠ k) : mget d (m ++ n) k = mget d n k := by
  induction m with
  | nil => rfl
  | cons q m ih =>
    obtain ⟨a, x⟩ := q
    have : a ≠ k := h (a, x) (by simp)
    simp [mget, this]
    exact ih fun q hq => h q (by simp [hq])

/-! ### Memory -/

theorem Memory.cells_range (a n w : Nat) : ∀ q ∈ Memory.cells a n w, a ≤ q.1 ∧ q.1 < a + n := by
  induction n generalizing a w with
  | zero => simp [Memory.cells]
  | succ n ih =>
    intro q hq
    simp only [Memory.cells] at hq
    split at hq
    · have := ih (a + 1) (w / 256) q hq; omega
    · rcases List.mem_cons.1 hq with h | h
      · subst h; simp
      · have := ih (a + 1) (w / 256) q h; omega

theorem Memory.cells_nonzero (a n w : Nat) : ∀ q ∈ Memory.cells a n w, q.2 ≠ 0 := by
  induction n generalizing a w with
  | zero => simp [Memory.cells]
  | succ n ih =>
    intro q hq
    simp only [Memory.cells] at hq
    split at hq
    · exact ih _ _ q hq
    · rename_i hw
      rcases List.mem_cons.1 hq with h | h
      · subst h
        intro h0
        apply hw
        have := congrArg BitVec.toNat h0
        simpa using this
      · exact ih _ _ q h

theorem Memory.cells_sorted (a n w : Nat) : (Memory.cells a n w).Pairwise fun p q => p.1 < q.1 := by
  induction n generalizing a w with
  | zero => simp [Memory.cells]
  | succ n ih =>
    simp only [Memory.cells]
    split
    · exact ih _ _
    · refine List.pairwise_cons.2 ⟨fun q hq => ?_, ih _ _⟩
      have := Memory.cells_range _ _ _ q hq
      simp; omega

/-- A byte outside the bytes written reads as before. -/
theorem Memory.byte_write_other (m : Memory) (a n w b : Nat) (h : b < a ∨ a + n ≤ b) :
    (Memory.write m a n w).byte b = m.byte b := by
  unfold Memory.write Memory.byte
  rw [List.append_assoc]
  rcases h with h | h
  · rw [mget_append_left]
    · exact mget_filter 0 m _ b (by intro v; simpa using h)
    · intro q hq
      rcases List.mem_append.1 hq with h1 | h1
      · have := Memory.cells_range a n w q h1; omega
      · simp at h1; omega
  · rw [mget_append_right, mget_append_right]
    · exact mget_filter 0 m _ b (by intro v; simpa using h)
    · intro q hq; have := Memory.cells_range a n w q hq; omega
    · intro q hq; simp at hq; omega

theorem Memory.byte_cells (a n w k : Nat) (h : k < n) : mget 0 (Memory.cells a n w) (a + k) = BitVec.ofNat 8 (w / 256 ^ k) := by
  induction n generalizing a w k with
  | zero => omega
  | succ n ih =>
    simp only [Memory.cells]
    cases k with
    | zero =>
      split
      · rename_i hw
        rw [mget_absent]
        · apply BitVec.eq_of_toNat_eq; simp [hw]
        · intro q hq; have := Memory.cells_range _ _ _ q hq; omega
      · simp [mget]
    | succ k =>
      have e : a + (k + 1) = a + 1 + k := by omega
      have e2 : w / 256 ^ (k + 1) = w / 256 / 256 ^ k := by rw [Nat.div_div_eq_div_mul, Nat.pow_succ, Nat.mul_comm]
      have := ih (a + 1) (w / 256) k (by omega)
      split
      · rw [e, e2, this]
      · have hne : ¬ a = a + 1 + k := by omega
        rw [e, e2]; simp only [mget, hne, if_false]; exact this

/-- A byte written reads as its byte of the word, least significant first (R2). -/
theorem Memory.byte_write_same (m : Memory) (a n w k : Nat) (h : k < n) :
    (Memory.write m a n w).byte (a + k) = BitVec.ofNat 8 (w / 256 ^ k) := by
  unfold Memory.write Memory.byte
  rw [mget_append_left, mget_append_right]
  · exact Memory.byte_cells a n w k h
  · intro q hq; simp at hq; omega
  · intro q hq; simp at hq; omega

theorem Memory.wf_iff (m : Memory) : m.wf = true ↔ (m.Pairwise fun p q => p.1 < q.1) ∧ ∀ c ∈ m, c.2 ≠ 0 := by
  simp [Memory.wf, List.all_eq_true]

theorem Memory.wf_nil : Memory.wf [] = true := by decide

/-- Dropping cells keeps the canonical form. -/
theorem Memory.wf_filter {m : Memory} (h : m.wf = true) (p : Host.Cell → Bool) : Memory.wf (m.filter p) = true := by
  rw [Memory.wf_iff] at *
  refine ⟨h.1.filter p, fun c hc => h.2 c (List.mem_filter.1 hc).1⟩

/-- A write keeps the canonical form. -/
theorem Memory.wf_write {m : Memory} (h : m.wf = true) (a n w : Nat) : (Memory.write m a n w).wf = true := by
  rw [Memory.wf_iff] at *
  obtain ⟨hs, hz⟩ := h
  unfold Memory.write
  constructor
  · rw [List.append_assoc, List.pairwise_append]
    refine ⟨hs.filter _, ?_, ?_⟩
    · rw [List.pairwise_append]
      refine ⟨Memory.cells_sorted a n w, hs.filter _, ?_⟩
      intro p hp q hq
      have := Memory.cells_range a n w p hp
      simp at hq; omega
    · intro p hp q hq
      simp at hp
      rcases List.mem_append.1 hq with h1 | h1
      · have := Memory.cells_range a n w q h1; omega
      · simp at h1; omega
  · intro c hc
    simp only [List.mem_append] at hc
    rcases hc with (h1 | h1) | h1
    · exact hz c (List.mem_filter.1 h1).1
    · exact Memory.cells_nonzero a n w c h1
    · exact hz c (List.mem_filter.1 h1).1

theorem Memory.read_append (m n : Memory) (a k : Nat) : Memory.read (m ++ n) a k = Memory.read m a k + Memory.read n a k := by
  induction m with
  | nil => simp [Memory.read]
  | cons c m ih => simp [Memory.read, ih, Nat.add_assoc]

theorem Memory.read_outside (m : Memory) (a k : Nat) (h : ∀ c ∈ m, c.1 < a ∨ a + k ≤ c.1) : Memory.read m a k = 0 := by
  induction m with
  | nil => rfl
  | cons c m ih =>
    have hc := h c (by simp)
    have : ¬ (a ≤ c.1 ∧ c.1 < a + k) := by omega
    simp [Memory.read, this]
    exact ih fun q hq => h q (by simp [hq])

theorem Memory.read_cells (a n w j : Nat) : Memory.read (Memory.cells (a + j) n w) a (j + n) = w % 256 ^ n * 256 ^ j := by
  induction n generalizing j w with
  | zero => simp [Memory.cells, Memory.read, Nat.mod_one]
  | succ n ih =>
    have ih' := ih (w / 256) (j + 1)
    have e1 : a + (j + 1) = a + j + 1 := by omega
    have e2 : j + 1 + n = j + (n + 1) := by omega
    rw [e1, e2] at ih'
    have key : w % 256 ^ (n + 1) = w % 256 + 256 * (w / 256 % 256 ^ n) := by
      rw [Nat.pow_succ, Nat.mul_comm (256 ^ n) 256, Nat.mod_mul]
    have fin : w / 256 % 256 ^ n * 256 ^ (j + 1) = 256 * (w / 256 % 256 ^ n) * 256 ^ j := by
      rw [Nat.pow_succ]; ac_rfl
    simp only [Memory.cells]
    split
    · rename_i hw
      rw [ih', key, fin, hw]; simp
    · have : a ≤ a + j ∧ a + j < a + (j + (n + 1)) := by omega
      simp only [Memory.read, this, and_self, if_true]
      rw [ih', key, fin, Nat.add_mul]
      congr 1
      simp [Nat.add_sub_cancel_left]

/-- The bytes just written read as the word's low bytes. -/
theorem Memory.read_write_same (m : Memory) (a n w : Nat) : Memory.read (Memory.write m a n w) a n = w % 256 ^ n := by
  unfold Memory.write
  rw [Memory.read_append, Memory.read_append, Memory.read_outside _ a n, Memory.read_outside (m.filter fun c => decide (a + n ≤ c.1)) a n]
  · simpa using Memory.read_cells a n w 0
  · intro c hc; simp at hc; omega
  · intro c hc; simp at hc; omega

theorem Memory.read_filter (m : Memory) (a k : Nat) (p : Host.Cell → Bool) (h : ∀ c ∈ m, a ≤ c.1 → c.1 < a + k → p c = true) :
    Memory.read (m.filter p) a k = Memory.read m a k := by
  induction m with
  | nil => rfl
  | cons c m ih =>
    have ih' := ih fun q hq => h q (by simp [hq])
    by_cases hp : p c = true
    · simp [hp, Memory.read, ih']
    · have : ¬ (a ≤ c.1 ∧ c.1 < a + k) := fun hc => hp (h c (by simp) hc.1 hc.2)
      simp [hp, Memory.read, this, ih']

/-- Bytes that do not meet those written read as before. -/
theorem Memory.read_write_other (m : Memory) (a n w b k : Nat) (h : b + k ≤ a ∨ a + n ≤ b) :
    Memory.read (Memory.write m a n w) b k = Memory.read m b k := by
  unfold Memory.write
  rw [Memory.read_append, Memory.read_append, Memory.read_outside (Memory.cells a n w) b k]
  · rcases h with h | h
    · rw [Memory.read_filter m b k, Memory.read_outside (m.filter fun c => decide (a + n ≤ c.1)) b k]
      · simp
      · intro c hc; simp at hc; omega
      · intro c _ h1 h2; simp; omega
    · rw [Memory.read_outside _ b k, Memory.read_filter m b k]
      · simp
      · intro c _ h1 h2; simp; omega
      · intro c hc; simp at hc; omega
  · intro c hc; have := Memory.cells_range a n w c hc; omega

end Sys2Proof.Machine
end

