-- ==== Sys2Proof/Laws/State.lean ====
section
/-! SUPPORT. What each update of the state does to each of its fields, and what the readers of decks, cores, dies and instances give after it. -/
namespace Sys2Proof.Machine

@[simp] theorem State.modDeck_eq (s : State) (n : Nat) (f : Deck → Deck) : s.modDeck n f = s.setDeck n (f (s.getDeck n)) := rfl
@[simp] theorem State.modCore_eq (s : State) (n : Nat) (f : Core → Core) : s.modCore n f = s.setCore n (f (s.getCore n)) := rfl
@[simp] theorem State.modDie_eq (s : State) (n : Nat) (f : Die → Die) : s.modDie n f = s.setDie n (f (s.getDie n)) := rfl
@[simp] theorem State.modInst_eq (s : State) (n : Nat) (f : Inst → Inst) : s.modInst n f = s.setInst n (f (s.getInst n)) := rfl
@[simp] theorem State.setDk_eq (s : State) (d : Deck) : s.setDk d = s.setDeck s.issue.deck d := rfl
@[simp] theorem State.modDk_eq (s : State) (f : Deck → Deck) : s.modDk f = s.setDeck s.issue.deck (f s.dk) := rfl
@[simp] theorem State.modCk_eq (s : State) (f : Core → Core) : s.modCk f = s.setCore s.cn (f s.ck) := rfl

/-! ### setDeck -/

@[simp] theorem State.setDeck_clock (s : State) (n : Nat) (d : Deck) : (s.setDeck n d).clock = s.clock := rfl
@[simp] theorem State.setDeck_phase (s : State) (n : Nat) (d : Deck) : (s.setDeck n d).phase = s.phase := rfl
@[simp] theorem State.setDeck_issue (s : State) (n : Nat) (d : Deck) : (s.setDeck n d).issue = s.issue := rfl
@[simp] theorem State.setDeck_agenda (s : State) (n : Nat) (d : Deck) : (s.setDeck n d).agenda = s.agenda := rfl
@[simp] theorem State.setDeck_micro (s : State) (n : Nat) (d : Deck) : (s.setDeck n d).micro = s.micro := rfl
@[simp] theorem State.setDeck_seq (s : State) (n : Nat) (d : Deck) : (s.setDeck n d).seq = s.seq := rfl
@[simp] theorem State.setDeck_free (s : State) (n : Nat) (d : Deck) : (s.setDeck n d).free = s.free := rfl
@[simp] theorem State.setDeck_mem (s : State) (n : Nat) (d : Deck) : (s.setDeck n d).mem = s.mem := rfl
@[simp] theorem State.setDeck_decks (s : State) (n : Nat) (d : Deck) : (s.setDeck n d).decks = mput s.decks n d := rfl
@[simp] theorem State.setDeck_cores (s : State) (n : Nat) (d : Deck) : (s.setDeck n d).cores = s.cores := rfl
@[simp] theorem State.setDeck_dies (s : State) (n : Nat) (d : Deck) : (s.setDeck n d).dies = s.dies := rfl
@[simp] theorem State.setDeck_insts (s : State) (n : Nat) (d : Deck) : (s.setDeck n d).insts = s.insts := rfl
@[simp] theorem State.setDeck_nextInst (s : State) (n : Nat) (d : Deck) : (s.setDeck n d).nextInst = s.nextInst := rfl
@[simp] theorem State.setDeck_nextSet (s : State) (n : Nat) (d : Deck) : (s.setDeck n d).nextSet = s.nextSet := rfl
@[simp] theorem State.setDeck_trans (s : State) (n : Nat) (d : Deck) : (s.setDeck n d).trans = s.trans := rfl
@[simp] theorem State.setDeck_remap (s : State) (n : Nat) (d : Deck) : (s.setDeck n d).remap = s.remap := rfl
@[simp] theorem State.setDeck_extWait (s : State) (n : Nat) (d : Deck) : (s.setDeck n d).extWait = s.extWait := rfl
@[simp] theorem State.setDeck_shadows (s : State) (n : Nat) (d : Deck) : (s.setDeck n d).shadows = s.shadows := rfl
@[simp] theorem State.setDeck_atsReq (s : State) (n : Nat) (d : Deck) : (s.setDeck n d).atsReq = s.atsReq := rfl
@[simp] theorem State.setDeck_pageReq (s : State) (n : Nat) (d : Deck) : (s.setDeck n d).pageReq = s.pageReq := rfl
@[simp] theorem State.setDeck_invals (s : State) (n : Nat) (d : Deck) : (s.setDeck n d).invals = s.invals := rfl
@[simp] theorem State.setDeck_shares (s : State) (n : Nat) (d : Deck) : (s.setDeck n d).shares = s.shares := rfl
@[simp] theorem State.setDeck_nextShare (s : State) (n : Nat) (d : Deck) : (s.setDeck n d).nextShare = s.nextShare := rfl
@[simp] theorem State.setDeck_pools (s : State) (n : Nat) (d : Deck) : (s.setDeck n d).pools = s.pools := rfl
@[simp] theorem State.setDeck_images (s : State) (n : Nat) (d : Deck) : (s.setDeck n d).images = s.images := rfl
@[simp] theorem State.setDeck_cancels (s : State) (n : Nat) (d : Deck) : (s.setDeck n d).cancels = s.cancels := rfl
@[simp] theorem State.setDeck_hostWrites (s : State) (n : Nat) (d : Deck) : (s.setDeck n d).hostWrites = s.hostWrites := rfl
@[simp] theorem State.setDeck_launches (s : State) (n : Nat) (d : Deck) : (s.setDeck n d).launches = s.launches := rfl
@[simp] theorem State.setDeck_launchQ (s : State) (n : Nat) (d : Deck) : (s.setDeck n d).launchQ = s.launchQ := rfl
@[simp] theorem State.setDeck_ignored (s : State) (n : Nat) (d : Deck) : (s.setDeck n d).ignored = s.ignored := rfl
@[simp] theorem State.setDeck_uploaded (s : State) (n : Nat) (d : Deck) : (s.setDeck n d).uploaded = s.uploaded := rfl
@[simp] theorem State.setDeck_graphTable (s : State) (n : Nat) (d : Deck) : (s.setDeck n d).graphTable = s.graphTable := rfl
@[simp] theorem State.setDeck_patchWin (s : State) (n : Nat) (d : Deck) : (s.setDeck n d).patchWin = s.patchWin := rfl
@[simp] theorem State.setDeck_tempTable (s : State) (n : Nat) (d : Deck) : (s.setDeck n d).tempTable = s.tempTable := rfl
@[simp] theorem State.setDeck_tempPending (s : State) (n : Nat) (d : Deck) : (s.setDeck n d).tempPending = s.tempPending := rfl
@[simp] theorem State.setDeck_hmask (s : State) (n : Nat) (d : Deck) : (s.setDeck n d).hmask = s.hmask := rfl
@[simp] theorem State.setDeck_ready (s : State) (n : Nat) (d : Deck) : (s.setDeck n d).ready = s.ready := rfl
@[simp] theorem State.setDeck_winErr (s : State) (n : Nat) (d : Deck) : (s.setDeck n d).winErr = s.winErr := rfl
@[simp] theorem State.setDeck_log (s : State) (n : Nat) (d : Deck) : (s.setDeck n d).log = s.log := rfl
@[simp] theorem State.setDeck_logCount (s : State) (n : Nat) (d : Deck) : (s.setDeck n d).logCount = s.logCount := rfl
@[simp] theorem State.setDeck_corrected (s : State) (n : Nat) (d : Deck) : (s.setDeck n d).corrected = s.corrected := rfl
@[simp] theorem State.setDeck_viaduct (s : State) (n : Nat) (d : Deck) : (s.setDeck n d).viaduct = s.viaduct := rfl
@[simp] theorem State.setDeck_partials (s : State) (n : Nat) (d : Deck) : (s.setDeck n d).partials = s.partials := rfl
@[simp] theorem State.setDeck_peers (s : State) (n : Nat) (d : Deck) : (s.setDeck n d).peers = s.peers := rfl
@[simp] theorem State.setDeck_packets (s : State) (n : Nat) (d : Deck) : (s.setDeck n d).packets = s.packets := rfl
@[simp] theorem State.setDeck_inbound (s : State) (n : Nat) (d : Deck) : (s.setDeck n d).inbound = s.inbound := rfl
@[simp] theorem State.setDeck_remotes (s : State) (n : Nat) (d : Deck) : (s.setDeck n d).remotes = s.remotes := rfl
@[simp] theorem State.setDeck_flits (s : State) (n : Nat) (d : Deck) : (s.setDeck n d).flits = s.flits := rfl
@[simp] theorem State.setDeck_xrows (s : State) (n : Nat) (d : Deck) : (s.setDeck n d).xrows = s.xrows := rfl
@[simp] theorem State.setDeck_lineErrors (s : State) (n : Nat) (d : Deck) : (s.setDeck n d).lineErrors = s.lineErrors := rfl
@[simp] theorem State.setDeck_hbm (s : State) (n : Nat) (d : Deck) : (s.setDeck n d).hbm = s.hbm := rfl
@[simp] theorem State.setDeck_linksDown (s : State) (n : Nat) (d : Deck) : (s.setDeck n d).linksDown = s.linksDown := rfl
@[simp] theorem State.setDeck_unacked (s : State) (n : Nat) (d : Deck) : (s.setDeck n d).unacked = s.unacked := rfl
@[simp] theorem State.setDeck_answered (s : State) (n : Nat) (d : Deck) : (s.setDeck n d).answered = s.answered := rfl
@[simp] theorem State.setDeck_signals (s : State) (n : Nat) (d : Deck) : (s.setDeck n d).signals = s.signals := rfl
@[simp] theorem State.setDeck_flying (s : State) (n : Nat) (d : Deck) : (s.setDeck n d).flying = s.flying := rfl
@[simp] theorem State.setDeck_msgs (s : State) (n : Nat) (d : Deck) : (s.setDeck n d).msgs = s.msgs := rfl
@[simp] theorem State.setDeck_starting (s : State) (n : Nat) (d : Deck) : (s.setDeck n d).starting = s.starting := rfl
@[simp] theorem State.setDeck_nextStart (s : State) (n : Nat) (d : Deck) : (s.setDeck n d).nextStart = s.nextStart := rfl
@[simp] theorem State.setDeck_tap (s : State) (n : Nat) (d : Deck) : (s.setDeck n d).tap = s.tap := rfl
@[simp] theorem State.setDeck_boot (s : State) (n : Nat) (d : Deck) : (s.setDeck n d).boot = s.boot := rfl
@[simp] theorem State.setDeck_readyClock (s : State) (n : Nat) (d : Deck) : (s.setDeck n d).readyClock = s.readyClock := rfl

/-! ### setCore -/

@[simp] theorem State.setCore_clock (s : State) (n : Nat) (c : Core) : (s.setCore n c).clock = s.clock := rfl
@[simp] theorem State.setCore_phase (s : State) (n : Nat) (c : Core) : (s.setCore n c).phase = s.phase := rfl
@[simp] theorem State.setCore_issue (s : State) (n : Nat) (c : Core) : (s.setCore n c).issue = s.issue := rfl
@[simp] theorem State.setCore_agenda (s : State) (n : Nat) (c : Core) : (s.setCore n c).agenda = s.agenda := rfl
@[simp] theorem State.setCore_micro (s : State) (n : Nat) (c : Core) : (s.setCore n c).micro = s.micro := rfl
@[simp] theorem State.setCore_seq (s : State) (n : Nat) (c : Core) : (s.setCore n c).seq = s.seq := rfl
@[simp] theorem State.setCore_free (s : State) (n : Nat) (c : Core) : (s.setCore n c).free = s.free := rfl
@[simp] theorem State.setCore_mem (s : State) (n : Nat) (c : Core) : (s.setCore n c).mem = s.mem := rfl
@[simp] theorem State.setCore_decks (s : State) (n : Nat) (c : Core) : (s.setCore n c).decks = s.decks := rfl
@[simp] theorem State.setCore_cores (s : State) (n : Nat) (c : Core) : (s.setCore n c).cores = mput s.cores n c := rfl
@[simp] theorem State.setCore_dies (s : State) (n : Nat) (c : Core) : (s.setCore n c).dies = s.dies := rfl
@[simp] theorem State.setCore_insts (s : State) (n : Nat) (c : Core) : (s.setCore n c).insts = s.insts := rfl
@[simp] theorem State.setCore_nextInst (s : State) (n : Nat) (c : Core) : (s.setCore n c).nextInst = s.nextInst := rfl
@[simp] theorem State.setCore_nextSet (s : State) (n : Nat) (c : Core) : (s.setCore n c).nextSet = s.nextSet := rfl
@[simp] theorem State.setCore_trans (s : State) (n : Nat) (c : Core) : (s.setCore n c).trans = s.trans := rfl
@[simp] theorem State.setCore_remap (s : State) (n : Nat) (c : Core) : (s.setCore n c).remap = s.remap := rfl
@[simp] theorem State.setCore_extWait (s : State) (n : Nat) (c : Core) : (s.setCore n c).extWait = s.extWait := rfl
@[simp] theorem State.setCore_shadows (s : State) (n : Nat) (c : Core) : (s.setCore n c).shadows = s.shadows := rfl
@[simp] theorem State.setCore_atsReq (s : State) (n : Nat) (c : Core) : (s.setCore n c).atsReq = s.atsReq := rfl
@[simp] theorem State.setCore_pageReq (s : State) (n : Nat) (c : Core) : (s.setCore n c).pageReq = s.pageReq := rfl
@[simp] theorem State.setCore_invals (s : State) (n : Nat) (c : Core) : (s.setCore n c).invals = s.invals := rfl
@[simp] theorem State.setCore_shares (s : State) (n : Nat) (c : Core) : (s.setCore n c).shares = s.shares := rfl
@[simp] theorem State.setCore_nextShare (s : State) (n : Nat) (c : Core) : (s.setCore n c).nextShare = s.nextShare := rfl
@[simp] theorem State.setCore_pools (s : State) (n : Nat) (c : Core) : (s.setCore n c).pools = s.pools := rfl
@[simp] theorem State.setCore_images (s : State) (n : Nat) (c : Core) : (s.setCore n c).images = s.images := rfl
@[simp] theorem State.setCore_cancels (s : State) (n : Nat) (c : Core) : (s.setCore n c).cancels = s.cancels := rfl
@[simp] theorem State.setCore_hostWrites (s : State) (n : Nat) (c : Core) : (s.setCore n c).hostWrites = s.hostWrites := rfl
@[simp] theorem State.setCore_launches (s : State) (n : Nat) (c : Core) : (s.setCore n c).launches = s.launches := rfl
@[simp] theorem State.setCore_launchQ (s : State) (n : Nat) (c : Core) : (s.setCore n c).launchQ = s.launchQ := rfl
@[simp] theorem State.setCore_ignored (s : State) (n : Nat) (c : Core) : (s.setCore n c).ignored = s.ignored := rfl
@[simp] theorem State.setCore_uploaded (s : State) (n : Nat) (c : Core) : (s.setCore n c).uploaded = s.uploaded := rfl
@[simp] theorem State.setCore_graphTable (s : State) (n : Nat) (c : Core) : (s.setCore n c).graphTable = s.graphTable := rfl
@[simp] theorem State.setCore_patchWin (s : State) (n : Nat) (c : Core) : (s.setCore n c).patchWin = s.patchWin := rfl
@[simp] theorem State.setCore_tempTable (s : State) (n : Nat) (c : Core) : (s.setCore n c).tempTable = s.tempTable := rfl
@[simp] theorem State.setCore_tempPending (s : State) (n : Nat) (c : Core) : (s.setCore n c).tempPending = s.tempPending := rfl
@[simp] theorem State.setCore_hmask (s : State) (n : Nat) (c : Core) : (s.setCore n c).hmask = s.hmask := rfl
@[simp] theorem State.setCore_ready (s : State) (n : Nat) (c : Core) : (s.setCore n c).ready = s.ready := rfl
@[simp] theorem State.setCore_winErr (s : State) (n : Nat) (c : Core) : (s.setCore n c).winErr = s.winErr := rfl
@[simp] theorem State.setCore_log (s : State) (n : Nat) (c : Core) : (s.setCore n c).log = s.log := rfl
@[simp] theorem State.setCore_logCount (s : State) (n : Nat) (c : Core) : (s.setCore n c).logCount = s.logCount := rfl
@[simp] theorem State.setCore_corrected (s : State) (n : Nat) (c : Core) : (s.setCore n c).corrected = s.corrected := rfl
@[simp] theorem State.setCore_viaduct (s : State) (n : Nat) (c : Core) : (s.setCore n c).viaduct = s.viaduct := rfl
@[simp] theorem State.setCore_partials (s : State) (n : Nat) (c : Core) : (s.setCore n c).partials = s.partials := rfl
@[simp] theorem State.setCore_peers (s : State) (n : Nat) (c : Core) : (s.setCore n c).peers = s.peers := rfl
@[simp] theorem State.setCore_packets (s : State) (n : Nat) (c : Core) : (s.setCore n c).packets = s.packets := rfl
@[simp] theorem State.setCore_inbound (s : State) (n : Nat) (c : Core) : (s.setCore n c).inbound = s.inbound := rfl
@[simp] theorem State.setCore_remotes (s : State) (n : Nat) (c : Core) : (s.setCore n c).remotes = s.remotes := rfl
@[simp] theorem State.setCore_flits (s : State) (n : Nat) (c : Core) : (s.setCore n c).flits = s.flits := rfl
@[simp] theorem State.setCore_xrows (s : State) (n : Nat) (c : Core) : (s.setCore n c).xrows = s.xrows := rfl
@[simp] theorem State.setCore_lineErrors (s : State) (n : Nat) (c : Core) : (s.setCore n c).lineErrors = s.lineErrors := rfl
@[simp] theorem State.setCore_hbm (s : State) (n : Nat) (c : Core) : (s.setCore n c).hbm = s.hbm := rfl
@[simp] theorem State.setCore_linksDown (s : State) (n : Nat) (c : Core) : (s.setCore n c).linksDown = s.linksDown := rfl
@[simp] theorem State.setCore_unacked (s : State) (n : Nat) (c : Core) : (s.setCore n c).unacked = s.unacked := rfl
@[simp] theorem State.setCore_answered (s : State) (n : Nat) (c : Core) : (s.setCore n c).answered = s.answered := rfl
@[simp] theorem State.setCore_signals (s : State) (n : Nat) (c : Core) : (s.setCore n c).signals = s.signals := rfl
@[simp] theorem State.setCore_flying (s : State) (n : Nat) (c : Core) : (s.setCore n c).flying = s.flying := rfl
@[simp] theorem State.setCore_msgs (s : State) (n : Nat) (c : Core) : (s.setCore n c).msgs = s.msgs := rfl
@[simp] theorem State.setCore_starting (s : State) (n : Nat) (c : Core) : (s.setCore n c).starting = s.starting := rfl
@[simp] theorem State.setCore_nextStart (s : State) (n : Nat) (c : Core) : (s.setCore n c).nextStart = s.nextStart := rfl
@[simp] theorem State.setCore_tap (s : State) (n : Nat) (c : Core) : (s.setCore n c).tap = s.tap := rfl
@[simp] theorem State.setCore_boot (s : State) (n : Nat) (c : Core) : (s.setCore n c).boot = s.boot := rfl
@[simp] theorem State.setCore_readyClock (s : State) (n : Nat) (c : Core) : (s.setCore n c).readyClock = s.readyClock := rfl

/-! ### setDie -/

@[simp] theorem State.setDie_clock (s : State) (n : Nat) (d : Die) : (s.setDie n d).clock = s.clock := rfl
@[simp] theorem State.setDie_phase (s : State) (n : Nat) (d : Die) : (s.setDie n d).phase = s.phase := rfl
@[simp] theorem State.setDie_issue (s : State) (n : Nat) (d : Die) : (s.setDie n d).issue = s.issue := rfl
@[simp] theorem State.setDie_agenda (s : State) (n : Nat) (d : Die) : (s.setDie n d).agenda = s.agenda := rfl
@[simp] theorem State.setDie_micro (s : State) (n : Nat) (d : Die) : (s.setDie n d).micro = s.micro := rfl
@[simp] theorem State.setDie_seq (s : State) (n : Nat) (d : Die) : (s.setDie n d).seq = s.seq := rfl
@[simp] theorem State.setDie_free (s : State) (n : Nat) (d : Die) : (s.setDie n d).free = s.free := rfl
@[simp] theorem State.setDie_mem (s : State) (n : Nat) (d : Die) : (s.setDie n d).mem = s.mem := rfl
@[simp] theorem State.setDie_decks (s : State) (n : Nat) (d : Die) : (s.setDie n d).decks = s.decks := rfl
@[simp] theorem State.setDie_cores (s : State) (n : Nat) (d : Die) : (s.setDie n d).cores = s.cores := rfl
@[simp] theorem State.setDie_dies (s : State) (n : Nat) (d : Die) : (s.setDie n d).dies = mput s.dies n d := rfl
@[simp] theorem State.setDie_insts (s : State) (n : Nat) (d : Die) : (s.setDie n d).insts = s.insts := rfl
@[simp] theorem State.setDie_nextInst (s : State) (n : Nat) (d : Die) : (s.setDie n d).nextInst = s.nextInst := rfl
@[simp] theorem State.setDie_nextSet (s : State) (n : Nat) (d : Die) : (s.setDie n d).nextSet = s.nextSet := rfl
@[simp] theorem State.setDie_trans (s : State) (n : Nat) (d : Die) : (s.setDie n d).trans = s.trans := rfl
@[simp] theorem State.setDie_remap (s : State) (n : Nat) (d : Die) : (s.setDie n d).remap = s.remap := rfl
@[simp] theorem State.setDie_extWait (s : State) (n : Nat) (d : Die) : (s.setDie n d).extWait = s.extWait := rfl
@[simp] theorem State.setDie_shadows (s : State) (n : Nat) (d : Die) : (s.setDie n d).shadows = s.shadows := rfl
@[simp] theorem State.setDie_atsReq (s : State) (n : Nat) (d : Die) : (s.setDie n d).atsReq = s.atsReq := rfl
@[simp] theorem State.setDie_pageReq (s : State) (n : Nat) (d : Die) : (s.setDie n d).pageReq = s.pageReq := rfl
@[simp] theorem State.setDie_invals (s : State) (n : Nat) (d : Die) : (s.setDie n d).invals = s.invals := rfl
@[simp] theorem State.setDie_shares (s : State) (n : Nat) (d : Die) : (s.setDie n d).shares = s.shares := rfl
@[simp] theorem State.setDie_nextShare (s : State) (n : Nat) (d : Die) : (s.setDie n d).nextShare = s.nextShare := rfl
@[simp] theorem State.setDie_pools (s : State) (n : Nat) (d : Die) : (s.setDie n d).pools = s.pools := rfl
@[simp] theorem State.setDie_images (s : State) (n : Nat) (d : Die) : (s.setDie n d).images = s.images := rfl
@[simp] theorem State.setDie_cancels (s : State) (n : Nat) (d : Die) : (s.setDie n d).cancels = s.cancels := rfl
@[simp] theorem State.setDie_hostWrites (s : State) (n : Nat) (d : Die) : (s.setDie n d).hostWrites = s.hostWrites := rfl
@[simp] theorem State.setDie_launches (s : State) (n : Nat) (d : Die) : (s.setDie n d).launches = s.launches := rfl
@[simp] theorem State.setDie_launchQ (s : State) (n : Nat) (d : Die) : (s.setDie n d).launchQ = s.launchQ := rfl
@[simp] theorem State.setDie_ignored (s : State) (n : Nat) (d : Die) : (s.setDie n d).ignored = s.ignored := rfl
@[simp] theorem State.setDie_uploaded (s : State) (n : Nat) (d : Die) : (s.setDie n d).uploaded = s.uploaded := rfl
@[simp] theorem State.setDie_graphTable (s : State) (n : Nat) (d : Die) : (s.setDie n d).graphTable = s.graphTable := rfl
@[simp] theorem State.setDie_patchWin (s : State) (n : Nat) (d : Die) : (s.setDie n d).patchWin = s.patchWin := rfl
@[simp] theorem State.setDie_tempTable (s : State) (n : Nat) (d : Die) : (s.setDie n d).tempTable = s.tempTable := rfl
@[simp] theorem State.setDie_tempPending (s : State) (n : Nat) (d : Die) : (s.setDie n d).tempPending = s.tempPending := rfl
@[simp] theorem State.setDie_hmask (s : State) (n : Nat) (d : Die) : (s.setDie n d).hmask = s.hmask := rfl
@[simp] theorem State.setDie_ready (s : State) (n : Nat) (d : Die) : (s.setDie n d).ready = s.ready := rfl
@[simp] theorem State.setDie_winErr (s : State) (n : Nat) (d : Die) : (s.setDie n d).winErr = s.winErr := rfl
@[simp] theorem State.setDie_log (s : State) (n : Nat) (d : Die) : (s.setDie n d).log = s.log := rfl
@[simp] theorem State.setDie_logCount (s : State) (n : Nat) (d : Die) : (s.setDie n d).logCount = s.logCount := rfl
@[simp] theorem State.setDie_corrected (s : State) (n : Nat) (d : Die) : (s.setDie n d).corrected = s.corrected := rfl
@[simp] theorem State.setDie_viaduct (s : State) (n : Nat) (d : Die) : (s.setDie n d).viaduct = s.viaduct := rfl
@[simp] theorem State.setDie_partials (s : State) (n : Nat) (d : Die) : (s.setDie n d).partials = s.partials := rfl
@[simp] theorem State.setDie_peers (s : State) (n : Nat) (d : Die) : (s.setDie n d).peers = s.peers := rfl
@[simp] theorem State.setDie_packets (s : State) (n : Nat) (d : Die) : (s.setDie n d).packets = s.packets := rfl
@[simp] theorem State.setDie_inbound (s : State) (n : Nat) (d : Die) : (s.setDie n d).inbound = s.inbound := rfl
@[simp] theorem State.setDie_remotes (s : State) (n : Nat) (d : Die) : (s.setDie n d).remotes = s.remotes := rfl
@[simp] theorem State.setDie_flits (s : State) (n : Nat) (d : Die) : (s.setDie n d).flits = s.flits := rfl
@[simp] theorem State.setDie_xrows (s : State) (n : Nat) (d : Die) : (s.setDie n d).xrows = s.xrows := rfl
@[simp] theorem State.setDie_lineErrors (s : State) (n : Nat) (d : Die) : (s.setDie n d).lineErrors = s.lineErrors := rfl
@[simp] theorem State.setDie_hbm (s : State) (n : Nat) (d : Die) : (s.setDie n d).hbm = s.hbm := rfl
@[simp] theorem State.setDie_linksDown (s : State) (n : Nat) (d : Die) : (s.setDie n d).linksDown = s.linksDown := rfl
@[simp] theorem State.setDie_unacked (s : State) (n : Nat) (d : Die) : (s.setDie n d).unacked = s.unacked := rfl
@[simp] theorem State.setDie_answered (s : State) (n : Nat) (d : Die) : (s.setDie n d).answered = s.answered := rfl
@[simp] theorem State.setDie_signals (s : State) (n : Nat) (d : Die) : (s.setDie n d).signals = s.signals := rfl
@[simp] theorem State.setDie_flying (s : State) (n : Nat) (d : Die) : (s.setDie n d).flying = s.flying := rfl
@[simp] theorem State.setDie_msgs (s : State) (n : Nat) (d : Die) : (s.setDie n d).msgs = s.msgs := rfl
@[simp] theorem State.setDie_starting (s : State) (n : Nat) (d : Die) : (s.setDie n d).starting = s.starting := rfl
@[simp] theorem State.setDie_nextStart (s : State) (n : Nat) (d : Die) : (s.setDie n d).nextStart = s.nextStart := rfl
@[simp] theorem State.setDie_tap (s : State) (n : Nat) (d : Die) : (s.setDie n d).tap = s.tap := rfl
@[simp] theorem State.setDie_boot (s : State) (n : Nat) (d : Die) : (s.setDie n d).boot = s.boot := rfl
@[simp] theorem State.setDie_readyClock (s : State) (n : Nat) (d : Die) : (s.setDie n d).readyClock = s.readyClock := rfl

/-! ### setInst -/

@[simp] theorem State.setInst_clock (s : State) (n : Nat) (i : Inst) : (s.setInst n i).clock = s.clock := rfl
@[simp] theorem State.setInst_phase (s : State) (n : Nat) (i : Inst) : (s.setInst n i).phase = s.phase := rfl
@[simp] theorem State.setInst_issue (s : State) (n : Nat) (i : Inst) : (s.setInst n i).issue = s.issue := rfl
@[simp] theorem State.setInst_agenda (s : State) (n : Nat) (i : Inst) : (s.setInst n i).agenda = s.agenda := rfl
@[simp] theorem State.setInst_micro (s : State) (n : Nat) (i : Inst) : (s.setInst n i).micro = s.micro := rfl
@[simp] theorem State.setInst_seq (s : State) (n : Nat) (i : Inst) : (s.setInst n i).seq = s.seq := rfl
@[simp] theorem State.setInst_free (s : State) (n : Nat) (i : Inst) : (s.setInst n i).free = s.free := rfl
@[simp] theorem State.setInst_mem (s : State) (n : Nat) (i : Inst) : (s.setInst n i).mem = s.mem := rfl
@[simp] theorem State.setInst_decks (s : State) (n : Nat) (i : Inst) : (s.setInst n i).decks = s.decks := rfl
@[simp] theorem State.setInst_cores (s : State) (n : Nat) (i : Inst) : (s.setInst n i).cores = s.cores := rfl
@[simp] theorem State.setInst_dies (s : State) (n : Nat) (i : Inst) : (s.setInst n i).dies = s.dies := rfl
@[simp] theorem State.setInst_insts (s : State) (n : Nat) (i : Inst) : (s.setInst n i).insts = mput s.insts n i := rfl
@[simp] theorem State.setInst_nextInst (s : State) (n : Nat) (i : Inst) : (s.setInst n i).nextInst = s.nextInst := rfl
@[simp] theorem State.setInst_nextSet (s : State) (n : Nat) (i : Inst) : (s.setInst n i).nextSet = s.nextSet := rfl
@[simp] theorem State.setInst_trans (s : State) (n : Nat) (i : Inst) : (s.setInst n i).trans = s.trans := rfl
@[simp] theorem State.setInst_remap (s : State) (n : Nat) (i : Inst) : (s.setInst n i).remap = s.remap := rfl
@[simp] theorem State.setInst_extWait (s : State) (n : Nat) (i : Inst) : (s.setInst n i).extWait = s.extWait := rfl
@[simp] theorem State.setInst_shadows (s : State) (n : Nat) (i : Inst) : (s.setInst n i).shadows = s.shadows := rfl
@[simp] theorem State.setInst_atsReq (s : State) (n : Nat) (i : Inst) : (s.setInst n i).atsReq = s.atsReq := rfl
@[simp] theorem State.setInst_pageReq (s : State) (n : Nat) (i : Inst) : (s.setInst n i).pageReq = s.pageReq := rfl
@[simp] theorem State.setInst_invals (s : State) (n : Nat) (i : Inst) : (s.setInst n i).invals = s.invals := rfl
@[simp] theorem State.setInst_shares (s : State) (n : Nat) (i : Inst) : (s.setInst n i).shares = s.shares := rfl
@[simp] theorem State.setInst_nextShare (s : State) (n : Nat) (i : Inst) : (s.setInst n i).nextShare = s.nextShare := rfl
@[simp] theorem State.setInst_pools (s : State) (n : Nat) (i : Inst) : (s.setInst n i).pools = s.pools := rfl
@[simp] theorem State.setInst_images (s : State) (n : Nat) (i : Inst) : (s.setInst n i).images = s.images := rfl
@[simp] theorem State.setInst_cancels (s : State) (n : Nat) (i : Inst) : (s.setInst n i).cancels = s.cancels := rfl
@[simp] theorem State.setInst_hostWrites (s : State) (n : Nat) (i : Inst) : (s.setInst n i).hostWrites = s.hostWrites := rfl
@[simp] theorem State.setInst_launches (s : State) (n : Nat) (i : Inst) : (s.setInst n i).launches = s.launches := rfl
@[simp] theorem State.setInst_launchQ (s : State) (n : Nat) (i : Inst) : (s.setInst n i).launchQ = s.launchQ := rfl
@[simp] theorem State.setInst_ignored (s : State) (n : Nat) (i : Inst) : (s.setInst n i).ignored = s.ignored := rfl
@[simp] theorem State.setInst_uploaded (s : State) (n : Nat) (i : Inst) : (s.setInst n i).uploaded = s.uploaded := rfl
@[simp] theorem State.setInst_graphTable (s : State) (n : Nat) (i : Inst) : (s.setInst n i).graphTable = s.graphTable := rfl
@[simp] theorem State.setInst_patchWin (s : State) (n : Nat) (i : Inst) : (s.setInst n i).patchWin = s.patchWin := rfl
@[simp] theorem State.setInst_tempTable (s : State) (n : Nat) (i : Inst) : (s.setInst n i).tempTable = s.tempTable := rfl
@[simp] theorem State.setInst_tempPending (s : State) (n : Nat) (i : Inst) : (s.setInst n i).tempPending = s.tempPending := rfl
@[simp] theorem State.setInst_hmask (s : State) (n : Nat) (i : Inst) : (s.setInst n i).hmask = s.hmask := rfl
@[simp] theorem State.setInst_ready (s : State) (n : Nat) (i : Inst) : (s.setInst n i).ready = s.ready := rfl
@[simp] theorem State.setInst_winErr (s : State) (n : Nat) (i : Inst) : (s.setInst n i).winErr = s.winErr := rfl
@[simp] theorem State.setInst_log (s : State) (n : Nat) (i : Inst) : (s.setInst n i).log = s.log := rfl
@[simp] theorem State.setInst_logCount (s : State) (n : Nat) (i : Inst) : (s.setInst n i).logCount = s.logCount := rfl
@[simp] theorem State.setInst_corrected (s : State) (n : Nat) (i : Inst) : (s.setInst n i).corrected = s.corrected := rfl
@[simp] theorem State.setInst_viaduct (s : State) (n : Nat) (i : Inst) : (s.setInst n i).viaduct = s.viaduct := rfl
@[simp] theorem State.setInst_partials (s : State) (n : Nat) (i : Inst) : (s.setInst n i).partials = s.partials := rfl
@[simp] theorem State.setInst_peers (s : State) (n : Nat) (i : Inst) : (s.setInst n i).peers = s.peers := rfl
@[simp] theorem State.setInst_packets (s : State) (n : Nat) (i : Inst) : (s.setInst n i).packets = s.packets := rfl
@[simp] theorem State.setInst_inbound (s : State) (n : Nat) (i : Inst) : (s.setInst n i).inbound = s.inbound := rfl
@[simp] theorem State.setInst_remotes (s : State) (n : Nat) (i : Inst) : (s.setInst n i).remotes = s.remotes := rfl
@[simp] theorem State.setInst_flits (s : State) (n : Nat) (i : Inst) : (s.setInst n i).flits = s.flits := rfl
@[simp] theorem State.setInst_xrows (s : State) (n : Nat) (i : Inst) : (s.setInst n i).xrows = s.xrows := rfl
@[simp] theorem State.setInst_lineErrors (s : State) (n : Nat) (i : Inst) : (s.setInst n i).lineErrors = s.lineErrors := rfl
@[simp] theorem State.setInst_hbm (s : State) (n : Nat) (i : Inst) : (s.setInst n i).hbm = s.hbm := rfl
@[simp] theorem State.setInst_linksDown (s : State) (n : Nat) (i : Inst) : (s.setInst n i).linksDown = s.linksDown := rfl
@[simp] theorem State.setInst_unacked (s : State) (n : Nat) (i : Inst) : (s.setInst n i).unacked = s.unacked := rfl
@[simp] theorem State.setInst_answered (s : State) (n : Nat) (i : Inst) : (s.setInst n i).answered = s.answered := rfl
@[simp] theorem State.setInst_signals (s : State) (n : Nat) (i : Inst) : (s.setInst n i).signals = s.signals := rfl
@[simp] theorem State.setInst_flying (s : State) (n : Nat) (i : Inst) : (s.setInst n i).flying = s.flying := rfl
@[simp] theorem State.setInst_msgs (s : State) (n : Nat) (i : Inst) : (s.setInst n i).msgs = s.msgs := rfl
@[simp] theorem State.setInst_starting (s : State) (n : Nat) (i : Inst) : (s.setInst n i).starting = s.starting := rfl
@[simp] theorem State.setInst_nextStart (s : State) (n : Nat) (i : Inst) : (s.setInst n i).nextStart = s.nextStart := rfl
@[simp] theorem State.setInst_tap (s : State) (n : Nat) (i : Inst) : (s.setInst n i).tap = s.tap := rfl
@[simp] theorem State.setInst_boot (s : State) (n : Nat) (i : Inst) : (s.setInst n i).boot = s.boot := rfl
@[simp] theorem State.setInst_readyClock (s : State) (n : Nat) (i : Inst) : (s.setInst n i).readyClock = s.readyClock := rfl

/-! ### modIssue -/

@[simp] theorem State.modIssue_clock (s : State) (f : Issue → Issue) : (s.modIssue f).clock = s.clock := rfl
@[simp] theorem State.modIssue_phase (s : State) (f : Issue → Issue) : (s.modIssue f).phase = s.phase := rfl
@[simp] theorem State.modIssue_issue (s : State) (f : Issue → Issue) : (s.modIssue f).issue = f s.issue := rfl
@[simp] theorem State.modIssue_agenda (s : State) (f : Issue → Issue) : (s.modIssue f).agenda = s.agenda := rfl
@[simp] theorem State.modIssue_micro (s : State) (f : Issue → Issue) : (s.modIssue f).micro = s.micro := rfl
@[simp] theorem State.modIssue_seq (s : State) (f : Issue → Issue) : (s.modIssue f).seq = s.seq := rfl
@[simp] theorem State.modIssue_free (s : State) (f : Issue → Issue) : (s.modIssue f).free = s.free := rfl
@[simp] theorem State.modIssue_mem (s : State) (f : Issue → Issue) : (s.modIssue f).mem = s.mem := rfl
@[simp] theorem State.modIssue_decks (s : State) (f : Issue → Issue) : (s.modIssue f).decks = s.decks := rfl
@[simp] theorem State.modIssue_cores (s : State) (f : Issue → Issue) : (s.modIssue f).cores = s.cores := rfl
@[simp] theorem State.modIssue_dies (s : State) (f : Issue → Issue) : (s.modIssue f).dies = s.dies := rfl
@[simp] theorem State.modIssue_insts (s : State) (f : Issue → Issue) : (s.modIssue f).insts = s.insts := rfl
@[simp] theorem State.modIssue_nextInst (s : State) (f : Issue → Issue) : (s.modIssue f).nextInst = s.nextInst := rfl
@[simp] theorem State.modIssue_nextSet (s : State) (f : Issue → Issue) : (s.modIssue f).nextSet = s.nextSet := rfl
@[simp] theorem State.modIssue_trans (s : State) (f : Issue → Issue) : (s.modIssue f).trans = s.trans := rfl
@[simp] theorem State.modIssue_remap (s : State) (f : Issue → Issue) : (s.modIssue f).remap = s.remap := rfl
@[simp] theorem State.modIssue_extWait (s : State) (f : Issue → Issue) : (s.modIssue f).extWait = s.extWait := rfl
@[simp] theorem State.modIssue_shadows (s : State) (f : Issue → Issue) : (s.modIssue f).shadows = s.shadows := rfl
@[simp] theorem State.modIssue_atsReq (s : State) (f : Issue → Issue) : (s.modIssue f).atsReq = s.atsReq := rfl
@[simp] theorem State.modIssue_pageReq (s : State) (f : Issue → Issue) : (s.modIssue f).pageReq = s.pageReq := rfl
@[simp] theorem State.modIssue_invals (s : State) (f : Issue → Issue) : (s.modIssue f).invals = s.invals := rfl
@[simp] theorem State.modIssue_shares (s : State) (f : Issue → Issue) : (s.modIssue f).shares = s.shares := rfl
@[simp] theorem State.modIssue_nextShare (s : State) (f : Issue → Issue) : (s.modIssue f).nextShare = s.nextShare := rfl
@[simp] theorem State.modIssue_pools (s : State) (f : Issue → Issue) : (s.modIssue f).pools = s.pools := rfl
@[simp] theorem State.modIssue_images (s : State) (f : Issue → Issue) : (s.modIssue f).images = s.images := rfl
@[simp] theorem State.modIssue_cancels (s : State) (f : Issue → Issue) : (s.modIssue f).cancels = s.cancels := rfl
@[simp] theorem State.modIssue_hostWrites (s : State) (f : Issue → Issue) : (s.modIssue f).hostWrites = s.hostWrites := rfl
@[simp] theorem State.modIssue_launches (s : State) (f : Issue → Issue) : (s.modIssue f).launches = s.launches := rfl
@[simp] theorem State.modIssue_launchQ (s : State) (f : Issue → Issue) : (s.modIssue f).launchQ = s.launchQ := rfl
@[simp] theorem State.modIssue_ignored (s : State) (f : Issue → Issue) : (s.modIssue f).ignored = s.ignored := rfl
@[simp] theorem State.modIssue_uploaded (s : State) (f : Issue → Issue) : (s.modIssue f).uploaded = s.uploaded := rfl
@[simp] theorem State.modIssue_graphTable (s : State) (f : Issue → Issue) : (s.modIssue f).graphTable = s.graphTable := rfl
@[simp] theorem State.modIssue_patchWin (s : State) (f : Issue → Issue) : (s.modIssue f).patchWin = s.patchWin := rfl
@[simp] theorem State.modIssue_tempTable (s : State) (f : Issue → Issue) : (s.modIssue f).tempTable = s.tempTable := rfl
@[simp] theorem State.modIssue_tempPending (s : State) (f : Issue → Issue) : (s.modIssue f).tempPending = s.tempPending := rfl
@[simp] theorem State.modIssue_hmask (s : State) (f : Issue → Issue) : (s.modIssue f).hmask = s.hmask := rfl
@[simp] theorem State.modIssue_ready (s : State) (f : Issue → Issue) : (s.modIssue f).ready = s.ready := rfl
@[simp] theorem State.modIssue_winErr (s : State) (f : Issue → Issue) : (s.modIssue f).winErr = s.winErr := rfl
@[simp] theorem State.modIssue_log (s : State) (f : Issue → Issue) : (s.modIssue f).log = s.log := rfl
@[simp] theorem State.modIssue_logCount (s : State) (f : Issue → Issue) : (s.modIssue f).logCount = s.logCount := rfl
@[simp] theorem State.modIssue_corrected (s : State) (f : Issue → Issue) : (s.modIssue f).corrected = s.corrected := rfl
@[simp] theorem State.modIssue_viaduct (s : State) (f : Issue → Issue) : (s.modIssue f).viaduct = s.viaduct := rfl
@[simp] theorem State.modIssue_partials (s : State) (f : Issue → Issue) : (s.modIssue f).partials = s.partials := rfl
@[simp] theorem State.modIssue_peers (s : State) (f : Issue → Issue) : (s.modIssue f).peers = s.peers := rfl
@[simp] theorem State.modIssue_packets (s : State) (f : Issue → Issue) : (s.modIssue f).packets = s.packets := rfl
@[simp] theorem State.modIssue_inbound (s : State) (f : Issue → Issue) : (s.modIssue f).inbound = s.inbound := rfl
@[simp] theorem State.modIssue_remotes (s : State) (f : Issue → Issue) : (s.modIssue f).remotes = s.remotes := rfl
@[simp] theorem State.modIssue_flits (s : State) (f : Issue → Issue) : (s.modIssue f).flits = s.flits := rfl
@[simp] theorem State.modIssue_xrows (s : State) (f : Issue → Issue) : (s.modIssue f).xrows = s.xrows := rfl
@[simp] theorem State.modIssue_lineErrors (s : State) (f : Issue → Issue) : (s.modIssue f).lineErrors = s.lineErrors := rfl
@[simp] theorem State.modIssue_hbm (s : State) (f : Issue → Issue) : (s.modIssue f).hbm = s.hbm := rfl
@[simp] theorem State.modIssue_linksDown (s : State) (f : Issue → Issue) : (s.modIssue f).linksDown = s.linksDown := rfl
@[simp] theorem State.modIssue_unacked (s : State) (f : Issue → Issue) : (s.modIssue f).unacked = s.unacked := rfl
@[simp] theorem State.modIssue_answered (s : State) (f : Issue → Issue) : (s.modIssue f).answered = s.answered := rfl
@[simp] theorem State.modIssue_signals (s : State) (f : Issue → Issue) : (s.modIssue f).signals = s.signals := rfl
@[simp] theorem State.modIssue_flying (s : State) (f : Issue → Issue) : (s.modIssue f).flying = s.flying := rfl
@[simp] theorem State.modIssue_msgs (s : State) (f : Issue → Issue) : (s.modIssue f).msgs = s.msgs := rfl
@[simp] theorem State.modIssue_starting (s : State) (f : Issue → Issue) : (s.modIssue f).starting = s.starting := rfl
@[simp] theorem State.modIssue_nextStart (s : State) (f : Issue → Issue) : (s.modIssue f).nextStart = s.nextStart := rfl
@[simp] theorem State.modIssue_tap (s : State) (f : Issue → Issue) : (s.modIssue f).tap = s.tap := rfl
@[simp] theorem State.modIssue_boot (s : State) (f : Issue → Issue) : (s.modIssue f).boot = s.boot := rfl
@[simp] theorem State.modIssue_readyClock (s : State) (f : Issue → Issue) : (s.modIssue f).readyClock = s.readyClock := rfl

/-! ### post -/

@[simp] theorem State.post_clock (s : State) (t : Nat) (i : Instr) : (s.post t i).clock = s.clock := rfl
@[simp] theorem State.post_phase (s : State) (t : Nat) (i : Instr) : (s.post t i).phase = s.phase := rfl
@[simp] theorem State.post_issue (s : State) (t : Nat) (i : Instr) : (s.post t i).issue = s.issue := rfl
@[simp] theorem State.post_agenda (s : State) (t : Nat) (i : Instr) : (s.post t i).agenda = insertEvent t i s.agenda := rfl
@[simp] theorem State.post_micro (s : State) (t : Nat) (i : Instr) : (s.post t i).micro = s.micro := rfl
@[simp] theorem State.post_seq (s : State) (t : Nat) (i : Instr) : (s.post t i).seq = s.seq := rfl
@[simp] theorem State.post_free (s : State) (t : Nat) (i : Instr) : (s.post t i).free = s.free := rfl
@[simp] theorem State.post_mem (s : State) (t : Nat) (i : Instr) : (s.post t i).mem = s.mem := rfl
@[simp] theorem State.post_decks (s : State) (t : Nat) (i : Instr) : (s.post t i).decks = s.decks := rfl
@[simp] theorem State.post_cores (s : State) (t : Nat) (i : Instr) : (s.post t i).cores = s.cores := rfl
@[simp] theorem State.post_dies (s : State) (t : Nat) (i : Instr) : (s.post t i).dies = s.dies := rfl
@[simp] theorem State.post_insts (s : State) (t : Nat) (i : Instr) : (s.post t i).insts = s.insts := rfl
@[simp] theorem State.post_nextInst (s : State) (t : Nat) (i : Instr) : (s.post t i).nextInst = s.nextInst := rfl
@[simp] theorem State.post_nextSet (s : State) (t : Nat) (i : Instr) : (s.post t i).nextSet = s.nextSet := rfl
@[simp] theorem State.post_trans (s : State) (t : Nat) (i : Instr) : (s.post t i).trans = s.trans := rfl
@[simp] theorem State.post_remap (s : State) (t : Nat) (i : Instr) : (s.post t i).remap = s.remap := rfl
@[simp] theorem State.post_extWait (s : State) (t : Nat) (i : Instr) : (s.post t i).extWait = s.extWait := rfl
@[simp] theorem State.post_shadows (s : State) (t : Nat) (i : Instr) : (s.post t i).shadows = s.shadows := rfl
@[simp] theorem State.post_atsReq (s : State) (t : Nat) (i : Instr) : (s.post t i).atsReq = s.atsReq := rfl
@[simp] theorem State.post_pageReq (s : State) (t : Nat) (i : Instr) : (s.post t i).pageReq = s.pageReq := rfl
@[simp] theorem State.post_invals (s : State) (t : Nat) (i : Instr) : (s.post t i).invals = s.invals := rfl
@[simp] theorem State.post_shares (s : State) (t : Nat) (i : Instr) : (s.post t i).shares = s.shares := rfl
@[simp] theorem State.post_nextShare (s : State) (t : Nat) (i : Instr) : (s.post t i).nextShare = s.nextShare := rfl
@[simp] theorem State.post_pools (s : State) (t : Nat) (i : Instr) : (s.post t i).pools = s.pools := rfl
@[simp] theorem State.post_images (s : State) (t : Nat) (i : Instr) : (s.post t i).images = s.images := rfl
@[simp] theorem State.post_cancels (s : State) (t : Nat) (i : Instr) : (s.post t i).cancels = s.cancels := rfl
@[simp] theorem State.post_hostWrites (s : State) (t : Nat) (i : Instr) : (s.post t i).hostWrites = s.hostWrites := rfl
@[simp] theorem State.post_launches (s : State) (t : Nat) (i : Instr) : (s.post t i).launches = s.launches := rfl
@[simp] theorem State.post_launchQ (s : State) (t : Nat) (i : Instr) : (s.post t i).launchQ = s.launchQ := rfl
@[simp] theorem State.post_ignored (s : State) (t : Nat) (i : Instr) : (s.post t i).ignored = s.ignored := rfl
@[simp] theorem State.post_uploaded (s : State) (t : Nat) (i : Instr) : (s.post t i).uploaded = s.uploaded := rfl
@[simp] theorem State.post_graphTable (s : State) (t : Nat) (i : Instr) : (s.post t i).graphTable = s.graphTable := rfl
@[simp] theorem State.post_patchWin (s : State) (t : Nat) (i : Instr) : (s.post t i).patchWin = s.patchWin := rfl
@[simp] theorem State.post_tempTable (s : State) (t : Nat) (i : Instr) : (s.post t i).tempTable = s.tempTable := rfl
@[simp] theorem State.post_tempPending (s : State) (t : Nat) (i : Instr) : (s.post t i).tempPending = s.tempPending := rfl
@[simp] theorem State.post_hmask (s : State) (t : Nat) (i : Instr) : (s.post t i).hmask = s.hmask := rfl
@[simp] theorem State.post_ready (s : State) (t : Nat) (i : Instr) : (s.post t i).ready = s.ready := rfl
@[simp] theorem State.post_winErr (s : State) (t : Nat) (i : Instr) : (s.post t i).winErr = s.winErr := rfl
@[simp] theorem State.post_log (s : State) (t : Nat) (i : Instr) : (s.post t i).log = s.log := rfl
@[simp] theorem State.post_logCount (s : State) (t : Nat) (i : Instr) : (s.post t i).logCount = s.logCount := rfl
@[simp] theorem State.post_corrected (s : State) (t : Nat) (i : Instr) : (s.post t i).corrected = s.corrected := rfl
@[simp] theorem State.post_viaduct (s : State) (t : Nat) (i : Instr) : (s.post t i).viaduct = s.viaduct := rfl
@[simp] theorem State.post_partials (s : State) (t : Nat) (i : Instr) : (s.post t i).partials = s.partials := rfl
@[simp] theorem State.post_peers (s : State) (t : Nat) (i : Instr) : (s.post t i).peers = s.peers := rfl
@[simp] theorem State.post_packets (s : State) (t : Nat) (i : Instr) : (s.post t i).packets = s.packets := rfl
@[simp] theorem State.post_inbound (s : State) (t : Nat) (i : Instr) : (s.post t i).inbound = s.inbound := rfl
@[simp] theorem State.post_remotes (s : State) (t : Nat) (i : Instr) : (s.post t i).remotes = s.remotes := rfl
@[simp] theorem State.post_flits (s : State) (t : Nat) (i : Instr) : (s.post t i).flits = s.flits := rfl
@[simp] theorem State.post_xrows (s : State) (t : Nat) (i : Instr) : (s.post t i).xrows = s.xrows := rfl
@[simp] theorem State.post_lineErrors (s : State) (t : Nat) (i : Instr) : (s.post t i).lineErrors = s.lineErrors := rfl
@[simp] theorem State.post_hbm (s : State) (t : Nat) (i : Instr) : (s.post t i).hbm = s.hbm := rfl
@[simp] theorem State.post_linksDown (s : State) (t : Nat) (i : Instr) : (s.post t i).linksDown = s.linksDown := rfl
@[simp] theorem State.post_unacked (s : State) (t : Nat) (i : Instr) : (s.post t i).unacked = s.unacked := rfl
@[simp] theorem State.post_answered (s : State) (t : Nat) (i : Instr) : (s.post t i).answered = s.answered := rfl
@[simp] theorem State.post_signals (s : State) (t : Nat) (i : Instr) : (s.post t i).signals = s.signals := rfl
@[simp] theorem State.post_flying (s : State) (t : Nat) (i : Instr) : (s.post t i).flying = s.flying := rfl
@[simp] theorem State.post_msgs (s : State) (t : Nat) (i : Instr) : (s.post t i).msgs = s.msgs := rfl
@[simp] theorem State.post_starting (s : State) (t : Nat) (i : Instr) : (s.post t i).starting = s.starting := rfl
@[simp] theorem State.post_nextStart (s : State) (t : Nat) (i : Instr) : (s.post t i).nextStart = s.nextStart := rfl
@[simp] theorem State.post_tap (s : State) (t : Nat) (i : Instr) : (s.post t i).tap = s.tap := rfl
@[simp] theorem State.post_boot (s : State) (t : Nat) (i : Instr) : (s.post t i).boot = s.boot := rfl
@[simp] theorem State.post_readyClock (s : State) (t : Nat) (i : Instr) : (s.post t i).readyClock = s.readyClock := rfl

/-! ### access -/

@[simp] theorem State.access_clock (s : State) (t c k : Nat) (x : Bool) (p : Nat) (a : Act) : (s.access t c k x p a).clock = s.clock := rfl
@[simp] theorem State.access_phase (s : State) (t c k : Nat) (x : Bool) (p : Nat) (a : Act) : (s.access t c k x p a).phase = s.phase := rfl
@[simp] theorem State.access_issue (s : State) (t c k : Nat) (x : Bool) (p : Nat) (a : Act) : (s.access t c k x p a).issue = s.issue := rfl
@[simp] theorem State.access_agenda (s : State) (t c k : Nat) (x : Bool) (p : Nat) (a : Act) : (s.access t c k x p a).agenda = s.agenda := rfl
@[simp] theorem State.access_micro (s : State) (t c k : Nat) (x : Bool) (p : Nat) (a : Act) : (s.access t c k x p a).micro = s.micro ++ [⟨t, c, k, x, p, s.seq, a⟩] := rfl
@[simp] theorem State.access_seq (s : State) (t c k : Nat) (x : Bool) (p : Nat) (a : Act) : (s.access t c k x p a).seq = s.seq + 1 := rfl
@[simp] theorem State.access_free (s : State) (t c k : Nat) (x : Bool) (p : Nat) (a : Act) : (s.access t c k x p a).free = s.free := rfl
@[simp] theorem State.access_mem (s : State) (t c k : Nat) (x : Bool) (p : Nat) (a : Act) : (s.access t c k x p a).mem = s.mem := rfl
@[simp] theorem State.access_decks (s : State) (t c k : Nat) (x : Bool) (p : Nat) (a : Act) : (s.access t c k x p a).decks = s.decks := rfl
@[simp] theorem State.access_cores (s : State) (t c k : Nat) (x : Bool) (p : Nat) (a : Act) : (s.access t c k x p a).cores = s.cores := rfl
@[simp] theorem State.access_dies (s : State) (t c k : Nat) (x : Bool) (p : Nat) (a : Act) : (s.access t c k x p a).dies = s.dies := rfl
@[simp] theorem State.access_insts (s : State) (t c k : Nat) (x : Bool) (p : Nat) (a : Act) : (s.access t c k x p a).insts = s.insts := rfl
@[simp] theorem State.access_nextInst (s : State) (t c k : Nat) (x : Bool) (p : Nat) (a : Act) : (s.access t c k x p a).nextInst = s.nextInst := rfl
@[simp] theorem State.access_nextSet (s : State) (t c k : Nat) (x : Bool) (p : Nat) (a : Act) : (s.access t c k x p a).nextSet = s.nextSet := rfl
@[simp] theorem State.access_trans (s : State) (t c k : Nat) (x : Bool) (p : Nat) (a : Act) : (s.access t c k x p a).trans = s.trans := rfl
@[simp] theorem State.access_remap (s : State) (t c k : Nat) (x : Bool) (p : Nat) (a : Act) : (s.access t c k x p a).remap = s.remap := rfl
@[simp] theorem State.access_extWait (s : State) (t c k : Nat) (x : Bool) (p : Nat) (a : Act) : (s.access t c k x p a).extWait = s.extWait := rfl
@[simp] theorem State.access_shadows (s : State) (t c k : Nat) (x : Bool) (p : Nat) (a : Act) : (s.access t c k x p a).shadows = s.shadows := rfl
@[simp] theorem State.access_atsReq (s : State) (t c k : Nat) (x : Bool) (p : Nat) (a : Act) : (s.access t c k x p a).atsReq = s.atsReq := rfl
@[simp] theorem State.access_pageReq (s : State) (t c k : Nat) (x : Bool) (p : Nat) (a : Act) : (s.access t c k x p a).pageReq = s.pageReq := rfl
@[simp] theorem State.access_invals (s : State) (t c k : Nat) (x : Bool) (p : Nat) (a : Act) : (s.access t c k x p a).invals = s.invals := rfl
@[simp] theorem State.access_shares (s : State) (t c k : Nat) (x : Bool) (p : Nat) (a : Act) : (s.access t c k x p a).shares = s.shares := rfl
@[simp] theorem State.access_nextShare (s : State) (t c k : Nat) (x : Bool) (p : Nat) (a : Act) : (s.access t c k x p a).nextShare = s.nextShare := rfl
@[simp] theorem State.access_pools (s : State) (t c k : Nat) (x : Bool) (p : Nat) (a : Act) : (s.access t c k x p a).pools = s.pools := rfl
@[simp] theorem State.access_images (s : State) (t c k : Nat) (x : Bool) (p : Nat) (a : Act) : (s.access t c k x p a).images = s.images := rfl
@[simp] theorem State.access_cancels (s : State) (t c k : Nat) (x : Bool) (p : Nat) (a : Act) : (s.access t c k x p a).cancels = s.cancels := rfl
@[simp] theorem State.access_hostWrites (s : State) (t c k : Nat) (x : Bool) (p : Nat) (a : Act) : (s.access t c k x p a).hostWrites = s.hostWrites := rfl
@[simp] theorem State.access_launches (s : State) (t c k : Nat) (x : Bool) (p : Nat) (a : Act) : (s.access t c k x p a).launches = s.launches := rfl
@[simp] theorem State.access_launchQ (s : State) (t c k : Nat) (x : Bool) (p : Nat) (a : Act) : (s.access t c k x p a).launchQ = s.launchQ := rfl
@[simp] theorem State.access_ignored (s : State) (t c k : Nat) (x : Bool) (p : Nat) (a : Act) : (s.access t c k x p a).ignored = s.ignored := rfl
@[simp] theorem State.access_uploaded (s : State) (t c k : Nat) (x : Bool) (p : Nat) (a : Act) : (s.access t c k x p a).uploaded = s.uploaded := rfl
@[simp] theorem State.access_graphTable (s : State) (t c k : Nat) (x : Bool) (p : Nat) (a : Act) : (s.access t c k x p a).graphTable = s.graphTable := rfl
@[simp] theorem State.access_patchWin (s : State) (t c k : Nat) (x : Bool) (p : Nat) (a : Act) : (s.access t c k x p a).patchWin = s.patchWin := rfl
@[simp] theorem State.access_tempTable (s : State) (t c k : Nat) (x : Bool) (p : Nat) (a : Act) : (s.access t c k x p a).tempTable = s.tempTable := rfl
@[simp] theorem State.access_tempPending (s : State) (t c k : Nat) (x : Bool) (p : Nat) (a : Act) : (s.access t c k x p a).tempPending = s.tempPending := rfl
@[simp] theorem State.access_hmask (s : State) (t c k : Nat) (x : Bool) (p : Nat) (a : Act) : (s.access t c k x p a).hmask = s.hmask := rfl
@[simp] theorem State.access_ready (s : State) (t c k : Nat) (x : Bool) (p : Nat) (a : Act) : (s.access t c k x p a).ready = s.ready := rfl
@[simp] theorem State.access_winErr (s : State) (t c k : Nat) (x : Bool) (p : Nat) (a : Act) : (s.access t c k x p a).winErr = s.winErr := rfl
@[simp] theorem State.access_log (s : State) (t c k : Nat) (x : Bool) (p : Nat) (a : Act) : (s.access t c k x p a).log = s.log := rfl
@[simp] theorem State.access_logCount (s : State) (t c k : Nat) (x : Bool) (p : Nat) (a : Act) : (s.access t c k x p a).logCount = s.logCount := rfl
@[simp] theorem State.access_corrected (s : State) (t c k : Nat) (x : Bool) (p : Nat) (a : Act) : (s.access t c k x p a).corrected = s.corrected := rfl
@[simp] theorem State.access_viaduct (s : State) (t c k : Nat) (x : Bool) (p : Nat) (a : Act) : (s.access t c k x p a).viaduct = s.viaduct := rfl
@[simp] theorem State.access_partials (s : State) (t c k : Nat) (x : Bool) (p : Nat) (a : Act) : (s.access t c k x p a).partials = s.partials := rfl
@[simp] theorem State.access_peers (s : State) (t c k : Nat) (x : Bool) (p : Nat) (a : Act) : (s.access t c k x p a).peers = s.peers := rfl
@[simp] theorem State.access_packets (s : State) (t c k : Nat) (x : Bool) (p : Nat) (a : Act) : (s.access t c k x p a).packets = s.packets := rfl
@[simp] theorem State.access_inbound (s : State) (t c k : Nat) (x : Bool) (p : Nat) (a : Act) : (s.access t c k x p a).inbound = s.inbound := rfl
@[simp] theorem State.access_remotes (s : State) (t c k : Nat) (x : Bool) (p : Nat) (a : Act) : (s.access t c k x p a).remotes = s.remotes := rfl
@[simp] theorem State.access_flits (s : State) (t c k : Nat) (x : Bool) (p : Nat) (a : Act) : (s.access t c k x p a).flits = s.flits := rfl
@[simp] theorem State.access_xrows (s : State) (t c k : Nat) (x : Bool) (p : Nat) (a : Act) : (s.access t c k x p a).xrows = s.xrows := rfl
@[simp] theorem State.access_lineErrors (s : State) (t c k : Nat) (x : Bool) (p : Nat) (a : Act) : (s.access t c k x p a).lineErrors = s.lineErrors := rfl
@[simp] theorem State.access_hbm (s : State) (t c k : Nat) (x : Bool) (p : Nat) (a : Act) : (s.access t c k x p a).hbm = s.hbm := rfl
@[simp] theorem State.access_linksDown (s : State) (t c k : Nat) (x : Bool) (p : Nat) (a : Act) : (s.access t c k x p a).linksDown = s.linksDown := rfl
@[simp] theorem State.access_unacked (s : State) (t c k : Nat) (x : Bool) (p : Nat) (a : Act) : (s.access t c k x p a).unacked = s.unacked := rfl
@[simp] theorem State.access_answered (s : State) (t c k : Nat) (x : Bool) (p : Nat) (a : Act) : (s.access t c k x p a).answered = s.answered := rfl
@[simp] theorem State.access_signals (s : State) (t c k : Nat) (x : Bool) (p : Nat) (a : Act) : (s.access t c k x p a).signals = s.signals := rfl
@[simp] theorem State.access_flying (s : State) (t c k : Nat) (x : Bool) (p : Nat) (a : Act) : (s.access t c k x p a).flying = s.flying := rfl
@[simp] theorem State.access_msgs (s : State) (t c k : Nat) (x : Bool) (p : Nat) (a : Act) : (s.access t c k x p a).msgs = s.msgs := rfl
@[simp] theorem State.access_starting (s : State) (t c k : Nat) (x : Bool) (p : Nat) (a : Act) : (s.access t c k x p a).starting = s.starting := rfl
@[simp] theorem State.access_nextStart (s : State) (t c k : Nat) (x : Bool) (p : Nat) (a : Act) : (s.access t c k x p a).nextStart = s.nextStart := rfl
@[simp] theorem State.access_tap (s : State) (t c k : Nat) (x : Bool) (p : Nat) (a : Act) : (s.access t c k x p a).tap = s.tap := rfl
@[simp] theorem State.access_boot (s : State) (t c k : Nat) (x : Bool) (p : Nat) (a : Act) : (s.access t c k x p a).boot = s.boot := rfl
@[simp] theorem State.access_readyClock (s : State) (t c k : Nat) (x : Bool) (p : Nat) (a : Act) : (s.access t c k x p a).readyClock = s.readyClock := rfl

/-! ### send -/

@[simp] theorem State.send_clock (s : State) (k a b c : Nat) : (s.send k a b c).clock = s.clock := rfl
@[simp] theorem State.send_phase (s : State) (k a b c : Nat) : (s.send k a b c).phase = s.phase := rfl
@[simp] theorem State.send_issue (s : State) (k a b c : Nat) : (s.send k a b c).issue = s.issue := rfl
@[simp] theorem State.send_agenda (s : State) (k a b c : Nat) : (s.send k a b c).agenda = s.agenda := rfl
@[simp] theorem State.send_micro (s : State) (k a b c : Nat) : (s.send k a b c).micro = s.micro := rfl
@[simp] theorem State.send_seq (s : State) (k a b c : Nat) : (s.send k a b c).seq = s.seq := rfl
@[simp] theorem State.send_free (s : State) (k a b c : Nat) : (s.send k a b c).free = s.free := rfl
@[simp] theorem State.send_mem (s : State) (k a b c : Nat) : (s.send k a b c).mem = s.mem := rfl
@[simp] theorem State.send_decks (s : State) (k a b c : Nat) : (s.send k a b c).decks = s.decks := rfl
@[simp] theorem State.send_cores (s : State) (k a b c : Nat) : (s.send k a b c).cores = s.cores := rfl
@[simp] theorem State.send_dies (s : State) (k a b c : Nat) : (s.send k a b c).dies = s.dies := rfl
@[simp] theorem State.send_insts (s : State) (k a b c : Nat) : (s.send k a b c).insts = s.insts := rfl
@[simp] theorem State.send_nextInst (s : State) (k a b c : Nat) : (s.send k a b c).nextInst = s.nextInst := rfl
@[simp] theorem State.send_nextSet (s : State) (k a b c : Nat) : (s.send k a b c).nextSet = s.nextSet := rfl
@[simp] theorem State.send_trans (s : State) (k a b c : Nat) : (s.send k a b c).trans = s.trans := rfl
@[simp] theorem State.send_remap (s : State) (k a b c : Nat) : (s.send k a b c).remap = s.remap := rfl
@[simp] theorem State.send_extWait (s : State) (k a b c : Nat) : (s.send k a b c).extWait = s.extWait := rfl
@[simp] theorem State.send_shadows (s : State) (k a b c : Nat) : (s.send k a b c).shadows = s.shadows := rfl
@[simp] theorem State.send_atsReq (s : State) (k a b c : Nat) : (s.send k a b c).atsReq = s.atsReq := rfl
@[simp] theorem State.send_pageReq (s : State) (k a b c : Nat) : (s.send k a b c).pageReq = s.pageReq := rfl
@[simp] theorem State.send_invals (s : State) (k a b c : Nat) : (s.send k a b c).invals = s.invals := rfl
@[simp] theorem State.send_shares (s : State) (k a b c : Nat) : (s.send k a b c).shares = s.shares := rfl
@[simp] theorem State.send_nextShare (s : State) (k a b c : Nat) : (s.send k a b c).nextShare = s.nextShare := rfl
@[simp] theorem State.send_pools (s : State) (k a b c : Nat) : (s.send k a b c).pools = s.pools := rfl
@[simp] theorem State.send_images (s : State) (k a b c : Nat) : (s.send k a b c).images = s.images := rfl
@[simp] theorem State.send_cancels (s : State) (k a b c : Nat) : (s.send k a b c).cancels = s.cancels := rfl
@[simp] theorem State.send_hostWrites (s : State) (k a b c : Nat) : (s.send k a b c).hostWrites = s.hostWrites := rfl
@[simp] theorem State.send_launches (s : State) (k a b c : Nat) : (s.send k a b c).launches = s.launches := rfl
@[simp] theorem State.send_launchQ (s : State) (k a b c : Nat) : (s.send k a b c).launchQ = s.launchQ := rfl
@[simp] theorem State.send_ignored (s : State) (k a b c : Nat) : (s.send k a b c).ignored = s.ignored := rfl
@[simp] theorem State.send_uploaded (s : State) (k a b c : Nat) : (s.send k a b c).uploaded = s.uploaded := rfl
@[simp] theorem State.send_graphTable (s : State) (k a b c : Nat) : (s.send k a b c).graphTable = s.graphTable := rfl
@[simp] theorem State.send_patchWin (s : State) (k a b c : Nat) : (s.send k a b c).patchWin = s.patchWin := rfl
@[simp] theorem State.send_tempTable (s : State) (k a b c : Nat) : (s.send k a b c).tempTable = s.tempTable := rfl
@[simp] theorem State.send_tempPending (s : State) (k a b c : Nat) : (s.send k a b c).tempPending = s.tempPending := rfl
@[simp] theorem State.send_hmask (s : State) (k a b c : Nat) : (s.send k a b c).hmask = s.hmask := rfl
@[simp] theorem State.send_ready (s : State) (k a b c : Nat) : (s.send k a b c).ready = s.ready := rfl
@[simp] theorem State.send_winErr (s : State) (k a b c : Nat) : (s.send k a b c).winErr = s.winErr := rfl
@[simp] theorem State.send_log (s : State) (k a b c : Nat) : (s.send k a b c).log = s.log := rfl
@[simp] theorem State.send_logCount (s : State) (k a b c : Nat) : (s.send k a b c).logCount = s.logCount := rfl
@[simp] theorem State.send_corrected (s : State) (k a b c : Nat) : (s.send k a b c).corrected = s.corrected := rfl
@[simp] theorem State.send_viaduct (s : State) (k a b c : Nat) : (s.send k a b c).viaduct = s.viaduct := rfl
@[simp] theorem State.send_partials (s : State) (k a b c : Nat) : (s.send k a b c).partials = s.partials := rfl
@[simp] theorem State.send_peers (s : State) (k a b c : Nat) : (s.send k a b c).peers = s.peers := rfl
@[simp] theorem State.send_packets (s : State) (k a b c : Nat) : (s.send k a b c).packets = s.packets := rfl
@[simp] theorem State.send_inbound (s : State) (k a b c : Nat) : (s.send k a b c).inbound = s.inbound := rfl
@[simp] theorem State.send_remotes (s : State) (k a b c : Nat) : (s.send k a b c).remotes = s.remotes := rfl
@[simp] theorem State.send_flits (s : State) (k a b c : Nat) : (s.send k a b c).flits = s.flits := rfl
@[simp] theorem State.send_xrows (s : State) (k a b c : Nat) : (s.send k a b c).xrows = s.xrows := rfl
@[simp] theorem State.send_lineErrors (s : State) (k a b c : Nat) : (s.send k a b c).lineErrors = s.lineErrors := rfl
@[simp] theorem State.send_hbm (s : State) (k a b c : Nat) : (s.send k a b c).hbm = s.hbm := rfl
@[simp] theorem State.send_linksDown (s : State) (k a b c : Nat) : (s.send k a b c).linksDown = s.linksDown := rfl
@[simp] theorem State.send_unacked (s : State) (k a b c : Nat) : (s.send k a b c).unacked = s.unacked := rfl
@[simp] theorem State.send_answered (s : State) (k a b c : Nat) : (s.send k a b c).answered = s.answered := rfl
@[simp] theorem State.send_signals (s : State) (k a b c : Nat) : (s.send k a b c).signals = s.signals := rfl
@[simp] theorem State.send_flying (s : State) (k a b c : Nat) : (s.send k a b c).flying = s.flying := rfl
@[simp] theorem State.send_msgs (s : State) (k a b c : Nat) : (s.send k a b c).msgs = s.msgs ++ [⟨k, a, b, c⟩] := rfl
@[simp] theorem State.send_starting (s : State) (k a b c : Nat) : (s.send k a b c).starting = s.starting := rfl
@[simp] theorem State.send_nextStart (s : State) (k a b c : Nat) : (s.send k a b c).nextStart = s.nextStart := rfl
@[simp] theorem State.send_tap (s : State) (k a b c : Nat) : (s.send k a b c).tap = s.tap := rfl
@[simp] theorem State.send_boot (s : State) (k a b c : Nat) : (s.send k a b c).boot = s.boot := rfl
@[simp] theorem State.send_readyClock (s : State) (k a b c : Nat) : (s.send k a b c).readyClock = s.readyClock := rfl

/-! ### logError -/

@[simp] theorem State.logError_clock (s : State) (k c n r : Nat) (w : Word) : (s.logError k c n r w).clock = s.clock := rfl
@[simp] theorem State.logError_phase (s : State) (k c n r : Nat) (w : Word) : (s.logError k c n r w).phase = s.phase := rfl
@[simp] theorem State.logError_issue (s : State) (k c n r : Nat) (w : Word) : (s.logError k c n r w).issue = s.issue := rfl
@[simp] theorem State.logError_agenda (s : State) (k c n r : Nat) (w : Word) : (s.logError k c n r w).agenda = s.agenda := rfl
@[simp] theorem State.logError_micro (s : State) (k c n r : Nat) (w : Word) : (s.logError k c n r w).micro = s.micro := rfl
@[simp] theorem State.logError_seq (s : State) (k c n r : Nat) (w : Word) : (s.logError k c n r w).seq = s.seq := rfl
@[simp] theorem State.logError_free (s : State) (k c n r : Nat) (w : Word) : (s.logError k c n r w).free = s.free := rfl
@[simp] theorem State.logError_mem (s : State) (k c n r : Nat) (w : Word) : (s.logError k c n r w).mem = s.mem := rfl
@[simp] theorem State.logError_decks (s : State) (k c n r : Nat) (w : Word) : (s.logError k c n r w).decks = s.decks := rfl
@[simp] theorem State.logError_cores (s : State) (k c n r : Nat) (w : Word) : (s.logError k c n r w).cores = s.cores := rfl
@[simp] theorem State.logError_dies (s : State) (k c n r : Nat) (w : Word) : (s.logError k c n r w).dies = s.dies := rfl
@[simp] theorem State.logError_insts (s : State) (k c n r : Nat) (w : Word) : (s.logError k c n r w).insts = s.insts := rfl
@[simp] theorem State.logError_nextInst (s : State) (k c n r : Nat) (w : Word) : (s.logError k c n r w).nextInst = s.nextInst := rfl
@[simp] theorem State.logError_nextSet (s : State) (k c n r : Nat) (w : Word) : (s.logError k c n r w).nextSet = s.nextSet := rfl
@[simp] theorem State.logError_trans (s : State) (k c n r : Nat) (w : Word) : (s.logError k c n r w).trans = s.trans := rfl
@[simp] theorem State.logError_remap (s : State) (k c n r : Nat) (w : Word) : (s.logError k c n r w).remap = s.remap := rfl
@[simp] theorem State.logError_extWait (s : State) (k c n r : Nat) (w : Word) : (s.logError k c n r w).extWait = s.extWait := rfl
@[simp] theorem State.logError_shadows (s : State) (k c n r : Nat) (w : Word) : (s.logError k c n r w).shadows = s.shadows := rfl
@[simp] theorem State.logError_atsReq (s : State) (k c n r : Nat) (w : Word) : (s.logError k c n r w).atsReq = s.atsReq := rfl
@[simp] theorem State.logError_pageReq (s : State) (k c n r : Nat) (w : Word) : (s.logError k c n r w).pageReq = s.pageReq := rfl
@[simp] theorem State.logError_invals (s : State) (k c n r : Nat) (w : Word) : (s.logError k c n r w).invals = s.invals := rfl
@[simp] theorem State.logError_shares (s : State) (k c n r : Nat) (w : Word) : (s.logError k c n r w).shares = s.shares := rfl
@[simp] theorem State.logError_nextShare (s : State) (k c n r : Nat) (w : Word) : (s.logError k c n r w).nextShare = s.nextShare := rfl
@[simp] theorem State.logError_pools (s : State) (k c n r : Nat) (w : Word) : (s.logError k c n r w).pools = s.pools := rfl
@[simp] theorem State.logError_images (s : State) (k c n r : Nat) (w : Word) : (s.logError k c n r w).images = s.images := rfl
@[simp] theorem State.logError_cancels (s : State) (k c n r : Nat) (w : Word) : (s.logError k c n r w).cancels = s.cancels := rfl
@[simp] theorem State.logError_hostWrites (s : State) (k c n r : Nat) (w : Word) : (s.logError k c n r w).hostWrites = s.hostWrites := rfl
@[simp] theorem State.logError_launches (s : State) (k c n r : Nat) (w : Word) : (s.logError k c n r w).launches = s.launches := rfl
@[simp] theorem State.logError_launchQ (s : State) (k c n r : Nat) (w : Word) : (s.logError k c n r w).launchQ = s.launchQ := rfl
@[simp] theorem State.logError_ignored (s : State) (k c n r : Nat) (w : Word) : (s.logError k c n r w).ignored = s.ignored := rfl
@[simp] theorem State.logError_uploaded (s : State) (k c n r : Nat) (w : Word) : (s.logError k c n r w).uploaded = s.uploaded := rfl
@[simp] theorem State.logError_graphTable (s : State) (k c n r : Nat) (w : Word) : (s.logError k c n r w).graphTable = s.graphTable := rfl
@[simp] theorem State.logError_patchWin (s : State) (k c n r : Nat) (w : Word) : (s.logError k c n r w).patchWin = s.patchWin := rfl
@[simp] theorem State.logError_tempTable (s : State) (k c n r : Nat) (w : Word) : (s.logError k c n r w).tempTable = s.tempTable := rfl
@[simp] theorem State.logError_tempPending (s : State) (k c n r : Nat) (w : Word) : (s.logError k c n r w).tempPending = s.tempPending := rfl
@[simp] theorem State.logError_hmask (s : State) (k c n r : Nat) (w : Word) : (s.logError k c n r w).hmask = s.hmask := rfl
@[simp] theorem State.logError_ready (s : State) (k c n r : Nat) (w : Word) : (s.logError k c n r w).ready = s.ready := rfl
@[simp] theorem State.logError_winErr (s : State) (k c n r : Nat) (w : Word) : (s.logError k c n r w).winErr = s.winErr := rfl
@[simp] theorem State.logError_log (s : State) (k c n r : Nat) (w : Word) : (s.logError k c n r w).log = s.log ++ [⟨k, c / 8, c, n % 4, r, (s.clock - s.readyClock) / Config.tickClocks, w⟩] := rfl
@[simp] theorem State.logError_logCount (s : State) (k c n r : Nat) (w : Word) : (s.logError k c n r w).logCount = s.logCount + 1 := rfl
@[simp] theorem State.logError_corrected (s : State) (k c n r : Nat) (w : Word) : (s.logError k c n r w).corrected = s.corrected := rfl
@[simp] theorem State.logError_viaduct (s : State) (k c n r : Nat) (w : Word) : (s.logError k c n r w).viaduct = s.viaduct := rfl
@[simp] theorem State.logError_partials (s : State) (k c n r : Nat) (w : Word) : (s.logError k c n r w).partials = s.partials := rfl
@[simp] theorem State.logError_peers (s : State) (k c n r : Nat) (w : Word) : (s.logError k c n r w).peers = s.peers := rfl
@[simp] theorem State.logError_packets (s : State) (k c n r : Nat) (w : Word) : (s.logError k c n r w).packets = s.packets := rfl
@[simp] theorem State.logError_inbound (s : State) (k c n r : Nat) (w : Word) : (s.logError k c n r w).inbound = s.inbound := rfl
@[simp] theorem State.logError_remotes (s : State) (k c n r : Nat) (w : Word) : (s.logError k c n r w).remotes = s.remotes := rfl
@[simp] theorem State.logError_flits (s : State) (k c n r : Nat) (w : Word) : (s.logError k c n r w).flits = s.flits := rfl
@[simp] theorem State.logError_xrows (s : State) (k c n r : Nat) (w : Word) : (s.logError k c n r w).xrows = s.xrows := rfl
@[simp] theorem State.logError_lineErrors (s : State) (k c n r : Nat) (w : Word) : (s.logError k c n r w).lineErrors = s.lineErrors := rfl
@[simp] theorem State.logError_hbm (s : State) (k c n r : Nat) (w : Word) : (s.logError k c n r w).hbm = s.hbm := rfl
@[simp] theorem State.logError_linksDown (s : State) (k c n r : Nat) (w : Word) : (s.logError k c n r w).linksDown = s.linksDown := rfl
@[simp] theorem State.logError_unacked (s : State) (k c n r : Nat) (w : Word) : (s.logError k c n r w).unacked = s.unacked := rfl
@[simp] theorem State.logError_answered (s : State) (k c n r : Nat) (w : Word) : (s.logError k c n r w).answered = s.answered := rfl
@[simp] theorem State.logError_signals (s : State) (k c n r : Nat) (w : Word) : (s.logError k c n r w).signals = s.signals := rfl
@[simp] theorem State.logError_flying (s : State) (k c n r : Nat) (w : Word) : (s.logError k c n r w).flying = s.flying := rfl
@[simp] theorem State.logError_msgs (s : State) (k c n r : Nat) (w : Word) : (s.logError k c n r w).msgs = s.msgs := rfl
@[simp] theorem State.logError_starting (s : State) (k c n r : Nat) (w : Word) : (s.logError k c n r w).starting = s.starting := rfl
@[simp] theorem State.logError_nextStart (s : State) (k c n r : Nat) (w : Word) : (s.logError k c n r w).nextStart = s.nextStart := rfl
@[simp] theorem State.logError_tap (s : State) (k c n r : Nat) (w : Word) : (s.logError k c n r w).tap = s.tap := rfl
@[simp] theorem State.logError_boot (s : State) (k c n r : Nat) (w : Word) : (s.logError k c n r w).boot = s.boot := rfl
@[simp] theorem State.logError_readyClock (s : State) (k c n r : Nat) (w : Word) : (s.logError k c n r w).readyClock = s.readyClock := rfl

/-! ### Readers -/

@[simp] theorem State.getDeck_setDeck_same (s : State) (n : Nat) (d : Deck) : (s.setDeck n d).getDeck n = d := by
  simp [State.getDeck]
theorem State.getDeck_setDeck_other (s : State) {n m : Nat} (d : Deck) (h : n ≠ m) : (s.setDeck n d).getDeck m = s.getDeck m := by
  simp [State.getDeck, mget_mput_other _ _ _ h]
@[simp] theorem State.getCore_setCore_same (s : State) (n : Nat) (c : Core) : (s.setCore n c).getCore n = c := by
  simp [State.getCore]
theorem State.getCore_setCore_other (s : State) {n m : Nat} (c : Core) (h : n ≠ m) : (s.setCore n c).getCore m = s.getCore m := by
  simp [State.getCore, mget_mput_other _ _ _ h]
@[simp] theorem State.getDie_setDie_same (s : State) (n : Nat) (d : Die) : (s.setDie n d).getDie n = d := by
  simp [State.getDie]
theorem State.getDie_setDie_other (s : State) {n m : Nat} (d : Die) (h : n ≠ m) : (s.setDie n d).getDie m = s.getDie m := by
  simp [State.getDie, mget_mput_other _ _ _ h]
@[simp] theorem State.getInst_setInst_same (s : State) (n : Nat) (i : Inst) : (s.setInst n i).getInst n = i := by
  simp [State.getInst]
theorem State.getInst_setInst_other (s : State) {n m : Nat} (i : Inst) (h : n ≠ m) : (s.setInst n i).getInst m = s.getInst m := by
  simp [State.getInst, mget_mput_other _ _ _ h]
@[simp] theorem State.getDeck_setCore (s : State) (m : Nat) (n : Nat) (c : Core) : (s.setCore n c).getDeck m = s.getDeck m := rfl
@[simp] theorem State.getDeck_setDie (s : State) (m : Nat) (n : Nat) (d : Die) : (s.setDie n d).getDeck m = s.getDeck m := rfl
@[simp] theorem State.getDeck_setInst (s : State) (m : Nat) (n : Nat) (i : Inst) : (s.setInst n i).getDeck m = s.getDeck m := rfl
@[simp] theorem State.getDeck_modIssue (s : State) (m : Nat) (f : Issue → Issue) : (s.modIssue f).getDeck m = s.getDeck m := rfl
@[simp] theorem State.getDeck_post (s : State) (m : Nat) (t : Nat) (i : Instr) : (s.post t i).getDeck m = s.getDeck m := rfl
@[simp] theorem State.getDeck_access (s : State) (m : Nat) (t c k : Nat) (x : Bool) (p : Nat) (a : Act) : (s.access t c k x p a).getDeck m = s.getDeck m := rfl
@[simp] theorem State.getDeck_send (s : State) (m : Nat) (k a b c : Nat) : (s.send k a b c).getDeck m = s.getDeck m := rfl
@[simp] theorem State.getDeck_logError (s : State) (m : Nat) (k c n r : Nat) (w : Word) : (s.logError k c n r w).getDeck m = s.getDeck m := rfl

@[simp] theorem State.getCore_setDeck (s : State) (m : Nat) (n : Nat) (d : Deck) : (s.setDeck n d).getCore m = s.getCore m := rfl
@[simp] theorem State.getCore_setDie (s : State) (m : Nat) (n : Nat) (d : Die) : (s.setDie n d).getCore m = s.getCore m := rfl
@[simp] theorem State.getCore_setInst (s : State) (m : Nat) (n : Nat) (i : Inst) : (s.setInst n i).getCore m = s.getCore m := rfl
@[simp] theorem State.getCore_modIssue (s : State) (m : Nat) (f : Issue → Issue) : (s.modIssue f).getCore m = s.getCore m := rfl
@[simp] theorem State.getCore_post (s : State) (m : Nat) (t : Nat) (i : Instr) : (s.post t i).getCore m = s.getCore m := rfl
@[simp] theorem State.getCore_access (s : State) (m : Nat) (t c k : Nat) (x : Bool) (p : Nat) (a : Act) : (s.access t c k x p a).getCore m = s.getCore m := rfl
@[simp] theorem State.getCore_send (s : State) (m : Nat) (k a b c : Nat) : (s.send k a b c).getCore m = s.getCore m := rfl
@[simp] theorem State.getCore_logError (s : State) (m : Nat) (k c n r : Nat) (w : Word) : (s.logError k c n r w).getCore m = s.getCore m := rfl

@[simp] theorem State.getDie_setDeck (s : State) (m : Nat) (n : Nat) (d : Deck) : (s.setDeck n d).getDie m = s.getDie m := rfl
@[simp] theorem State.getDie_setCore (s : State) (m : Nat) (n : Nat) (c : Core) : (s.setCore n c).getDie m = s.getDie m := rfl
@[simp] theorem State.getDie_setInst (s : State) (m : Nat) (n : Nat) (i : Inst) : (s.setInst n i).getDie m = s.getDie m := rfl
@[simp] theorem State.getDie_modIssue (s : State) (m : Nat) (f : Issue → Issue) : (s.modIssue f).getDie m = s.getDie m := rfl
@[simp] theorem State.getDie_post (s : State) (m : Nat) (t : Nat) (i : Instr) : (s.post t i).getDie m = s.getDie m := rfl
@[simp] theorem State.getDie_access (s : State) (m : Nat) (t c k : Nat) (x : Bool) (p : Nat) (a : Act) : (s.access t c k x p a).getDie m = s.getDie m := rfl
@[simp] theorem State.getDie_send (s : State) (m : Nat) (k a b c : Nat) : (s.send k a b c).getDie m = s.getDie m := rfl
@[simp] theorem State.getDie_logError (s : State) (m : Nat) (k c n r : Nat) (w : Word) : (s.logError k c n r w).getDie m = s.getDie m := rfl

@[simp] theorem State.getInst_setDeck (s : State) (m : Nat) (n : Nat) (d : Deck) : (s.setDeck n d).getInst m = s.getInst m := rfl
@[simp] theorem State.getInst_setCore (s : State) (m : Nat) (n : Nat) (c : Core) : (s.setCore n c).getInst m = s.getInst m := rfl
@[simp] theorem State.getInst_setDie (s : State) (m : Nat) (n : Nat) (d : Die) : (s.setDie n d).getInst m = s.getInst m := rfl
@[simp] theorem State.getInst_modIssue (s : State) (m : Nat) (f : Issue → Issue) : (s.modIssue f).getInst m = s.getInst m := rfl
@[simp] theorem State.getInst_post (s : State) (m : Nat) (t : Nat) (i : Instr) : (s.post t i).getInst m = s.getInst m := rfl
@[simp] theorem State.getInst_access (s : State) (m : Nat) (t c k : Nat) (x : Bool) (p : Nat) (a : Act) : (s.access t c k x p a).getInst m = s.getInst m := rfl
@[simp] theorem State.getInst_send (s : State) (m : Nat) (k a b c : Nat) : (s.send k a b c).getInst m = s.getInst m := rfl
@[simp] theorem State.getInst_logError (s : State) (m : Nat) (k c n r : Nat) (w : Word) : (s.logError k c n r w).getInst m = s.getInst m := rfl

@[simp] theorem State.dn_setDeck (s : State) (n : Nat) (d : Deck) : (s.setDeck n d).dn = s.dn := rfl
@[simp] theorem State.cn_setDeck (s : State) (n : Nat) (d : Deck) : (s.setDeck n d).cn = s.cn := rfl
@[simp] theorem State.ck_setDeck (s : State) (n : Nat) (d : Deck) : (s.setDeck n d).ck = s.ck := rfl
@[simp] theorem State.dn_setCore (s : State) (n : Nat) (c : Core) : (s.setCore n c).dn = s.dn := rfl
@[simp] theorem State.cn_setCore (s : State) (n : Nat) (c : Core) : (s.setCore n c).cn = s.cn := rfl
@[simp] theorem State.dk_setCore (s : State) (n : Nat) (c : Core) : (s.setCore n c).dk = s.dk := rfl
@[simp] theorem State.dn_setDie (s : State) (n : Nat) (d : Die) : (s.setDie n d).dn = s.dn := rfl
@[simp] theorem State.cn_setDie (s : State) (n : Nat) (d : Die) : (s.setDie n d).cn = s.cn := rfl
@[simp] theorem State.dk_setDie (s : State) (n : Nat) (d : Die) : (s.setDie n d).dk = s.dk := rfl
@[simp] theorem State.ck_setDie (s : State) (n : Nat) (d : Die) : (s.setDie n d).ck = s.ck := rfl
@[simp] theorem State.dn_setInst (s : State) (n : Nat) (i : Inst) : (s.setInst n i).dn = s.dn := rfl
@[simp] theorem State.cn_setInst (s : State) (n : Nat) (i : Inst) : (s.setInst n i).cn = s.cn := rfl
@[simp] theorem State.dk_setInst (s : State) (n : Nat) (i : Inst) : (s.setInst n i).dk = s.dk := rfl
@[simp] theorem State.ck_setInst (s : State) (n : Nat) (i : Inst) : (s.setInst n i).ck = s.ck := rfl
@[simp] theorem State.dn_post (s : State) (t : Nat) (i : Instr) : (s.post t i).dn = s.dn := rfl
@[simp] theorem State.cn_post (s : State) (t : Nat) (i : Instr) : (s.post t i).cn = s.cn := rfl
@[simp] theorem State.dk_post (s : State) (t : Nat) (i : Instr) : (s.post t i).dk = s.dk := rfl
@[simp] theorem State.ck_post (s : State) (t : Nat) (i : Instr) : (s.post t i).ck = s.ck := rfl
@[simp] theorem State.dn_access (s : State) (t c k : Nat) (x : Bool) (p : Nat) (a : Act) : (s.access t c k x p a).dn = s.dn := rfl
@[simp] theorem State.cn_access (s : State) (t c k : Nat) (x : Bool) (p : Nat) (a : Act) : (s.access t c k x p a).cn = s.cn := rfl
@[simp] theorem State.dk_access (s : State) (t c k : Nat) (x : Bool) (p : Nat) (a : Act) : (s.access t c k x p a).dk = s.dk := rfl
@[simp] theorem State.ck_access (s : State) (t c k : Nat) (x : Bool) (p : Nat) (a : Act) : (s.access t c k x p a).ck = s.ck := rfl
@[simp] theorem State.dn_send (s : State) (k a b c : Nat) : (s.send k a b c).dn = s.dn := rfl
@[simp] theorem State.cn_send (s : State) (k a b c : Nat) : (s.send k a b c).cn = s.cn := rfl
@[simp] theorem State.dk_send (s : State) (k a b c : Nat) : (s.send k a b c).dk = s.dk := rfl
@[simp] theorem State.ck_send (s : State) (k a b c : Nat) : (s.send k a b c).ck = s.ck := rfl
@[simp] theorem State.dn_logError (s : State) (k c n r : Nat) (w : Word) : (s.logError k c n r w).dn = s.dn := rfl
@[simp] theorem State.cn_logError (s : State) (k c n r : Nat) (w : Word) : (s.logError k c n r w).cn = s.cn := rfl
@[simp] theorem State.dk_logError (s : State) (k c n r : Nat) (w : Word) : (s.logError k c n r w).dk = s.dk := rfl
@[simp] theorem State.ck_logError (s : State) (k c n r : Nat) (w : Word) : (s.logError k c n r w).ck = s.ck := rfl
@[simp] theorem State.dk_setDeck (s : State) (d : Deck) : (s.setDeck s.issue.deck d).dk = d := by
  simp [State.dk]
@[simp] theorem State.ck_setCore (s : State) (c : Core) : (s.setCore s.cn c).ck = c := by
  simp [State.ck]

/-- A new length takes the next free value and touches nothing else. -/
@[simp] theorem State.delay_eq (s : State) : s.delay = (Config.freeDelay s.free, { s with free := s.free + 1 }) := rfl

end Sys2Proof.Machine
end

