-- ==== Sys2Proof/Laws/Memory.lean ====
section
/-! SUPPORT. What the operations of the machine do to memory: `mem_` lemmas for those that leave it as it is, `wf_` lemmas for those that may write
it, which keep its canonical form. -/
namespace Sys2Proof.Machine

theorem State.mem_foldl {α : Type} (l : List α) (f : State → α → State) (s : State) (h : ∀ s x, (f s x).mem = s.mem) : (l.foldl f s).mem = s.mem := by
  induction l generalizing s with
  | nil => rfl
  | cons a l ih => rw [List.foldl_cons, ih, h]
theorem State.mem_foldl2 {α β : Type} (l : List α) (f : β × State → α → β × State) (q : β × State) (h : ∀ q x, (f q x).2.mem = q.2.mem) :
    (l.foldl f q).2.mem = q.2.mem := by
  induction l generalizing q with
  | nil => rfl
  | cons a l ih => rw [List.foldl_cons, ih, h]
@[simp] theorem State.mem_setDeck (s : State) (n : Nat) (d : Deck) : (State.setDeck s n d).mem = s.mem := rfl
@[simp] theorem State.mem_modDeck (s : State) (n : Nat) (f : Deck → Deck) : (State.modDeck s n f).mem = s.mem := rfl
@[simp] theorem State.mem_setCore (s : State) (n : Nat) (c : Core) : (State.setCore s n c).mem = s.mem := rfl
@[simp] theorem State.mem_modCore (s : State) (n : Nat) (f : Core → Core) : (State.modCore s n f).mem = s.mem := rfl
@[simp] theorem State.mem_setDie (s : State) (n : Nat) (d : Die) : (State.setDie s n d).mem = s.mem := rfl
@[simp] theorem State.mem_modDie (s : State) (n : Nat) (f : Die → Die) : (State.modDie s n f).mem = s.mem := rfl
@[simp] theorem State.mem_setDk (s : State) (d : Deck) : (State.setDk s d).mem = s.mem := rfl
@[simp] theorem State.mem_modDk (s : State) (f : Deck → Deck) : (State.modDk s f).mem = s.mem := rfl
@[simp] theorem State.mem_modCk (s : State) (f : Core → Core) : (State.modCk s f).mem = s.mem := rfl
@[simp] theorem State.mem_modIssue (s : State) (f : Issue → Issue) : (State.modIssue s f).mem = s.mem := rfl
@[simp] theorem State.mem_setInst (s : State) (n : Nat) (i : Inst) : (State.setInst s n i).mem = s.mem := rfl
@[simp] theorem State.mem_modInst (s : State) (n : Nat) (f : Inst → Inst) : (State.modInst s n f).mem = s.mem := rfl
@[simp] theorem State.mem_stalled (s : State) : (State.stalled s).mem = s.mem := rfl
@[simp] theorem State.mem_stalledOther (s : State) : (State.stalledOther s).mem = s.mem := rfl
@[simp] theorem State.mem_addLatch (s : State) (n : Nat) (l : Latch) : (State.addLatch s n l).mem = s.mem := rfl
@[simp] theorem State.mem_result (s : State) (h : Hd) (lat : Nat) (dest : Dest) (mask : Pred) (data : Image) (tag : Tag) :
    (State.result s h lat dest mask data tag).mem = s.mem := rfl
@[simp] theorem State.mem_writeX (s : State) (h : Hd) (lat : Nat) (r : BitVec 6) (v : Word) :
    (State.writeX s h lat r v).mem = s.mem := by simp [State.writeX, apply_ite State.mem]
@[simp] theorem State.mem_writeP (s : State) (h : Hd) (lat : Nat) (r : BitVec 5) (v : Pred) :
    (State.writeP s h lat r v).mem = s.mem := by simp [State.writeP, apply_ite State.mem]
@[simp] theorem State.mem_raiseFlags (s : State) (h : Hd) (lat : Nat) (f : BitVec 8) :
    (State.raiseFlags s h lat f).mem = s.mem := by simp [State.raiseFlags, apply_ite State.mem]
@[simp] theorem State.mem_landDeck (s : State) (n c : Nat) : (State.landDeck s n c).mem = s.mem := by
  unfold State.landDeck; repeat' (first
    | rfl | (intro _) | split | (refine Eq.trans (State.mem_foldl _ _ _ fun s x => ?_) ?_) | simp [apply_ite State.mem, *] | dsimp only)
@[simp] theorem State.mem_post (s : State) (t : Nat) (i : Instr) : (State.post s t i).mem = s.mem := rfl
@[simp] theorem State.mem_access (s : State) (t core deck : Nat) (ex : Bool) (prio : Nat) (act : Act) :
    (State.access s t core deck ex prio act).mem = s.mem := rfl
@[simp] theorem State.mem_delay (s : State) : (State.delay s).2.mem = s.mem := rfl
@[simp] theorem State.mem_path (s : State) (g g' : Nat) : (State.path s g g').2.mem = s.mem := by
  unfold State.path; dsimp only; (repeat' split) <;> simp [apply_ite State.mem]
@[simp] theorem State.mem_carry (s : State) (routes : List (List (Nat × Nat × Nat))) (floor stop : Nat) (ev : Instr) :
    (State.carry s routes floor stop ev).mem = s.mem := by simp [State.carry, apply_ite State.mem]
@[simp] theorem State.mem_movePackets (s : State) : (State.movePackets s).mem = s.mem := by
  unfold State.movePackets; exact State.mem_foldl _ _ _ fun s x => by simp
@[simp] theorem State.mem_callOff (s : State) (off : Instr → Bool) : (State.callOff s off).mem = s.mem := rfl
@[simp] theorem State.mem_seenRow (s : State) (rc b c row : Nat) : (State.seenRow s rc b c row).2.mem = s.mem := by
  unfold State.seenRow; repeat' (first
    | with_reducible rfl
    | (rename_i h; first | (have k := congrArg Prod.snd h; dsimp only at k; subst k; clear h) | (have k := congrArg Prod.fst h; dsimp only at k; subst k; clear h))
    | (intro _) | split | (refine Eq.trans (State.mem_foldl _ _ _ fun s x => ?_) ?_)
    | (refine Eq.trans (State.mem_foldl2 _ _ _ fun q x => ?_) ?_) | simp [apply_ite State.mem] | simp [apply_ite State.mem, *] | dsimp only
    | rfl)
@[simp] theorem State.mem_rowFor (s : State) (inst : Option Nat) (rc c row : Nat) :
    (State.rowFor s inst rc c row).2.mem = s.mem := by simp [State.rowFor]
@[simp] theorem State.mem_ownRow (s : State) (n c row : Nat) : (State.ownRow s n c row).2.mem = s.mem := by simp [State.ownRow]
@[simp] theorem State.mem_logError (s : State) (kind core deck node : Nat) (detail : Word) :
    (State.logError s kind core deck node detail).mem = s.mem := rfl
@[simp] theorem State.mem_send (s : State) (kind a b c : Nat) : (State.send s kind a b c).mem = s.mem := rfl
@[simp] theorem State.mem_dropLease (s : State) (n : Nat) : (State.dropLease s n).mem = s.mem := rfl
@[simp] theorem State.mem_stopDeck (s : State) (n : Nat) : (State.stopDeck s n).mem = s.mem := rfl
@[simp] theorem State.mem_checkInst (s : State) (i : Nat) : (State.checkInst s i).mem = s.mem := by
  unfold State.checkInst; repeat' (first
    | rfl | (intro _) | split | (refine Eq.trans (State.mem_foldl _ _ _ fun s x => ?_) ?_) | simp [apply_ite State.mem, *] | dsimp only)
@[simp] theorem State.mem_checkDeck (s : State) (kind n : Nat) (detail : Word) : (State.checkDeck s kind n detail).mem = s.mem := by
  unfold State.checkDeck; dsimp only; (repeat' split) <;> simp [apply_ite State.mem]
@[simp] theorem State.mem_endCommand (s : State) (c e : Nat) : (State.endCommand s c e).mem = s.mem := by
  unfold State.endCommand; dsimp only; (repeat' split) <;> simp [apply_ite State.mem]
@[simp] theorem State.mem_engineFaultTaken (s : State) (n : Nat) (p : Pending) :
    (State.engineFaultTaken s n p).mem = s.mem := by simp [State.engineFaultTaken, apply_ite State.mem]
@[simp] theorem State.mem_passQuiescent (s : State) (n : Nat) (ex : Bool) : (State.passQuiescent s n ex).mem = s.mem := by
  unfold State.passQuiescent; split <;> simp
@[simp] theorem State.mem_quiesce (s : State) (n : Nat) : (State.quiesce s n).mem = s.mem := by simp [State.quiesce]
@[simp] theorem State.mem_squash (s : State) (n : Nat) (from_ : Nat) : (State.squash s n from_).1.mem = s.mem := rfl
@[simp] theorem State.mem_startHandler (s : State) (n : Nat) : (State.startHandler s n).mem = s.mem := rfl
@[simp] theorem State.mem_startFrame (s : State) (n b : Nat) (rows : List Image) (open_ : List OpenRow) :
    (State.startFrame s n b rows open_).mem = s.mem := rfl
@[simp] theorem State.mem_intoFrame (s : State) (n : Nat) (l : Latch) : (State.intoFrame s n l).mem = s.mem := rfl
@[simp] theorem State.mem_squashFrom (s : State) (n : Nat) (failure : Option Revoc) : (State.squashFrom s n failure).1.mem = s.mem := by
  unfold State.squashFrom; split <;> simp
@[simp] theorem State.mem_engineTrapTaken (s : State) (n : Nat) (p : Option Pending) : (State.engineTrapTaken s n p).mem = s.mem := by
  unfold State.engineTrapTaken; split <;> simp
@[simp] theorem State.mem_dropFetches (s : State) (n : Nat) : (State.dropFetches s n).mem = s.mem := rfl
@[simp] theorem State.mem_dropReads (s : State) (n : Nat) : (State.dropReads s n).mem = s.mem := rfl
@[simp] theorem State.mem_trapReturn (s : State) (n : Nat) : (State.trapReturn s n).mem = s.mem := rfl
@[simp] theorem State.mem_pushRq (s : State) (n q : Nat) (data : Image) (tag : Tag) : (State.pushRq s n q data tag).mem = s.mem := rfl
@[simp] theorem State.mem_writeP30 (s : State) (h : Hd) (v : Bool) : (State.writeP30 s h v).mem = s.mem := rfl
@[simp] theorem State.mem_scalar (s : State) (h : Hd) (srcs : List (BitVec 6)) (f : State → State) (hf : ∀ s : State, (f s).mem = s.mem) :
    (s.scalar h srcs f).mem = s.mem := by
  unfold State.scalar; repeat' (first
    | rfl | (intro _) | split | (refine Eq.trans (State.mem_foldl _ _ _ fun s x => ?_) ?_) | simp [apply_ite State.mem, *] | dsimp only)
@[simp] theorem State.mem_alu (s : State) (h : Hd) (lat : Nat) (b : XRR) (f : Word → Word → Word) :
    (State.alu s h lat b f).mem = s.mem := by simp [State.alu]
@[simp] theorem State.mem_aluImm (s : State) (h : Hd) (b : XI) (f : Word → Word → Word) : (State.aluImm s h b f).mem = s.mem := by simp [State.aluImm]
@[simp] theorem State.mem_compare (s : State) (h : Hd) (pd pe : BitVec 5) (comb : Nat) (c : Bool) :
    (State.compare s h pd pe comb c).mem = s.mem := by simp [State.compare]
@[simp] theorem State.mem_control (s : State) (h : Hd) (srcs : List (BitVec 6)) (f : State → State) (hf : ∀ s : State, (f s).mem = s.mem) :
    (s.control h srcs f).mem = s.mem := by
  unfold State.control; repeat' (first
    | rfl | (intro _) | split | (refine Eq.trans (State.mem_foldl _ _ _ fun s x => ?_) ?_) | simp [apply_ite State.mem, *] | dsimp only)
@[simp] theorem State.mem_fence (s : State) (h : Hd) (remote cmds acks : Bool) :
    (State.fence s h remote cmds acks).mem = s.mem := by simp [State.fence, apply_ite State.mem]
@[simp] theorem State.mem_forgetVersions (s : State) : (State.forgetVersions s).mem = s.mem := rfl
@[simp] theorem State.mem_rearm (s : State) (n : Nat) : (State.rearm s n).mem = s.mem := rfl
@[simp] theorem State.mem_endPhase (s : State) (i : Nat) : (State.endPhase s i).mem = s.mem := by
  unfold State.endPhase; exact State.mem_foldl _ _ _ fun s x => by simp
@[simp] theorem State.mem_semAdd (s : State) (c n : Nat) (k : Int) : (State.semAdd s c n k).mem = s.mem := rfl
@[simp] theorem State.mem_askPage (s : State) (ctx page : Nat) :
    (State.askPage s ctx page).mem = s.mem := by simp [State.askPage, apply_ite State.mem]
@[simp] theorem State.mem_joinQueue (s : State) (blocks : List Nat) (ev : Instr) : (State.joinQueue s blocks ev).mem = s.mem := rfl
@[simp] theorem State.mem_serveQueue (s : State) : (State.serveQueue s).mem = s.mem := rfl
@[simp] theorem State.mem_trip (s : State) (core g : Nat) (back : Bool) : (State.trip s core g back).2.mem = s.mem := by
  unfold State.trip; dsimp only; (repeat' split) <;> simp [apply_ite State.mem]
@[simp] theorem State.mem_toCore (s : State) (c c' : Nat) : (State.toCore s c c').2.mem = s.mem := by
  unfold State.toCore; split <;> simp
@[simp] theorem State.mem_trips (s : State) {α : Type} (one : State → α → List (Nat × Nat × Nat) × State) (ends : List α) (ho : ∀ s e, (one s e).2.mem = s.mem) :
    (State.trips s one ends).2.mem = s.mem := by
  unfold State.trips; repeat' (first
    | with_reducible rfl
    | (rename_i h; first | (have k := congrArg Prod.snd h; dsimp only at k; subst k; clear h) | (have k := congrArg Prod.fst h; dsimp only at k; subst k; clear h))
    | (intro _) | split | (refine Eq.trans (State.mem_foldl _ _ _ fun s x => ?_) ?_)
    | (refine Eq.trans (State.mem_foldl2 _ _ _ fun q x => ?_) ?_) | simp [apply_ite State.mem] | simp [apply_ite State.mem, *] | dsimp only
    | rfl)
@[simp] theorem State.mem_setPool (s : State) (ctx : Nat) (p : Pool) : (State.setPool s ctx p).mem = s.mem := rfl
@[simp] theorem State.mem_askPool (s : State) (ctx size n : Nat) : (State.askPool s ctx size n).mem = s.mem := by
  unfold State.askPool; exact State.mem_foldl _ _ _ fun s x => by simp
@[simp] theorem State.mem_takePage (s : State) (ctx : Nat) : (State.takePage s ctx).2.mem = s.mem := by
  unfold State.takePage; split <;> simp
@[simp] theorem State.mem_givePage (s : State) (ctx place : Nat) :
    (State.givePage s ctx place).mem = s.mem := by simp [State.givePage, apply_ite State.mem]
@[simp] theorem State.mem_newShadow (s : State) (node ctx i : Nat) (es : List Ext) (p src : Nat) :
    (State.newShadow s node ctx i es p src).2.mem = s.mem := by simp [State.newShadow]
@[simp] theorem State.mem_makeShadows (s : State) (node ctx v i : Nat) (es : List Ext) (ps : List Nat) :
    (State.makeShadows s node ctx v i es ps).2.mem = s.mem := by
  unfold State.makeShadows; repeat' (first
    | with_reducible rfl
    | (rename_i h; first | (have k := congrArg Prod.snd h; dsimp only at k; subst k; clear h) | (have k := congrArg Prod.fst h; dsimp only at k; subst k; clear h))
    | (intro _) | split | (refine Eq.trans (State.mem_foldl _ _ _ fun s x => ?_) ?_)
    | (refine Eq.trans (State.mem_foldl2 _ _ _ fun q x => ?_) ?_) | simp [apply_ite State.mem] | simp [apply_ite State.mem, *] | dsimp only
    | rfl)
@[simp] theorem State.mem_walk (s : State) (c ctx page : Nat) : (State.walk s c ctx page).mem = s.mem := rfl
@[simp] theorem State.mem_fetchRecord (s : State) (n : Nat) (i : Inst) (v va entry gen : Nat) :
    (State.fetchRecord s n i v va entry gen).mem = s.mem := by simp [State.fetchRecord]
@[simp] theorem State.mem_revocable (s : State) (h : Hd) (srcs : List (BitVec 6)) (f : State → State) (hf : ∀ s : State, (f s).mem = s.mem) :
    (s.revocable h srcs f).mem = s.mem := by
  unfold State.revocable; repeat' (first
    | rfl | (intro _) | split | (refine Eq.trans (State.mem_foldl _ _ _ fun s x => ?_) ?_) | simp [apply_ite State.mem, *] | dsimp only)
@[simp] theorem State.mem_irrevocable (s : State) (h : Hd) (srcs : List (BitVec 6)) (f : State → State) (hf : ∀ s : State, (f s).mem = s.mem) :
    (s.irrevocable h srcs f).mem = s.mem := by
  unfold State.irrevocable; repeat' (first
    | rfl | (intro _) | split | (refine Eq.trans (State.mem_foldl _ _ _ fun s x => ?_) ?_) | simp [apply_ite State.mem, *] | dsimp only)
@[simp] theorem State.mem_addRevoc (s : State) (i : Instr) (xa xb : Word) (ids : List Nat) (left key : Nat) :
    (State.addRevoc s i xa xb ids left key).mem = s.mem := rfl
@[simp] theorem State.mem_passCheck (s : State) (n id : Nat) : (State.passCheck s n id).mem = s.mem := rfl
@[simp] theorem State.mem_failCheck (s : State) (n id cause detail : Nat) (addr : Word) :
    (State.failCheck s n id cause detail addr).mem = s.mem := rfl
@[simp] theorem State.mem_countErrors (s : State) (die n : Nat) : (State.countErrors s die n).mem = s.mem := by simp [State.countErrors, apply_ite State.mem]
@[simp] theorem State.mem_correct (s : State) (c n lo hi : Nat) : (State.correct s c n lo hi).mem = s.mem := by simp [State.correct]
@[simp] theorem State.mem_consume (s : State) (n c r lo hi : Nat) :
    (State.consume s n c r lo hi).mem = s.mem := by simp [State.consume, apply_ite State.mem]
@[simp] theorem State.mem_expired30 (s : State) (n id lat : Nat) : (State.expired30 s n id lat).mem = s.mem := rfl
@[simp] theorem State.mem_arriveOq (s : State) (n q ent id : Nat) (data : Image) (tag : Tag) (zeroed : Bool) :
    (State.arriveOq s n q ent id data tag zeroed).mem = s.mem := by simp [State.arriveOq, apply_ite State.mem]
@[simp] theorem State.mem_ldsSample (s : State) (n c id a size rd : Nat) :
    (State.ldsSample s n c id a size rd).mem = s.mem := by simp [State.ldsSample, apply_ite State.mem]
@[simp] theorem State.mem_reserve (s : State) (q id : Nat) (tags : List Tag) : (State.reserve s q id tags).mem = s.mem := rfl
@[simp] theorem State.mem_ldqSample (s : State) (n c id row q ent : Nat) (want : Option (BitVec 8)) (addr : Word) :
    (State.ldqSample s n c id row q ent want addr).mem = s.mem := by simp [State.ldqSample, apply_ite State.mem]
@[simp] theorem State.mem_remoteImage (s : State) (n c row : Nat) : (State.remoteImage s n c row).2.mem = s.mem := by simp [State.remoteImage]
@[simp] theorem State.mem_remoteSample (s : State) (req r : Nat) : (State.remoteSample s req r).mem = s.mem := by
  unfold State.remoteSample; dsimp only; (repeat' split) <;> simp [apply_ite State.mem]
@[simp] theorem State.mem_ldqtSample (s : State) (n c at_ id q ent : Nat) (words : List Nat) (es : List (Nat × Nat)) (w : Nat) (img : Image) (tag : Tag) (want : Option (BitVec 8 × Nat)) (silent : Bool) :
    (State.ldqtSample s n c at_ id q ent words es w img tag want silent).mem = s.mem := by
  unfold State.ldqtSample; (repeat' split) <;> simp [apply_ite State.mem]
@[simp] theorem State.mem_recordIn (s : State) (n entry gen : Nat) (record : BitVec 512) : (State.recordIn s n entry gen record).mem = s.mem := by
  unfold State.recordIn; (repeat' split) <;> simp [apply_ite State.mem]
@[simp] theorem State.mem_hldSample (s : State) (n c at_ id entry gen a part : Nat) :
    (State.hldSample s n c at_ id entry gen a part).mem = s.mem := by simp [State.hldSample, apply_ite State.mem]
@[simp] theorem State.mem_enterEngine (s : State) (eng : Nat) (c : Cmd) : (State.enterEngine s eng c).mem = s.mem := rfl
@[simp] theorem State.mem_setRunning (s : State) (c eng : Nat) (r : Running) : (State.setRunning s c eng r).mem = s.mem := rfl
@[simp] theorem State.mem_modRunning (s : State) (c eng : Nat) (f : Running → Running) : (State.modRunning s c eng f).mem = s.mem := by
  unfold State.modRunning; split <;> simp
@[simp] theorem State.mem_rowRoutes (s : State) (core : Nat) (c : Cmd) (j : Job) (r : Nat) : (State.rowRoutes s core c j r).2.mem = s.mem := by
  unfold State.rowRoutes; split <;> simp
@[simp] theorem State.mem_postRow (s : State) (core eng r : Nat) : (State.postRow s core eng r).mem = s.mem := by
  unfold State.postRow; split <;> simp
@[simp] theorem State.mem_startRow (s : State) (core eng : Nat) (q : Running) (j : Job) (r : Nat) :
    (State.startRow s core eng q j r).mem = s.mem := by
  unfold State.startRow; (repeat' split) <;> simp [apply_ite State.mem]
@[simp] theorem State.mem_standAt (s : State) (core eng p : Nat) (q : Running) : (State.standAt s core eng p q).mem = s.mem := by simp [State.standAt]
@[simp] theorem State.mem_walkPages (s : State) (core : Nat) (j : Job) (c : Cmd) (ps : List Nat) : (State.walkPages s core j c ps).mem = s.mem := by
  unfold State.walkPages; repeat' (first
    | rfl | (intro _) | split | (refine Eq.trans (State.mem_foldl _ _ _ fun s x => ?_) ?_) | simp [apply_ite State.mem, *] | dsimp only)
@[simp] theorem State.mem_endNode (s : State) (i : Nat) : (State.endNode s i).mem = s.mem := rfl
@[simp] theorem State.mem_settleFault (s : State) (core eng : Nat) : (State.settleFault s core eng).mem = s.mem := by
  unfold State.settleFault; (repeat' split) <;> simp [apply_ite State.mem]
@[simp] theorem State.mem_dropFaults (s : State) (n i : Nat) : (State.dropFaults s n i).mem = s.mem := by
  unfold State.dropFaults; repeat' (first
    | rfl | (intro _) | split | (refine Eq.trans (State.mem_foldl _ _ _ fun s x => ?_) ?_) | simp [apply_ite State.mem, *] | dsimp only)
@[simp] theorem State.mem_failRow (s : State) (core eng r cause : Nat) (addr : Word) : (State.failRow s core eng r cause addr).mem = s.mem := by
  unfold State.failRow; (repeat' split) <;> simp [apply_ite State.mem]
@[simp] theorem State.mem_waitFor (s : State) (ctx va n : Nat) (ev : Instr) : (State.waitFor s ctx va n ev).mem = s.mem := by
  simp [State.waitFor, apply_ite State.mem]
@[simp] theorem State.mem_awaitAck (s : State) (core eng r sentAt : Nat) (c : Cmd) (j : Job) : (State.awaitAck s core eng r sentAt c j).mem = s.mem := by
  unfold State.awaitAck; repeat' (first
    | with_reducible rfl
    | (rename_i h; first | (have k := congrArg Prod.snd h; dsimp only at k; subst k; clear h) | (have k := congrArg Prod.fst h; dsimp only at k; subst k; clear h))
    | (intro _) | split | (refine Eq.trans (State.mem_foldl _ _ _ fun s x => ?_) ?_)
    | (refine Eq.trans (State.mem_foldl2 _ _ _ fun q x => ?_) ?_) | simp [apply_ite State.mem] | simp [apply_ite State.mem, *] | dsimp only
    | rfl)
@[simp] theorem State.mem_holdAcks (s : State) (core : Nat) : (State.holdAcks s core).mem = s.mem := by
  unfold State.holdAcks; exact State.mem_foldl _ _ _ fun s x => by dsimp only; split <;> rfl
@[simp] theorem State.mem_forgetAcks (s : State) (i : Nat) : (State.forgetAcks s i).mem = s.mem := rfl
@[simp] theorem State.mem_lostTraffic (s : State) : s.lostTraffic.mem = s.mem := rfl
@[simp] theorem State.mem_releaseWindow (s : State) (core r : Nat) (q : Running) (fn base : Nat) (pairs : Image) :
    (State.releaseWindow s core r q fn base pairs).mem = s.mem := by simp [State.releaseWindow, apply_ite State.mem]
@[simp] theorem State.mem_engineConsumes (s : State) (c : Cmd) (kind : Nat) (detail : Word) : (State.engineConsumes s c kind detail).mem = s.mem := by
  unfold State.engineConsumes; split <;> simp
@[simp] theorem State.mem_engRow (s : State) (c : Nat) (cmd : Cmd) (row : Nat) : (State.engRow s c cmd row).2.mem = s.mem := by simp [State.engRow]
@[simp] theorem State.mem_engImages (s : State) (c : Nat) (cmd : Cmd) (ns : List Nat) : (State.engImages s c cmd ns).2.mem = s.mem := by
  unfold State.engImages; repeat' (first
    | with_reducible rfl
    | (rename_i h; first | (have k := congrArg Prod.snd h; dsimp only at k; subst k; clear h) | (have k := congrArg Prod.fst h; dsimp only at k; subst k; clear h))
    | (intro _) | split | (refine Eq.trans (State.mem_foldl _ _ _ fun s x => ?_) ?_)
    | (refine Eq.trans (State.mem_foldl2 _ _ _ fun q x => ?_) ?_) | simp [apply_ite State.mem] | simp [apply_ite State.mem, *] | dsimp only
    | rfl)
@[simp] theorem State.mem_countSymbol (s : State) (h : HbmPlace) :
    (State.countSymbol s h).mem = s.mem := by simp [State.countSymbol, apply_ite State.mem]
@[simp] theorem State.mem_correctAt (s : State) (a n : Nat) : (State.correctAt s a n).mem = s.mem := by
  unfold State.correctAt; split <;> first | rfl | exact State.mem_foldl _ _ _ fun s x => by simp
@[simp] theorem State.mem_correctHbm (s : State) (node ctx v va n : Nat) : (State.correctHbm s node ctx v va n).mem = s.mem := by
  unfold State.correctHbm; exact State.mem_foldl _ _ _ fun s x => by split <;> simp
@[simp] theorem State.mem_correctElems (s : State) (c : Cmd) (base w : Nat) (es : List (Nat × Option Nat)) :
    (State.correctElems s c base w es).mem = s.mem := by
  unfold State.correctElems; exact State.mem_foldl _ _ _ fun s x => by split <;> simp
@[simp] theorem State.mem_gatherMemory (s : State) (core eng r irow : Nat) (q : Running) (d : Nat) (rec_ : BitVec 512) (e : Ext) (es : List (Nat × Option Nat)) (silent : Bool) :
    (State.gatherMemory s core eng r irow q d rec_ e es silent).mem = s.mem := by
  unfold State.gatherMemory; dsimp only; (repeat' split) <;> simp [apply_ite State.mem]
@[simp] theorem State.mem_takeWait (s : State) (core eng : Nat) : (State.takeWait s core eng).mem = s.mem := rfl
@[simp] theorem State.mem_rowIn (s : State) (core eng r : Nat) (q : Running) (c dst : Nat) (data : Option Image) (tag : Tag) :
    (State.rowIn s core eng r q c dst data tag).mem = s.mem := by simp [State.rowIn, apply_ite State.mem]
@[simp] theorem State.mem_peerRefuses (s : State) (q : Running) (tile : Nat) : (State.peerRefuses s q tile).2.mem = s.mem := by
  unfold State.peerRefuses; split <;> simp
@[simp] theorem State.mem_pushDone (s : State) (core eng : Nat) (q : Running) :
    (State.pushDone s core eng q).mem = s.mem := by simp [State.pushDone, apply_ite State.mem]
@[simp] theorem State.mem_sendSignal (s : State) (core i k n : Nat) : (State.sendSignal s core i k n).mem = s.mem := by simp [State.sendSignal]
@[simp] theorem State.mem_fireSignal (s : State) (core eng : Nat) (q : Running) : (State.fireSignal s core eng q).mem = s.mem := by
  unfold State.fireSignal; repeat' (first
    | rfl
    | (rename_i h; first | (have k := congrArg Prod.snd h; dsimp only at k; subst k; clear h) | (have k := congrArg Prod.fst h; dsimp only at k; subst k; clear h))
    | (intro _) | split | (refine Eq.trans (State.mem_foldl _ _ _ fun s x => ?_) ?_) | simp [apply_ite State.mem]
    | simp [apply_ite State.mem, *] | dsimp only)
@[simp] theorem State.mem_fillDone (s : State) (core : Nat) (q : Running) : (State.fillDone s core q).mem = s.mem := by
  unfold State.fillDone; (repeat' split) <;> simp [apply_ite State.mem]
@[simp] theorem State.mem_completeEngines (s : State) (core : Nat) : (State.completeEngines s core).mem = s.mem := by
  unfold State.completeEngines; repeat' (first
    | rfl
    | (rename_i h; first | (have k := congrArg Prod.snd h; dsimp only at k; subst k; clear h) | (have k := congrArg Prod.fst h; dsimp only at k; subst k; clear h))
    | (intro _) | split | (refine Eq.trans (State.mem_foldl _ _ _ fun s x => ?_) ?_) | simp [apply_ite State.mem]
    | simp [apply_ite State.mem, *] | dsimp only)
@[simp] theorem State.mem_pushResult (s : State) (h : Hd) (lat q : Nat) (mask : Pred) (data : Image) (tag : Tag) :
    (State.pushResult s h lat q mask data tag).mem = s.mem := rfl
@[simp] theorem State.mem_writeV (s : State) (h : Hd) (lat nd : Nat) (mask : Pred) (data : Image) (tag : Tag) :
    (State.writeV s h lat nd mask data tag).mem = s.mem := by
  unfold State.writeV; split <;> simp
@[simp] theorem State.mem_writePMask (s : State) (h : Hd) (lat : Nat) (r : BitVec 5) (mask v : Pred) :
    (State.writePMask s h lat r mask v).mem = s.mem := by simp [State.writePMask, apply_ite State.mem]
@[simp] theorem State.mem_matrix (s : State) (h : Hd) (srcs : List (BitVec 6)) (none_ : State → Bool) (port : State → Nat) (busy : State → Bool) (f : State → State) (hf : ∀ s : State, (f s).mem = s.mem) :
    (s.matrix h srcs none_ port busy f).mem = s.mem := by
  unfold State.matrix; repeat' (first
    | rfl | (intro _) | split | (refine Eq.trans (State.mem_foldl _ _ _ fun s x => ?_) ?_) | simp [apply_ite State.mem, *] | dsimp only)
@[simp] theorem State.mem_arrayFault (s : State) (n : Nat) (i : Option Nat) (num : Nat) (pc : CodeAddr) (cause detail : Nat) (addr : Word) :
    (State.arrayFault s n i num pc cause detail addr).mem = s.mem := by
  unfold State.arrayFault; (repeat' split) <;> simp [apply_ite State.mem]
@[simp] theorem State.mem_arrayCheck (s : State) (c n : Nat) (i : Option Nat) (kind : Nat) (detail : Word) :
    (State.arrayCheck s c n i kind detail).mem = s.mem := by
  unfold State.arrayCheck; split <;> simp
@[simp] theorem State.mem_arrayConsumes (s : State) (c n : Nat) (i : Option Nat) (rows : List Nat) :
    (State.arrayConsumes s c n i rows).mem = s.mem := by
  unfold State.arrayConsumes
  have h := State.mem_foldl rows (fun (s' : State) r => if (s.getCore c).meet r == .data then s'.correct c r 0 7 else s') s fun s x => by split <;> simp
  simp only at h ⊢; split <;> simp [h, -beq_iff_eq]
@[simp] theorem State.mem_arrayImages (s : State) (inst : Option Nat) (c : Nat) (rows : List Nat) :
    (State.arrayImages s inst c rows).2.mem = s.mem := by
  unfold State.arrayImages; repeat' (first
    | with_reducible rfl
    | (rename_i h; first | (have k := congrArg Prod.snd h; dsimp only at k; subst k; clear h) | (have k := congrArg Prod.fst h; dsimp only at k; subst k; clear h))
    | (intro _) | split | (refine Eq.trans (State.mem_foldl _ _ _ fun s x => ?_) ?_)
    | (refine Eq.trans (State.mem_foldl2 _ _ _ fun q x => ?_) ?_) | simp [apply_ite State.mem] | simp [apply_ite State.mem, *] | dsimp only
    | rfl)
@[simp] theorem State.mem_mldbSample (s : State) (c at_ : Nat) (l : Load) : (State.mldbSample s c at_ l).mem = s.mem := by
  unfold State.mldbSample; dsimp only; (repeat' split) <;> simp [apply_ite State.mem]
@[simp] theorem State.mem_mmaFail (s : State) (c : Nat) (g : Gantry) (late : Nat) (f : Nat × Nat × Word) :
    (State.mmaFail s c g late f).mem = s.mem := by
  unfold State.mmaFail; repeat' (first
    | rfl | (intro _) | split | (refine Eq.trans (State.mem_foldl _ _ _ fun s x => ?_) ?_) | simp [apply_ite State.mem, *] | dsimp only)
@[simp] theorem State.mem_spoiledReads (s : State) (c r width : Nat) (p : Nat → Bool) (since : Nat) :
    (State.spoiledReads s c r width p since).mem = s.mem := by
  unfold State.spoiledReads; exact State.mem_foldl _ _ _ fun s x => by split <;> simp
@[simp] theorem State.mem_replayMoves (s : State) (c : Nat) (g : Gantry) (i : Nat) : (State.replayMoves s c g i).mem = s.mem := by
  unfold State.replayMoves; dsimp only; split <;> simp
@[simp] theorem State.mem_mmaSample (s : State) (c : Nat) (g : Gantry) : (State.mmaSample s c g).mem = s.mem := by
  unfold State.mmaSample; dsimp only; (repeat' split) <;> simp [apply_ite State.mem]
@[simp] theorem State.mem_indexRow (s : State) (inst : Option Nat) (core n : Nat) : (State.indexRow s inst core n).2.mem = s.mem := by
  unfold State.indexRow; split <;> simp
@[simp] theorem State.mem_modStatus (s : State) (g : Gantry) (f : Deck → Deck) :
    (State.modStatus s g f).mem = s.mem := by simp [State.modStatus, apply_ite State.mem]
@[simp] theorem State.mem_rowFailed (s : State) (c : Nat) (g : Gantry) (i : Nat) (srcs : List Nat) :
    (State.rowFailed s c g i srcs).mem = s.mem := by simp [State.rowFailed, apply_ite State.mem]
@[simp] theorem State.mem_mmaPerform (s : State) (c : Nat) (g : Gantry) (i : Nat) (srcs : List Nat) (adds : Option (List (Int × Bool) × Int)) :
    (State.mmaPerform s c g i srcs adds).mem = s.mem := by
  unfold State.mmaPerform; (repeat' split) <;> simp [apply_ite State.mem]
@[simp] theorem State.mem_mrdSample (s : State) (m : Micro) (q : ReadOut) :
    (State.mrdSample s m q).mem = s.mem := by simp [State.mrdSample, apply_ite State.mem]
@[simp] theorem State.mem_writeT (s : State) (h : Hd) (lat : Nat) (dest : Dest) (mask : Pred) (data : Image) (f : BitVec 8) :
    (State.writeT s h lat dest mask data f).mem = s.mem := rfl
@[simp] theorem State.mem_blockAt (s : State) (h : Hd) (lat : Nat) (a : Act) : (State.blockAt s h lat a).mem = s.mem := rfl
@[simp] theorem State.mem_cwSample (s : State) (core at_ row : Nat) : (State.cwSample s core at_ row).mem = s.mem := by
  unfold State.cwSample; dsimp only; (repeat' split) <;> simp [apply_ite State.mem]
@[simp] theorem State.mem_postNext (s : State) (is : List Instr) : (State.postNext s is).mem = s.mem := rfl
@[simp] theorem State.mem_pushEvent (s : State) (c n : Nat) (missed : Bool) : (State.pushEvent s c n missed).mem = s.mem := by
  unfold State.pushEvent; (repeat' split) <;> simp [apply_ite State.mem]
@[simp] theorem State.mem_pushNotes (s : State) (c : Nat) : (State.pushNotes s c).mem = s.mem := by
  unfold State.pushNotes; exact State.mem_foldl _ _ _ fun s x => by simp
@[simp] theorem State.mem_evalRow (s : State) (c n : Nat) : (State.evalRow s c n).mem = s.mem := by simp [State.evalRow, apply_ite State.mem]
@[simp] theorem State.mem_reevaluate (s : State) (c : Nat) : (State.reevaluate s c).mem = s.mem := by
  unfold State.reevaluate; exact State.mem_foldl _ _ _ fun s x => by simp
@[simp] theorem State.mem_rebudget (s : State) (c : Nat) : (State.rebudget s c).mem = s.mem := rfl
@[simp] theorem State.mem_modLaunch (s : State) (g : Nat) (f : Launch → Launch) : (State.modLaunch s g f).mem = s.mem := rfl
@[simp] theorem State.mem_askFor (s : State) (ctx va n : Nat) : (State.askFor s ctx va n).mem = s.mem := by
  unfold State.askFor; exact State.mem_foldl _ _ _ fun s x => by split <;> simp
@[simp] theorem State.mem_messageOut (s : State) (a b stop : Nat) (ev : Instr) : (State.messageOut s a b stop ev).mem = s.mem := by simp [State.messageOut]
@[simp] theorem State.mem_message (s : State) (a b cap : Nat) (ev : Instr) :
    (State.message s a b cap ev).mem = s.mem := by simp [State.message, apply_ite State.mem]
@[simp] theorem State.mem_acknowledge (s : State) (ev : Instr) : (State.acknowledge s ev).mem = s.mem := by
  unfold State.acknowledge; split <;> simp
@[simp] theorem State.mem_sendTokens (s : State) (r : Nat) (skip : Bool) : (State.sendTokens s r skip).mem = s.mem := by
  unfold State.sendTokens; exact State.mem_foldl _ _ _ fun s x => by simp
@[simp] theorem State.mem_mapInsts (s : State) (f : Nat → Inst → Inst) : (State.mapInsts s f).mem = s.mem := rfl
@[simp] theorem State.mem_askSelection (s : State) (die : Nat) : (State.askSelection s die).mem = s.mem := rfl
@[simp] theorem State.mem_askSelections (s : State) : (State.askSelections s).mem = s.mem := by
  unfold State.askSelections; exact State.mem_foldl _ _ _ fun s x => by split <;> simp
@[simp] theorem State.mem_listInsts (s : State) (o : Origin) : (State.listInsts s o).mem = s.mem := by
  unfold State.listInsts; exact State.mem_foldl _ _ _ fun s x => by simp
@[simp] theorem State.mem_checkLaunchEnd (s : State) (g : Nat) : (State.checkLaunchEnd s g).mem = s.mem := by
  unfold State.checkLaunchEnd; dsimp only; (repeat' split) <;> simp [apply_ite State.mem]
@[simp] theorem State.mem_nodeFinished (s : State) (r : Nat) : (State.nodeFinished s r).mem = s.mem := by
  unfold State.nodeFinished; split <;> simp
@[simp] theorem State.mem_preemptFor (s : State) (limit i : Nat) : (State.preemptFor s limit i).mem = s.mem := by
  unfold State.preemptFor; dsimp only; (repeat' split) <;> simp [apply_ite State.mem]
@[simp] theorem State.mem_countShare (s : State) (id : Nat) (up : Bool) : (State.countShare s id up).mem = s.mem := rfl
@[simp] theorem State.mem_takeRef (s : State) (i id : Nat) : (State.takeRef s i id).mem = s.mem := rfl
@[simp] theorem State.mem_dropRefs (s : State) (i : Nat) : (State.dropRefs s i).mem = s.mem := by
  unfold State.dropRefs; exact State.mem_foldl _ _ _ fun s x => by simp
@[simp] theorem State.mem_mapShare (s : State) (i : Nat) (x : Inst) (e : Ext) : (State.mapShare s i x e).2.mem = s.mem := by
  unfold State.mapShare; repeat' (first
    | with_reducible rfl
    | (rename_i h; first | (have k := congrArg Prod.snd h; dsimp only at k; subst k; clear h) | (have k := congrArg Prod.fst h; dsimp only at k; subst k; clear h))
    | (intro _) | split | (refine Eq.trans (State.mem_foldl _ _ _ fun s x => ?_) ?_)
    | (refine Eq.trans (State.mem_foldl2 _ _ _ fun q x => ?_) ?_) | simp [apply_ite State.mem] | simp [apply_ite State.mem, *] | dsimp only
    | rfl)
@[simp] theorem State.mem_startInst (s : State) (i : Nat) : (State.startInst s i).mem = s.mem := by
  unfold State.startInst; repeat' (first
    | rfl | (intro _) | split | (refine Eq.trans (State.mem_foldl _ _ _ fun s x => ?_) ?_) | simp [apply_ite State.mem, *] | dsimp only)
@[simp] theorem State.mem_enterTram (s : State) (c i : Nat) : (State.enterTram s c i).mem = s.mem := rfl
@[simp] theorem State.mem_leaveTram (s : State) (c i : Nat) : (State.leaveTram s c i).mem = s.mem := rfl
@[simp] theorem State.mem_prepare (s : State) (i : Nat) : (State.prepare s i).mem = s.mem := rfl
@[simp] theorem State.mem_releaseReservation (s : State) (x : Inst) : (State.releaseReservation s x).mem = s.mem := by
  unfold State.releaseReservation; repeat' (first
    | rfl | (intro _) | split | (refine Eq.trans (State.mem_foldl _ _ _ fun s x => ?_) ?_) | simp [apply_ite State.mem, *] | dsimp only)
@[simp] theorem State.mem_dropHeld (s : State) (n : Nat) : (State.dropHeld s n).mem = s.mem := by simp [State.dropHeld]
@[simp] theorem State.mem_leaveDecks (s : State) (i : Nat) : (State.leaveDecks s i).mem = s.mem := by
  unfold State.leaveDecks; exact State.mem_foldl _ _ _ fun s x => by split <;> simp
@[simp] theorem State.mem_closeTransfer (s : State) (i : Nat) : (State.closeTransfer s i).mem = s.mem := by
  unfold State.closeTransfer; repeat' (first
    | rfl | (intro _) | split | (refine Eq.trans (State.mem_foldl _ _ _ fun s x => ?_) ?_) | simp [apply_ite State.mem, *] | dsimp only)
@[simp] theorem State.mem_endCommands (s : State) (c i : Nat) : (State.endCommands s c i).mem = s.mem := by
  unfold State.endCommands; repeat' (first
    | rfl | (intro _) | split | (refine Eq.trans (State.mem_foldl _ _ _ fun s x => ?_) ?_) | simp [apply_ite State.mem, *] | dsimp only)
@[simp] theorem State.mem_abandonPages (s : State) (i : Nat) : (State.abandonPages s i).mem = s.mem := by
  unfold State.abandonPages; repeat' (first
    | rfl | (intro _) | split | (refine Eq.trans (State.mem_foldl _ _ _ fun s x => ?_) ?_) | simp [apply_ite State.mem, *] | dsimp only)
@[simp] theorem State.mem_freeShadows (s : State) (hs : List Shadow) : (State.freeShadows s hs).mem = s.mem := by
  unfold State.freeShadows; exact State.mem_foldl _ _ _ fun s x => by split <;> simp
@[simp] theorem State.mem_retireInst (s : State) (i : Nat) : (State.retireInst s i).mem = s.mem := by simp [State.retireInst, apply_ite State.mem]
@[simp] theorem State.mem_cancelSet (s : State) (q : SpawnSet) : (State.cancelSet s q).mem = s.mem := by
  unfold State.cancelSet; dsimp only; split <;> rfl
@[simp] theorem State.mem_commitNode (s : State) (key : Nat) (is : List (Nat × Inst)) : (State.commitNode s key is).mem = s.mem := by
  unfold State.commitNode; repeat' (first
    | rfl
    | (rename_i h; first | (have k := congrArg Prod.snd h; dsimp only at k; subst k; clear h) | (have k := congrArg Prod.fst h; dsimp only at k; subst k; clear h))
    | (intro _) | split | (refine Eq.trans (State.mem_foldl _ _ _ fun s x => ?_) ?_) | simp [apply_ite State.mem]
    | simp [apply_ite State.mem, *] | dsimp only)
@[simp] theorem State.mem_endInsts (s : State) (is : List (Nat × Inst)) : (State.endInsts s is).mem = s.mem := by
  unfold State.endInsts; exact State.mem_foldl _ _ _ fun s x => by simp
@[simp] theorem State.mem_pushStatus (s : State) (h : Hd) (w : Word) : (State.pushStatus s h w).mem = s.mem := rfl
@[simp] theorem State.mem_listSet (s : State) (q : SpawnSet) (readyAt : Nat) :
    (State.listSet s q readyAt).mem = s.mem := by simp [State.listSet, apply_ite State.mem]
@[simp] theorem State.mem_askRange (s : State) (ctx va n : Nat) : (State.askRange s ctx va n).mem = s.mem := by
  unfold State.askRange; exact State.mem_foldl _ _ _ fun s x => by simp
@[simp] theorem State.mem_thaw (s : State) (i : Nat) : (State.thaw s i).mem = s.mem := by
  unfold State.thaw; repeat' (first
    | rfl | (intro _) | split | (refine Eq.trans (State.mem_foldl _ _ _ fun s x => ?_) ?_) | simp [apply_ite State.mem, *] | dsimp only)
@[simp] theorem State.mem_copyRows (s : State) (i : Nat) (rows : List (Nat × Nat × Nat)) (out : Bool) :
    (State.copyRows s i rows out).mem = s.mem := by
  unfold State.copyRows; repeat' (first
    | rfl | (intro _) | split | (refine Eq.trans (State.mem_foldl _ _ _ fun s x => ?_) ?_) | simp [apply_ite State.mem, *] | dsimp only)
@[simp] theorem State.mem_leaveTrams (s : State) (i : Nat) (rows : List (Nat × Nat × Nat)) : (State.leaveTrams s i rows).mem = s.mem := by
  unfold State.leaveTrams; exact State.mem_foldl _ _ _ fun s x => by split <;> simp
@[simp] theorem State.mem_sendFlits (s : State) (xid port c : Nat) : (State.sendFlits s xid port c).mem = s.mem := rfl
@[simp] theorem State.mem_xmitSample (s : State) (n c xid row : Nat) : (State.xmitSample s n c xid row).mem = s.mem := by
  unfold State.xmitSample; dsimp only; (repeat' split) <;> simp [apply_ite State.mem]
@[simp] theorem State.mem_flitArrives (s : State) (f : Flit) (c : Nat) : (State.flitArrives s f c).mem = s.mem := by
  unfold State.flitArrives; (repeat' split) <;> simp [apply_ite State.mem]
@[simp] theorem State.mem_loseFlit (s : State) (i : Nat) (f : Flit) : (State.loseFlit s i f).mem = s.mem := by simp [State.loseFlit, apply_ite State.mem]
@[simp] theorem State.mem_loseSum (s : State) (i slot : Nat) : (State.loseSum s i slot).mem = s.mem := by simp [State.loseSum, apply_ite State.mem]
@[simp] theorem State.mem_moveFlits (s : State) (i t : Nat) : (State.moveFlits s i t).mem = s.mem := by
  unfold State.moveFlits; repeat' (first
    | rfl | (intro _) | split | (refine Eq.trans (State.mem_foldl _ _ _ fun s x => ?_) ?_) | simp [apply_ite State.mem, *] | dsimp only)
@[simp] theorem State.mem_deliverRow (s : State) (f : Flit) : (State.deliverRow s f).mem = s.mem := by
  unfold State.deliverRow; (repeat' split) <;> simp [apply_ite State.mem]
@[simp] theorem State.mem_deliverRows (s : State) (i t : Nat) : (State.deliverRows s i t).mem = s.mem := by
  unfold State.deliverRows; exact State.mem_foldl _ _ _ fun s x => by simp
@[simp] theorem State.mem_addLanes (s : State) (g slot : Nat) (row : Image) : (State.addLanes s g slot row).mem = s.mem := rfl
@[simp] theorem State.mem_pushReduction (s : State) (n : Nat) (img : Image) :
    (State.pushReduction s n img).mem = s.mem := by simp [State.pushReduction, apply_ite State.mem]
@[simp] theorem State.mem_roundSlot (s : State) (slot : Nat) (parts : Map (BitVec 320)) (decks : List Nat) :
    (State.roundSlot s slot parts decks).mem = s.mem := by
  unfold State.roundSlot; exact State.mem_foldl _ _ _ fun s x => by simp
@[simp] theorem State.mem_closeBound (s : State) (i : Nat) : (State.closeBound s i).mem = s.mem := by
  unfold State.closeBound; exact State.mem_foldl _ _ _ fun s x => by simp
@[simp] theorem State.mem_peerPartials (s : State) (g dev : Nat) (ps : List (BitVec 320)) : (State.peerPartials s g dev ps).mem = s.mem := by
  unfold State.peerPartials; split <;> simp
@[simp] theorem State.mem_sendGroup (s : State) (i g : Nat) : (State.sendGroup s i g).mem = s.mem := by
  unfold State.sendGroup; exact State.mem_foldl _ _ _ fun s x => by split <;> simp
@[simp] theorem State.mem_peerSample (s : State) (core device row : Nat) : (State.peerSample s core device row).mem = s.mem := by
  unfold State.peerSample; dsimp only; (repeat' split) <;> simp [apply_ite State.mem]
@[simp] theorem State.mem_wakeHld (s : State) (ctx page : Nat) : (State.wakeHld s ctx page).mem = s.mem := by
  unfold State.wakeHld; repeat' (first
    | with_reducible rfl
    | (rename_i h; first | (have k := congrArg Prod.snd h; dsimp only at k; subst k; clear h) | (have k := congrArg Prod.fst h; dsimp only at k; subst k; clear h))
    | (intro _) | split | (refine Eq.trans (State.mem_foldl _ _ _ fun s x => ?_) ?_)
    | (refine Eq.trans (State.mem_foldl2 _ _ _ fun q x => ?_) ?_) | simp [apply_ite State.mem] | simp [apply_ite State.mem, *] | dsimp only
    | rfl)
@[simp] theorem State.mem_installPage (s : State) (ctx page : Nat) (a : Nat × Bool × Bool) : (State.installPage s ctx page a).mem = s.mem := by
  unfold State.installPage; exact State.mem_foldl _ _ _ fun s x => by simp
@[simp] theorem State.mem_pageAbsent (s : State) (core eng : Nat) (first : Bool) : (State.pageAbsent s core eng first).mem = s.mem := by
  unfold State.pageAbsent; (repeat' split) <;> simp [apply_ite State.mem]
@[simp] theorem State.mem_trigger (s : State) (value : Word) : (State.trigger s value).mem = s.mem := by simp [State.trigger, apply_ite State.mem]
@[simp] theorem State.mem_launchesEnd (s : State) (r : Nat) : (State.launchesEnd s r).mem = s.mem := by
  unfold State.launchesEnd; exact State.mem_foldl _ _ _ fun s x => by simp
@[simp] theorem State.mem_maskWrite (s : State) (k : Nat) (value : Word) :
    (State.maskWrite s k value).mem = s.mem := by simp [State.maskWrite, apply_ite State.mem]
@[simp] theorem State.mem_tableWrite (s : State) (entry : Nat) (value : Lane) :
    (State.tableWrite s entry value).mem = s.mem := by simp [State.tableWrite, apply_ite State.mem]
@[simp] theorem State.mem_setPower (s : State) (isDie : Bool) (n : Nat) (p : Power) :
    (State.setPower s isDie n p).mem = s.mem := by simp [State.setPower, apply_ite State.mem]
@[simp] theorem State.mem_powerRequest (s : State) (isDie : Bool) (n r : Nat) :
    (State.powerRequest s isDie n r).mem = s.mem := by simp [State.powerRequest, apply_ite State.mem]
@[simp] theorem State.mem_powerWrite (s : State) (isDie : Bool) (n : Nat) (value : Word) :
    (State.powerWrite s isDie n value).mem = s.mem := by simp [State.powerWrite, apply_ite State.mem]
@[simp] theorem State.mem_startStacks (s : State) (d : Nat) : (State.startStacks s d).mem = s.mem := rfl
@[simp] theorem State.mem_stackStep (s : State) : (State.stackStep s).mem = s.mem := by
  unfold State.stackStep; (repeat' split) <;> simp [apply_ite State.mem]
@[simp] theorem State.mem_bootStep (s : State) : (State.bootStep s).mem = s.mem := by
  unfold State.bootStep; repeat' (first
    | with_reducible rfl
    | (rename_i h; first | (have k := congrArg Prod.snd h; dsimp only at k; subst k; clear h) | (have k := congrArg Prod.fst h; dsimp only at k; subst k; clear h))
    | (intro _) | split | (refine Eq.trans (State.mem_foldl _ _ _ fun s x => ?_) ?_)
    | (refine Eq.trans (State.mem_foldl2 _ _ _ fun q x => ?_) ?_) | simp [apply_ite State.mem] | simp [apply_ite State.mem, *] | dsimp only
    | rfl)
@[simp] theorem State.mem_dropCompared (s s0 : State) (n : Nat) (h : Hd) : (State.dropCompared s s0 n h).mem = s.mem := by
  unfold State.dropCompared; exact State.mem_foldl _ _ _ fun s x => rfl
@[simp] theorem State.mem_spoilParity (s : State) (c n w : Nat) : (State.spoilParity s c n w).mem = s.mem := by
  unfold State.spoilParity; (repeat' split) <;> rfl
@[simp] theorem State.mem_checkParity (s s0 : State) (n : Nat) (is : List Instr) : (State.checkParity s s0 n is).mem = s.mem := by
  unfold State.checkParity; repeat' (first
    | rfl | (intro _) | split | (refine Eq.trans (State.mem_foldl _ _ _ fun s x => ?_) ?_) | simp [apply_ite State.mem, *] | dsimp only)
@[simp] theorem State.mem_checkCells (s : State) (m : Micro) : (State.checkCells s m).mem = s.mem := by
  unfold State.checkCells
  have k : ∀ (f : Nat → Word) (l : List Nat) (s : State) (n : Nat) (i : Option Nat), (l.foldl (fun s a => s.arrayCheck m.core n i 0x02 (f a)) s).mem = s.mem :=
    fun f l s n i => State.mem_foldl _ _ _ fun s x => by simp
  dsimp only; repeat' split
  all_goals first | rfl | exact k _ _ _ _ _ | simp
@[simp] theorem State.mem_faultyLanes (s : State) (n : Nat) (mask : Word) : (State.faultyLanes s n mask).mem = s.mem := by
  unfold State.faultyLanes; split <;> rfl
@[simp] theorem State.mem_faultyColumns (s : State) (c : Nat) (mask : Word) : (State.faultyColumns s c mask).mem = s.mem := by
  unfold State.faultyColumns; repeat' (first
    | rfl | (intro _) | split | (refine Eq.trans (State.mem_foldl _ _ _ fun s x => ?_) ?_) | simp [apply_ite State.mem, *] | dsimp only)
@[simp] theorem State.mem_checkResidue (s : State) (core deck : Nat) (detail : Word) : (State.checkResidue s core deck detail).mem = s.mem := by
  unfold State.checkResidue; (repeat' split) <;> simp
@[simp] theorem State.mem_flipParapet (s : State) (n w : Nat) : (State.flipParapet s n w).mem = s.mem := rfl
@[simp] theorem State.mem_landChecked (s : State) (n : Nat) : (State.landChecked s n).mem = s.mem := by
  unfold State.landChecked; dsimp only; split <;> simp
@[simp] theorem State.mem_dropPacket (s : State) (g : Nat) : (State.dropPacket s g).mem = s.mem := by unfold State.dropPacket; split <;> rfl
@[simp] theorem State.mem_endDeck (s : State) (n : Nat) : (State.endDeck s n).mem = s.mem := rfl
@[simp] theorem State.mem_endTransfer (s : State) (i : Nat) : (State.endTransfer s i).mem = s.mem := by
  unfold State.endTransfer; (repeat' split) <;> simp [apply_ite State.mem]
@[simp] theorem State.mem_askAgain (s : State) : (State.askAgain s).mem = s.mem := by
  unfold State.askAgain; repeat' (first
    | rfl | (intro _) | split | (refine Eq.trans (State.mem_foldl _ _ _ fun s x => ?_) ?_) | simp [apply_ite State.mem, *] | dsimp only)
@[simp] theorem State.mem_readSensors (s : State) : (State.readSensors s).mem = s.mem := by simp [State.readSensors, apply_ite State.mem]
@[simp] theorem State.mem_powerEvents (s : State) : (State.powerEvents s).mem = s.mem := by
  unfold State.powerEvents; repeat' (first
    | rfl | (intro _) | split | (refine Eq.trans (State.mem_foldl _ _ _ fun s x => ?_) ?_) | simp [apply_ite State.mem, *] | dsimp only)
@[simp] theorem State.mem_saveEvents (s : State) : (State.saveEvents s).mem = s.mem := by
  unfold State.saveEvents; repeat' (first
    | rfl | (intro _) | split | (refine Eq.trans (State.mem_foldl _ _ _ fun s x => ?_) ?_) | simp [apply_ite State.mem, *] | dsimp only)
@[simp] theorem State.mem_endClock (s : State) : (State.endClock s).mem = s.mem := by
  unfold State.endClock; repeat' (first
    | rfl | (intro _) | split | (refine Eq.trans (State.mem_foldl _ _ _ fun s x => ?_) ?_) | simp [apply_ite State.mem, *] | dsimp only)
@[simp] theorem State.mem_tick (s : State) : (State.tick s).mem = s.mem := rfl
@[simp] theorem State.mem_keepRequests (s t : State) : (State.keepRequests s t).mem = s.mem := rfl
@[simp] theorem State.mem_stepLoops (s : State) (n : Nat) : (State.stepLoops s n).mem = s.mem := by simp [State.stepLoops, apply_ite State.mem]
@[simp] theorem State.mem_startFork (s : State) (n : Nat) (ta te : CodeAddr) : (State.startFork s n ta te).mem = s.mem := rfl
@[simp] theorem State.mem_haltDeck (s : State) (n : Nat) : (State.haltDeck s n).mem = s.mem := by
  unfold State.haltDeck; dsimp only; (repeat' split) <;> simp [apply_ite State.mem]
@[simp] theorem State.mem_afterLockstep (s : State) (n : Nat) : (State.afterLockstep s n).mem = s.mem := by
  unfold State.afterLockstep; dsimp only; (repeat' split) <;> simp [apply_ite State.mem]
@[simp] theorem State.mem_afterAccess (s : State) (n : Nat) : (State.afterAccess s n).mem = s.mem := rfl
@[simp] theorem State.mem_afterExecute (s : State) (n : Nat) : (State.afterExecute s n).mem = s.mem := by simp [State.afterExecute, apply_ite State.mem]
@[simp] theorem State.mem_stallBundle (s : State) (n : Nat) (side : Option Bool) (other : Bool) :
    (State.stallBundle s n side other).mem = s.mem := rfl
@[simp] theorem State.mem_beginBundle (s : State) (n : Nat) (side : Option Bool) (pc : CodeAddr) (anew : Option Again) :
    (State.beginBundle s n side pc anew).mem = s.mem := rfl
@[simp] theorem State.mem_finishBundle (s : State) (n : Nat) (side : Option Bool) : (State.finishBundle s n side).mem = s.mem := by
  unfold State.finishBundle; (repeat' split) <;> simp [apply_ite State.mem]
@[simp] theorem State.mem_enterKernel (s : State) (n : Nat) : (State.enterKernel s n).mem = s.mem := by
  unfold State.enterKernel; dsimp only; (repeat' split) <;> simp [apply_ite State.mem]

theorem State.wf_ite {c : Prop} [Decidable c] {a b : State} (ha : a.mem.wf = true) (hb : b.mem.wf = true) :
    (if c then a else b).mem.wf = true := by split <;> assumption
theorem State.wf_foldl2 {α β : Type} (l : List α) (f : β × State → α → β × State) (q : β × State) (h : q.2.mem.wf = true)
    (hf : ∀ q x, q.2.mem.wf = true → (f q x).2.mem.wf = true) : (l.foldl f q).2.mem.wf = true := by
  induction l generalizing q with
  | nil => exact h
  | cons a l ih => exact ih _ (hf _ _ h)
theorem State.wf_foldl {α : Type} (l : List α) (f : State → α → State) (s : State) (h : s.mem.wf = true)
    (hf : ∀ s x, s.mem.wf = true → (f s x).mem.wf = true) : (l.foldl f s).mem.wf = true := by
  induction l generalizing s with
  | nil => exact h
  | cons a l ih => exact ih _ (hf _ _ h)
@[simp] theorem State.wf_performFrom (s : State) (src c n : Nat) (mask : BitVec 512) (data : Image) (tag : Option Tag) (hs : s.mem.wf = true) :
    (State.performFrom s src c n mask data tag).mem.wf = true := by
  unfold State.performFrom
  dsimp only
  rw [State.mem_modCore]
  exact Memory.wf_write (by rw [State.mem_countErrors]; exact hs) _ _ _
@[simp] theorem State.wf_performWrite (s : State) (c n : Nat) (mask : BitVec 512) (data : Image) (tag : Option Tag) (hs : s.mem.wf = true) :
    (State.performWrite s c n mask data tag).mem.wf = true := by
  unfold State.performWrite; simp [hs]
@[simp] theorem State.wf_storeBytes (s : State) (c n : Nat) (mask : BitVec 512) (data : Image) (tag : Option Tag) (hs : s.mem.wf = true) :
    (State.storeBytes s c n mask data tag).mem.wf = true := State.wf_performWrite _ _ _ _ _ _ hs
@[simp] theorem State.wf_writeFrameRow (s : State) (n k : Nat) (img : Image) (hs : s.mem.wf = true) :
    (State.writeFrameRow s n k img).mem.wf = true := by
  unfold State.writeFrameRow; simp [hs]
theorem State.wf_frameStep (s : State) (n k : Nat) (open_ : List OpenRow) (l : List Image) (hs : s.mem.wf = true) :
    (s.frameStep n k open_ l).mem.wf = true := by
  cases l with
  | nil => rw [State.frameStep, State.mem_startHandler]; exact hs
  | cons a l =>
    rw [State.frameStep]
    refine State.wf_ite ?_ ?_
    · rw [State.mem_startHandler]; exact State.wf_writeFrameRow _ _ _ _ hs
    · rw [State.mem_access]; exact State.wf_writeFrameRow _ _ _ _ hs
@[simp] theorem State.wf_enterTrap (s : State) (n : Nat) (hs : s.mem.wf = true) : (State.enterTrap s n).mem.wf = true := by
  unfold State.enterTrap
  dsimp only
  split
  · exact hs
  refine State.wf_ite hs ?_
  rw [State.mem_startFrame]
  have k : ∀ (s0 : State) (n : Nat) (f : Option Revoc), s0.mem.wf = true → (State.squashFrom s0 n f).1.mem.wf = true := fun s0 n f h => by
    rw [State.mem_squashFrom]; exact h
  refine State.wf_ite ?_ (k _ _ _ hs)
  rw [State.mem_engineTrapTaken]
  exact k _ _ _ hs
@[simp] theorem State.wf_takeTrap (s : State) (n : Nat) (t : Trap) (hs : s.mem.wf = true) : (State.takeTrap s n t).mem.wf = true := by
  unfold State.takeTrap; dsimp only; (repeat' split) <;> simp [*]
@[simp] theorem State.wf_raiseInfo (s : State) (cause : Nat) (info addr : Word) (order : Nat) (hs : s.mem.wf = true) :
    (State.raiseInfo s cause info addr order).mem.wf = true := by
  unfold State.raiseInfo; simp [hs]
@[simp] theorem State.wf_raise (s : State) (h : Hd) (cause detail : Nat) (addr : Word) (hs : s.mem.wf = true) :
    (State.raise s h cause detail addr).mem.wf = true := by
  unfold State.raise; simp [hs]
@[simp] theorem State.wf_queueFail (s : State) (h : Hd) (qm : Nat) (cause name : Nat) (hs : s.mem.wf = true) :
    (State.queueFail s h qm cause name).mem.wf = true := by
  unfold State.queueFail; (repeat' split) <;> simp [*]
theorem State.wf_scalar (s : State) (h : Hd) (srcs : List (BitVec 6)) (f : State → State)
    (hs : s.mem.wf = true) (hf : ∀ s : State, s.mem.wf = true → (f s).mem.wf = true) :
    (s.scalar h srcs f).mem.wf = true := by
  unfold State.scalar; (repeat' split) <;> simp [*]
@[simp] theorem State.wf_jump (s : State) (h : Hd) (t : CodeAddr) (pops : Bool) (hs : s.mem.wf = true) : (State.jump s h t pops).mem.wf = true := by
  unfold State.jump; split <;> simp [hs]
@[simp] theorem State.wf_setupLoop (s : State) (h : Hd) (n : Nat) (stop : CodeAddr) (hs : s.mem.wf = true) :
    (State.setupLoop s h n stop).mem.wf = true := by
  unfold State.setupLoop; dsimp only; (repeat' split) <;> simp [*]
theorem State.wf_control (s : State) (h : Hd) (srcs : List (BitVec 6)) (f : State → State)
    (hs : s.mem.wf = true) (hf : ∀ s : State, s.mem.wf = true → (f s).mem.wf = true) :
    (s.control h srcs f).mem.wf = true := by
  unfold State.control; repeat' (first
    | assumption
    | (rename_i h; first | (have k := congrArg Prod.snd h; dsimp only at k; subst k; clear h) | (have k := congrArg Prod.fst h; dsimp only at k; subst k; clear h))
    | (intro _) | split | (refine State.wf_scalar _ _ _ _ (by assumption) fun s h => ?_)
    | (refine State.wf_control _ _ _ _ (by assumption) fun s h => ?_) | (refine State.wf_revocable _ _ _ _ (by assumption) fun s h => ?_)
    | (refine State.wf_irrevocable _ _ _ _ (by assumption) fun s h => ?_) | (refine State.wf_matrix _ _ _ _ _ _ _ (by assumption) fun s h => ?_)
    | (refine State.wf_matrixChecks _ _ _ _ _ _ _ (by assumption) fun s h => ?_)
    | (refine State.wf_operands _ _ _ _ _ _ _ (by assumption) fun s vs h => ?_) | (refine State.wf_foldl _ _ _ ?_ fun s x h => ?_)
    | (refine State.wf_foldl2 _ _ _ ?_ fun q x h => ?_) | simp [*] | dsimp only)
@[simp] theorem State.wf_setSpr (s : State) (h : Hd) (b : XI) (n : Nat) (hs : s.mem.wf = true) : (State.setSpr s h b n).mem.wf = true := by
  unfold State.setSpr; repeat' (first
    | with_reducible assumption
    | (rename_i h; first | (have k := congrArg Prod.snd h; dsimp only at k; subst k; clear h) | (have k := congrArg Prod.fst h; dsimp only at k; subst k; clear h))
    | (intro _) | split | (refine State.wf_scalar _ _ _ _ (by assumption) fun s h => ?_)
    | (refine State.wf_control _ _ _ _ (by assumption) fun s h => ?_) | (refine State.wf_revocable _ _ _ _ (by assumption) fun s h => ?_)
    | (refine State.wf_irrevocable _ _ _ _ (by assumption) fun s h => ?_) | (refine State.wf_matrix _ _ _ _ _ _ _ (by assumption) fun s h => ?_)
    | (refine State.wf_matrixChecks _ _ _ _ _ _ _ (by assumption) fun s h => ?_)
    | (refine State.wf_operands _ _ _ _ _ _ _ (by assumption) fun s vs h => ?_) | (refine State.wf_foldl _ _ _ ?_ fun s x h => ?_)
    | (refine State.wf_foldl2 _ _ _ ?_ fun q x h => ?_) | simp [*] | dsimp only | assumption)
@[simp] theorem State.wf_store (s : State) (a n w : Nat) (hs : s.mem.wf = true) : (State.store s a n w).mem.wf = true := by
  unfold State.store
  have h := Memory.wf_write hs a n w
  refine State.wf_ite h (State.wf_foldl _ _ _ h fun s x h => ?_)
  rw [State.mem_countSymbol]; exact h
@[simp] theorem State.wf_writeVA (s : State) (node ctx v va n w : Nat) (hs : s.mem.wf = true) :
    (State.writeVA s node ctx v va n w).mem.wf = true := by
  unfold State.writeVA
  suffices g : ∀ (l : List (Nat × Nat)) (q : State × Nat), q.1.mem.wf = true → ((l.foldl (fun (q : State × Nat) p =>
    (match q.1.resolvePage node ctx (p.1 / pageBytes) v with
     | some b => q.1.store (b + p.1 % pageBytes) p.2 (q.2 % 256 ^ p.2)
     | none => q.1, q.2 / 256 ^ p.2)) q).1).mem.wf = true from g _ _ hs
  intro l
  induction l with
  | nil => exact fun _ h => h
  | cons p l ih =>
    intro q h
    refine ih _ ?_
    dsimp only
    split
    · exact State.wf_store _ _ _ _ h
    · exact h
@[simp] theorem State.wf_writeRowVA (s : State) (node ctx v va : Nat) (img : Image) (tag : Tag) (hs : s.mem.wf = true) :
    (State.writeRowVA s node ctx v va img tag).mem.wf = true := by
  unfold State.writeRowVA; dsimp only; (repeat' split) <;> simp [*]
@[simp] theorem State.wf_copyPage (s : State) (i : Nat) (c : PageCopy) (hs : s.mem.wf = true) : (State.copyPage s i c).mem.wf = true := by
  unfold State.copyPage
  extract_lets bad s1 old new
  have h1 : s1.mem.wf = true := State.wf_ite hs (by rw [State.mem_correctAt]; exact hs)
  clear_value s1 bad
  by_cases hu : c.undef.isEmpty = true <;> simp only [hu, if_true, if_false] <;> cases bad <;> dsimp only
  all_goals try rw [State.mem_checkInst, State.mem_logError]
  all_goals exact State.wf_store _ _ _ _ h1
theorem State.wf_revocable (s : State) (h : Hd) (srcs : List (BitVec 6)) (f : State → State)
    (hs : s.mem.wf = true) (hf : ∀ s : State, s.mem.wf = true → (f s).mem.wf = true) :
    (s.revocable h srcs f).mem.wf = true := by
  unfold State.revocable; repeat' (first
    | assumption
    | (rename_i h; first | (have k := congrArg Prod.snd h; dsimp only at k; subst k; clear h) | (have k := congrArg Prod.fst h; dsimp only at k; subst k; clear h))
    | (intro _) | split | (refine State.wf_scalar _ _ _ _ (by assumption) fun s h => ?_)
    | (refine State.wf_control _ _ _ _ (by assumption) fun s h => ?_) | (refine State.wf_revocable _ _ _ _ (by assumption) fun s h => ?_)
    | (refine State.wf_irrevocable _ _ _ _ (by assumption) fun s h => ?_) | (refine State.wf_matrix _ _ _ _ _ _ _ (by assumption) fun s h => ?_)
    | (refine State.wf_matrixChecks _ _ _ _ _ _ _ (by assumption) fun s h => ?_)
    | (refine State.wf_operands _ _ _ _ _ _ _ (by assumption) fun s vs h => ?_) | (refine State.wf_foldl _ _ _ ?_ fun s x h => ?_)
    | (refine State.wf_foldl2 _ _ _ ?_ fun q x h => ?_) | simp [*] | dsimp only)
theorem State.wf_irrevocable (s : State) (h : Hd) (srcs : List (BitVec 6)) (f : State → State)
    (hs : s.mem.wf = true) (hf : ∀ s : State, s.mem.wf = true → (f s).mem.wf = true) :
    (s.irrevocable h srcs f).mem.wf = true := by
  unfold State.irrevocable; repeat' (first
    | assumption
    | (rename_i h; first | (have k := congrArg Prod.snd h; dsimp only at k; subst k; clear h) | (have k := congrArg Prod.fst h; dsimp only at k; subst k; clear h))
    | (intro _) | split | (refine State.wf_scalar _ _ _ _ (by assumption) fun s h => ?_)
    | (refine State.wf_control _ _ _ _ (by assumption) fun s h => ?_) | (refine State.wf_revocable _ _ _ _ (by assumption) fun s h => ?_)
    | (refine State.wf_irrevocable _ _ _ _ (by assumption) fun s h => ?_) | (refine State.wf_matrix _ _ _ _ _ _ _ (by assumption) fun s h => ?_)
    | (refine State.wf_matrixChecks _ _ _ _ _ _ _ (by assumption) fun s h => ?_)
    | (refine State.wf_operands _ _ _ _ _ _ _ (by assumption) fun s vs h => ?_) | (refine State.wf_foldl _ _ _ ?_ fun s x h => ?_)
    | (refine State.wf_foldl2 _ _ _ ?_ fun q x h => ?_) | simp [*] | dsimp only)
@[simp] theorem State.wf_lds (s : State) (i : Instr) (h : Hd) (b : XI) (k : Nat) (hs : s.mem.wf = true) : (State.lds s i h b k).mem.wf = true := by
  unfold State.lds; repeat' (first
    | with_reducible assumption
    | (rename_i h; first | (have k := congrArg Prod.snd h; dsimp only at k; subst k; clear h) | (have k := congrArg Prod.fst h; dsimp only at k; subst k; clear h))
    | (intro _) | split | (refine State.wf_scalar _ _ _ _ (by assumption) fun s h => ?_)
    | (refine State.wf_control _ _ _ _ (by assumption) fun s h => ?_) | (refine State.wf_revocable _ _ _ _ (by assumption) fun s h => ?_)
    | (refine State.wf_irrevocable _ _ _ _ (by assumption) fun s h => ?_) | (refine State.wf_matrix _ _ _ _ _ _ _ (by assumption) fun s h => ?_)
    | (refine State.wf_matrixChecks _ _ _ _ _ _ _ (by assumption) fun s h => ?_)
    | (refine State.wf_operands _ _ _ _ _ _ _ (by assumption) fun s vs h => ?_) | (refine State.wf_foldl _ _ _ ?_ fun s x h => ?_)
    | (refine State.wf_foldl2 _ _ _ ?_ fun q x h => ?_) | simp [*] | dsimp only | assumption)
@[simp] theorem State.wf_sts (s : State) (h : Hd) (b : XI) (k : Nat) (hs : s.mem.wf = true) : (State.sts s h b k).mem.wf = true := by
  unfold State.sts; repeat' (first
    | with_reducible assumption
    | (rename_i h; first | (have k := congrArg Prod.snd h; dsimp only at k; subst k; clear h) | (have k := congrArg Prod.fst h; dsimp only at k; subst k; clear h))
    | (intro _) | split | (refine State.wf_scalar _ _ _ _ (by assumption) fun s h => ?_)
    | (refine State.wf_control _ _ _ _ (by assumption) fun s h => ?_) | (refine State.wf_revocable _ _ _ _ (by assumption) fun s h => ?_)
    | (refine State.wf_irrevocable _ _ _ _ (by assumption) fun s h => ?_) | (refine State.wf_matrix _ _ _ _ _ _ _ (by assumption) fun s h => ?_)
    | (refine State.wf_matrixChecks _ _ _ _ _ _ _ (by assumption) fun s h => ?_)
    | (refine State.wf_operands _ _ _ _ _ _ _ (by assumption) fun s vs h => ?_) | (refine State.wf_foldl _ _ _ ?_ fun s x h => ?_)
    | (refine State.wf_foldl2 _ _ _ ?_ fun q x h => ?_) | simp [*] | dsimp only | assumption)
@[simp] theorem State.wf_pinBy (s : State) (h : Hd) (b : XRR) (up : Bool) (hs : s.mem.wf = true) : (State.pinBy s h b up).mem.wf = true := by
  unfold State.pinBy; repeat' (first
    | assumption
    | (rename_i h; first | (have k := congrArg Prod.snd h; dsimp only at k; subst k; clear h) | (have k := congrArg Prod.fst h; dsimp only at k; subst k; clear h))
    | (intro _) | split | (refine State.wf_scalar _ _ _ _ (by assumption) fun s h => ?_)
    | (refine State.wf_control _ _ _ _ (by assumption) fun s h => ?_) | (refine State.wf_revocable _ _ _ _ (by assumption) fun s h => ?_)
    | (refine State.wf_irrevocable _ _ _ _ (by assumption) fun s h => ?_) | (refine State.wf_matrix _ _ _ _ _ _ _ (by assumption) fun s h => ?_)
    | (refine State.wf_matrixChecks _ _ _ _ _ _ _ (by assumption) fun s h => ?_)
    | (refine State.wf_operands _ _ _ _ _ _ _ (by assumption) fun s vs h => ?_) | (refine State.wf_foldl _ _ _ ?_ fun s x h => ?_)
    | (refine State.wf_foldl2 _ _ _ ?_ fun q x h => ?_) | simp [*] | dsimp only)
@[simp] theorem State.wf_tileRequest (s : State) (h : Hd) (b : XRR) (r : TileReq) (hs : s.mem.wf = true) :
    (State.tileRequest s h b r).mem.wf = true := by
  unfold State.tileRequest; repeat' (first
    | with_reducible assumption
    | (rename_i h; first | (have k := congrArg Prod.snd h; dsimp only at k; subst k; clear h) | (have k := congrArg Prod.fst h; dsimp only at k; subst k; clear h))
    | (intro _) | split | (refine State.wf_scalar _ _ _ _ (by assumption) fun s h => ?_)
    | (refine State.wf_control _ _ _ _ (by assumption) fun s h => ?_) | (refine State.wf_revocable _ _ _ _ (by assumption) fun s h => ?_)
    | (refine State.wf_irrevocable _ _ _ _ (by assumption) fun s h => ?_) | (refine State.wf_matrix _ _ _ _ _ _ _ (by assumption) fun s h => ?_)
    | (refine State.wf_matrixChecks _ _ _ _ _ _ _ (by assumption) fun s h => ?_)
    | (refine State.wf_operands _ _ _ _ _ _ _ (by assumption) fun s vs h => ?_) | (refine State.wf_foldl _ _ _ ?_ fun s x h => ?_)
    | (refine State.wf_foldl2 _ _ _ ?_ fun q x h => ?_) | simp [*] | dsimp only | assumption)
@[simp] theorem State.wf_mark (s : State) (h : Hd) (b : XRR) (recv : Bool) (hs : s.mem.wf = true) : (State.mark s h b recv).mem.wf = true := by
  unfold State.mark; repeat' (first
    | with_reducible assumption
    | (rename_i h; first | (have k := congrArg Prod.snd h; dsimp only at k; subst k; clear h) | (have k := congrArg Prod.fst h; dsimp only at k; subst k; clear h))
    | (intro _) | split | (refine State.wf_scalar _ _ _ _ (by assumption) fun s h => ?_)
    | (refine State.wf_control _ _ _ _ (by assumption) fun s h => ?_) | (refine State.wf_revocable _ _ _ _ (by assumption) fun s h => ?_)
    | (refine State.wf_irrevocable _ _ _ _ (by assumption) fun s h => ?_) | (refine State.wf_matrix _ _ _ _ _ _ _ (by assumption) fun s h => ?_)
    | (refine State.wf_matrixChecks _ _ _ _ _ _ _ (by assumption) fun s h => ?_)
    | (refine State.wf_operands _ _ _ _ _ _ _ (by assumption) fun s vs h => ?_) | (refine State.wf_foldl _ _ _ ?_ fun s x h => ?_)
    | (refine State.wf_foldl2 _ _ _ ?_ fun q x h => ?_) | simp [*] | dsimp only | assumption)
@[simp] theorem State.mem_firstTouch (s : State) (c : Cmd) (j : Job) (ps : List Nat) : (State.firstTouch s c j ps).2.mem = s.mem := by
  unfold State.firstTouch; dsimp only; (repeat' split) <;> simp
@[simp] theorem State.wf_touchShadows (s : State) (c : Cmd) (j : Job) (ps : List Nat) (hs : s.mem.wf = true) :
    (State.touchShadows s c j ps).mem.wf = true := by
  unfold State.touchShadows
  have h1 : (s.firstTouch c j ps).2.mem.wf = true := by rw [State.mem_firstTouch]; exact hs
  generalize s.firstTouch c j ps = q at h1
  exact State.wf_foldl _ _ _ h1 fun s x h => State.wf_copyPage _ _ _ h
@[simp] theorem State.wf_launchGather (s : State) (core eng : Nat) (j : Job) (q : Running) (hs : s.mem.wf = true) :
    (State.launchGather s core eng j q).mem.wf = true := by
  unfold State.launchGather
  have k : ∀ (l : List Nat) (f : State × Running → Nat → State × Running) (q : State × Running), (∀ q r, q.1.mem.wf = true → (f q r).1.mem.wf = true) →
      q.1.mem.wf = true → (l.foldl f q).1.mem.wf = true := fun l f => by
    induction l with
    | nil => exact fun _ _ h => h
    | cons a l ih => exact fun q hf h => ih _ hf (hf _ _ h)
  have k2 : ∀ (c : Nat → State × Running → Bool) (o : Option Nat) (q : State × Running), q.1.mem.wf = true →
      (match o with
        | some p => if c p q then q.1.setRunning core eng q.2 else q.1.standAt core eng p q.2
        | none => q.1.setRunning core eng q.2).mem.wf = true := fun c o q h => by
    cases o <;> simp [h, apply_ite State.mem]
  refine k2 (fun p q => q.2.todo.any _) _ _ (k _ _ _ (fun q r h => ?_) ?_)
  · dsimp only
    split
    · exact h
    · simp [h]
  · simp [hs]
theorem State.wf_launchRows (s : State) (core eng : Nat) (j : Job) (q : Running) (rs : List Nat) (hs : s.mem.wf = true) :
    (s.launchRows core eng j q rs).mem.wf = true := by
  induction rs generalizing s q with
  | nil => exact hs
  | cons r rs ih =>
    unfold State.launchRows
    dsimp only
    refine State.wf_ite (by simp [hs]) ?_
    split
    · simp [hs]
    · exact State.wf_ite (by simp [hs]) (ih _ _ (by simp [hs]))
@[simp] theorem State.wf_launch (s : State) (core eng : Nat) (hs : s.mem.wf = true) : (State.launch s core eng).mem.wf = true := by
  unfold State.launch
  split
  · exact State.wf_ite (State.wf_launchGather _ _ _ _ _ hs) (State.wf_launchRows _ _ _ _ _ _ hs)
  · exact hs
@[simp] theorem State.wf_relaunch (s : State) (core : Nat) (hs : s.mem.wf = true) : (State.relaunch s core).mem.wf = true := by
  unfold State.relaunch
  refine State.wf_foldl _ _ _ hs fun s e h => ?_
  split
  · exact State.wf_ite (by rw [State.mem_settleFault]; exact State.wf_launch _ _ _ h) h
  · exact h
@[simp] theorem State.wf_rowDone (s : State) (core eng r : Nat) (hs : s.mem.wf = true) : (State.rowDone s core eng r).mem.wf = true := by
  unfold State.rowDone
  split
  · exact hs
  dsimp only
  have k : ∀ (l : List (Nat × Nat)) (f : State → Nat × Nat → State) (s0 : State), s0.mem.wf = true → (∀ s x, (f s x).mem = s.mem) →
      (l.foldl f s0).mem.wf = true := fun l f s0 h0 hf => by
    rw [State.mem_foldl _ _ _ hf]; exact h0
  have h1 := fun (n : Nat) (c : Cmd) => (congrArg Memory.wf (State.mem_awaitAck s core eng r n c (‹Running›.cmd.job eng (s.getCore core)))).trans hs
  refine State.wf_ite ?_ ?_
  · rw [State.mem_modCore]; exact k _ _ _ (h1 _ _) fun s x => by split <;> simp
  rw [State.mem_settleFault]
  refine State.wf_ite ?_ (State.wf_launch _ _ _ ?_)
  · rw [State.mem_setRunning]; exact k _ _ _ (h1 _ _) fun s x => by split <;> simp
  · rw [State.mem_setRunning]; exact k _ _ _ (h1 _ _) fun s x => by split <;> simp
@[simp] theorem State.wf_putRow (s : State) (core eng c' row : Nat) (data : Option Image) (tag : Option Tag) (hs : s.mem.wf = true) :
    (State.putRow s core eng c' row data tag).mem.wf = true := by
  unfold State.putRow; dsimp only; (repeat' split) <;> simp [apply_ite State.mem, *]
@[simp] theorem State.wf_applyUpdate (s : State) (core fn base : Nat) (u : Nat × BitVec 32) (hs : s.mem.wf = true) :
    (State.applyUpdate s core fn base u).mem.wf = true := by
  unfold State.applyUpdate; dsimp only; (repeat' split) <;> simp [*]
theorem State.wf_applyUpdates (core fn base : Nat) (us : List (Nat × BitVec 32)) : ∀ (fuel : Nat) (acc : State × List (Nat × Nat))
    (left : List (Nat × BitVec 32)), acc.1.mem.wf = true → (State.applyUpdates core fn base fuel us acc left).1.1.mem.wf = true := by
  induction us with
  | nil => intro fuel acc left h; cases fuel <;> exact h
  | cons u us ih =>
    intro fuel acc left h
    cases fuel with
    | zero => exact h
    | succ n =>
      obtain ⟨s, busy⟩ := acc
      unfold State.applyUpdates
      split
      · exact h
      split
      · exact ih _ _ _ h
      · exact ih _ _ _ (State.wf_applyUpdate _ _ _ _ _ h)
theorem State.wf_serveUpdates (acc : State × List (Nat × Nat)) (m : Micro) (r fn base : Nat) (us : List (Nat × BitVec 32)) (hs : acc.1.mem.wf = true) :
    (State.serveUpdates acc m r fn base us).1.mem.wf = true := by
  unfold State.serveUpdates
  have h := State.wf_applyUpdates m.core fn base us 16 ({ acc.1 with micro := acc.1.micro.erase m }, acc.2) [] hs
  generalize State.applyUpdates _ _ _ _ _ _ _ = q at h
  obtain ⟨⟨s, busy⟩, left, fault⟩ := q
  dsimp only at h ⊢
  repeat' (first | exact h | split | simp [h])
@[simp] theorem State.wf_engSample (s : State) (core eng r wAt : Nat) (hs : s.mem.wf = true) : (State.engSample s core eng r wAt).mem.wf = true := by
  unfold State.engSample
  split
  · exact hs
  dsimp only
  split
  · split
    · exact hs
    split
    · rw [State.mem_failRow, State.mem_indexRow]; exact hs
    split
    · rw [State.mem_gatherMemory, State.mem_indexRow]; exact hs
    refine State.wf_ite (by rw [State.mem_failRow, State.mem_indexRow]; exact hs) ?_
    rw [State.mem_access, State.mem_engImages]
    split
    · rw [State.mem_engineConsumes, State.mem_indexRow]; exact hs
    · rw [State.mem_indexRow]; exact hs
  · split
    · exact hs
    split
    · rw [State.mem_failRow]; exact hs
    generalize ht' : @ite State (_ = true) (instDecidableEqBool _ true) (s.engineConsumes _ _ _) s = t
    have ht : t.mem.wf = true := ht' ▸ State.wf_ite (by rw [State.mem_engineConsumes]; exact hs) hs
    clear ht'
    have hp : ∀ (b : Bool) (c : Cmd) (n : Nat), (if b = true then (0, t) else t.engRow core c n : Image × State).2.mem.wf = true := fun b c n => by
      split
      · exact ht
      · rw [State.mem_engRow]; exact ht
    generalize hq : @ite (Image × State) (_ = true) (instDecidableEqBool _ true) (0, t) (t.engRow core _ _) = q at *
    have hq2 : q.2.mem.wf = true := hq ▸ hp _ _ _
    clear hq
    obtain ⟨img, u⟩ := q
    dsimp only at hq2 ⊢
    split
    · simp [hq2]
    · refine State.wf_ite (State.wf_rowDone _ _ _ _ hq2) (by simp [hq2])
    · refine State.wf_ite ?_ ?_ <;> simp [hq2]
@[simp] theorem State.wf_engPerform (s : State) (c src eng r dst : Nat) (data : Option Image) (tag : Option Tag) (hs : s.mem.wf = true) :
    (State.engPerform s c src eng r dst data tag).mem.wf = true := by
  unfold State.engPerform; dsimp only; (repeat' split) <;> simp [*]
@[simp] theorem State.wf_engineLeave (s : State) (core eng : Nat) (ev : Instr) (hs : s.mem.wf = true) :
    (State.engineLeave s core eng ev).mem.wf = true := by
  unfold State.engineLeave
  refine State.wf_ite hs ?_
  split
  · exact hs
  dsimp only
  refine State.wf_ite hs ?_
  rw [State.mem_settleFault]
  refine State.wf_launch _ _ _ (State.wf_foldl _ _ _ hs fun s x h => ?_)
  split
  · exact h
  · exact State.wf_ite h h
  · split
    · exact h
    · exact h
theorem State.wf_operands (s : State) (h : Hd) (qm : Nat) (srcs : List Nat) (push : Option Nat) (check : Deck → List VReg → Option (Nat × Nat × Word)) (act : State → List VReg → State)
    (hs : s.mem.wf = true) (hf : ∀ (s : State) vs, s.mem.wf = true → (act s vs).mem.wf = true) :
    (s.operands h qm srcs push check act).mem.wf = true := by
  unfold State.operands
  split
  · exact State.wf_queueFail _ _ _ _ _ hs
  · dsimp only
    refine State.wf_ite (State.wf_queueFail _ _ _ _ _ hs) ?_
    split
    · exact State.wf_raise _ _ _ _ _ hs
    · exact State.wf_ite (by rw [State.mem_writeP30]; exact hf _ _ hs) (hf _ _ hs)
@[simp] theorem State.wf_vector (s : State) (h : Hd) (qm lat nd : Nat) (xs : List (BitVec 6)) (srcs : List Nat) (check : Deck → List VReg → Option (Nat × Nat × Word)) (f : State → Pred → List VReg → Image × Tag × BitVec 8)
    (hs : s.mem.wf = true) :
    (State.vector s h qm lat nd xs srcs check f).mem.wf = true := by
  unfold State.vector; repeat' (first
    | assumption
    | (rename_i h; first | (have k := congrArg Prod.snd h; dsimp only at k; subst k; clear h) | (have k := congrArg Prod.fst h; dsimp only at k; subst k; clear h))
    | (intro _) | split | (refine State.wf_scalar _ _ _ _ (by assumption) fun s h => ?_)
    | (refine State.wf_control _ _ _ _ (by assumption) fun s h => ?_) | (refine State.wf_revocable _ _ _ _ (by assumption) fun s h => ?_)
    | (refine State.wf_irrevocable _ _ _ _ (by assumption) fun s h => ?_) | (refine State.wf_matrix _ _ _ _ _ _ _ (by assumption) fun s h => ?_)
    | (refine State.wf_matrixChecks _ _ _ _ _ _ _ (by assumption) fun s h => ?_)
    | (refine State.wf_operands _ _ _ _ _ _ _ (by assumption) fun s vs h => ?_) | (refine State.wf_foldl _ _ _ ?_ fun s x h => ?_)
    | (refine State.wf_foldl2 _ _ _ ?_ fun q x h => ?_) | simp [*] | dsimp only)
@[simp] theorem State.wf_vbin (s : State) (h : Hd) (b : VRR) (lat : Nat) (o : BinOp) (rmo : Nat) (sat : Bool) (hs : s.mem.wf = true) :
    (State.vbin s h b lat o rmo sat).mem.wf = true := by
  unfold State.vbin; simp [hs]
@[simp] theorem State.wf_vun (s : State) (h : Hd) (b : VRR) (o : BinOp) (hs : s.mem.wf = true) : (State.vun s h b o).mem.wf = true := by
  unfold State.vun; simp [hs]
@[simp] theorem State.wf_vtri (s : State) (h : Hd) (b : VRR) (ok : Nat → Bool) (f : Nat → Nat → Nat → Nat → Nat → Res) (hs : s.mem.wf = true) :
    (State.vtri s h b ok f).mem.wf = true := by
  unfold State.vtri; simp [hs]
@[simp] theorem State.wf_vmoveLanes (s : State) (h : Hd) (b : VRR) (f : State → VReg → Nat → Nat) (hs : s.mem.wf = true) :
    (State.vmoveLanes s h b f).mem.wf = true := by
  unfold State.vmoveLanes; simp [hs]
@[simp] theorem State.wf_vreduce (s : State) (h : Hd) (b : VRR) (k : Fold) (rmo : Nat) (sat : Bool) (hs : s.mem.wf = true) :
    (State.vreduce s h b k rmo sat).mem.wf = true := by
  unfold State.vreduce; simp [hs]
@[simp] theorem State.wf_vestimate (s : State) (h : Hd) (b : VRR) (k : Est) (hs : s.mem.wf = true) : (State.vestimate s h b k).mem.wf = true := by
  unfold State.vestimate; simp [hs]
@[simp] theorem State.wf_vbits (s : State) (h : Hd) (b : VRR) (f : Image → Image → Image) (hs : s.mem.wf = true) :
    (State.vbits s h b f).mem.wf = true := by
  unfold State.vbits; simp [hs]
@[simp] theorem State.wf_vshift (s : State) (h : Hd) (b : VRR) (kind : Nat) (hs : s.mem.wf = true) : (State.vshift s h b kind).mem.wf = true := by
  unfold State.vshift; simp [hs]
@[simp] theorem State.wf_vcount (s : State) (h : Hd) (b : VRR) (f : Nat → Nat → Res) (hs : s.mem.wf = true) :
    (State.vcount s h b f).mem.wf = true := by
  unfold State.vcount; simp [hs]
theorem State.wf_matrix (s : State) (h : Hd) (srcs : List (BitVec 6)) (none_ : State → Bool) (port : State → Nat) (busy : State → Bool) (f : State → State)
    (hs : s.mem.wf = true) (hf : ∀ s : State, s.mem.wf = true → (f s).mem.wf = true) :
    (s.matrix h srcs none_ port busy f).mem.wf = true := by
  unfold State.matrix; repeat' (first
    | assumption
    | (rename_i h; first | (have k := congrArg Prod.snd h; dsimp only at k; subst k; clear h) | (have k := congrArg Prod.fst h; dsimp only at k; subst k; clear h))
    | (intro _) | split | (refine State.wf_scalar _ _ _ _ (by assumption) fun s h => ?_)
    | (refine State.wf_control _ _ _ _ (by assumption) fun s h => ?_) | (refine State.wf_revocable _ _ _ _ (by assumption) fun s h => ?_)
    | (refine State.wf_irrevocable _ _ _ _ (by assumption) fun s h => ?_) | (refine State.wf_matrix _ _ _ _ _ _ _ (by assumption) fun s h => ?_)
    | (refine State.wf_matrixChecks _ _ _ _ _ _ _ (by assumption) fun s h => ?_)
    | (refine State.wf_operands _ _ _ _ _ _ _ (by assumption) fun s vs h => ?_) | (refine State.wf_foldl _ _ _ ?_ fun s x h => ?_)
    | (refine State.wf_foldl2 _ _ _ ?_ fun q x h => ?_) | simp [*] | dsimp only)
theorem State.wf_matrixChecks (s : State) (h : Hd) (frame chain : Bool) (addr : Option (Nat × Word)) (w : Word) (f : State → State)
    (hs : s.mem.wf = true) (hf : ∀ s : State, s.mem.wf = true → (f s).mem.wf = true) :
    (s.matrixChecks h frame chain addr w f).mem.wf = true := by
  unfold State.matrixChecks; (repeat' split) <;> simp [*]
@[simp] theorem State.wf_mrdPerform (s : State) (c : Nat) (q : ReadOut) (img : Image) (hs : s.mem.wf = true) :
    (State.mrdPerform s c q img).mem.wf = true := by
  unfold State.mrdPerform; dsimp only; (repeat' split) <;> simp [*]
@[simp] theorem State.wf_setSlotWord (s : State) (r w : Nat) (v : Word) (hs : s.mem.wf = true) :
    (State.setSlotWord s r w v).mem.wf = true := Memory.wf_write hs _ _ _
@[simp] theorem State.wf_setNodeState (s : State) (r st : Nat) (hs : s.mem.wf = true) : (State.setNodeState s r st).mem.wf = true := by
  unfold State.setNodeState; simp [hs]
@[simp] theorem State.wf_completePlain (s : State) (r : Nat) (skip : Bool) (hs : s.mem.wf = true) : (State.completePlain s r skip).mem.wf = true := by
  unfold State.completePlain; simp [State.setNodeState, State.wf_setSlotWord _ _ _ _ hs]
@[simp] theorem State.wf_runConditional (s : State) (r : Nat) (hs : s.mem.wf = true) : (State.runConditional s r).mem.wf = true := by
  unfold State.runConditional
  dsimp only
  exact State.wf_ite (State.wf_completePlain _ _ _ hs) (State.wf_ite (by simp [hs]) (State.wf_completePlain _ _ _ hs))
theorem State.wf_nodeReady (fuel : Nat) (s : State) (r : Nat) (hs : s.mem.wf = true) : (State.nodeReady fuel s r).mem.wf = true := by
  induction fuel generalizing s r with
  | zero => exact hs
  | succ n ih =>
    have h1 : (s.setNodeState r 1).mem.wf = true := State.wf_setNodeState _ _ _ hs
    unfold State.nodeReady
    dsimp only
    refine State.wf_ite (by simp [h1]) (State.wf_ite (State.wf_runConditional _ _ h1) (State.wf_ite ?_ (State.wf_completePlain _ _ _ h1)))
    have k : ∀ (o : Option Launch) (s : State) (f : Launch → Launch), s.mem.wf = true →
        (match o with | some l => s.modLaunch l.graph f | none => s).mem.wf = true := fun o s f h => by cases o <;> exact h
    refine State.wf_ite ?_ (State.wf_foldl _ _ _ ?_ fun s b h => ih _ _ h)
    · simp only [State.mem_post]
      split <;> exact State.wf_foldl _ _ _ (State.wf_setSlotWord _ _ _ _ h1) fun s b h => State.wf_setSlotWord _ _ _ _ h
    · split <;> exact State.wf_foldl _ _ _ (State.wf_setSlotWord _ _ _ _ h1) fun s b h => State.wf_setSlotWord _ _ _ _ h
@[simp] theorem State.wf_loadCode (s : State) (x : Inst) (c : Nat) (hs : s.mem.wf = true) : (State.loadCode s x c).mem.wf = true := by
  unfold State.loadCode
  split
  · exact hs
  dsimp only
  refine State.wf_ite hs ?_
  first
  | (rw [State.mem_modCore]; exact State.wf_foldl _ _ _ hs fun s x h => Memory.wf_write h _ _ _)
  | exact State.wf_foldl _ _ _ hs fun s x h => Memory.wf_write h _ _ _
@[simp] theorem State.wf_place (s : State) (i : Nat) (ds : List Nat) (hs : s.mem.wf = true) : (State.place s i ds).mem.wf = true := by
  unfold State.place; repeat' (first
    | with_reducible assumption
    | (rename_i h; first | (have k := congrArg Prod.snd h; dsimp only at k; subst k; clear h) | (have k := congrArg Prod.fst h; dsimp only at k; subst k; clear h))
    | (intro _) | split | (refine State.wf_scalar _ _ _ _ (by assumption) fun s h => ?_)
    | (refine State.wf_control _ _ _ _ (by assumption) fun s h => ?_) | (refine State.wf_revocable _ _ _ _ (by assumption) fun s h => ?_)
    | (refine State.wf_irrevocable _ _ _ _ (by assumption) fun s h => ?_) | (refine State.wf_matrix _ _ _ _ _ _ _ (by assumption) fun s h => ?_)
    | (refine State.wf_matrixChecks _ _ _ _ _ _ _ (by assumption) fun s h => ?_)
    | (refine State.wf_operands _ _ _ _ _ _ _ (by assumption) fun s vs h => ?_) | (refine State.wf_foldl _ _ _ ?_ fun s x h => ?_)
    | (refine State.wf_foldl2 _ _ _ ?_ fun q x h => ?_) | simp [*] | dsimp only | assumption)
@[simp] theorem State.wf_selectOne (s : State) (i : Nat) (hs : s.mem.wf = true) : (State.selectOne s i).mem.wf = true := by
  unfold State.selectOne; dsimp only; (repeat' split) <;> simp [*]
@[simp] theorem State.wf_copyStep (s : State) (i : Nat) (hs : s.mem.wf = true) : (State.copyStep s i).mem.wf = true := by
  unfold State.copyStep
  dsimp only
  split
  · refine State.wf_ite ?_ ?_ <;> simp [hs]
  · have h1 := State.wf_copyPage s i ‹PageCopy› hs
    refine State.wf_ite (by simp [hs]) (State.wf_ite (by simp [hs]) (State.wf_ite ?_ ?_))
    · rw [State.mem_post, State.mem_leaveTram, State.mem_modInst]; exact h1
    · rw [State.mem_post, State.mem_delay, State.mem_modInst]; exact h1
@[simp] theorem State.wf_dropStaged (s : State) (i : Nat) (hs : s.mem.wf = true) : (State.dropStaged s i).mem.wf = true := by
  unfold State.dropStaged
  dsimp only
  rw [State.mem_modInst]
  have k := fun (l : List Nat) (s : State) => State.mem_foldl l (fun (s : State) (c : Nat) => s.leaveTram c i) s fun s x => State.mem_leaveTram _ _ _
  rw [k, State.mem_dropRefs]
  refine State.wf_foldl _ _ _ ?_ fun s x h => ?_
  · show (State.freeShadows _ _).mem.wf = true
    rw [State.mem_freeShadows]; exact hs
  · split
    · exact State.wf_copyPage _ _ _ h
    · exact h
@[simp] theorem State.wf_killInst (s : State) (i : Nat) (st : InstSt) (hs : s.mem.wf = true) : (State.killInst s i st).mem.wf = true := by
  unfold State.killInst
  dsimp only
  rw [State.mem_askSelections, State.mem_modInst]
  refine (?_ : (State.forgetAcks (State.leaveDecks (State.releaseReservation (State.dropStaged (State.abandonPages (State.closeTransfer _ i) i) i) _) i) i).mem.wf = true)
  rw [State.mem_forgetAcks, State.mem_leaveDecks, State.mem_releaseReservation]
  refine State.wf_dropStaged _ _ ?_
  rw [State.mem_abandonPages, State.mem_closeTransfer]
  refine State.wf_foldl _ _ _ (State.wf_foldl _ _ _ hs fun s n h => State.wf_ite ?_ h) fun s c h => ?_
  · show ((State.stopDeck _ n).dropFetches n).mem.wf = true
    simp [h]
  · rw [State.mem_endCommands]; exact h
@[simp] theorem State.wf_rollBack (s : State) (inst : Nat) (hs : s.mem.wf = true) : (State.rollBack s inst).mem.wf = true := by
  unfold State.rollBack
  have h1 := State.wf_killInst s inst .cancelled hs
  refine State.wf_ite hs (State.wf_ite ?_ (State.wf_ite ?_ ?_))
  · rw [State.mem_postNext]; exact h1
  · rw [State.mem_postNext, State.mem_endNode, State.mem_logError]; exact h1
  · rw [State.mem_askSelection, State.mem_setInst]
    split
    · rw [State.mem_modLaunch]; exact h1
    · exact h1
@[simp] theorem State.wf_cancelOne (s : State) (i : Nat) (hs : s.mem.wf = true) : (State.cancelOne s i).mem.wf = true := by
  unfold State.cancelOne
  dsimp only
  split
  iterate 5 (· exact State.wf_killInst _ _ _ (by rw [State.mem_modInst]; exact hs))
  · refine State.wf_ite hs (State.wf_foldl _ _ _ ?_ fun s n h => State.wf_ite h ?_)
    · rw [State.mem_abandonPages, State.mem_setInst]; exact hs
    · rw [State.mem_modDeck]; exact h
  · exact hs
  · exact hs
@[simp] theorem State.wf_writeCompletions (s : State) (hs : s.mem.wf = true) : (State.writeCompletions s).mem.wf = true := by
  unfold State.writeCompletions; repeat' (first
    | assumption
    | (rename_i h; first | (have k := congrArg Prod.snd h; dsimp only at k; subst k; clear h) | (have k := congrArg Prod.fst h; dsimp only at k; subst k; clear h))
    | (intro _) | split | (refine State.wf_scalar _ _ _ _ (by assumption) fun s h => ?_)
    | (refine State.wf_control _ _ _ _ (by assumption) fun s h => ?_) | (refine State.wf_revocable _ _ _ _ (by assumption) fun s h => ?_)
    | (refine State.wf_irrevocable _ _ _ _ (by assumption) fun s h => ?_) | (refine State.wf_matrix _ _ _ _ _ _ _ (by assumption) fun s h => ?_)
    | (refine State.wf_matrixChecks _ _ _ _ _ _ _ (by assumption) fun s h => ?_)
    | (refine State.wf_operands _ _ _ _ _ _ _ (by assumption) fun s vs h => ?_) | (refine State.wf_foldl _ _ _ ?_ fun s x h => ?_)
    | (refine State.wf_foldl2 _ _ _ ?_ fun q x h => ?_) | simp [*] | dsimp only)
@[simp] theorem State.wf_cancelWaiting (s : State) (r : Nat) (hs : s.mem.wf = true) : (State.cancelWaiting s r).mem.wf = true := by
  unfold State.cancelWaiting
  dsimp only
  rw [State.mem_nodeFinished, State.mem_sendTokens]
  refine State.wf_setNodeState _ _ _ ?_
  split
  · exact State.wf_writeCompletions _ hs
  · exact hs
@[simp] theorem State.wf_writeRange (s : State) (ctx va n w : Nat) (hs : s.mem.wf = true) : (State.writeRange s ctx va n w).mem.wf = true := by
  unfold State.writeRange; exact State.wf_foldl _ _ _ hs fun s x h => by simp [h]
@[simp] theorem State.wf_writeRows (s : State) (ctx va : Nat) (k : Core) (hs : s.mem.wf = true) : (State.writeRows s ctx va k).mem.wf = true := by
  unfold State.writeRows
  exact State.wf_foldl _ _ _ hs fun s x h => State.wf_writeRange _ _ _ _ _ h
@[simp] theorem State.wf_writeSlots (s : State) (ctx va b : Nat) (k : Core) (hs : s.mem.wf = true) :
    (State.writeSlots s ctx va b k).mem.wf = true := by
  unfold State.writeSlots
  exact State.wf_foldl _ _ _ hs fun s x h => State.wf_writeRange _ _ _ _ _ h
@[simp] theorem State.wf_writePart (s : State) (ctx va : Nat) (k : Core) (array : Bool) (hs : s.mem.wf = true) :
    (State.writePart s ctx va k array).mem.wf = true := by
  unfold State.writePart
  exact State.wf_ite (State.wf_writeRange _ _ _ _ _ hs)
    (State.wf_writeSlots _ _ _ _ _ (State.wf_writeRows _ _ _ _ (State.wf_writeRange _ _ _ _ _ hs)))
@[simp] theorem State.wf_copyOut (s : State) (c i row k : Nat) (hs : s.mem.wf = true) : (State.copyOut s c i row k).mem.wf = true := by
  unfold State.copyOut
  dsimp only
  refine State.wf_ite (by rw [State.mem_modInst]; exact hs) ?_
  have h2 : ∀ (t : State) (va : Nat) (f : Inst → Inst) (d : Nat), t.mem.wf = true → ((t.writeVA (2 ^ 40) (s.getInst i).ctx t.clock va 512 d).modInst i f).mem.wf = true :=
    fun t va f d h => by rw [State.mem_modInst]; exact State.wf_writeVA _ _ _ _ _ _ _ h
  refine State.wf_ite ?_ ?_
  · rw [State.mem_checkInst, State.mem_logError]; exact h2 _ _ _ _ (by rw [State.mem_correct]; exact hs)
  · exact h2 _ _ _ _ (by rw [State.mem_correct]; exact hs)
@[simp] theorem State.wf_copyIn (s : State) (c i row k : Nat) (hs : s.mem.wf = true) : (State.copyIn s c i row k).mem.wf = true := by
  unfold State.copyIn; dsimp only; split <;> simp [hs]
@[simp] theorem State.wf_servePeers (s : State) (hs : s.mem.wf = true) : (State.servePeers s).mem.wf = true := by
  unfold State.servePeers
  have k : ∀ (l : List FromPeer) (f : State × List FromPeer → FromPeer → State × List FromPeer) (q : State × List FromPeer),
      (∀ q r, q.1.mem.wf = true → (f q r).1.mem.wf = true) → q.1.mem.wf = true → (l.foldl f q).1.mem.wf = true := fun l f => by
    induction l with
    | nil => exact fun _ _ h => h
    | cons a l ih => exact fun q hf h => ih _ hf (hf _ _ h)
  refine k _ _ _ (fun q m h => ?_) hs
  dsimp only
  split
  · exact h
  split
  · split <;> simp [h]
  · simp [h]
  · split
    · exact h
    · simp [h]
@[simp] theorem State.wf_uploadWrite (s : State) (die off : Nat) (value : Word) (hs : s.mem.wf = true) :
    (State.uploadWrite s die off value).mem.wf = true := by
  unfold State.uploadWrite
  dsimp only
  refine State.wf_ite (State.wf_ite (Memory.wf_write hs _ _ _) hs) (State.wf_ite hs ?_)
  rw [State.mem_launchesEnd]
  exact Memory.wf_write hs _ _ _
@[simp] theorem State.wf_barWrite (s : State) (off : Nat) (value : Word) (hs : s.mem.wf = true) : (State.barWrite s off value).mem.wf = true := by
  unfold State.barWrite
  refine State.wf_ite hs (State.wf_ite ?_ (State.wf_ite hs (State.wf_ite (State.wf_ite ?_ (State.wf_ite hs hs)) (State.wf_ite hs
    (State.wf_ite (State.wf_ite hs hs) (State.wf_ite ?_ (State.wf_ite ?_ (State.wf_ite ?_ (State.wf_ite ?_ (State.wf_ite hs hs))))))))))
  · rw [State.mem_trigger]; exact hs
  · exact State.wf_uploadWrite _ _ _ _ hs
  · rw [State.mem_tableWrite, State.mem_tableWrite]; exact hs
  · rw [State.mem_powerWrite]; exact hs
  · rw [State.mem_powerWrite]; exact hs
  · rw [State.mem_maskWrite]; exact hs
@[simp] theorem State.wf_loseCore (s : State) (c : Nat) (hs : s.mem.wf = true) : (State.loseCore s c).mem.wf = true := by
  unfold State.loseCore
  refine Memory.wf_filter ?_ _
  exact (congrArg Memory.wf (State.mem_foldl (coreDecks c) (fun (s : State) (n : Nat) => s.setDeck n Deck.reset) _ fun s x => rfl)).trans hs
@[simp] theorem State.wf_loseStacks (s : State) (d : Nat) (hs : s.mem.wf = true) : (State.loseStacks s d).mem.wf = true := Memory.wf_filter hs _
@[simp] theorem State.wf_spoilBytes (s : State) (gs : List Nat) (hs : s.mem.wf = true) : (State.spoilBytes s gs).mem.wf = true := by
  unfold State.spoilBytes
  exact State.wf_foldl _ _ _ hs fun s g h => Memory.wf_write h _ _ _
@[simp] theorem State.wf_spoilGranule (s : State) (c g : Nat) (hs : s.mem.wf = true) : (State.spoilGranule s c g).mem.wf = true := by
  unfold State.spoilGranule
  exact State.wf_ite hs (State.wf_spoilBytes _ _ hs)
@[simp] theorem State.wf_spoilHbm (s : State) (gs : List Nat) (hs : s.mem.wf = true) : (State.spoilHbm s gs).mem.wf = true := by
  unfold State.spoilHbm
  exact State.wf_spoilBytes _ _ hs
@[simp] theorem State.wf_tripCore (s : State) (c : Nat) (hs : s.mem.wf = true) : (State.tripCore s c).mem.wf = true := by
  unfold State.tripCore
  refine State.wf_loseCore _ _ ?_
  rw [State.mem_setPower]; exact hs
@[simp] theorem State.wf_errorArises (s : State) (kind core n : Nat) (detail : Word) (hs : s.mem.wf = true) : (State.errorArises s kind core n detail).mem.wf = true := by
  unfold State.errorArises; dsimp only; (repeat' split) <;> simp [hs]
theorem wf_execThermalTrip {die celsius : Nat} {s t : State} (hs : s.mem.wf = true) (h : execThermalTrip die celsius s = .next t) : t.mem.wf = true := by
  simp only [execThermalTrip, Host.Outcome.next.injEq] at h
  subst h
  exact State.wf_ite hs (State.wf_foldl _ _ _ (State.wf_foldl _ _ _ hs fun s i h => State.wf_rollBack _ _ h) fun s c h => State.wf_tripCore _ _ h)
@[simp] theorem State.wf_thermal (s : State) (hs : s.mem.wf = true) : (State.thermal s).mem.wf = true := by
  unfold State.thermal
  refine State.wf_ite hs (State.wf_foldl _ _ _ hs fun s d h => ?_)
  dsimp only
  split
  · rename_i t ht
    split at ht
    · simp only [execThermalTripClear, Host.Outcome.next.injEq] at ht
      subst ht; exact h
    · exact wf_execThermalTrip h ht
  · exact h
@[simp] theorem State.wf_performMicro (s : State) (m : Micro) (hs : s.mem.wf = true) : (State.performMicro s m).mem.wf = true := by
  unfold State.performMicro
  split
  all_goals first | with_reducible exact State.wf_storeBytes _ _ _ _ _ _ hs | with_reducible exact State.wf_frameStep _ _ _ _ _ hs | simp [hs] | exact hs
theorem State.wf_serve (acc : State × List (Nat × Nat)) (m : Micro) (hs : acc.1.mem.wf = true) : (State.serve acc m).1.mem.wf = true := by
  unfold State.serve
  dsimp only
  split
  · exact hs
  split
  · exact State.wf_serveUpdates _ _ _ _ _ _ hs
  split
  · exact hs
  · exact State.wf_performMicro _ _ (by rw [State.mem_checkCells]; exact hs)
theorem State.wf_serves (ms : List Micro) (acc : State × List (Nat × Nat)) (hs : acc.1.mem.wf = true) :
    (ms.foldl State.serve acc).1.mem.wf = true := by
  induction ms generalizing acc with
  | nil => exact hs
  | cons m ms ih => exact ih _ (State.wf_serve _ _ hs)
@[simp] theorem State.wf_points (s : State) (hs : s.mem.wf = true) : (State.points s).mem.wf = true := by
  unfold State.points
  refine State.wf_ite hs ?_
  have g : ∀ (t : State) (l : List Micro), t.mem.wf = true → (l.foldl State.serve (t, [])).1.mem.wf = true := fun t l h => State.wf_serves _ _ h
  extract_lets one clock s1 s2 s3 s4
  have h1 : s1.mem.wf = true := g _ _ hs
  clear_value s1
  have h2 : s2.mem.wf = true := g _ _ h1
  clear_value s2
  have h3 : s3.mem.wf = true := g _ _ h2
  clear_value s3
  have h4 : s4.mem.wf = true := g _ _ h3
  clear_value s4
  exact State.wf_ite h4 h4
@[simp] theorem State.wf_pointsAndLandings (s : State) (hs : s.mem.wf = true) : (State.pointsAndLandings s).mem.wf = true := by
  unfold State.pointsAndLandings
  dsimp only
  refine State.wf_foldl _ _ _ (State.wf_foldl _ _ _ (State.wf_points _ (State.wf_thermal _ hs)) fun s x h => ?_) fun s x h => State.wf_ite h (wf_ite h h)
  rw [State.mem_landChecked]; exact h
@[simp] theorem State.wf_settings (s : State) (hs : s.mem.wf = true) : (State.settings s).mem.wf = true := State.wf_serves _ _ hs
@[simp] theorem State.wf_startClock (s : State) (hs : s.mem.wf = true) : (State.startClock s).mem.wf = true := by
  unfold State.startClock
  extract_lets s1 s2 s3 s4
  have h1 : s1.mem.wf = true := by
    exact State.wf_servePeers _ (by simp [hs])
  clear_value s1
  have h2 : s2.mem.wf = true := State.wf_settings _ h1
  clear_value s2
  have h3 : s3.mem.wf = true := State.wf_foldl _ _ _ h2 fun s x h => by simp [h]
  clear_value s3
  have h4 : s4.mem.wf = true := State.wf_foldl _ _ _ h3 fun s x h => by
    split
    · exact State.wf_ite (by simp [h]) h
    · exact h
  clear_value s4
  rw [State.mem_askAgain]
  exact State.wf_writeCompletions _ h4
@[simp] theorem State.mem_patrolRead (s : State) (k : Nat) : (State.patrolRead s k).mem = s.mem := by
  unfold State.patrolRead
  split
  · rename_i t h
    simp only [execHbmScrubRead] at h
    (repeat' split at h) <;> first
      | (injection h with h; subst h; rfl)
      | (injection h with h; subst h; simp only [State.mem_post, State.mem_delay]
         rw [State.mem_foldl _ _ _ fun s x => State.mem_countSymbol _ _]; first | rfl | exact State.mem_countSymbol _ _)
  · rfl
@[simp] theorem State.mem_scrubStep (s : State) : (State.scrubStep s).mem = s.mem := by
  unfold State.scrubStep
  dsimp only
  split
  · rfl
  · exact State.mem_foldl _ _ _ fun s x => by simp
@[simp] theorem State.wf_advance (s : State) (hs : s.mem.wf = true) : (State.advance s).mem.wf = true := by
  unfold State.advance
  simp only [State.mem_saveEvents, State.mem_powerEvents]
  refine State.wf_foldl _ _ _ ?_ fun s x h => h
  rw [State.mem_readSensors]
  refine State.wf_startClock _ ?_
  simp [hs]
@[simp] theorem State.wf_illegal (s : State) (k : Slot) (e : Illegal) (hs : s.mem.wf = true) : (State.illegal s k e).mem.wf = true := by
  unfold State.illegal; simp [hs]
@[simp] theorem State.wf_trapBundle (s : State) (n : Nat) (side : Option Bool) (t : Trap) (hs : s.mem.wf = true) :
    (State.trapBundle s n side t).mem.wf = true := by
  unfold State.trapBundle; split <;> simp [hs]
@[simp] theorem State.wf_placed (s : State) (w : Nat) (hs : s.mem.wf = true) : (State.placed s w).mem.wf = true := Memory.wf_write hs _ _ _
@[simp] theorem State.wf_withFetchWord (s : State) (nbits w : Nat) (hs : s.mem.wf = true) :
    (State.withFetchWord s nbits w).mem.wf = true := Memory.wf_write hs _ _ _

end Sys2Proof.Machine
end

