-- ==== Sys2Proof/Laws/Ops.lean ====
section
/-! SUPPORT. What each shared operation does, said once: when a syllable runs, what a result leaves, what the operand forms take, what the
image builders give, what a store writes. -/
namespace Sys2Proof.Machine

/-! ### Parts of the state -/

@[simp] theorem State.getDeck_setDeck (s : State) (n : Nat) (d : Deck) : (s.setDeck n d).getDeck n = d := mget_mput_same _ _ _ _
@[simp] theorem State.getDeck_modDeck (s : State) (n : Nat) (f : Deck → Deck) : (s.modDeck n f).getDeck n = f (s.getDeck n) :=
  mget_mput_same _ _ _ _
theorem State.getDeck_modDeck_other (s : State) {n m : Nat} (f : Deck → Deck) (h : m ≠ n) : (s.modDeck n f).getDeck m = s.getDeck m :=
  mget_mput_other _ _ _ h.symm
@[simp] theorem State.getCore_setCore (s : State) (n : Nat) (k : Core) : (s.setCore n k).getCore n = k := mget_mput_same _ _ _ _
@[simp] theorem State.getCore_modCore (s : State) (n : Nat) (f : Core → Core) : (s.modCore n f).getCore n = f (s.getCore n) :=
  mget_mput_same _ _ _ _
@[simp] theorem State.getInst_setInst (s : State) (n : Nat) (i : Inst) : (s.setInst n i).getInst n = i := mget_mput_same _ _ _ _
@[simp] theorem State.dk_setDk (s : State) (d : Deck) : (s.setDk d).dk = d := mget_mput_same _ _ _ _
@[simp] theorem State.dk_modDk (s : State) (f : Deck → Deck) : (s.modDk f).dk = f s.dk := mget_mput_same _ _ _ _

/-! ### When a syllable runs -/

/-- An enabled scalar syllable whose registers have landed acts (R134, R187). -/
theorem State.scalar_runs {s : State} {h : Hd} {rs : List (BitVec 6)} (f : State → State) (r : s.Runs h rs) : s.scalar h rs f = f s := by
  simp [State.scalar, r.1, r.2]

/-- A disabled scalar syllable leaves the state (R134). -/
theorem State.scalar_disabled {s : State} {h : Hd} {rs : List (BitVec 6)} (f : State → State) (r : s.guard0 h = false) : s.scalar h rs f = s := by
  simp [State.scalar, r]

/-- An enabled scalar syllable interlocks on an `lds` in flight (R187). -/
theorem State.scalar_waits {s : State} {h : Hd} {rs : List (BitVec 6)} (f : State → State) (r : s.guard0 h = true) (w : s.waitsLds rs = true) :
    s.scalar h rs f = s.stalled := by
  simp [State.scalar, r, w]

/-- A control instruction that acts (R32). -/
theorem State.control_acts {s : State} {h : Hd} {rs : List (BitVec 6)} (f : State → State) (r : s.Acts h rs) : s.control h rs f = f s := by
  simp [State.control, r.1, State.scalar_runs f r.2]

/-- A control instruction in slot A in lockstep mode leaves the state (R32). -/
theorem State.control_off {s : State} {h : Hd} {rs : List (BitVec 6)} (f : State → State) (r : s.controls h = false) : s.control h rs f = s := by
  simp [State.control, r]

/-- An irrevocable syllable runs once the earlier revocable ones have passed (R385). -/
theorem State.irrevocable_passed {s : State} {h : Hd} {rs : List (BitVec 6)} (f : State → State) (r : s.Passed h rs) :
    s.irrevocable h rs f = f s := by
  obtain ⟨r, e⟩ := r
  rw [State.irrevocable, State.scalar_runs _ r]
  rcases e with e | e <;> simp [e]

/-- A first issue of a revocable syllable, with room to record it (R385). -/
theorem State.revocable_records {s : State} {h : Hd} {rs : List (BitVec 6)} (f : State → State) (r : s.MayRecord h rs) :
    s.revocable h rs f = f s := by
  obtain ⟨r, o, n⟩ := r
  simp only [State.revocable, State.isReplay, o, Option.isSome_none, Bool.false_eq_true, if_false, State.scalar_runs _ r]
  rw [if_neg (by omega)]

/-- The array takes the command of the deck that holds the lease (R41, R240). -/
theorem State.matrix_granted {s : State} {h : Hd} {rs : List (BitVec 6)} {p : Nat} {none_ busy : State → Bool} {port : State → Nat}
    (f : State → State) (g : s.Granted h rs p) (n : none_ s = false) (e : port s = p) (b : busy s = false) :
    s.matrix h rs none_ port busy f = f s := by
  obtain ⟨r, l, w, q⟩ := g
  have hl : s.holdsLease = true := by simp [State.holdsLease, l]
  rw [State.matrix, State.scalar_runs _ r]
  simp [n, e, b, hl, Nat.not_lt.mpr w, Nat.not_lt.mpr q]

/-! ### Results -/

/-- A result is one latch of the issuing deck, at issue + lat, and one number of issue (R38). -/
theorem State.result_eq (s : State) (h : Hd) (lat : Nat) (dest : Dest) (mask : Pred) (data : Image) (tag : Tag) :
    s.result h lat dest mask data tag =
      { s.modDk (fun d => { d with latches := d.latches ++
          [⟨s.clock + lat, rankOf h.slot, s.seq, dest, mask, data, tag, 0⟩] }) with seq := s.seq + 1 } := rfl

theorem State.result_dk (s : State) (h : Hd) (lat : Nat) (dest : Dest) (mask : Pred) (data : Image) (tag : Tag) :
    (s.result h lat dest mask data tag).dk =
      { s.dk with latches := s.dk.latches ++ [⟨s.clock + lat, rankOf h.slot, s.seq, dest, mask, data, tag, 0⟩] } := by
  exact State.dk_modDk s fun d => { d with latches := d.latches ++ [⟨s.clock + lat, rankOf h.slot, s.seq, dest, mask, data, tag, 0⟩] }

@[simp] theorem State.result_clock (s : State) (h : Hd) (lat : Nat) (dest : Dest) (mask : Pred) (data : Image) (tag : Tag) :
    (s.result h lat dest mask data tag).clock = s.clock := rfl
@[simp] theorem State.result_issue (s : State) (h : Hd) (lat : Nat) (dest : Dest) (mask : Pred) (data : Image) (tag : Tag) :
    (s.result h lat dest mask data tag).issue = s.issue := rfl

/-- The zero register takes no result (R45); p31 neither (R47). -/
@[simp] theorem State.writeX_zero (s : State) (h : Hd) (lat : Nat) (v : Word) : s.writeX h lat 0 v = s := rfl
@[simp] theorem State.writeP_true (s : State) (h : Hd) (lat : Nat) (v : Pred) : s.writeP h lat 31 v = s := rfl
theorem State.writeX_pos (s : State) (h : Hd) (lat : Nat) {r : BitVec 6} (v : Word) (e : r ≠ 0) :
    s.writeX h lat r v = s.result h lat (.x r.toNat) (BitVec.allOnes 128) (v.setWidth 4096) 0 := if_neg e
theorem State.writeP_pos (s : State) (h : Hd) (lat : Nat) {r : BitVec 5} (v : Pred) (e : r ≠ 31) :
    s.writeP h lat r v = s.result h lat (.p r.toNat) (BitVec.allOnes 128) (v.setWidth 4096) 0 := if_neg e

/-- No flags, no result (R88). -/
@[simp] theorem State.raiseFlags_none (s : State) (h : Hd) (lat : Nat) : s.raiseFlags h lat 0 = s := rfl

/-- A scalar result lands in its register (R38, R45). -/
theorem Deck.land_x (d : Deck) (l : Latch) (r : Nat) (e : l.dest = .x r) (p : r ≠ 0) :
    d.land l = { d with x := mset 0 d.x r (l.data.setWidth 64), ldsWait := d.ldsWait.filter (·.1 != l.seq) } := by
  simp [Deck.land, e, p]

/-- A vector result lands in the lanes of its mask, with its tag and its flags; a packed 6-bit image keeps its zeros (R82, R88, R215). -/
theorem Deck.land_v (d : Deck) (l : Latch) (r : Nat) (e : l.dest = .v r) (p : l.tag ≠ keepTag) :
    d.land l = { d with fflags := d.fflags ||| l.flags, v := mset VReg.zero d.v r ⟨mergeLanes l.mask (mget VReg.zero d.v r).data (packRow l.tag l.data), l.tag⟩ } := by
  simp [Deck.land, e, p]

/-- A predicate result lands in the lanes of its mask (R47). -/
theorem Deck.land_p (d : Deck) (l : Latch) (r : Nat) (e : l.dest = .p r) (p : r ≠ 31) :
    d.land l = { d with p := mset 0 d.p r ((mget 0 d.p r &&& ~~~l.mask) ||| (l.data.setWidth 128 &&& l.mask)) } := by
  simp [Deck.land, e, p]

/-- Flags land by being added (R88). -/
theorem Deck.land_flags (d : Deck) (l : Latch) (e : l.dest = .flags) : d.land l = { d with fflags := d.fflags ||| l.flags } := by
  simp [Deck.land, e]

/-! ### Operand forms -/

/-- Taking sources changes nothing of a deck but its queues (R49, R50). -/
theorem Deck.takeSrc_queues {d d' : Deck} {n : Nat} {v : VReg} (h : d.takeSrc n = some (v, d')) : d' = { d with oq := d'.oq, rq := d'.rq } := by
  simp only [Deck.takeSrc] at h
  split at h
  · simp only [Option.some.injEq, Prod.mk.injEq] at h; obtain ⟨-, rfl⟩ := h; rfl
  · split at h <;> split at h <;> (try split at h) <;> simp only [Option.some.injEq, Prod.mk.injEq, reduceCtorEq] at h
    all_goals (obtain ⟨-, rfl⟩ := h; split <;> rfl)

theorem Deck.takeAll_queues {ns : List Nat} {d d' : Deck} {vs : List VReg} (h : d.takeAll ns = .inr (vs, d')) :
    d' = { d with oq := d'.oq, rq := d'.rq } ∧ vs.length = ns.length := by
  induction ns generalizing d vs with
  | nil => simp only [Deck.takeAll, Sum.inr.injEq, Prod.mk.injEq] at h; obtain ⟨rfl, rfl⟩ := h; exact ⟨rfl, rfl⟩
  | cons n ns ih =>
    simp only [Deck.takeAll] at h
    split at h
    · cases h
    · rename_i v d1 e1
      split at h
      · cases h
      · rename_i vs1 d2 e2
        simp only [Sum.inr.injEq, Prod.mk.injEq] at h
        obtain ⟨rfl, rfl⟩ := h
        obtain ⟨h2, hl⟩ := ih e2
        refine ⟨?_, by simp [hl]⟩
        rw [h2, Deck.takeSrc_queues e1]

/-- A register source takes nothing (R49). -/
theorem Deck.takeAll_regs {ns : List Nat} (d : Deck) (h : ∀ n ∈ ns, n < 320) :
    d.takeAll ns = .inr (ns.map fun n => mget VReg.zero d.v n, d) := by
  induction ns with
  | nil => rfl
  | cons n ns ih =>
    simp only [Deck.takeAll, Deck.takeSrc, h n (by simp), if_true, ih (fun m hm => h m (by simp [hm]))]
    rfl

/-- A syllable with queue operands whose sources are poppable, whose push has room and whose checks pass acts (R52). -/
theorem State.operands_ready {s : State} {h : Hd} {qm : Nat} {srcs : List Nat} {push : Option Nat} {vs : List VReg} {d : Deck}
    {check : Deck → List VReg → Option (Nat × Nat × Word)} (act : State → List VReg → State) (t : s.dk.takeAll srcs = .inr (vs, d))
    (p : ∀ q, push = some q → (s.setDk d).rqRoomNow q = true) (c : check s.dk vs = none) :
    s.operands h qm srcs push check act = (act (s.setDk d) vs).ran h qm (push.isSome || srcs.any isQueueName) := by
  have hp : (push.any fun q => !(s.setDk d).rqRoomNow q) = false := by
    cases push with
    | none => rfl
    | some q => rw [Option.any_some, p q rfl]; rfl
  simp only [State.operands, t, hp, c, State.ran]
  rfl

/-- A source that finds no poppable entry fails the syllable (R52). -/
theorem State.operands_empty {s : State} {h : Hd} {qm n : Nat} {srcs : List Nat} {push : Option Nat}
    {check : Deck → List VReg → Option (Nat × Nat × Word)} (act : State → List VReg → State) (t : s.dk.takeAll srcs = .inl n) :
    s.operands h qm srcs push check act = s.queueFail h qm 0x04 (popName n) := by
  simp [State.operands, t]

/-- Operands whose tags fail the check trap (R410). -/
theorem State.operands_bad {s : State} {h : Hd} {qm : Nat} {srcs : List Nat} {push : Option Nat} {vs : List VReg} {d : Deck}
    {check : Deck → List VReg → Option (Nat × Nat × Word)} {e : Nat × Nat × Word} (act : State → List VReg → State)
    (t : s.dk.takeAll srcs = .inr (vs, d)) (p : ∀ q, push = some q → (s.setDk d).rqRoomNow q = true) (c : check s.dk vs = some e) :
    s.operands h qm srcs push check act = s.raise h e.1 e.2.1 e.2.2 := by
  have hp : (push.any fun q => !(s.setDk d).rqRoomNow q) = false := by
    cases push with
    | none => rfl
    | some q => rw [Option.any_some, p q rfl]; rfl
  simp only [State.operands, t, hp, c]
  rfl

/-- A vector syllable disabled in every lane does nothing (R134). -/
theorem State.vector_disabled {s : State} {h : Hd} {qm lat nd : Nat} {xs : List (BitVec 6)} {srcs : List Nat}
    {check : Deck → List VReg → Option (Nat × Nat × Word)} (f : State → Pred → List VReg → Image × Tag × BitVec 8) (g : s.dk.guard h = 0) :
    s.vector h qm lat nd xs srcs check f = s := by
  simp [State.vector, g]

/-- Taking sources only makes room in the result queues (R216). -/
theorem Deck.takeSrc_room {d d' : Deck} {n : Nat} {v : VReg} (h : d.takeSrc n = some (v, d')) (q : Nat) :
    (mget [] d'.rq q).length ≤ (mget [] d.rq q).length := by
  simp only [Deck.takeSrc] at h
  split at h
  · simp only [Option.some.injEq, Prod.mk.injEq] at h; obtain ⟨-, rfl⟩ := h; exact Nat.le_refl _
  · split at h <;> split at h <;> (try split at h) <;> simp only [Option.some.injEq, Prod.mk.injEq, reduceCtorEq] at h
    all_goals obtain ⟨-, rfl⟩ := h
    · split <;> exact Nat.le_refl _
    · rename_i e es he _
      split
      · by_cases hq : n % 8 = q
        · subst hq; simp [he]
        · simp [mget_mset_other _ _ _ hq]
      · exact Nat.le_refl _

theorem Deck.takeAll_room {ns : List Nat} {d d' : Deck} {vs : List VReg} (h : d.takeAll ns = .inr (vs, d')) (q : Nat) :
    (mget [] d'.rq q).length ≤ (mget [] d.rq q).length := by
  induction ns generalizing d vs with
  | nil => simp only [Deck.takeAll, Sum.inr.injEq, Prod.mk.injEq] at h; obtain ⟨-, rfl⟩ := h; exact Nat.le_refl _
  | cons n ns ih =>
    simp only [Deck.takeAll] at h
    split at h
    · cases h
    · rename_i v d1 e1
      split at h
      · cases h
      · rename_i vs1 d2 e2
        simp only [Sum.inr.injEq, Prod.mk.injEq] at h
        obtain ⟨-, rfl⟩ := h
        exact Nat.le_trans (ih e2) (Deck.takeSrc_room e1 q)

theorem State.room_setDk {s : State} {ns : List Nat} {d : Deck} {vs : List VReg} {q : Nat} (h : s.dk.takeAll ns = .inr (vs, d))
    (r : s.rqRoomNow q = true) : (s.setDk d).rqRoomNow q = true := by
  have l := Deck.takeAll_room h q
  have i : (s.setDk d).issue = s.issue := rfl
  simp only [State.rqRoomNow, decide_eq_true_eq] at r ⊢
  rw [State.dk_setDk, i]
  omega

/-- A ready vector syllable takes its sources and gives its result with its flags (R134, R215, R216). -/
theorem State.vector_ready {s : State} {h : Hd} {qm lat nd : Nat} {xs : List (BitVec 6)} {srcs : List Nat} {vs : List VReg} {d : Deck}
    {check : Deck → List VReg → Option (Nat × Nat × Word)} (f : State → Pred → List VReg → Image × Tag × BitVec 8)
    (r : s.Ready h srcs nd vs d) (x : s.waitsLds xs = false) (c : check s.dk vs = none) :
    s.vector h qm lat nd xs srcs check f =
      s.gives h qm lat nd srcs d (f (s.setDk d) (s.dk.guard h) vs).1 (f (s.setDk d) (s.dk.guard h) vs).2.1
        (f (s.setDk d) (s.dk.guard h) vs).2.2 := by
  obtain ⟨g, t, p⟩ := r
  simp only [State.vector, g, if_false, x, Bool.false_eq_true]
  rw [State.operands_ready _ t (fun q e => State.room_setDk t (p q e)) c]

/-! ### Images -/

/-- What the fold of `buildImage` adds up to. -/
theorem build_fold (w : Nat) (on : Nat → Bool) (f : Nat → Res) (l : List Nat) (i : Nat) (hi : i < l.length) :
    bits (l.foldr (fun e (acc : Nat × BitVec 8) =>
        if on e then (let c := f e; (c.1 % 2 ^ w + 2 ^ w * acc.1, acc.2 ||| c.2)) else (2 ^ w * acc.1, acc.2)) (0, 0)).1 (w * i) w =
      if on l[i] then (f l[i]).1 % 2 ^ w else 0 := by
  induction l generalizing i with
  | nil => simp at hi
  | cons a l ih =>
    have hw : 0 < 2 ^ w := Nat.pow_pos (by decide)
    cases i with
    | zero =>
      simp only [List.foldr_cons, bits, Nat.mul_zero, Nat.pow_zero, Nat.div_one, List.getElem_cons_zero]
      split <;> simp [Nat.add_mul_mod_self_left]
    | succ i =>
      have ih := ih i (by simpa using hi)
      simp only [List.foldr_cons, List.getElem_cons_succ]
      rw [← ih]
      simp only [bits, Nat.mul_add, Nat.mul_one, Nat.pow_add, Nat.mul_comm (2 ^ (w * i))]
      split
      · simp only [← Nat.div_div_eq_div_mul]
        rw [Nat.add_mul_div_left _ _ hw, Nat.div_eq_of_lt (Nat.mod_lt _ hw), Nat.zero_add]
      · simp only [← Nat.div_div_eq_div_mul]
        rw [Nat.mul_div_cancel_left _ hw]

theorem build_lt (w : Nat) (on : Nat → Bool) (f : Nat → Res) (l : List Nat) :
    (l.foldr (fun e (acc : Nat × BitVec 8) =>
        if on e then (let c := f e; (c.1 % 2 ^ w + 2 ^ w * acc.1, acc.2 ||| c.2)) else (2 ^ w * acc.1, acc.2)) (0, 0)).1 < 2 ^ (w * l.length) := by
  induction l with
  | nil => simp
  | cons a l ih =>
    have hw : 0 < 2 ^ w := Nat.pow_pos (by decide)
    simp only [List.foldr_cons, List.length_cons, Nat.mul_add, Nat.mul_one, Nat.pow_add]
    rw [Nat.mul_comm (2 ^ (w * l.length))]
    have step : ∀ x, x < 2 ^ (w * l.length) → ∀ c, c < 2 ^ w → c + 2 ^ w * x < 2 ^ w * 2 ^ (w * l.length) := by
      intro x hx c hc
      calc c + 2 ^ w * x < 2 ^ w + 2 ^ w * x := by omega
        _ = 2 ^ w * (x + 1) := by rw [Nat.mul_add, Nat.mul_one, Nat.add_comm]
        _ ≤ _ := Nat.mul_le_mul_left _ hx
    split
    · exact step _ ih ((f a).1 % 2 ^ w) (Nat.mod_lt _ hw)
    · have := step _ ih 0 hw
      rwa [Nat.zero_add] at this

theorem build_flags (w : Nat) (on : Nat → Bool) (f : Nat → Res) (l : List Nat) (k : Nat) :
    ((l.foldr (fun e (acc : Nat × BitVec 8) =>
        if on e then (let c := f e; (c.1 % 2 ^ w + 2 ^ w * acc.1, acc.2 ||| c.2)) else (2 ^ w * acc.1, acc.2)) (0, 0)).2.getLsbD k = true) ↔
      ∃ e ∈ l, on e = true ∧ (f e).2.getLsbD k = true := by
  induction l with
  | nil => simp
  | cons a l ih =>
    simp only [List.foldr_cons, List.mem_cons, exists_eq_or_imp]
    split <;> rename_i h
    · simp only [BitVec.getLsbD_or, Bool.or_eq_true, ih, h, true_and]
      exact Or.comm
    · have h' : ¬ on a = true := h
      rw [ih]
      exact ⟨Or.inr, fun o => o.resolve_left fun x => h' x.1⟩

theorem tagBits_elems (t : Nat) : tagBits t * tagElems t ≤ 4096 := by
  unfold tagElems tagBits
  split <;> decide

/-- The elements of an image built from n elements of w bits. -/
theorem buildImage_elem {w n : Nat} (on : Nat → Bool) (f : Nat → Res) (b : w * n ≤ 4096) {e : Nat} (h : e < n) :
    bits (buildImage w n on f).1.toNat (w * e) w = if on e then (f e).1 % 2 ^ w else 0 := by
  have hl := build_lt w on f (List.range n)
  have hb := build_fold w on f (List.range n) e (by simpa using h)
  simp only [List.getElem_range] at hb
  simp only [buildImage, BitVec.toNat_ofNat]
  rw [Nat.mod_eq_of_lt (Nat.lt_of_lt_of_le hl (by simpa using Nat.pow_le_pow_right (by decide) b)), hb]

/-- Every enabled element holds the code computed for it, and the flags are those of the enabled elements (R87, R215). -/
theorem mapElems_are (t : Nat) (mask : Pred) (f : Nat → Res) : ElementsAre t mask (mapElems t mask f).1 (mapElems t mask f).2 f := by
  refine ⟨fun e h on => ?_, fun k _ => ?_⟩
  · have := buildImage_elem (elemOn t mask) f (tagBits_elems t) h
    simpa [elemAt, mapElems, on] using this
  · simpa [mapElems, buildImage] using build_flags (tagBits t) (elemOn t mask) f (List.range (tagElems t)) k

/-- The fold of the lane and byte masks adds up c, of w bits, in the places of a mask. -/
theorem mask_fold (w c : Nat) (hc : c < 2 ^ w) (m : Nat → Bool) (l : List Nat) (i : Nat) (hi : i < l.length) :
    bits (l.foldr (fun e acc => (if m e then c else 0) + 2 ^ w * acc) 0) (w * i) w = if m l[i] then c else 0 := by
  have e : ∀ l : List Nat, l.foldr (fun e acc => (if m e then c else 0) + 2 ^ w * acc) 0 =
      (l.foldr (fun e (acc : Nat × BitVec 8) =>
        if m e then (let c := ((c, 0) : Res); (c.1 % 2 ^ w + 2 ^ w * acc.1, acc.2 ||| c.2)) else (2 ^ w * acc.1, acc.2)) (0, 0)).1 := by
    intro l
    induction l with
    | nil => rfl
    | cons a l ih => simp only [List.foldr_cons, ih]; split <;> simp [Nat.mod_eq_of_lt hc]
  rw [e, build_fold w m (fun _ => (c, 0)) l i hi]
  simp [Nat.mod_eq_of_lt hc]

theorem mask_lt (w c : Nat) (hc : c < 2 ^ w) (m : Nat → Bool) (l : List Nat) :
    l.foldr (fun e acc => (if m e then c else 0) + 2 ^ w * acc) 0 < 2 ^ (w * l.length) := by
  induction l with
  | nil => simp
  | cons a l ih =>
    simp only [List.foldr_cons, List.length_cons, Nat.mul_add, Nat.mul_one, Nat.pow_add]
    rw [Nat.mul_comm (2 ^ (w * l.length))]
    have hd : (if m a then c else 0) < 2 ^ w := by split; exact hc; exact Nat.pow_pos (by decide)
    calc _ < 2 ^ w + 2 ^ w * l.foldr (fun e acc => (if m e then c else 0) + 2 ^ w * acc) 0 := by omega
      _ = 2 ^ w * (l.foldr (fun e acc => (if m e then c else 0) + 2 ^ w * acc) 0 + 1) := by rw [Nat.mul_add, Nat.mul_one, Nat.add_comm]
      _ ≤ _ := Nat.mul_le_mul_left _ ih

/-- A bit of a number, by the field it stands in. -/
theorem testBit_field (n w i j : Nat) (h : j < w) : n.testBit (w * i + j) = (bits n (w * i) w).testBit j := by
  simp [bits, Nat.testBit_mod_two_pow, Nat.testBit_div_two_pow, h, Nat.add_comm]

/-- Bit k of the lane mask is that of its lane (R47, R215). -/
theorem laneBits_bit (m : Pred) (k : Nat) (h : k < 4096) : (laneBits m).getLsbD k = m.getLsbD (k / 32) := by
  have hl : k / 32 < 128 := by omega
  unfold laneBits
  split
  · rename_i e; subst e; simp only [BitVec.getLsbD_allOnes, h, hl]
  · have hlt := mask_lt 32 0xFFFFFFFF (by decide) m.toNat.testBit (List.range 128)
    have hf := mask_fold 32 0xFFFFFFFF (by decide) m.toNat.testBit (List.range 128) (k / 32) (by simpa using hl)
    simp only [List.getElem_range] at hf
    simp only [BitVec.getLsbD, BitVec.toNat_ofNat]
    rw [Nat.mod_eq_of_lt (Nat.lt_of_lt_of_le hlt (by simp))]
    have hk : k = 32 * (k / 32) + k % 32 := by omega
    conv => lhs; rw [hk, testBit_field _ 32 _ _ (Nat.mod_lt _ (by decide)), hf]
    have : k % 32 < 32 := Nat.mod_lt _ (by decide)
    by_cases hm : m.toNat.testBit (k / 32) = true
    · simp only [hm, if_true]
      rw [show (4294967295 : Nat) = 2 ^ 32 - 1 from rfl, Nat.testBit_two_pow_sub_one]
      simpa using this
    · simp [hm]

/-- A merge takes each bit from the new image in the enabled lanes, else from the old. -/
theorem mergeLanes_bit (m : Pred) (old new : Image) (k : Nat) (h : k < 4096) :
    (mergeLanes m old new).getLsbD k = if m.getLsbD (k / 32) then new.getLsbD k else old.getLsbD k := by
  simp only [mergeLanes, BitVec.getLsbD_or, BitVec.getLsbD_and, BitVec.getLsbD_not, laneBits_bit m k h, h, decide_true, Bool.true_and]
  by_cases hm : m.getLsbD (k / 32) = true <;> simp [hm]

@[simp] theorem mergeLanes_all (old new : Image) : mergeLanes (BitVec.allOnes 128) old new = new := by
  apply BitVec.eq_of_getLsbD_eq
  intro k h
  have : k / 32 < 128 := by omega
  rw [mergeLanes_bit _ _ _ _ h, BitVec.getLsbD_allOnes]
  simp only [this, decide_true, if_true]

/-- Bit k of the byte mask is that of its byte. -/
theorem byteBits_bit (m : BitVec 512) (k : Nat) (h : k < 4096) : (byteBits m).getLsbD k = m.getLsbD (k / 8) := by
  have hl : k / 8 < 512 := by omega
  unfold byteBits
  split
  · rename_i e; subst e; simp only [wholeMask, BitVec.getLsbD_allOnes, h, hl]
  · have hlt := mask_lt 8 0xFF (by decide) m.toNat.testBit (List.range 512)
    have hf := mask_fold 8 0xFF (by decide) m.toNat.testBit (List.range 512) (k / 8) (by simpa using hl)
    simp only [List.getElem_range] at hf
    simp only [BitVec.getLsbD, BitVec.toNat_ofNat]
    rw [show (256 : Nat) = 2 ^ 8 from rfl, Nat.mod_eq_of_lt (Nat.lt_of_lt_of_le hlt (by simp))]
    have hk : k = 8 * (k / 8) + k % 8 := by omega
    conv => lhs; rw [hk, testBit_field _ 8 _ _ (Nat.mod_lt _ (by decide)), hf]
    have : k % 8 < 8 := Nat.mod_lt _ (by decide)
    by_cases hm : m.toNat.testBit (k / 8) = true
    · simp only [hm, if_true]
      rw [show (255 : Nat) = 2 ^ 8 - 1 from rfl, Nat.testBit_two_pow_sub_one]
      simpa using this
    · simp [hm]

/-- Bit l of a lane test is the test of an enabled lane, and the flags are those of the enabled lanes (R87, R223). -/
theorem laneTest_bit (mask : Pred) (f : Nat → Bool × BitVec 8) (l : Nat) (h : l < 128) :
    (laneTest mask f).1.getLsbD l = (mask.getLsbD l && (f l).1) := by
  have e : ∀ ls : List Nat, (ls.foldr (fun l (acc : Nat × BitVec 8) =>
      if mask.getLsbD l then (let c := f l; ((if c.1 then 1 else 0) + 2 * acc.1, acc.2 ||| c.2)) else (2 * acc.1, acc.2)) (0, 0)).1 =
      ls.foldr (fun e acc => (if (mask.getLsbD e && (f e).1) then 1 else 0) + 2 ^ 1 * acc) 0 := by
    intro ls
    induction ls with
    | nil => rfl
    | cons a ls ih =>
      simp only [List.foldr_cons, ← ih]
      by_cases hm : mask.getLsbD a = true <;> simp [hm]
  have hlt := mask_lt 1 1 (by decide) (fun e => mask.getLsbD e && (f e).1) (List.range 128)
  have hf := mask_fold 1 1 (by decide) (fun e => mask.getLsbD e && (f e).1) (List.range 128) l (by simpa using h)
  simp only [List.getElem_range, Nat.one_mul] at hf
  simp only [laneTest, BitVec.getLsbD_ofNat, h, decide_true, Bool.true_and, e]
  have := testBit_field ((List.range 128).foldr (fun e acc => (if (mask.getLsbD e && (f e).1) then 1 else 0) + 2 ^ 1 * acc) 0) 1 l 0 (by decide)
  simp only [Nat.one_mul, Nat.add_zero] at this
  rw [this, hf]
  by_cases hm : (mask.getLsbD l && (f l).1) = true <;> simp [hm]

theorem laneTest_flags (mask : Pred) (f : Nat → Bool × BitVec 8) (k : Nat) :
    (laneTest mask f).2.getLsbD k = true ↔ ∃ l, l < 128 ∧ mask.getLsbD l = true ∧ (f l).2.getLsbD k = true := by
  have e : ∀ ls : List Nat, (ls.foldr (fun l (acc : Nat × BitVec 8) =>
      if mask.getLsbD l then (let c := f l; ((if c.1 then 1 else 0) + 2 * acc.1, acc.2 ||| c.2)) else (2 * acc.1, acc.2)) (0, 0)).2.getLsbD k = true ↔
      ∃ l ∈ ls, mask.getLsbD l = true ∧ (f l).2.getLsbD k = true := by
    intro ls
    induction ls with
    | nil => simp
    | cons a ls ih =>
      simp only [List.foldr_cons, List.mem_cons, exists_eq_or_imp]
      split <;> rename_i hm
      · simp only [BitVec.getLsbD_or, Bool.or_eq_true, ih, hm, true_and]
        exact Or.comm
      · rw [ih]
        exact ⟨Or.inr, fun o => o.resolve_left fun x => hm x.1⟩
  simpa [laneTest] using e (List.range 128)

/-! ### The store -/

/-- A write that performs writes exactly the 512 bytes of its row (R54, R59). -/
theorem State.performWrite_other (s : State) (c n : Nat) (mask : BitVec 512) (data : Image) (tag : Option Tag) (a : Nat)
    (h : a < storeBase c + 512 * n ∨ storeBase c + 512 * n + 512 ≤ a) : (s.performWrite c n mask data tag).mem.byte a = s.mem.byte a := by
  unfold State.performWrite State.performFrom
  dsimp only
  rw [State.mem_modCore]
  exact (Memory.byte_write_other _ _ _ _ _ h).trans (by rw [State.mem_countErrors])

/-! ### Writes that may race -/

/-- What a read sees of a row of which no write may still race with it is what the row holds, and it uses up no free value (R121, R128). -/
theorem State.seenRow_ordered (s : State) (rc b c row : Nat)
    (h : racing rc b (s.getCore rc).seen 0xFF ((s.getCore c).hist.filter fun v => v.row == row) = []) : s.seenRow rc b c row = (s.rowImage c row, s) := by
  unfold State.seenRow
  dsimp only
  rw [h]
  simp

/-- Nothing races in a row of which no granule is left open. -/
theorem racing_closed (rc b : Nat) (seen : Map Nat) (vs : List Version) : racing rc b seen 0 vs = [] := by
  induction vs with
  | nil => rfl
  | cons v vs ih => rw [racing]; simpa using ih

/-- Nothing races behind a newest write of all open granules that performed by the reader's last boundary (R119, R120) or that an acquire has
ordered before the read (R118). -/
theorem racing_settled {rc b : Nat} {seen : Map Nat} {g : BitVec 8} {v : Version} {vs : List Version} (a : g &&& ~~~v.grans = 0)
    (h : v.at_ ≤ b ∨ v.at_ ≤ mget 0 seen v.core) : racing rc b seen g (v :: vs) = [] := by
  rw [racing, if_pos (by omega), a, racing_closed]

/-- What races began as a write of the row by a core other than the reader's, after the reader's boundary and ordered by no acquire, and
may be returned in granules that it wrote. -/
theorem racing_open {rc b : Nat} {seen : Map Nat} {g m : BitVec 8} {vs : List Version} {v : Version} (h : (m, v) ∈ racing rc b seen g vs) :
    v ∈ vs ∧ b < v.at_ ∧ v.core ≠ rc ∧ mget 0 seen v.core < v.at_ ∧ m &&& v.grans = m := by
  induction vs generalizing g with
  | nil => cases h
  | cons w ws ih =>
    unfold racing at h
    split at h
    · exact ⟨List.mem_cons_of_mem _ (ih h).1, (ih h).2⟩
    split at h
    · exact ⟨List.mem_cons_of_mem _ (ih h).1, (ih h).2⟩
    rename_i hw hg
    rcases List.mem_cons.mp h with e | h
    · cases e
      exact ⟨List.mem_cons_self .., by omega, fun e => hw (.inr (.inl e)), by omega, by rw [BitVec.and_assoc, BitVec.and_self]⟩
    · exact ⟨List.mem_cons_of_mem _ (ih h).1, (ih h).2⟩

/-! ### Traffic and waits -/

/-- Traffic without an output to pass comes about as an event, at its unloaded time or later by a free length and not after its bound (R322, R323). -/
theorem State.carry_local (s : State) (floor stop : Nat) (ev : Instr) :
    s.carry [] floor stop ev = { s with free := s.free + 1, agenda := insertEvent (min stop (max s.clock floor + Config.freeDelay s.free)) ev s.agenda } := rfl

/-- Traffic under way changes no deck, core, instance or memory byte before its event. -/
theorem State.carry_frame (s : State) (routes : List (List (Nat × Nat × Nat))) (floor stop : Nat) (ev : Instr) :
    let t := s.carry routes floor stop ev
    t.mem = s.mem ∧ t.decks = s.decks ∧ t.cores = s.cores ∧ t.insts = s.insts ∧ t.dies = s.dies ∧ t.clock = s.clock := by
  unfold State.carry State.delay State.post
  dsimp only
  split <;> exact ⟨rfl, rfl, rfl, rfl, rfl, rfl⟩

/-- The engine whose wait is satisfied next has its wait ready (R141, R168). -/
theorem State.nextWait_ready {s : State} {core e : Nat} (h : s.nextWait core = some e) : s.waitReady core e = true := by
  have g : ∀ (l : List Nat) (o : Option Nat), (∀ x ∈ l, s.waitReady core x = true) → (∀ x, o = some x → s.waitReady core x = true) →
      l.foldl (fun best e => match best with
        | none => some e
        | some b => if ((s.getCore core).engine e).headAt < ((s.getCore core).engine b).headAt then some e else some b) o = some e →
      s.waitReady core e = true := by
    intro l
    induction l with
    | nil => intro o _ ho he; exact ho e he
    | cons a l ih =>
      intro o hl ho he
      refine ih _ (fun x hx => hl x (List.mem_cons_of_mem _ hx)) (fun x hx => ?_) he
      have ha := hl a (List.mem_cons_self ..)
      cases o with
      | none => cases hx; exact ha
      | some b =>
        dsimp only at hx
        split at hx
        · cases hx; exact ha
        · cases hx; exact ho _ rfl
  exact g _ none (fun x hx => (List.mem_filter.mp hx).2) (fun _ e => nomatch e) h

end Sys2Proof.Machine
end

