-- ==== Sys2Proof/Laws/PerInstr.lean ====
section
/-! SUPPORT. One lemma for every instruction: its map holds it at its opcode, and the map reads it back from the body word it makes. -/
namespace Sys2Proof.Laws.Maps
open Sys2Proof

/-- The instruction's opcode has eight bits and its body 33; and in a slot whose map holds the opcode, a syllable word with that body reads
as the instruction, if its fields are valid. -/
def Statement (i : Instr) : Prop :=
  bodyOf i < 2 ^ 33 ∧ ∀ h op ks, opcodeOf i = some (h, op, ks) → op < 256 ∧
    (i.wf = true → ∀ y, y % 2 ^ 33 = bodyOf i → decodeMap h.slot op h y = some i)

theorem wf_slot {i : Instr} {h : Hd} {op : Nat} {ks : List Slot} (e : opcodeOf i = some (h, op, ks)) (w : i.wf = true) :
    ks.contains h.slot = true := by
  simp only [Instr.wf, e, Bool.and_eq_true] at w
  exact w.1.1.1

theorem wf_valid {i : Instr} {h : Hd} {op : Nat} {ks : List Slot} (e : opcodeOf i = some (h, op, ks)) (w : i.wf = true) :
    fieldsValid i = true := by
  simp only [Instr.wf, e, Bool.and_eq_true] at w
  exact w.1.2

theorem nop (h : Hd) (b : NB) : Statement (.nop h b) := by
  refine ⟨encNB_lt b, fun h1 op ks e => ?_⟩
  injection e with e; injection e with e1 e; injection e with e2 e3; subst e1 e2 e3
  refine ⟨by decide, fun hw y hy => ?_⟩
  have hd : decNB y = b := decNB_of b y hy
  have hs := wf_slot (i := .nop h b) rfl hw
  obtain ⟨k, t, a, b2, c⟩ := h
  cases k <;> first | exact congrArg (fun z => some (Instr.nop _ z)) hd | exact Bool.noConfusion (show false = true from hs)

theorem add (h : Hd) (b : XRR) : Statement (.add h b) := by
  refine ⟨encXRR_lt b, fun h1 op ks e => ?_⟩
  injection e with e; injection e with e1 e; injection e with e2 e3; subst e1 e2 e3
  refine ⟨by decide, fun hw y hy => ?_⟩
  have hd : decXRR y = b := decXRR_of b y hy
  have hs := wf_slot (i := .add h b) rfl hw
  obtain ⟨k, t, a, b2, c⟩ := h
  cases k <;> first | exact congrArg (fun z => some (Instr.add _ z)) hd | exact Bool.noConfusion (show false = true from hs)

theorem sub (h : Hd) (b : XRR) : Statement (.sub h b) := by
  refine ⟨encXRR_lt b, fun h1 op ks e => ?_⟩
  injection e with e; injection e with e1 e; injection e with e2 e3; subst e1 e2 e3
  refine ⟨by decide, fun hw y hy => ?_⟩
  have hd : decXRR y = b := decXRR_of b y hy
  have hs := wf_slot (i := .sub h b) rfl hw
  obtain ⟨k, t, a, b2, c⟩ := h
  cases k <;> first | exact congrArg (fun z => some (Instr.sub _ z)) hd | exact Bool.noConfusion (show false = true from hs)

theorem and (h : Hd) (b : XRR) : Statement (.and h b) := by
  refine ⟨encXRR_lt b, fun h1 op ks e => ?_⟩
  injection e with e; injection e with e1 e; injection e with e2 e3; subst e1 e2 e3
  refine ⟨by decide, fun hw y hy => ?_⟩
  have hd : decXRR y = b := decXRR_of b y hy
  have hs := wf_slot (i := .and h b) rfl hw
  obtain ⟨k, t, a, b2, c⟩ := h
  cases k <;> first | exact congrArg (fun z => some (Instr.and _ z)) hd | exact Bool.noConfusion (show false = true from hs)

theorem or (h : Hd) (b : XRR) : Statement (.or h b) := by
  refine ⟨encXRR_lt b, fun h1 op ks e => ?_⟩
  injection e with e; injection e with e1 e; injection e with e2 e3; subst e1 e2 e3
  refine ⟨by decide, fun hw y hy => ?_⟩
  have hd : decXRR y = b := decXRR_of b y hy
  have hs := wf_slot (i := .or h b) rfl hw
  obtain ⟨k, t, a, b2, c⟩ := h
  cases k <;> first | exact congrArg (fun z => some (Instr.or _ z)) hd | exact Bool.noConfusion (show false = true from hs)

theorem xor (h : Hd) (b : XRR) : Statement (.xor h b) := by
  refine ⟨encXRR_lt b, fun h1 op ks e => ?_⟩
  injection e with e; injection e with e1 e; injection e with e2 e3; subst e1 e2 e3
  refine ⟨by decide, fun hw y hy => ?_⟩
  have hd : decXRR y = b := decXRR_of b y hy
  have hs := wf_slot (i := .xor h b) rfl hw
  obtain ⟨k, t, a, b2, c⟩ := h
  cases k <;> first | exact congrArg (fun z => some (Instr.xor _ z)) hd | exact Bool.noConfusion (show false = true from hs)

theorem shl (h : Hd) (b : XRR) : Statement (.shl h b) := by
  refine ⟨encXRR_lt b, fun h1 op ks e => ?_⟩
  injection e with e; injection e with e1 e; injection e with e2 e3; subst e1 e2 e3
  refine ⟨by decide, fun hw y hy => ?_⟩
  have hd : decXRR y = b := decXRR_of b y hy
  have hs := wf_slot (i := .shl h b) rfl hw
  obtain ⟨k, t, a, b2, c⟩ := h
  cases k <;> first | exact congrArg (fun z => some (Instr.shl _ z)) hd | exact Bool.noConfusion (show false = true from hs)

theorem shr (h : Hd) (b : XRR) : Statement (.shr h b) := by
  refine ⟨encXRR_lt b, fun h1 op ks e => ?_⟩
  injection e with e; injection e with e1 e; injection e with e2 e3; subst e1 e2 e3
  refine ⟨by decide, fun hw y hy => ?_⟩
  have hd : decXRR y = b := decXRR_of b y hy
  have hs := wf_slot (i := .shr h b) rfl hw
  obtain ⟨k, t, a, b2, c⟩ := h
  cases k <;> first | exact congrArg (fun z => some (Instr.shr _ z)) hd | exact Bool.noConfusion (show false = true from hs)

theorem sra (h : Hd) (b : XRR) : Statement (.sra h b) := by
  refine ⟨encXRR_lt b, fun h1 op ks e => ?_⟩
  injection e with e; injection e with e1 e; injection e with e2 e3; subst e1 e2 e3
  refine ⟨by decide, fun hw y hy => ?_⟩
  have hd : decXRR y = b := decXRR_of b y hy
  have hs := wf_slot (i := .sra h b) rfl hw
  obtain ⟨k, t, a, b2, c⟩ := h
  cases k <;> first | exact congrArg (fun z => some (Instr.sra _ z)) hd | exact Bool.noConfusion (show false = true from hs)

theorem mul (h : Hd) (b : XRR) : Statement (.mul h b) := by
  refine ⟨encXRR_lt b, fun h1 op ks e => ?_⟩
  injection e with e; injection e with e1 e; injection e with e2 e3; subst e1 e2 e3
  refine ⟨by decide, fun hw y hy => ?_⟩
  have hd : decXRR y = b := decXRR_of b y hy
  have hs := wf_slot (i := .mul h b) rfl hw
  obtain ⟨k, t, a, b2, c⟩ := h
  cases k <;> first | exact congrArg (fun z => some (Instr.mul _ z)) hd | exact Bool.noConfusion (show false = true from hs)

theorem mulh (h : Hd) (b : XRR) : Statement (.mulh h b) := by
  refine ⟨encXRR_lt b, fun h1 op ks e => ?_⟩
  injection e with e; injection e with e1 e; injection e with e2 e3; subst e1 e2 e3
  refine ⟨by decide, fun hw y hy => ?_⟩
  have hd : decXRR y = b := decXRR_of b y hy
  have hs := wf_slot (i := .mulh h b) rfl hw
  obtain ⟨k, t, a, b2, c⟩ := h
  cases k <;> first | exact congrArg (fun z => some (Instr.mulh _ z)) hd | exact Bool.noConfusion (show false = true from hs)

theorem mulhu (h : Hd) (b : XRR) : Statement (.mulhu h b) := by
  refine ⟨encXRR_lt b, fun h1 op ks e => ?_⟩
  injection e with e; injection e with e1 e; injection e with e2 e3; subst e1 e2 e3
  refine ⟨by decide, fun hw y hy => ?_⟩
  have hd : decXRR y = b := decXRR_of b y hy
  have hs := wf_slot (i := .mulhu h b) rfl hw
  obtain ⟨k, t, a, b2, c⟩ := h
  cases k <;> first | exact congrArg (fun z => some (Instr.mulhu _ z)) hd | exact Bool.noConfusion (show false = true from hs)

theorem min (h : Hd) (b : XRR) : Statement (.min h b) := by
  refine ⟨encXRR_lt b, fun h1 op ks e => ?_⟩
  injection e with e; injection e with e1 e; injection e with e2 e3; subst e1 e2 e3
  refine ⟨by decide, fun hw y hy => ?_⟩
  have hd : decXRR y = b := decXRR_of b y hy
  have hs := wf_slot (i := .min h b) rfl hw
  obtain ⟨k, t, a, b2, c⟩ := h
  cases k <;> first | exact congrArg (fun z => some (Instr.min _ z)) hd | exact Bool.noConfusion (show false = true from hs)

theorem minu (h : Hd) (b : XRR) : Statement (.minu h b) := by
  refine ⟨encXRR_lt b, fun h1 op ks e => ?_⟩
  injection e with e; injection e with e1 e; injection e with e2 e3; subst e1 e2 e3
  refine ⟨by decide, fun hw y hy => ?_⟩
  have hd : decXRR y = b := decXRR_of b y hy
  have hs := wf_slot (i := .minu h b) rfl hw
  obtain ⟨k, t, a, b2, c⟩ := h
  cases k <;> first | exact congrArg (fun z => some (Instr.minu _ z)) hd | exact Bool.noConfusion (show false = true from hs)

theorem max (h : Hd) (b : XRR) : Statement (.max h b) := by
  refine ⟨encXRR_lt b, fun h1 op ks e => ?_⟩
  injection e with e; injection e with e1 e; injection e with e2 e3; subst e1 e2 e3
  refine ⟨by decide, fun hw y hy => ?_⟩
  have hd : decXRR y = b := decXRR_of b y hy
  have hs := wf_slot (i := .max h b) rfl hw
  obtain ⟨k, t, a, b2, c⟩ := h
  cases k <;> first | exact congrArg (fun z => some (Instr.max _ z)) hd | exact Bool.noConfusion (show false = true from hs)

theorem maxu (h : Hd) (b : XRR) : Statement (.maxu h b) := by
  refine ⟨encXRR_lt b, fun h1 op ks e => ?_⟩
  injection e with e; injection e with e1 e; injection e with e2 e3; subst e1 e2 e3
  refine ⟨by decide, fun hw y hy => ?_⟩
  have hd : decXRR y = b := decXRR_of b y hy
  have hs := wf_slot (i := .maxu h b) rfl hw
  obtain ⟨k, t, a, b2, c⟩ := h
  cases k <;> first | exact congrArg (fun z => some (Instr.maxu _ z)) hd | exact Bool.noConfusion (show false = true from hs)

theorem sel (h : Hd) (b : XRR) : Statement (.sel h b) := by
  refine ⟨encXRR_lt b, fun h1 op ks e => ?_⟩
  injection e with e; injection e with e1 e; injection e with e2 e3; subst e1 e2 e3
  refine ⟨by decide, fun hw y hy => ?_⟩
  have hd : decXRR y = b := decXRR_of b y hy
  have hs := wf_slot (i := .sel h b) rfl hw
  obtain ⟨k, t, a, b2, c⟩ := h
  cases k <;> first | exact congrArg (fun z => some (Instr.sel _ z)) hd | exact Bool.noConfusion (show false = true from hs)

theorem clz (h : Hd) (b : XRR) : Statement (.clz h b) := by
  refine ⟨encXRR_lt b, fun h1 op ks e => ?_⟩
  injection e with e; injection e with e1 e; injection e with e2 e3; subst e1 e2 e3
  refine ⟨by decide, fun hw y hy => ?_⟩
  have hd : decXRR y = b := decXRR_of b y hy
  have hs := wf_slot (i := .clz h b) rfl hw
  obtain ⟨k, t, a, b2, c⟩ := h
  cases k <;> first | exact congrArg (fun z => some (Instr.clz _ z)) hd | exact Bool.noConfusion (show false = true from hs)

theorem popc (h : Hd) (b : XRR) : Statement (.popc h b) := by
  refine ⟨encXRR_lt b, fun h1 op ks e => ?_⟩
  injection e with e; injection e with e1 e; injection e with e2 e3; subst e1 e2 e3
  refine ⟨by decide, fun hw y hy => ?_⟩
  have hd : decXRR y = b := decXRR_of b y hy
  have hs := wf_slot (i := .popc h b) rfl hw
  obtain ⟨k, t, a, b2, c⟩ := h
  cases k <;> first | exact congrArg (fun z => some (Instr.popc _ z)) hd | exact Bool.noConfusion (show false = true from hs)

theorem bext (h : Hd) (b : XRR) : Statement (.bext h b) := by
  refine ⟨encXRR_lt b, fun h1 op ks e => ?_⟩
  injection e with e; injection e with e1 e; injection e with e2 e3; subst e1 e2 e3
  refine ⟨by decide, fun hw y hy => ?_⟩
  have hd : decXRR y = b := decXRR_of b y hy
  have hs := wf_slot (i := .bext h b) rfl hw
  obtain ⟨k, t, a, b2, c⟩ := h
  cases k <;> first | exact congrArg (fun z => some (Instr.bext _ z)) hd | exact Bool.noConfusion (show false = true from hs)

theorem bins (h : Hd) (b : XRR) : Statement (.bins h b) := by
  refine ⟨encXRR_lt b, fun h1 op ks e => ?_⟩
  injection e with e; injection e with e1 e; injection e with e2 e3; subst e1 e2 e3
  refine ⟨by decide, fun hw y hy => ?_⟩
  have hd : decXRR y = b := decXRR_of b y hy
  have hs := wf_slot (i := .bins h b) rfl hw
  obtain ⟨k, t, a, b2, c⟩ := h
  cases k <;> first | exact congrArg (fun z => some (Instr.bins _ z)) hd | exact Bool.noConfusion (show false = true from hs)

theorem addi (h : Hd) (b : XI) : Statement (.addi h b) := by
  refine ⟨encXI_lt b, fun h1 op ks e => ?_⟩
  injection e with e; injection e with e1 e; injection e with e2 e3; subst e1 e2 e3
  refine ⟨by decide, fun hw y hy => ?_⟩
  have hd : decXI y = b := decXI_of b y hy
  have hs := wf_slot (i := .addi h b) rfl hw
  obtain ⟨k, t, a, b2, c⟩ := h
  cases k <;> first | exact congrArg (fun z => some (Instr.addi _ z)) hd | exact Bool.noConfusion (show false = true from hs)

theorem andi (h : Hd) (b : XI) : Statement (.andi h b) := by
  refine ⟨encXI_lt b, fun h1 op ks e => ?_⟩
  injection e with e; injection e with e1 e; injection e with e2 e3; subst e1 e2 e3
  refine ⟨by decide, fun hw y hy => ?_⟩
  have hd : decXI y = b := decXI_of b y hy
  have hs := wf_slot (i := .andi h b) rfl hw
  obtain ⟨k, t, a, b2, c⟩ := h
  cases k <;> first | exact congrArg (fun z => some (Instr.andi _ z)) hd | exact Bool.noConfusion (show false = true from hs)

theorem ori (h : Hd) (b : XI) : Statement (.ori h b) := by
  refine ⟨encXI_lt b, fun h1 op ks e => ?_⟩
  injection e with e; injection e with e1 e; injection e with e2 e3; subst e1 e2 e3
  refine ⟨by decide, fun hw y hy => ?_⟩
  have hd : decXI y = b := decXI_of b y hy
  have hs := wf_slot (i := .ori h b) rfl hw
  obtain ⟨k, t, a, b2, c⟩ := h
  cases k <;> first | exact congrArg (fun z => some (Instr.ori _ z)) hd | exact Bool.noConfusion (show false = true from hs)

theorem xori (h : Hd) (b : XI) : Statement (.xori h b) := by
  refine ⟨encXI_lt b, fun h1 op ks e => ?_⟩
  injection e with e; injection e with e1 e; injection e with e2 e3; subst e1 e2 e3
  refine ⟨by decide, fun hw y hy => ?_⟩
  have hd : decXI y = b := decXI_of b y hy
  have hs := wf_slot (i := .xori h b) rfl hw
  obtain ⟨k, t, a, b2, c⟩ := h
  cases k <;> first | exact congrArg (fun z => some (Instr.xori _ z)) hd | exact Bool.noConfusion (show false = true from hs)

theorem shli (h : Hd) (b : XI) : Statement (.shli h b) := by
  refine ⟨encXI_lt b, fun h1 op ks e => ?_⟩
  injection e with e; injection e with e1 e; injection e with e2 e3; subst e1 e2 e3
  refine ⟨by decide, fun hw y hy => ?_⟩
  have hd : decXI y = b := decXI_of b y hy
  have hs := wf_slot (i := .shli h b) rfl hw
  obtain ⟨k, t, a, b2, c⟩ := h
  cases k <;> first | exact congrArg (fun z => some (Instr.shli _ z)) hd | exact Bool.noConfusion (show false = true from hs)

theorem shri (h : Hd) (b : XI) : Statement (.shri h b) := by
  refine ⟨encXI_lt b, fun h1 op ks e => ?_⟩
  injection e with e; injection e with e1 e; injection e with e2 e3; subst e1 e2 e3
  refine ⟨by decide, fun hw y hy => ?_⟩
  have hd : decXI y = b := decXI_of b y hy
  have hs := wf_slot (i := .shri h b) rfl hw
  obtain ⟨k, t, a, b2, c⟩ := h
  cases k <;> first | exact congrArg (fun z => some (Instr.shri _ z)) hd | exact Bool.noConfusion (show false = true from hs)

theorem srai (h : Hd) (b : XI) : Statement (.srai h b) := by
  refine ⟨encXI_lt b, fun h1 op ks e => ?_⟩
  injection e with e; injection e with e1 e; injection e with e2 e3; subst e1 e2 e3
  refine ⟨by decide, fun hw y hy => ?_⟩
  have hd : decXI y = b := decXI_of b y hy
  have hs := wf_slot (i := .srai h b) rfl hw
  obtain ⟨k, t, a, b2, c⟩ := h
  cases k <;> first | exact congrArg (fun z => some (Instr.srai _ z)) hd | exact Bool.noConfusion (show false = true from hs)

theorem movi (h : Hd) (b : XL) : Statement (.movi h b) := by
  refine ⟨encXL_lt b, fun h1 op ks e => ?_⟩
  injection e with e; injection e with e1 e; injection e with e2 e3; subst e1 e2 e3
  refine ⟨by decide, fun hw y hy => ?_⟩
  have hd : decXL y = b := decXL_of b y hy
  have hs := wf_slot (i := .movi h b) rfl hw
  obtain ⟨k, t, a, b2, c⟩ := h
  cases k <;> first | exact congrArg (fun z => some (Instr.movi _ z)) hd | exact Bool.noConfusion (show false = true from hs)

theorem movhi (h : Hd) (b : XL) : Statement (.movhi h b) := by
  refine ⟨encXL_lt b, fun h1 op ks e => ?_⟩
  injection e with e; injection e with e1 e; injection e with e2 e3; subst e1 e2 e3
  refine ⟨by decide, fun hw y hy => ?_⟩
  have hd : decXL y = b := decXL_of b y hy
  have hs := wf_slot (i := .movhi h b) rfl hw
  obtain ⟨k, t, a, b2, c⟩ := h
  cases k <;> first | exact congrArg (fun z => some (Instr.movhi _ z)) hd | exact Bool.noConfusion (show false = true from hs)

theorem cmp (h : Hd) (b : PCX) : Statement (.cmp h b) := by
  refine ⟨encPCX_lt b, fun h1 op ks e => ?_⟩
  injection e with e; injection e with e1 e; injection e with e2 e3; subst e1 e2 e3
  refine ⟨by decide, fun hw y hy => ?_⟩
  have hd : decPCX y = b := decPCX_of b y hy
  have hs := wf_slot (i := .cmp h b) rfl hw
  obtain ⟨k, t, a, b2, c⟩ := h
  cases k <;> first | exact congrArg (fun z => some (Instr.cmp _ z)) hd | exact Bool.noConfusion (show false = true from hs)

theorem cmpi (h : Hd) (b : PCI) : Statement (.cmpi h b) := by
  refine ⟨encPCI_lt b, fun h1 op ks e => ?_⟩
  injection e with e; injection e with e1 e; injection e with e2 e3; subst e1 e2 e3
  refine ⟨by decide, fun hw y hy => ?_⟩
  have hd : decPCI y = b := decPCI_of b y hy
  have hs := wf_slot (i := .cmpi h b) rfl hw
  obtain ⟨k, t, a, b2, c⟩ := h
  cases k <;> first | exact congrArg (fun z => some (Instr.cmpi _ z)) hd | exact Bool.noConfusion (show false = true from hs)

theorem ptt (h : Hd) (b : PCT) : Statement (.ptt h b) := by
  refine ⟨encPCT_lt b, fun h1 op ks e => ?_⟩
  injection e with e; injection e with e1 e; injection e with e2 e3; subst e1 e2 e3
  refine ⟨by decide, fun hw y hy => ?_⟩
  have hd : decPCT y = b := decPCT_of b y hy
  have hs := wf_slot (i := .ptt h b) rfl hw
  obtain ⟨k, t, a, b2, c⟩ := h
  cases k <;> first | exact congrArg (fun z => some (Instr.ptt _ z)) hd | exact Bool.noConfusion (show false = true from hs)

theorem br (h : Hd) (b : BR) : Statement (.br h b) := by
  refine ⟨encBR_lt b, fun h1 op ks e => ?_⟩
  injection e with e; injection e with e1 e; injection e with e2 e3; subst e1 e2 e3
  refine ⟨by decide, fun hw y hy => ?_⟩
  have hd : decBR y = b := decBR_of b y hy
  have hs := wf_slot (i := .br h b) rfl hw
  obtain ⟨k, t, a, b2, c⟩ := h
  cases k <;> first | exact congrArg (fun z => some (Instr.br _ z)) hd | exact Bool.noConfusion (show false = true from hs)

theorem call (h : Hd) (b : BR) : Statement (.call h b) := by
  refine ⟨encBR_lt b, fun h1 op ks e => ?_⟩
  injection e with e; injection e with e1 e; injection e with e2 e3; subst e1 e2 e3
  refine ⟨by decide, fun hw y hy => ?_⟩
  have hd : decBR y = b := decBR_of b y hy
  have hs := wf_slot (i := .call h b) rfl hw
  obtain ⟨k, t, a, b2, c⟩ := h
  cases k <;> first | exact congrArg (fun z => some (Instr.call _ z)) hd | exact Bool.noConfusion (show false = true from hs)

theorem ret (h : Hd) (b : XRR) : Statement (.ret h b) := by
  refine ⟨encXRR_lt b, fun h1 op ks e => ?_⟩
  injection e with e; injection e with e1 e; injection e with e2 e3; subst e1 e2 e3
  refine ⟨by decide, fun hw y hy => ?_⟩
  have hd : decXRR y = b := decXRR_of b y hy
  have hs := wf_slot (i := .ret h b) rfl hw
  obtain ⟨k, t, a, b2, c⟩ := h
  cases k <;> first | exact congrArg (fun z => some (Instr.ret _ z)) hd | exact Bool.noConfusion (show false = true from hs)

theorem brq (h : Hd) (b : BR) : Statement (.brq h b) := by
  refine ⟨encBR_lt b, fun h1 op ks e => ?_⟩
  injection e with e; injection e with e1 e; injection e with e2 e3; subst e1 e2 e3
  refine ⟨by decide, fun hw y hy => ?_⟩
  have hd : decBR y = b := decBR_of b y hy
  have hs := wf_slot (i := .brq h b) rfl hw
  obtain ⟨k, t, a, b2, c⟩ := h
  cases k <;> first | exact congrArg (fun z => some (Instr.brq _ z)) hd | exact Bool.noConfusion (show false = true from hs)

theorem boq (h : Hd) (b : XRR) : Statement (.boq h b) := by
  refine ⟨encXRR_lt b, fun h1 op ks e => ?_⟩
  injection e with e; injection e with e1 e; injection e with e2 e3; subst e1 e2 e3
  refine ⟨by decide, fun hw y hy => ?_⟩
  have hd : decXRR y = b := decXRR_of b y hy
  have hs := wf_slot (i := .boq h b) rfl hw
  obtain ⟨k, t, a, b2, c⟩ := h
  cases k <;> first | exact congrArg (fun z => some (Instr.boq _ z)) hd | exact Bool.noConfusion (show false = true from hs)

theorem loop (h : Hd) (b : LP) : Statement (.loop h b) := by
  refine ⟨encLP_lt b, fun h1 op ks e => ?_⟩
  injection e with e; injection e with e1 e; injection e with e2 e3; subst e1 e2 e3
  refine ⟨by decide, fun hw y hy => ?_⟩
  have hd : decLP y = b := decLP_of b y hy
  have hs := wf_slot (i := .loop h b) rfl hw
  obtain ⟨k, t, a, b2, c⟩ := h
  cases k <;> first | exact congrArg (fun z => some (Instr.loop _ z)) hd | exact Bool.noConfusion (show false = true from hs)

theorem loopi (h : Hd) (b : LP) : Statement (.loopi h b) := by
  refine ⟨encLP_lt b, fun h1 op ks e => ?_⟩
  injection e with e; injection e with e1 e; injection e with e2 e3; subst e1 e2 e3
  refine ⟨by decide, fun hw y hy => ?_⟩
  have hd : decLP y = b := decLP_of b y hy
  have hs := wf_slot (i := .loopi h b) rfl hw
  obtain ⟨k, t, a, b2, c⟩ := h
  cases k <;> first | exact congrArg (fun z => some (Instr.loopi _ z)) hd | exact Bool.noConfusion (show false = true from hs)

theorem rep (h : Hd) (b : LP) : Statement (.rep h b) := by
  refine ⟨encLP_lt b, fun h1 op ks e => ?_⟩
  injection e with e; injection e with e1 e; injection e with e2 e3; subst e1 e2 e3
  refine ⟨by decide, fun hw y hy => ?_⟩
  have hd : decLP y = b := decLP_of b y hy
  have hs := wf_slot (i := .rep h b) rfl hw
  obtain ⟨k, t, a, b2, c⟩ := h
  cases k <;> first | exact congrArg (fun z => some (Instr.rep _ z)) hd | exact Bool.noConfusion (show false = true from hs)

theorem fork (h : Hd) (b : BRF) : Statement (.fork h b) := by
  refine ⟨encBRF_lt b, fun h1 op ks e => ?_⟩
  injection e with e; injection e with e1 e; injection e with e2 e3; subst e1 e2 e3
  refine ⟨by decide, fun hw y hy => ?_⟩
  have hd : decBRF y = b := decBRF_of b y hy
  have hs := wf_slot (i := .fork h b) rfl hw
  obtain ⟨k, t, a, b2, c⟩ := h
  cases k <;> first | exact congrArg (fun z => some (Instr.fork _ z)) hd | exact Bool.noConfusion (show false = true from hs)

theorem join (h : Hd) (b : XRR) : Statement (.join h b) := by
  refine ⟨encXRR_lt b, fun h1 op ks e => ?_⟩
  injection e with e; injection e with e1 e; injection e with e2 e3; subst e1 e2 e3
  refine ⟨by decide, fun hw y hy => ?_⟩
  have hd : decXRR y = b := decXRR_of b y hy
  have hs := wf_slot (i := .join h b) rfl hw
  obtain ⟨k, t, a, b2, c⟩ := h
  cases k <;> first | exact congrArg (fun z => some (Instr.join _ z)) hd | exact Bool.noConfusion (show false = true from hs)

theorem syncs (h : Hd) (b : XI) : Statement (.syncs h b) := by
  refine ⟨encXI_lt b, fun h1 op ks e => ?_⟩
  injection e with e; injection e with e1 e; injection e with e2 e3; subst e1 e2 e3
  refine ⟨by decide, fun hw y hy => ?_⟩
  have hd : decXI y = b := decXI_of b y hy
  have hs := wf_slot (i := .syncs h b) rfl hw
  obtain ⟨k, t, a, b2, c⟩ := h
  cases k <;> first | exact congrArg (fun z => some (Instr.syncs _ z)) hd | exact Bool.noConfusion (show false = true from hs)

theorem syncw (h : Hd) (b : XI) : Statement (.syncw h b) := by
  refine ⟨encXI_lt b, fun h1 op ks e => ?_⟩
  injection e with e; injection e with e1 e; injection e with e2 e3; subst e1 e2 e3
  refine ⟨by decide, fun hw y hy => ?_⟩
  have hd : decXI y = b := decXI_of b y hy
  have hs := wf_slot (i := .syncw h b) rfl hw
  obtain ⟨k, t, a, b2, c⟩ := h
  cases k <;> first | exact congrArg (fun z => some (Instr.syncw _ z)) hd | exact Bool.noConfusion (show false = true from hs)

theorem halt (h : Hd) (b : XRR) : Statement (.halt h b) := by
  refine ⟨encXRR_lt b, fun h1 op ks e => ?_⟩
  injection e with e; injection e with e1 e; injection e with e2 e3; subst e1 e2 e3
  refine ⟨by decide, fun hw y hy => ?_⟩
  have hd : decXRR y = b := decXRR_of b y hy
  have hs := wf_slot (i := .halt h b) rfl hw
  obtain ⟨k, t, a, b2, c⟩ := h
  cases k <;> first | exact congrArg (fun z => some (Instr.halt _ z)) hd | exact Bool.noConfusion (show false = true from hs)

theorem mfsr (h : Hd) (b : XI) : Statement (.mfsr h b) := by
  refine ⟨encXI_lt b, fun h1 op ks e => ?_⟩
  injection e with e; injection e with e1 e; injection e with e2 e3; subst e1 e2 e3
  refine ⟨by decide, fun hw y hy => ?_⟩
  have hd : decXI y = b := decXI_of b y hy
  have hs := wf_slot (i := .mfsr h b) rfl hw
  obtain ⟨k, t, a, b2, c⟩ := h
  cases k <;> first | exact congrArg (fun z => some (Instr.mfsr _ z)) hd | exact Bool.noConfusion (show false = true from hs)

theorem mtsrSlipw (h : Hd) (b : XI) : Statement (.mtsrSlipw h b) := by
  refine ⟨encXI_lt b, fun h1 op ks e => ?_⟩
  injection e with e; injection e with e1 e; injection e with e2 e3; subst e1 e2 e3
  refine ⟨by decide, fun hw y hy => ?_⟩
  have hd : decXI y = b := decXI_of b y hy
  have hs := wf_slot (i := .mtsrSlipw h b) rfl hw
  have hv := wf_valid (i := .mtsrSlipw h b) rfl hw
  obtain ⟨k, t, a, b2, c⟩ := h
  cases k <;> first | (exact Bool.noConfusion (show false = true from hs)) | skip
  all_goals
    show decodeMtsr _ (decXI y) = _
    rw [hd]
    simp only [fieldsValid] at hv
    simp_all [decodeMtsr]

theorem mtsrFmode (h : Hd) (b : XI) : Statement (.mtsrFmode h b) := by
  refine ⟨encXI_lt b, fun h1 op ks e => ?_⟩
  injection e with e; injection e with e1 e; injection e with e2 e3; subst e1 e2 e3
  refine ⟨by decide, fun hw y hy => ?_⟩
  have hd : decXI y = b := decXI_of b y hy
  have hs := wf_slot (i := .mtsrFmode h b) rfl hw
  have hv := wf_valid (i := .mtsrFmode h b) rfl hw
  obtain ⟨k, t, a, b2, c⟩ := h
  cases k <;> first | (exact Bool.noConfusion (show false = true from hs)) | skip
  all_goals
    show decodeMtsr _ (decXI y) = _
    rw [hd]
    simp only [fieldsValid] at hv
    simp_all [decodeMtsr]

theorem mtsrFflags (h : Hd) (b : XI) : Statement (.mtsrFflags h b) := by
  refine ⟨encXI_lt b, fun h1 op ks e => ?_⟩
  injection e with e; injection e with e1 e; injection e with e2 e3; subst e1 e2 e3
  refine ⟨by decide, fun hw y hy => ?_⟩
  have hd : decXI y = b := decXI_of b y hy
  have hs := wf_slot (i := .mtsrFflags h b) rfl hw
  have hv := wf_valid (i := .mtsrFflags h b) rfl hw
  obtain ⟨k, t, a, b2, c⟩ := h
  cases k <;> first | (exact Bool.noConfusion (show false = true from hs)) | skip
  all_goals
    show decodeMtsr _ (decXI y) = _
    rw [hd]
    simp only [fieldsValid] at hv
    simp_all [decodeMtsr]

theorem mtsrCrv (h : Hd) (b : XI) : Statement (.mtsrCrv h b) := by
  refine ⟨encXI_lt b, fun h1 op ks e => ?_⟩
  injection e with e; injection e with e1 e; injection e with e2 e3; subst e1 e2 e3
  refine ⟨by decide, fun hw y hy => ?_⟩
  have hd : decXI y = b := decXI_of b y hy
  have hs := wf_slot (i := .mtsrCrv h b) rfl hw
  have hv := wf_valid (i := .mtsrCrv h b) rfl hw
  obtain ⟨k, t, a, b2, c⟩ := h
  cases k <;> first | (exact Bool.noConfusion (show false = true from hs)) | skip
  all_goals
    show decodeMtsr _ (decXI y) = _
    rw [hd]
    simp only [fieldsValid] at hv
    have hv := of_decide_eq_true hv
    have h1 : ∀ n : BitVec 21, n.toNat < 0x20 → b.imm ≠ n := by intro n hn e; subst e; omega
    simp [decodeMtsr, hv, h1]

theorem mtsrSdcfg (h : Hd) (b : XI) : Statement (.mtsrSdcfg h b) := by
  refine ⟨encXI_lt b, fun h1 op ks e => ?_⟩
  injection e with e; injection e with e1 e; injection e with e2 e3; subst e1 e2 e3
  refine ⟨by decide, fun hw y hy => ?_⟩
  have hd : decXI y = b := decXI_of b y hy
  have hs := wf_slot (i := .mtsrSdcfg h b) rfl hw
  have hv := wf_valid (i := .mtsrSdcfg h b) rfl hw
  obtain ⟨k, t, a, b2, c⟩ := h
  cases k <;> first | (exact Bool.noConfusion (show false = true from hs)) | skip
  all_goals
    show decodeMtsr _ (decXI y) = _
    rw [hd]
    simp only [fieldsValid] at hv
    simp_all [decodeMtsr]

theorem mtsrTvec (h : Hd) (b : XI) : Statement (.mtsrTvec h b) := by
  refine ⟨encXI_lt b, fun h1 op ks e => ?_⟩
  injection e with e; injection e with e1 e; injection e with e2 e3; subst e1 e2 e3
  refine ⟨by decide, fun hw y hy => ?_⟩
  have hd : decXI y = b := decXI_of b y hy
  have hs := wf_slot (i := .mtsrTvec h b) rfl hw
  have hv := wf_valid (i := .mtsrTvec h b) rfl hw
  obtain ⟨k, t, a, b2, c⟩ := h
  cases k <;> first | (exact Bool.noConfusion (show false = true from hs)) | skip
  all_goals
    show decodeMtsr _ (decXI y) = _
    rw [hd]
    simp only [fieldsValid] at hv
    simp_all [decodeMtsr]

theorem fenceDeck (h : Hd) (b : XRR) : Statement (.fenceDeck h b) := by
  refine ⟨encXRR_lt b, fun h1 op ks e => ?_⟩
  injection e with e; injection e with e1 e; injection e with e2 e3; subst e1 e2 e3
  refine ⟨by decide, fun hw y hy => ?_⟩
  have hd : decXRR y = b := decXRR_of b y hy
  have hs := wf_slot (i := .fenceDeck h b) rfl hw
  have hv := wf_valid (i := .fenceDeck h b) rfl hw
  obtain ⟨k, t, a, b2, c⟩ := h
  cases k <;> first | (exact Bool.noConfusion (show false = true from hs)) | skip
  all_goals
    show decodeFence _ (decXRR y) = _
    rw [hd]
    have hv := eq_of_beq hv
    simp only [decodeFence, hv]

theorem fenceCore (h : Hd) (b : XRR) : Statement (.fenceCore h b) := by
  refine ⟨encXRR_lt b, fun h1 op ks e => ?_⟩
  injection e with e; injection e with e1 e; injection e with e2 e3; subst e1 e2 e3
  refine ⟨by decide, fun hw y hy => ?_⟩
  have hd : decXRR y = b := decXRR_of b y hy
  have hs := wf_slot (i := .fenceCore h b) rfl hw
  have hv := wf_valid (i := .fenceCore h b) rfl hw
  obtain ⟨k, t, a, b2, c⟩ := h
  cases k <;> first | (exact Bool.noConfusion (show false = true from hs)) | skip
  all_goals
    show decodeFence _ (decXRR y) = _
    rw [hd]
    have hv := eq_of_beq hv
    simp only [decodeFence, hv]

theorem fenceGang (h : Hd) (b : XRR) : Statement (.fenceGang h b) := by
  refine ⟨encXRR_lt b, fun h1 op ks e => ?_⟩
  injection e with e; injection e with e1 e; injection e with e2 e3; subst e1 e2 e3
  refine ⟨by decide, fun hw y hy => ?_⟩
  have hd : decXRR y = b := decXRR_of b y hy
  have hs := wf_slot (i := .fenceGang h b) rfl hw
  have hv := wf_valid (i := .fenceGang h b) rfl hw
  obtain ⟨k, t, a, b2, c⟩ := h
  cases k <;> first | (exact Bool.noConfusion (show false = true from hs)) | skip
  all_goals
    show decodeFence _ (decXRR y) = _
    rw [hd]
    have hv := eq_of_beq hv
    simp only [decodeFence, hv]

theorem fenceDevice (h : Hd) (b : XRR) : Statement (.fenceDevice h b) := by
  refine ⟨encXRR_lt b, fun h1 op ks e => ?_⟩
  injection e with e; injection e with e1 e; injection e with e2 e3; subst e1 e2 e3
  refine ⟨by decide, fun hw y hy => ?_⟩
  have hd : decXRR y = b := decXRR_of b y hy
  have hs := wf_slot (i := .fenceDevice h b) rfl hw
  have hv := wf_valid (i := .fenceDevice h b) rfl hw
  obtain ⟨k, t, a, b2, c⟩ := h
  cases k <;> first | (exact Bool.noConfusion (show false = true from hs)) | skip
  all_goals
    show decodeFence _ (decXRR y) = _
    rw [hd]
    have hv := eq_of_beq hv
    simp only [decodeFence, hv]

theorem fenceSystem (h : Hd) (b : XRR) : Statement (.fenceSystem h b) := by
  refine ⟨encXRR_lt b, fun h1 op ks e => ?_⟩
  injection e with e; injection e with e1 e; injection e with e2 e3; subst e1 e2 e3
  refine ⟨by decide, fun hw y hy => ?_⟩
  have hd : decXRR y = b := decXRR_of b y hy
  have hs := wf_slot (i := .fenceSystem h b) rfl hw
  have hv := wf_valid (i := .fenceSystem h b) rfl hw
  obtain ⟨k, t, a, b2, c⟩ := h
  cases k <;> first | (exact Bool.noConfusion (show false = true from hs)) | skip
  all_goals
    show decodeFence _ (decXRR y) = _
    rw [hd]
    have hv := eq_of_beq hv
    simp only [decodeFence, hv]

theorem qpt (h : Hd) (b : XRR) : Statement (.qpt h b) := by
  refine ⟨encXRR_lt b, fun h1 op ks e => ?_⟩
  injection e with e; injection e with e1 e; injection e with e2 e3; subst e1 e2 e3
  refine ⟨by decide, fun hw y hy => ?_⟩
  have hd : decXRR y = b := decXRR_of b y hy
  have hs := wf_slot (i := .qpt h b) rfl hw
  obtain ⟨k, t, a, b2, c⟩ := h
  cases k <;> first | exact congrArg (fun z => some (Instr.qpt _ z)) hd | exact Bool.noConfusion (show false = true from hs)

theorem sq (h : Hd) (b : XRR) : Statement (.sq h b) := by
  refine ⟨encXRR_lt b, fun h1 op ks e => ?_⟩
  injection e with e; injection e with e1 e; injection e with e2 e3; subst e1 e2 e3
  refine ⟨by decide, fun hw y hy => ?_⟩
  have hd : decXRR y = b := decXRR_of b y hy
  have hs := wf_slot (i := .sq h b) rfl hw
  obtain ⟨k, t, a, b2, c⟩ := h
  cases k <;> first | exact congrArg (fun z => some (Instr.sq _ z)) hd | exact Bool.noConfusion (show false = true from hs)

theorem squareComplete (inst : Nat) : Statement (.squareComplete inst) :=
  ⟨Nat.two_pow_pos 33, fun _ _ _ e => nomatch e⟩

theorem transferPhaseEnd (inst : Nat) : Statement (.transferPhaseEnd inst) :=
  ⟨Nat.two_pow_pos 33, fun _ _ _ e => nomatch e⟩

theorem semw (h : Hd) (b : XRR) : Statement (.semw h b) := by
  refine ⟨encXRR_lt b, fun h1 op ks e => ?_⟩
  injection e with e; injection e with e1 e; injection e with e2 e3; subst e1 e2 e3
  refine ⟨by decide, fun hw y hy => ?_⟩
  have hd : decXRR y = b := decXRR_of b y hy
  have hs := wf_slot (i := .semw h b) rfl hw
  obtain ⟨k, t, a, b2, c⟩ := h
  cases k <;> first | exact congrArg (fun z => some (Instr.semw _ z)) hd | exact Bool.noConfusion (show false = true from hs)

theorem sema (h : Hd) (b : XRR) : Statement (.sema h b) := by
  refine ⟨encXRR_lt b, fun h1 op ks e => ?_⟩
  injection e with e; injection e with e1 e; injection e with e2 e3; subst e1 e2 e3
  refine ⟨by decide, fun hw y hy => ?_⟩
  have hd : decXRR y = b := decXRR_of b y hy
  have hs := wf_slot (i := .sema h b) rfl hw
  obtain ⟨k, t, a, b2, c⟩ := h
  cases k <;> first | exact congrArg (fun z => some (Instr.sema _ z)) hd | exact Bool.noConfusion (show false = true from hs)

theorem semaAddPerform (core : Nat) (sem : Nat) (amount : Int) (stores : List Nat) : Statement (.semaAddPerform core sem amount stores) :=
  ⟨Nat.two_pow_pos 33, fun _ _ _ e => nomatch e⟩

theorem semt (h : Hd) (b : XRR) : Statement (.semt h b) := by
  refine ⟨encXRR_lt b, fun h1 op ks e => ?_⟩
  injection e with e; injection e with e1 e; injection e with e2 e3; subst e1 e2 e3
  refine ⟨by decide, fun hw y hy => ?_⟩
  have hd : decXRR y = b := decXRR_of b y hy
  have hs := wf_slot (i := .semt h b) rfl hw
  obtain ⟨k, t, a, b2, c⟩ := h
  cases k <;> first | exact congrArg (fun z => some (Instr.semt _ z)) hd | exact Bool.noConfusion (show false = true from hs)

theorem semr (h : Hd) (b : XRR) : Statement (.semr h b) := by
  refine ⟨encXRR_lt b, fun h1 op ks e => ?_⟩
  injection e with e; injection e with e1 e; injection e with e2 e3; subst e1 e2 e3
  refine ⟨by decide, fun hw y hy => ?_⟩
  have hd : decXRR y = b := decXRR_of b y hy
  have hs := wf_slot (i := .semr h b) rfl hw
  obtain ⟨k, t, a, b2, c⟩ := h
  cases k <;> first | exact congrArg (fun z => some (Instr.semr _ z)) hd | exact Bool.noConfusion (show false = true from hs)

theorem alease (h : Hd) (b : XRR) : Statement (.alease h b) := by
  refine ⟨encXRR_lt b, fun h1 op ks e => ?_⟩
  injection e with e; injection e with e1 e; injection e with e2 e3; subst e1 e2 e3
  refine ⟨by decide, fun hw y hy => ?_⟩
  have hd : decXRR y = b := decXRR_of b y hy
  have hs := wf_slot (i := .alease h b) rfl hw
  obtain ⟨k, t, a, b2, c⟩ := h
  cases k <;> first | exact congrArg (fun z => some (Instr.alease _ z)) hd | exact Bool.noConfusion (show false = true from hs)

theorem leaseGrant (core : Nat) : Statement (.leaseGrant core) :=
  ⟨Nat.two_pow_pos 33, fun _ _ _ e => nomatch e⟩

theorem arel (h : Hd) (b : XRR) : Statement (.arel h b) := by
  refine ⟨encXRR_lt b, fun h1 op ks e => ?_⟩
  injection e with e; injection e with e1 e; injection e with e2 e3; subst e1 e2 e3
  refine ⟨by decide, fun hw y hy => ?_⟩
  have hd : decXRR y = b := decXRR_of b y hy
  have hs := wf_slot (i := .arel h b) rfl hw
  obtain ⟨k, t, a, b2, c⟩ := h
  cases k <;> first | exact congrArg (fun z => some (Instr.arel _ z)) hd | exact Bool.noConfusion (show false = true from hs)

theorem spawn (h : Hd) (b : XRR) : Statement (.spawn h b) := by
  refine ⟨encXRR_lt b, fun h1 op ks e => ?_⟩
  injection e with e; injection e with e1 e; injection e with e2 e3; subst e1 e2 e3
  refine ⟨by decide, fun hw y hy => ?_⟩
  have hd : decXRR y = b := decXRR_of b y hy
  have hs := wf_slot (i := .spawn h b) rfl hw
  obtain ⟨k, t, a, b2, c⟩ := h
  cases k <;> first | exact congrArg (fun z => some (Instr.spawn _ z)) hd | exact Bool.noConfusion (show false = true from hs)

theorem cancel (h : Hd) (b : XRR) : Statement (.cancel h b) := by
  refine ⟨encXRR_lt b, fun h1 op ks e => ?_⟩
  injection e with e; injection e with e1 e; injection e with e2 e3; subst e1 e2 e3
  refine ⟨by decide, fun hw y hy => ?_⟩
  have hd : decXRR y = b := decXRR_of b y hy
  have hs := wf_slot (i := .cancel h b) rfl hw
  obtain ⟨k, t, a, b2, c⟩ := h
  cases k <;> first | exact congrArg (fun z => some (Instr.cancel _ z)) hd | exact Bool.noConfusion (show false = true from hs)

theorem xfork (h : Hd) (b : XRR) : Statement (.xfork h b) := by
  refine ⟨encXRR_lt b, fun h1 op ks e => ?_⟩
  injection e with e; injection e with e1 e; injection e with e2 e3; subst e1 e2 e3
  refine ⟨by decide, fun hw y hy => ?_⟩
  have hd : decXRR y = b := decXRR_of b y hy
  have hs := wf_slot (i := .xfork h b) rfl hw
  obtain ⟨k, t, a, b2, c⟩ := h
  cases k <;> first | exact congrArg (fun z => some (Instr.xfork _ z)) hd | exact Bool.noConfusion (show false = true from hs)

theorem trap (h : Hd) (b : XI) : Statement (.trap h b) := by
  refine ⟨encXI_lt b, fun h1 op ks e => ?_⟩
  injection e with e; injection e with e1 e; injection e with e2 e3; subst e1 e2 e3
  refine ⟨by decide, fun hw y hy => ?_⟩
  have hd : decXI y = b := decXI_of b y hy
  have hs := wf_slot (i := .trap h b) rfl hw
  obtain ⟨k, t, a, b2, c⟩ := h
  cases k <;> first | exact congrArg (fun z => some (Instr.trap _ z)) hd | exact Bool.noConfusion (show false = true from hs)

theorem rfe (h : Hd) (b : XRR) : Statement (.rfe h b) := by
  refine ⟨encXRR_lt b, fun h1 op ks e => ?_⟩
  injection e with e; injection e with e1 e; injection e with e2 e3; subst e1 e2 e3
  refine ⟨by decide, fun hw y hy => ?_⟩
  have hd : decXRR y = b := decXRR_of b y hy
  have hs := wf_slot (i := .rfe h b) rfl hw
  obtain ⟨k, t, a, b2, c⟩ := h
  cases k <;> first | exact congrArg (fun z => some (Instr.rfe _ z)) hd | exact Bool.noConfusion (show false = true from hs)

theorem wfi (h : Hd) (b : XRR) : Statement (.wfi h b) := by
  refine ⟨encXRR_lt b, fun h1 op ks e => ?_⟩
  injection e with e; injection e with e1 e; injection e with e2 e3; subst e1 e2 e3
  refine ⟨by decide, fun hw y hy => ?_⟩
  have hd : decXRR y = b := decXRR_of b y hy
  have hs := wf_slot (i := .wfi h b) rfl hw
  obtain ⟨k, t, a, b2, c⟩ := h
  cases k <;> first | exact congrArg (fun z => some (Instr.wfi _ z)) hd | exact Bool.noConfusion (show false = true from hs)

theorem widx (h : Hd) (b : XI) : Statement (.widx h b) := by
  refine ⟨encXI_lt b, fun h1 op ks e => ?_⟩
  injection e with e; injection e with e1 e; injection e with e2 e3; subst e1 e2 e3
  refine ⟨by decide, fun hw y hy => ?_⟩
  have hd : decXI y = b := decXI_of b y hy
  have hs := wf_slot (i := .widx h b) rfl hw
  obtain ⟨k, t, a, b2, c⟩ := h
  cases k <;> first | exact congrArg (fun z => some (Instr.widx _ z)) hd | exact Bool.noConfusion (show false = true from hs)

theorem plive (h : Hd) (b : XRR) : Statement (.plive h b) := by
  refine ⟨encXRR_lt b, fun h1 op ks e => ?_⟩
  injection e with e; injection e with e1 e; injection e with e2 e3; subst e1 e2 e3
  refine ⟨by decide, fun hw y hy => ?_⟩
  have hd : decXRR y = b := decXRR_of b y hy
  have hs := wf_slot (i := .plive h b) rfl hw
  obtain ⟨k, t, a, b2, c⟩ := h
  cases k <;> first | exact congrArg (fun z => some (Instr.plive _ z)) hd | exact Bool.noConfusion (show false = true from hs)

theorem vlive (h : Hd) (b : XRR) : Statement (.vlive h b) := by
  refine ⟨encXRR_lt b, fun h1 op ks e => ?_⟩
  injection e with e; injection e with e1 e; injection e with e2 e3; subst e1 e2 e3
  refine ⟨by decide, fun hw y hy => ?_⟩
  have hd : decXRR y = b := decXRR_of b y hy
  have hs := wf_slot (i := .vlive h b) rfl hw
  obtain ⟨k, t, a, b2, c⟩ := h
  cases k <;> first | exact congrArg (fun z => some (Instr.vlive _ z)) hd | exact Bool.noConfusion (show false = true from hs)

theorem ldsB (h : Hd) (b : XI) : Statement (.ldsB h b) := by
  refine ⟨encXI_lt b, fun h1 op ks e => ?_⟩
  injection e with e; injection e with e1 e; injection e with e2 e3; subst e1 e2 e3
  refine ⟨by decide, fun hw y hy => ?_⟩
  have hd : decXI y = b := decXI_of b y hy
  have hs := wf_slot (i := .ldsB h b) rfl hw
  obtain ⟨k, t, a, b2, c⟩ := h
  cases k <;> first | exact congrArg (fun z => some (Instr.ldsB _ z)) hd | exact Bool.noConfusion (show false = true from hs)

theorem ldsH (h : Hd) (b : XI) : Statement (.ldsH h b) := by
  refine ⟨encXI_lt b, fun h1 op ks e => ?_⟩
  injection e with e; injection e with e1 e; injection e with e2 e3; subst e1 e2 e3
  refine ⟨by decide, fun hw y hy => ?_⟩
  have hd : decXI y = b := decXI_of b y hy
  have hs := wf_slot (i := .ldsH h b) rfl hw
  obtain ⟨k, t, a, b2, c⟩ := h
  cases k <;> first | exact congrArg (fun z => some (Instr.ldsH _ z)) hd | exact Bool.noConfusion (show false = true from hs)

theorem ldsW (h : Hd) (b : XI) : Statement (.ldsW h b) := by
  refine ⟨encXI_lt b, fun h1 op ks e => ?_⟩
  injection e with e; injection e with e1 e; injection e with e2 e3; subst e1 e2 e3
  refine ⟨by decide, fun hw y hy => ?_⟩
  have hd : decXI y = b := decXI_of b y hy
  have hs := wf_slot (i := .ldsW h b) rfl hw
  obtain ⟨k, t, a, b2, c⟩ := h
  cases k <;> first | exact congrArg (fun z => some (Instr.ldsW _ z)) hd | exact Bool.noConfusion (show false = true from hs)

theorem ldsD (h : Hd) (b : XI) : Statement (.ldsD h b) := by
  refine ⟨encXI_lt b, fun h1 op ks e => ?_⟩
  injection e with e; injection e with e1 e; injection e with e2 e3; subst e1 e2 e3
  refine ⟨by decide, fun hw y hy => ?_⟩
  have hd : decXI y = b := decXI_of b y hy
  have hs := wf_slot (i := .ldsD h b) rfl hw
  obtain ⟨k, t, a, b2, c⟩ := h
  cases k <;> first | exact congrArg (fun z => some (Instr.ldsD _ z)) hd | exact Bool.noConfusion (show false = true from hs)

theorem stsB (h : Hd) (b : XI) : Statement (.stsB h b) := by
  refine ⟨encXI_lt b, fun h1 op ks e => ?_⟩
  injection e with e; injection e with e1 e; injection e with e2 e3; subst e1 e2 e3
  refine ⟨by decide, fun hw y hy => ?_⟩
  have hd : decXI y = b := decXI_of b y hy
  have hs := wf_slot (i := .stsB h b) rfl hw
  obtain ⟨k, t, a, b2, c⟩ := h
  cases k <;> first | exact congrArg (fun z => some (Instr.stsB _ z)) hd | exact Bool.noConfusion (show false = true from hs)

theorem stsH (h : Hd) (b : XI) : Statement (.stsH h b) := by
  refine ⟨encXI_lt b, fun h1 op ks e => ?_⟩
  injection e with e; injection e with e1 e; injection e with e2 e3; subst e1 e2 e3
  refine ⟨by decide, fun hw y hy => ?_⟩
  have hd : decXI y = b := decXI_of b y hy
  have hs := wf_slot (i := .stsH h b) rfl hw
  obtain ⟨k, t, a, b2, c⟩ := h
  cases k <;> first | exact congrArg (fun z => some (Instr.stsH _ z)) hd | exact Bool.noConfusion (show false = true from hs)

theorem stsW (h : Hd) (b : XI) : Statement (.stsW h b) := by
  refine ⟨encXI_lt b, fun h1 op ks e => ?_⟩
  injection e with e; injection e with e1 e; injection e with e2 e3; subst e1 e2 e3
  refine ⟨by decide, fun hw y hy => ?_⟩
  have hd : decXI y = b := decXI_of b y hy
  have hs := wf_slot (i := .stsW h b) rfl hw
  obtain ⟨k, t, a, b2, c⟩ := h
  cases k <;> first | exact congrArg (fun z => some (Instr.stsW _ z)) hd | exact Bool.noConfusion (show false = true from hs)

theorem stsD (h : Hd) (b : XI) : Statement (.stsD h b) := by
  refine ⟨encXI_lt b, fun h1 op ks e => ?_⟩
  injection e with e; injection e with e1 e; injection e with e2 e3; subst e1 e2 e3
  refine ⟨by decide, fun hw y hy => ?_⟩
  have hd : decXI y = b := decXI_of b y hy
  have hs := wf_slot (i := .stsD h b) rfl hw
  obtain ⟨k, t, a, b2, c⟩ := h
  cases k <;> first | exact congrArg (fun z => some (Instr.stsD _ z)) hd | exact Bool.noConfusion (show false = true from hs)

theorem ldq (h : Hd) (b : XRR) : Statement (.ldq h b) := by
  refine ⟨encXRR_lt b, fun h1 op ks e => ?_⟩
  injection e with e; injection e with e1 e; injection e with e2 e3; subst e1 e2 e3
  refine ⟨by decide, fun hw y hy => ?_⟩
  have hd : decXRR y = b := decXRR_of b y hy
  have hs := wf_slot (i := .ldq h b) rfl hw
  obtain ⟨k, t, a, b2, c⟩ := h
  cases k <;> first | exact congrArg (fun z => some (Instr.ldq _ z)) hd | exact Bool.noConfusion (show false = true from hs)

theorem remoteReadArrival (req : Nat) : Statement (.remoteReadArrival req) :=
  ⟨Nat.two_pow_pos 33, fun _ _ _ e => nomatch e⟩

theorem remoteReadResponse (req : Nat) (row : Nat) : Statement (.remoteReadResponse req row) :=
  ⟨Nat.two_pow_pos 33, fun _ _ _ e => nomatch e⟩

theorem ldqt (h : Hd) (b : XRR) : Statement (.ldqt h b) := by
  refine ⟨encXRR_lt b, fun h1 op ks e => ?_⟩
  injection e with e; injection e with e1 e; injection e with e2 e3; subst e1 e2 e3
  refine ⟨by decide, fun hw y hy => ?_⟩
  have hd : decXRR y = b := decXRR_of b y hy
  have hs := wf_slot (i := .ldqt h b) rfl hw
  obtain ⟨k, t, a, b2, c⟩ := h
  cases k <;> first | exact congrArg (fun z => some (Instr.ldqt _ z)) hd | exact Bool.noConfusion (show false = true from hs)

theorem hld (h : Hd) (b : XI) : Statement (.hld h b) := by
  refine ⟨encXI_lt b, fun h1 op ks e => ?_⟩
  injection e with e; injection e with e1 e; injection e with e2 e3; subst e1 e2 e3
  refine ⟨by decide, fun hw y hy => ?_⟩
  have hd : decXI y = b := decXI_of b y hy
  have hs := wf_slot (i := .hld h b) rfl hw
  obtain ⟨k, t, a, b2, c⟩ := h
  cases k <;> first | exact congrArg (fun z => some (Instr.hld _ z)) hd | exact Bool.noConfusion (show false = true from hs)

theorem hldRecordArrival (deck : Nat) (entry : Nat) (gen : Nat) : Statement (.hldRecordArrival deck entry gen) :=
  ⟨Nat.two_pow_pos 33, fun _ _ _ e => nomatch e⟩

theorem hidx (h : Hd) (b : XRR) : Statement (.hidx h b) := by
  refine ⟨encXRR_lt b, fun h1 op ks e => ?_⟩
  injection e with e; injection e with e1 e; injection e with e2 e3; subst e1 e2 e3
  refine ⟨by decide, fun hw y hy => ?_⟩
  have hd : decXRR y = b := decXRR_of b y hy
  have hs := wf_slot (i := .hidx h b) rfl hw
  obtain ⟨k, t, a, b2, c⟩ := h
  cases k <;> first | exact congrArg (fun z => some (Instr.hidx _ z)) hd | exact Bool.noConfusion (show false = true from hs)

theorem probe (h : Hd) (b : XI) : Statement (.probe h b) := by
  refine ⟨encXI_lt b, fun h1 op ks e => ?_⟩
  injection e with e; injection e with e1 e; injection e with e2 e3; subst e1 e2 e3
  refine ⟨by decide, fun hw y hy => ?_⟩
  have hd : decXI y = b := decXI_of b y hy
  have hs := wf_slot (i := .probe h b) rfl hw
  obtain ⟨k, t, a, b2, c⟩ := h
  cases k <;> first | exact congrArg (fun z => some (Instr.probe _ z)) hd | exact Bool.noConfusion (show false = true from hs)

theorem probeFill (core : Nat) : Statement (.probeFill core) :=
  ⟨Nat.two_pow_pos 33, fun _ _ _ e => nomatch e⟩

theorem ppin (h : Hd) (b : XRR) : Statement (.ppin h b) := by
  refine ⟨encXRR_lt b, fun h1 op ks e => ?_⟩
  injection e with e; injection e with e1 e; injection e with e2 e3; subst e1 e2 e3
  refine ⟨by decide, fun hw y hy => ?_⟩
  have hd : decXRR y = b := decXRR_of b y hy
  have hs := wf_slot (i := .ppin h b) rfl hw
  obtain ⟨k, t, a, b2, c⟩ := h
  cases k <;> first | exact congrArg (fun z => some (Instr.ppin _ z)) hd | exact Bool.noConfusion (show false = true from hs)

theorem pfree (h : Hd) (b : XRR) : Statement (.pfree h b) := by
  refine ⟨encXRR_lt b, fun h1 op ks e => ?_⟩
  injection e with e; injection e with e1 e; injection e with e2 e3; subst e1 e2 e3
  refine ⟨by decide, fun hw y hy => ?_⟩
  have hd : decXRR y = b := decXRR_of b y hy
  have hs := wf_slot (i := .pfree h b) rfl hw
  obtain ⟨k, t, a, b2, c⟩ := h
  cases k <;> first | exact congrArg (fun z => some (Instr.pfree _ z)) hd | exact Bool.noConfusion (show false = true from hs)

theorem tcfg (h : Hd) (b : XRR) : Statement (.tcfg h b) := by
  refine ⟨encXRR_lt b, fun h1 op ks e => ?_⟩
  injection e with e; injection e with e1 e; injection e with e2 e3; subst e1 e2 e3
  refine ⟨by decide, fun hw y hy => ?_⟩
  have hd : decXRR y = b := decXRR_of b y hy
  have hs := wf_slot (i := .tcfg h b) rfl hw
  obtain ⟨k, t, a, b2, c⟩ := h
  cases k <;> first | exact congrArg (fun z => some (Instr.tcfg _ z)) hd | exact Bool.noConfusion (show false = true from hs)

theorem tcfgTakeEffect (core : Nat) (tile : Nat) : Statement (.tcfgTakeEffect core tile) :=
  ⟨Nat.two_pow_pos 33, fun _ _ _ e => nomatch e⟩

theorem trel (h : Hd) (b : XRR) : Statement (.trel h b) := by
  refine ⟨encXRR_lt b, fun h1 op ks e => ?_⟩
  injection e with e; injection e with e1 e; injection e with e2 e3; subst e1 e2 e3
  refine ⟨by decide, fun hw y hy => ?_⟩
  have hd : decXRR y = b := decXRR_of b y hy
  have hs := wf_slot (i := .trel h b) rfl hw
  obtain ⟨k, t, a, b2, c⟩ := h
  cases k <;> first | exact congrArg (fun z => some (Instr.trel _ z)) hd | exact Bool.noConfusion (show false = true from hs)

theorem trelTakeEffect (core : Nat) (tile : Nat) : Statement (.trelTakeEffect core tile) :=
  ⟨Nat.two_pow_pos 33, fun _ _ _ e => nomatch e⟩

theorem tage (h : Hd) (b : XRR) : Statement (.tage h b) := by
  refine ⟨encXRR_lt b, fun h1 op ks e => ?_⟩
  injection e with e; injection e with e1 e; injection e with e2 e3; subst e1 e2 e3
  refine ⟨by decide, fun hw y hy => ?_⟩
  have hd : decXRR y = b := decXRR_of b y hy
  have hs := wf_slot (i := .tage h b) rfl hw
  obtain ⟨k, t, a, b2, c⟩ := h
  cases k <;> first | exact congrArg (fun z => some (Instr.tage _ z)) hd | exact Bool.noConfusion (show false = true from hs)

theorem pub (h : Hd) (b : XRR) : Statement (.pub h b) := by
  refine ⟨encXRR_lt b, fun h1 op ks e => ?_⟩
  injection e with e; injection e with e1 e; injection e with e2 e3; subst e1 e2 e3
  refine ⟨by decide, fun hw y hy => ?_⟩
  have hd : decXRR y = b := decXRR_of b y hy
  have hs := wf_slot (i := .pub h b) rfl hw
  have hv := wf_valid (i := .pub h b) rfl hw
  obtain ⟨k, t, a, b2, c⟩ := h
  cases k <;> first | (exact Bool.noConfusion (show false = true from hs)) | skip
  all_goals
    show some (if bits y 0 1 == 0 then Instr.pub _ (decXRR y) else Instr.pubR _ (decXRR y)) = _
    rw [hd]
    have hy0 : bits y 0 1 = bits b.m.toNat 0 1 := by
      simp only [bodyOf, encXRR] at hy
      simp only [bits]; omega
    have hv := eq_of_beq hv
    simp [hy0, hv]

theorem pubR (h : Hd) (b : XRR) : Statement (.pubR h b) := by
  refine ⟨encXRR_lt b, fun h1 op ks e => ?_⟩
  injection e with e; injection e with e1 e; injection e with e2 e3; subst e1 e2 e3
  refine ⟨by decide, fun hw y hy => ?_⟩
  have hd : decXRR y = b := decXRR_of b y hy
  have hs := wf_slot (i := .pubR h b) rfl hw
  have hv := wf_valid (i := .pubR h b) rfl hw
  obtain ⟨k, t, a, b2, c⟩ := h
  cases k <;> first | (exact Bool.noConfusion (show false = true from hs)) | skip
  all_goals
    show some (if bits y 0 1 == 0 then Instr.pub _ (decXRR y) else Instr.pubR _ (decXRR y)) = _
    rw [hd]
    have hy0 : bits y 0 1 = bits b.m.toNat 0 1 := by
      simp only [bodyOf, encXRR] at hy
      simp only [bits]; omega
    have hv := eq_of_beq hv
    simp [hy0, hv]

theorem tileMarkTakeEffect (core : Nat) (tile : Nat) (recv : Bool) (stores : List Nat) : Statement (.tileMarkTakeEffect core tile recv stores) :=
  ⟨Nat.two_pow_pos 33, fun _ _ _ e => nomatch e⟩

theorem ldk (h : Hd) (b : XL) : Statement (.ldk h b) := by
  refine ⟨encXL_lt b, fun h1 op ks e => ?_⟩
  injection e with e; injection e with e1 e; injection e with e2 e3; subst e1 e2 e3
  refine ⟨by decide, fun hw y hy => ?_⟩
  have hd : decXL y = b := decXL_of b y hy
  have hs := wf_slot (i := .ldk h b) rfl hw
  obtain ⟨k, t, a, b2, c⟩ := h
  cases k <;> first | exact congrArg (fun z => some (Instr.ldk _ z)) hd | exact Bool.noConfusion (show false = true from hs)

theorem ecmd (h : Hd) (b : EC) : Statement (.ecmd h b) := by
  refine ⟨encEC_lt b, fun h1 op ks e => ?_⟩
  injection e with e; injection e with e1 e; injection e with e2 e3; subst e1 e2 e3
  refine ⟨by decide, fun hw y hy => ?_⟩
  have hd : decEC y = b := decEC_of b y hy
  have hs := wf_slot (i := .ecmd h b) rfl hw
  obtain ⟨k, t, a, b2, c⟩ := h
  cases k <;> first | exact congrArg (fun z => some (Instr.ecmd _ z)) hd | exact Bool.noConfusion (show false = true from hs)

theorem tramCopy (core : Nat) (eng : Nat) : Statement (.tramCopy core eng) :=
  ⟨Nat.two_pow_pos 33, fun _ _ _ e => nomatch e⟩

theorem tramLoad (core : Nat) (eng : Nat) : Statement (.tramLoad core eng) :=
  ⟨Nat.two_pow_pos 33, fun _ _ _ e => nomatch e⟩

theorem tramStoreBack (core : Nat) (eng : Nat) : Statement (.tramStoreBack core eng) :=
  ⟨Nat.two_pow_pos 33, fun _ _ _ e => nomatch e⟩

theorem tramRemoteCopy (core : Nat) (eng : Nat) : Statement (.tramRemoteCopy core eng) :=
  ⟨Nat.two_pow_pos 33, fun _ _ _ e => nomatch e⟩

theorem tramGather (core : Nat) (eng : Nat) : Statement (.tramGather core eng) :=
  ⟨Nat.two_pow_pos 33, fun _ _ _ e => nomatch e⟩

theorem tramFill (core : Nat) (eng : Nat) : Statement (.tramFill core eng) :=
  ⟨Nat.two_pow_pos 33, fun _ _ _ e => nomatch e⟩

theorem tramBroadcast (core : Nat) (eng : Nat) : Statement (.tramBroadcast core eng) :=
  ⟨Nat.two_pow_pos 33, fun _ _ _ e => nomatch e⟩

theorem tramPut (core : Nat) (eng : Nat) : Statement (.tramPut core eng) :=
  ⟨Nat.two_pow_pos 33, fun _ _ _ e => nomatch e⟩

theorem tramGet (core : Nat) (eng : Nat) : Statement (.tramGet core eng) :=
  ⟨Nat.two_pow_pos 33, fun _ _ _ e => nomatch e⟩

theorem engineCommandResume (core : Nat) (eng : Nat) : Statement (.engineCommandResume core eng) :=
  ⟨Nat.two_pow_pos 33, fun _ _ _ e => nomatch e⟩

theorem culvertFp32Add (core : Nat) : Statement (.culvertFp32Add core) :=
  ⟨Nat.two_pow_pos 33, fun _ _ _ e => nomatch e⟩

theorem culvertI32Add (core : Nat) : Statement (.culvertI32Add core) :=
  ⟨Nat.two_pow_pos 33, fun _ _ _ e => nomatch e⟩

theorem culvertFp32Max (core : Nat) : Statement (.culvertFp32Max core) :=
  ⟨Nat.two_pow_pos 33, fun _ _ _ e => nomatch e⟩

theorem culvertFp32Min (core : Nat) : Statement (.culvertFp32Min core) :=
  ⟨Nat.two_pow_pos 33, fun _ _ _ e => nomatch e⟩

theorem culvertI32Max (core : Nat) : Statement (.culvertI32Max core) :=
  ⟨Nat.two_pow_pos 33, fun _ _ _ e => nomatch e⟩

theorem culvertI32Min (core : Nat) : Statement (.culvertI32Min core) :=
  ⟨Nat.two_pow_pos 33, fun _ _ _ e => nomatch e⟩

theorem culvertOr (core : Nat) : Statement (.culvertOr core) :=
  ⟨Nat.two_pow_pos 33, fun _ _ _ e => nomatch e⟩

theorem heldQueueEntryEnter (core : Nat) (eng : Nat) : Statement (.heldQueueEntryEnter core eng) :=
  ⟨Nat.two_pow_pos 33, fun _ _ _ e => nomatch e⟩

theorem remoteSignalArrival (core : Nat) (sem : Nat) : Statement (.remoteSignalArrival core sem) :=
  ⟨Nat.two_pow_pos 33, fun _ _ _ e => nomatch e⟩

theorem xsel (h : Hd) (b : XFS) : Statement (.xsel h b) := by
  refine ⟨encXFS_lt b, fun h1 op ks e => ?_⟩
  injection e with e; injection e with e1 e; injection e with e2 e3; subst e1 e2 e3
  refine ⟨by decide, fun hw y hy => ?_⟩
  have hd : decXFS y = b := decXFS_of b y hy
  have hs := wf_slot (i := .xsel h b) rfl hw
  obtain ⟨k, t, a, b2, c⟩ := h
  cases k <;> first | exact congrArg (fun z => some (Instr.xsel _ z)) hd | exact Bool.noConfusion (show false = true from hs)

theorem xmit (h : Hd) (b : XFM) : Statement (.xmit h b) := by
  refine ⟨encXFM_lt b, fun h1 op ks e => ?_⟩
  injection e with e; injection e with e1 e; injection e with e2 e3; subst e1 e2 e3
  refine ⟨by decide, fun hw y hy => ?_⟩
  have hd : decXFM y = b := decXFM_of b y hy
  have hs := wf_slot (i := .xmit h b) rfl hw
  obtain ⟨k, t, a, b2, c⟩ := h
  cases k <;> first | exact congrArg (fun z => some (Instr.xmit _ z)) hd | exact Bool.noConfusion (show false = true from hs)

theorem xred (h : Hd) (b : XFR) : Statement (.xred h b) := by
  refine ⟨encXFR_lt b, fun h1 op ks e => ?_⟩
  injection e with e; injection e with e1 e; injection e with e2 e3; subst e1 e2 e3
  refine ⟨by decide, fun hw y hy => ?_⟩
  have hd : decXFR y = b := decXFR_of b y hy
  have hs := wf_slot (i := .xred h b) rfl hw
  obtain ⟨k, t, a, b2, c⟩ := h
  cases k <;> first | exact congrArg (fun z => some (Instr.xred _ z)) hd | exact Bool.noConfusion (show false = true from hs)

theorem xredResultDelivery (inst : Nat) (slot : Nat) : Statement (.xredResultDelivery inst slot) :=
  ⟨Nat.two_pow_pos 33, fun _ _ _ e => nomatch e⟩

theorem vadd (h : Hd) (b : VRR) : Statement (.vadd h b) := by
  refine ⟨encVRR_lt b, fun h1 op ks e => ?_⟩
  injection e with e; injection e with e1 e; injection e with e2 e3; subst e1 e2 e3
  refine ⟨by decide, fun hw y hy => ?_⟩
  have hd : decVRR y = b := decVRR_of b y hy
  have hs := wf_slot (i := .vadd h b) rfl hw
  obtain ⟨k, t, a, b2, c⟩ := h
  cases k <;> first | exact congrArg (fun z => some (Instr.vadd _ z)) hd | exact Bool.noConfusion (show false = true from hs)

theorem vsub (h : Hd) (b : VRR) : Statement (.vsub h b) := by
  refine ⟨encVRR_lt b, fun h1 op ks e => ?_⟩
  injection e with e; injection e with e1 e; injection e with e2 e3; subst e1 e2 e3
  refine ⟨by decide, fun hw y hy => ?_⟩
  have hd : decVRR y = b := decVRR_of b y hy
  have hs := wf_slot (i := .vsub h b) rfl hw
  obtain ⟨k, t, a, b2, c⟩ := h
  cases k <;> first | exact congrArg (fun z => some (Instr.vsub _ z)) hd | exact Bool.noConfusion (show false = true from hs)

theorem vmul (h : Hd) (b : VRR) : Statement (.vmul h b) := by
  refine ⟨encVRR_lt b, fun h1 op ks e => ?_⟩
  injection e with e; injection e with e1 e; injection e with e2 e3; subst e1 e2 e3
  refine ⟨by decide, fun hw y hy => ?_⟩
  have hd : decVRR y = b := decVRR_of b y hy
  have hs := wf_slot (i := .vmul h b) rfl hw
  obtain ⟨k, t, a, b2, c⟩ := h
  cases k <;> first | exact congrArg (fun z => some (Instr.vmul _ z)) hd | exact Bool.noConfusion (show false = true from hs)

theorem vfma (h : Hd) (b : VRR) : Statement (.vfma h b) := by
  refine ⟨encVRR_lt b, fun h1 op ks e => ?_⟩
  injection e with e; injection e with e1 e; injection e with e2 e3; subst e1 e2 e3
  refine ⟨by decide, fun hw y hy => ?_⟩
  have hd : decVRR y = b := decVRR_of b y hy
  have hs := wf_slot (i := .vfma h b) rfl hw
  obtain ⟨k, t, a, b2, c⟩ := h
  cases k <;> first | exact congrArg (fun z => some (Instr.vfma _ z)) hd | exact Bool.noConfusion (show false = true from hs)

theorem vfms (h : Hd) (b : VRR) : Statement (.vfms h b) := by
  refine ⟨encVRR_lt b, fun h1 op ks e => ?_⟩
  injection e with e; injection e with e1 e; injection e with e2 e3; subst e1 e2 e3
  refine ⟨by decide, fun hw y hy => ?_⟩
  have hd : decVRR y = b := decVRR_of b y hy
  have hs := wf_slot (i := .vfms h b) rfl hw
  obtain ⟨k, t, a, b2, c⟩ := h
  cases k <;> first | exact congrArg (fun z => some (Instr.vfms _ z)) hd | exact Bool.noConfusion (show false = true from hs)

theorem vfnma (h : Hd) (b : VRR) : Statement (.vfnma h b) := by
  refine ⟨encVRR_lt b, fun h1 op ks e => ?_⟩
  injection e with e; injection e with e1 e; injection e with e2 e3; subst e1 e2 e3
  refine ⟨by decide, fun hw y hy => ?_⟩
  have hd : decVRR y = b := decVRR_of b y hy
  have hs := wf_slot (i := .vfnma h b) rfl hw
  obtain ⟨k, t, a, b2, c⟩ := h
  cases k <;> first | exact congrArg (fun z => some (Instr.vfnma _ z)) hd | exact Bool.noConfusion (show false = true from hs)

theorem vmin (h : Hd) (b : VRR) : Statement (.vmin h b) := by
  refine ⟨encVRR_lt b, fun h1 op ks e => ?_⟩
  injection e with e; injection e with e1 e; injection e with e2 e3; subst e1 e2 e3
  refine ⟨by decide, fun hw y hy => ?_⟩
  have hd : decVRR y = b := decVRR_of b y hy
  have hs := wf_slot (i := .vmin h b) rfl hw
  obtain ⟨k, t, a, b2, c⟩ := h
  cases k <;> first | exact congrArg (fun z => some (Instr.vmin _ z)) hd | exact Bool.noConfusion (show false = true from hs)

theorem vmax (h : Hd) (b : VRR) : Statement (.vmax h b) := by
  refine ⟨encVRR_lt b, fun h1 op ks e => ?_⟩
  injection e with e; injection e with e1 e; injection e with e2 e3; subst e1 e2 e3
  refine ⟨by decide, fun hw y hy => ?_⟩
  have hd : decVRR y = b := decVRR_of b y hy
  have hs := wf_slot (i := .vmax h b) rfl hw
  obtain ⟨k, t, a, b2, c⟩ := h
  cases k <;> first | exact congrArg (fun z => some (Instr.vmax _ z)) hd | exact Bool.noConfusion (show false = true from hs)

theorem vabs (h : Hd) (b : VRR) : Statement (.vabs h b) := by
  refine ⟨encVRR_lt b, fun h1 op ks e => ?_⟩
  injection e with e; injection e with e1 e; injection e with e2 e3; subst e1 e2 e3
  refine ⟨by decide, fun hw y hy => ?_⟩
  have hd : decVRR y = b := decVRR_of b y hy
  have hs := wf_slot (i := .vabs h b) rfl hw
  obtain ⟨k, t, a, b2, c⟩ := h
  cases k <;> first | exact congrArg (fun z => some (Instr.vabs _ z)) hd | exact Bool.noConfusion (show false = true from hs)

theorem vneg (h : Hd) (b : VRR) : Statement (.vneg h b) := by
  refine ⟨encVRR_lt b, fun h1 op ks e => ?_⟩
  injection e with e; injection e with e1 e; injection e with e2 e3; subst e1 e2 e3
  refine ⟨by decide, fun hw y hy => ?_⟩
  have hd : decVRR y = b := decVRR_of b y hy
  have hs := wf_slot (i := .vneg h b) rfl hw
  obtain ⟨k, t, a, b2, c⟩ := h
  cases k <;> first | exact congrArg (fun z => some (Instr.vneg _ z)) hd | exact Bool.noConfusion (show false = true from hs)

theorem vabsd (h : Hd) (b : VRR) : Statement (.vabsd h b) := by
  refine ⟨encVRR_lt b, fun h1 op ks e => ?_⟩
  injection e with e; injection e with e1 e; injection e with e2 e3; subst e1 e2 e3
  refine ⟨by decide, fun hw y hy => ?_⟩
  have hd : decVRR y = b := decVRR_of b y hy
  have hs := wf_slot (i := .vabsd h b) rfl hw
  obtain ⟨k, t, a, b2, c⟩ := h
  cases k <;> first | exact congrArg (fun z => some (Instr.vabsd _ z)) hd | exact Bool.noConfusion (show false = true from hs)

theorem vcmp (h : Hd) (b : PCV) : Statement (.vcmp h b) := by
  refine ⟨encPCV_lt b, fun h1 op ks e => ?_⟩
  injection e with e; injection e with e1 e; injection e with e2 e3; subst e1 e2 e3
  refine ⟨by decide, fun hw y hy => ?_⟩
  have hd : decPCV y = b := decPCV_of b y hy
  have hs := wf_slot (i := .vcmp h b) rfl hw
  obtain ⟨k, t, a, b2, c⟩ := h
  cases k <;> first | exact congrArg (fun z => some (Instr.vcmp _ z)) hd | exact Bool.noConfusion (show false = true from hs)

theorem vsel (h : Hd) (b : VRR) : Statement (.vsel h b) := by
  refine ⟨encVRR_lt b, fun h1 op ks e => ?_⟩
  injection e with e; injection e with e1 e; injection e with e2 e3; subst e1 e2 e3
  refine ⟨by decide, fun hw y hy => ?_⟩
  have hd : decVRR y = b := decVRR_of b y hy
  have hs := wf_slot (i := .vsel h b) rfl hw
  obtain ⟨k, t, a, b2, c⟩ := h
  cases k <;> first | exact congrArg (fun z => some (Instr.vsel _ z)) hd | exact Bool.noConfusion (show false = true from hs)

theorem vmov (h : Hd) (b : VRR) : Statement (.vmov h b) := by
  refine ⟨encVRR_lt b, fun h1 op ks e => ?_⟩
  injection e with e; injection e with e1 e; injection e with e2 e3; subst e1 e2 e3
  refine ⟨by decide, fun hw y hy => ?_⟩
  have hd : decVRR y = b := decVRR_of b y hy
  have hs := wf_slot (i := .vmov h b) rfl hw
  obtain ⟨k, t, a, b2, c⟩ := h
  cases k <;> first | exact congrArg (fun z => some (Instr.vmov _ z)) hd | exact Bool.noConfusion (show false = true from hs)

theorem vbcast (h : Hd) (b : VRR) : Statement (.vbcast h b) := by
  refine ⟨encVRR_lt b, fun h1 op ks e => ?_⟩
  injection e with e; injection e with e1 e; injection e with e2 e3; subst e1 e2 e3
  refine ⟨by decide, fun hw y hy => ?_⟩
  have hd : decVRR y = b := decVRR_of b y hy
  have hs := wf_slot (i := .vbcast h b) rfl hw
  obtain ⟨k, t, a, b2, c⟩ := h
  cases k <;> first | exact congrArg (fun z => some (Instr.vbcast _ z)) hd | exact Bool.noConfusion (show false = true from hs)

theorem vext (h : Hd) (b : VRR) : Statement (.vext h b) := by
  refine ⟨encVRR_lt b, fun h1 op ks e => ?_⟩
  injection e with e; injection e with e1 e; injection e with e2 e3; subst e1 e2 e3
  refine ⟨by decide, fun hw y hy => ?_⟩
  have hd : decVRR y = b := decVRR_of b y hy
  have hs := wf_slot (i := .vext h b) rfl hw
  obtain ⟨k, t, a, b2, c⟩ := h
  cases k <;> first | exact congrArg (fun z => some (Instr.vext _ z)) hd | exact Bool.noConfusion (show false = true from hs)

theorem vins (h : Hd) (b : VRR) : Statement (.vins h b) := by
  refine ⟨encVRR_lt b, fun h1 op ks e => ?_⟩
  injection e with e; injection e with e1 e; injection e with e2 e3; subst e1 e2 e3
  refine ⟨by decide, fun hw y hy => ?_⟩
  have hd : decVRR y = b := decVRR_of b y hy
  have hs := wf_slot (i := .vins h b) rfl hw
  obtain ⟨k, t, a, b2, c⟩ := h
  cases k <;> first | exact congrArg (fun z => some (Instr.vins _ z)) hd | exact Bool.noConfusion (show false = true from hs)

theorem vperm (h : Hd) (b : VRR) : Statement (.vperm h b) := by
  refine ⟨encVRR_lt b, fun h1 op ks e => ?_⟩
  injection e with e; injection e with e1 e; injection e with e2 e3; subst e1 e2 e3
  refine ⟨by decide, fun hw y hy => ?_⟩
  have hd : decVRR y = b := decVRR_of b y hy
  have hs := wf_slot (i := .vperm h b) rfl hw
  obtain ⟨k, t, a, b2, c⟩ := h
  cases k <;> first | exact congrArg (fun z => some (Instr.vperm _ z)) hd | exact Bool.noConfusion (show false = true from hs)

theorem vslide (h : Hd) (b : VRR) : Statement (.vslide h b) := by
  refine ⟨encVRR_lt b, fun h1 op ks e => ?_⟩
  injection e with e; injection e with e1 e; injection e with e2 e3; subst e1 e2 e3
  refine ⟨by decide, fun hw y hy => ?_⟩
  have hd : decVRR y = b := decVRR_of b y hy
  have hs := wf_slot (i := .vslide h b) rfl hw
  obtain ⟨k, t, a, b2, c⟩ := h
  cases k <;> first | exact congrArg (fun z => some (Instr.vslide _ z)) hd | exact Bool.noConfusion (show false = true from hs)

theorem vrev (h : Hd) (b : VRR) : Statement (.vrev h b) := by
  refine ⟨encVRR_lt b, fun h1 op ks e => ?_⟩
  injection e with e; injection e with e1 e; injection e with e2 e3; subst e1 e2 e3
  refine ⟨by decide, fun hw y hy => ?_⟩
  have hd : decVRR y = b := decVRR_of b y hy
  have hs := wf_slot (i := .vrev h b) rfl hw
  obtain ⟨k, t, a, b2, c⟩ := h
  cases k <;> first | exact congrArg (fun z => some (Instr.vrev _ z)) hd | exact Bool.noConfusion (show false = true from hs)

theorem vredsum (h : Hd) (b : VRR) : Statement (.vredsum h b) := by
  refine ⟨encVRR_lt b, fun h1 op ks e => ?_⟩
  injection e with e; injection e with e1 e; injection e with e2 e3; subst e1 e2 e3
  refine ⟨by decide, fun hw y hy => ?_⟩
  have hd : decVRR y = b := decVRR_of b y hy
  have hs := wf_slot (i := .vredsum h b) rfl hw
  obtain ⟨k, t, a, b2, c⟩ := h
  cases k <;> first | exact congrArg (fun z => some (Instr.vredsum _ z)) hd | exact Bool.noConfusion (show false = true from hs)

theorem vredmax (h : Hd) (b : VRR) : Statement (.vredmax h b) := by
  refine ⟨encVRR_lt b, fun h1 op ks e => ?_⟩
  injection e with e; injection e with e1 e; injection e with e2 e3; subst e1 e2 e3
  refine ⟨by decide, fun hw y hy => ?_⟩
  have hd : decVRR y = b := decVRR_of b y hy
  have hs := wf_slot (i := .vredmax h b) rfl hw
  obtain ⟨k, t, a, b2, c⟩ := h
  cases k <;> first | exact congrArg (fun z => some (Instr.vredmax _ z)) hd | exact Bool.noConfusion (show false = true from hs)

theorem vredmin (h : Hd) (b : VRR) : Statement (.vredmin h b) := by
  refine ⟨encVRR_lt b, fun h1 op ks e => ?_⟩
  injection e with e; injection e with e1 e; injection e with e2 e3; subst e1 e2 e3
  refine ⟨by decide, fun hw y hy => ?_⟩
  have hd : decVRR y = b := decVRR_of b y hy
  have hs := wf_slot (i := .vredmin h b) rfl hw
  obtain ⟨k, t, a, b2, c⟩ := h
  cases k <;> first | exact congrArg (fun z => some (Instr.vredmin _ z)) hd | exact Bool.noConfusion (show false = true from hs)

theorem vscan (h : Hd) (b : VRR) : Statement (.vscan h b) := by
  refine ⟨encVRR_lt b, fun h1 op ks e => ?_⟩
  injection e with e; injection e with e1 e; injection e with e2 e3; subst e1 e2 e3
  refine ⟨by decide, fun hw y hy => ?_⟩
  have hd : decVRR y = b := decVRR_of b y hy
  have hs := wf_slot (i := .vscan h b) rfl hw
  obtain ⟨k, t, a, b2, c⟩ := h
  cases k <;> first | exact congrArg (fun z => some (Instr.vscan _ z)) hd | exact Bool.noConfusion (show false = true from hs)

theorem vrcpe (h : Hd) (b : VRR) : Statement (.vrcpe h b) := by
  refine ⟨encVRR_lt b, fun h1 op ks e => ?_⟩
  injection e with e; injection e with e1 e; injection e with e2 e3; subst e1 e2 e3
  refine ⟨by decide, fun hw y hy => ?_⟩
  have hd : decVRR y = b := decVRR_of b y hy
  have hs := wf_slot (i := .vrcpe h b) rfl hw
  obtain ⟨k, t, a, b2, c⟩ := h
  cases k <;> first | exact congrArg (fun z => some (Instr.vrcpe _ z)) hd | exact Bool.noConfusion (show false = true from hs)

theorem vrsqe (h : Hd) (b : VRR) : Statement (.vrsqe h b) := by
  refine ⟨encVRR_lt b, fun h1 op ks e => ?_⟩
  injection e with e; injection e with e1 e; injection e with e2 e3; subst e1 e2 e3
  refine ⟨by decide, fun hw y hy => ?_⟩
  have hd : decVRR y = b := decVRR_of b y hy
  have hs := wf_slot (i := .vrsqe h b) rfl hw
  obtain ⟨k, t, a, b2, c⟩ := h
  cases k <;> first | exact congrArg (fun z => some (Instr.vrsqe _ z)) hd | exact Bool.noConfusion (show false = true from hs)

theorem vexp2e (h : Hd) (b : VRR) : Statement (.vexp2e h b) := by
  refine ⟨encVRR_lt b, fun h1 op ks e => ?_⟩
  injection e with e; injection e with e1 e; injection e with e2 e3; subst e1 e2 e3
  refine ⟨by decide, fun hw y hy => ?_⟩
  have hd : decVRR y = b := decVRR_of b y hy
  have hs := wf_slot (i := .vexp2e h b) rfl hw
  obtain ⟨k, t, a, b2, c⟩ := h
  cases k <;> first | exact congrArg (fun z => some (Instr.vexp2e _ z)) hd | exact Bool.noConfusion (show false = true from hs)

theorem vlog2e (h : Hd) (b : VRR) : Statement (.vlog2e h b) := by
  refine ⟨encVRR_lt b, fun h1 op ks e => ?_⟩
  injection e with e; injection e with e1 e; injection e with e2 e3; subst e1 e2 e3
  refine ⟨by decide, fun hw y hy => ?_⟩
  have hd : decVRR y = b := decVRR_of b y hy
  have hs := wf_slot (i := .vlog2e h b) rfl hw
  obtain ⟨k, t, a, b2, c⟩ := h
  cases k <;> first | exact congrArg (fun z => some (Instr.vlog2e _ z)) hd | exact Bool.noConfusion (show false = true from hs)

theorem vcvt (h : Hd) (b : VRR) : Statement (.vcvt h b) := by
  refine ⟨encVRR_lt b, fun h1 op ks e => ?_⟩
  injection e with e; injection e with e1 e; injection e with e2 e3; subst e1 e2 e3
  refine ⟨by decide, fun hw y hy => ?_⟩
  have hd : decVRR y = b := decVRR_of b y hy
  have hs := wf_slot (i := .vcvt h b) rfl hw
  obtain ⟨k, t, a, b2, c⟩ := h
  cases k <;> first | exact congrArg (fun z => some (Instr.vcvt _ z)) hd | exact Bool.noConfusion (show false = true from hs)

theorem vcmpd (h : Hd) (b : VRR) : Statement (.vcmpd h b) := by
  refine ⟨encVRR_lt b, fun h1 op ks e => ?_⟩
  injection e with e; injection e with e1 e; injection e with e2 e3; subst e1 e2 e3
  refine ⟨by decide, fun hw y hy => ?_⟩
  have hd : decVRR y = b := decVRR_of b y hy
  have hs := wf_slot (i := .vcmpd h b) rfl hw
  obtain ⟨k, t, a, b2, c⟩ := h
  cases k <;> first | exact congrArg (fun z => some (Instr.vcmpd _ z)) hd | exact Bool.noConfusion (show false = true from hs)

theorem vexpnd (h : Hd) (b : VRR) : Statement (.vexpnd h b) := by
  refine ⟨encVRR_lt b, fun h1 op ks e => ?_⟩
  injection e with e; injection e with e1 e; injection e with e2 e3; subst e1 e2 e3
  refine ⟨by decide, fun hw y hy => ?_⟩
  have hd : decVRR y = b := decVRR_of b y hy
  have hs := wf_slot (i := .vexpnd h b) rfl hw
  obtain ⟨k, t, a, b2, c⟩ := h
  cases k <;> first | exact congrArg (fun z => some (Instr.vexpnd _ z)) hd | exact Bool.noConfusion (show false = true from hs)

theorem vtag (h : Hd) (b : VRR) : Statement (.vtag h b) := by
  refine ⟨encVRR_lt b, fun h1 op ks e => ?_⟩
  injection e with e; injection e with e1 e; injection e with e2 e3; subst e1 e2 e3
  refine ⟨by decide, fun hw y hy => ?_⟩
  have hd : decVRR y = b := decVRR_of b y hy
  have hs := wf_slot (i := .vtag h b) rfl hw
  obtain ⟨k, t, a, b2, c⟩ := h
  cases k <;> first | exact congrArg (fun z => some (Instr.vtag _ z)) hd | exact Bool.noConfusion (show false = true from hs)

theorem vtopk (h : Hd) (b : VRR) : Statement (.vtopk h b) := by
  refine ⟨encVRR_lt b, fun h1 op ks e => ?_⟩
  injection e with e; injection e with e1 e; injection e with e2 e3; subst e1 e2 e3
  refine ⟨by decide, fun hw y hy => ?_⟩
  have hd : decVRR y = b := decVRR_of b y hy
  have hs := wf_slot (i := .vtopk h b) rfl hw
  obtain ⟨k, t, a, b2, c⟩ := h
  cases k <;> first | exact congrArg (fun z => some (Instr.vtopk _ z)) hd | exact Bool.noConfusion (show false = true from hs)

theorem vand (h : Hd) (b : VRR) : Statement (.vand h b) := by
  refine ⟨encVRR_lt b, fun h1 op ks e => ?_⟩
  injection e with e; injection e with e1 e; injection e with e2 e3; subst e1 e2 e3
  refine ⟨by decide, fun hw y hy => ?_⟩
  have hd : decVRR y = b := decVRR_of b y hy
  have hs := wf_slot (i := .vand h b) rfl hw
  obtain ⟨k, t, a, b2, c⟩ := h
  cases k <;> first | exact congrArg (fun z => some (Instr.vand _ z)) hd | exact Bool.noConfusion (show false = true from hs)

theorem vor (h : Hd) (b : VRR) : Statement (.vor h b) := by
  refine ⟨encVRR_lt b, fun h1 op ks e => ?_⟩
  injection e with e; injection e with e1 e; injection e with e2 e3; subst e1 e2 e3
  refine ⟨by decide, fun hw y hy => ?_⟩
  have hd : decVRR y = b := decVRR_of b y hy
  have hs := wf_slot (i := .vor h b) rfl hw
  obtain ⟨k, t, a, b2, c⟩ := h
  cases k <;> first | exact congrArg (fun z => some (Instr.vor _ z)) hd | exact Bool.noConfusion (show false = true from hs)

theorem vxor (h : Hd) (b : VRR) : Statement (.vxor h b) := by
  refine ⟨encVRR_lt b, fun h1 op ks e => ?_⟩
  injection e with e; injection e with e1 e; injection e with e2 e3; subst e1 e2 e3
  refine ⟨by decide, fun hw y hy => ?_⟩
  have hd : decVRR y = b := decVRR_of b y hy
  have hs := wf_slot (i := .vxor h b) rfl hw
  obtain ⟨k, t, a, b2, c⟩ := h
  cases k <;> first | exact congrArg (fun z => some (Instr.vxor _ z)) hd | exact Bool.noConfusion (show false = true from hs)

theorem vnot (h : Hd) (b : VRR) : Statement (.vnot h b) := by
  refine ⟨encVRR_lt b, fun h1 op ks e => ?_⟩
  injection e with e; injection e with e1 e; injection e with e2 e3; subst e1 e2 e3
  refine ⟨by decide, fun hw y hy => ?_⟩
  have hd : decVRR y = b := decVRR_of b y hy
  have hs := wf_slot (i := .vnot h b) rfl hw
  obtain ⟨k, t, a, b2, c⟩ := h
  cases k <;> first | exact congrArg (fun z => some (Instr.vnot _ z)) hd | exact Bool.noConfusion (show false = true from hs)

theorem vshl (h : Hd) (b : VRR) : Statement (.vshl h b) := by
  refine ⟨encVRR_lt b, fun h1 op ks e => ?_⟩
  injection e with e; injection e with e1 e; injection e with e2 e3; subst e1 e2 e3
  refine ⟨by decide, fun hw y hy => ?_⟩
  have hd : decVRR y = b := decVRR_of b y hy
  have hs := wf_slot (i := .vshl h b) rfl hw
  obtain ⟨k, t, a, b2, c⟩ := h
  cases k <;> first | exact congrArg (fun z => some (Instr.vshl _ z)) hd | exact Bool.noConfusion (show false = true from hs)

theorem vshr (h : Hd) (b : VRR) : Statement (.vshr h b) := by
  refine ⟨encVRR_lt b, fun h1 op ks e => ?_⟩
  injection e with e; injection e with e1 e; injection e with e2 e3; subst e1 e2 e3
  refine ⟨by decide, fun hw y hy => ?_⟩
  have hd : decVRR y = b := decVRR_of b y hy
  have hs := wf_slot (i := .vshr h b) rfl hw
  obtain ⟨k, t, a, b2, c⟩ := h
  cases k <;> first | exact congrArg (fun z => some (Instr.vshr _ z)) hd | exact Bool.noConfusion (show false = true from hs)

theorem vsra (h : Hd) (b : VRR) : Statement (.vsra h b) := by
  refine ⟨encVRR_lt b, fun h1 op ks e => ?_⟩
  injection e with e; injection e with e1 e; injection e with e2 e3; subst e1 e2 e3
  refine ⟨by decide, fun hw y hy => ?_⟩
  have hd : decVRR y = b := decVRR_of b y hy
  have hs := wf_slot (i := .vsra h b) rfl hw
  obtain ⟨k, t, a, b2, c⟩ := h
  cases k <;> first | exact congrArg (fun z => some (Instr.vsra _ z)) hd | exact Bool.noConfusion (show false = true from hs)

theorem vclz (h : Hd) (b : VRR) : Statement (.vclz h b) := by
  refine ⟨encVRR_lt b, fun h1 op ks e => ?_⟩
  injection e with e; injection e with e1 e; injection e with e2 e3; subst e1 e2 e3
  refine ⟨by decide, fun hw y hy => ?_⟩
  have hd : decVRR y = b := decVRR_of b y hy
  have hs := wf_slot (i := .vclz h b) rfl hw
  obtain ⟨k, t, a, b2, c⟩ := h
  cases k <;> first | exact congrArg (fun z => some (Instr.vclz _ z)) hd | exact Bool.noConfusion (show false = true from hs)

theorem vpopc (h : Hd) (b : VRR) : Statement (.vpopc h b) := by
  refine ⟨encVRR_lt b, fun h1 op ks e => ?_⟩
  injection e with e; injection e with e1 e; injection e with e2 e3; subst e1 e2 e3
  refine ⟨by decide, fun hw y hy => ?_⟩
  have hd : decVRR y = b := decVRR_of b y hy
  have hs := wf_slot (i := .vpopc h b) rfl hw
  obtain ⟨k, t, a, b2, c⟩ := h
  cases k <;> first | exact congrArg (fun z => some (Instr.vpopc _ z)) hd | exact Bool.noConfusion (show false = true from hs)

theorem vidx (h : Hd) (b : VRR) : Statement (.vidx h b) := by
  refine ⟨encVRR_lt b, fun h1 op ks e => ?_⟩
  injection e with e; injection e with e1 e; injection e with e2 e3; subst e1 e2 e3
  refine ⟨by decide, fun hw y hy => ?_⟩
  have hd : decVRR y = b := decVRR_of b y hy
  have hs := wf_slot (i := .vidx h b) rfl hw
  obtain ⟨k, t, a, b2, c⟩ := h
  cases k <;> first | exact congrArg (fun z => some (Instr.vidx _ z)) hd | exact Bool.noConfusion (show false = true from hs)

theorem vdot4 (h : Hd) (b : VRR) : Statement (.vdot4 h b) := by
  refine ⟨encVRR_lt b, fun h1 op ks e => ?_⟩
  injection e with e; injection e with e1 e; injection e with e2 e3; subst e1 e2 e3
  refine ⟨by decide, fun hw y hy => ?_⟩
  have hd : decVRR y = b := decVRR_of b y hy
  have hs := wf_slot (i := .vdot4 h b) rfl hw
  obtain ⟨k, t, a, b2, c⟩ := h
  cases k <;> first | exact congrArg (fun z => some (Instr.vdot4 _ z)) hd | exact Bool.noConfusion (show false = true from hs)

theorem vmadi (h : Hd) (b : VRR) : Statement (.vmadi h b) := by
  refine ⟨encVRR_lt b, fun h1 op ks e => ?_⟩
  injection e with e; injection e with e1 e; injection e with e2 e3; subst e1 e2 e3
  refine ⟨by decide, fun hw y hy => ?_⟩
  have hd : decVRR y = b := decVRR_of b y hy
  have hs := wf_slot (i := .vmadi h b) rfl hw
  obtain ⟨k, t, a, b2, c⟩ := h
  cases k <;> first | exact congrArg (fun z => some (Instr.vmadi _ z)) hd | exact Bool.noConfusion (show false = true from hs)

theorem vst (h : Hd) (b : VRR) : Statement (.vst h b) := by
  refine ⟨encVRR_lt b, fun h1 op ks e => ?_⟩
  injection e with e; injection e with e1 e; injection e with e2 e3; subst e1 e2 e3
  refine ⟨by decide, fun hw y hy => ?_⟩
  have hd : decVRR y = b := decVRR_of b y hy
  have hs := wf_slot (i := .vst h b) rfl hw
  obtain ⟨k, t, a, b2, c⟩ := h
  cases k <;> first | exact congrArg (fun z => some (Instr.vst _ z)) hd | exact Bool.noConfusion (show false = true from hs)

theorem vpop (h : Hd) (b : VRR) : Statement (.vpop h b) := by
  refine ⟨encVRR_lt b, fun h1 op ks e => ?_⟩
  injection e with e; injection e with e1 e; injection e with e2 e3; subst e1 e2 e3
  refine ⟨by decide, fun hw y hy => ?_⟩
  have hd : decVRR y = b := decVRR_of b y hy
  have hs := wf_slot (i := .vpop h b) rfl hw
  obtain ⟨k, t, a, b2, c⟩ := h
  cases k <;> first | exact congrArg (fun z => some (Instr.vpop _ z)) hd | exact Bool.noConfusion (show false = true from hs)

theorem mvq (h : Hd) (b : XRR) : Statement (.mvq h b) := by
  refine ⟨encXRR_lt b, fun h1 op ks e => ?_⟩
  injection e with e; injection e with e1 e; injection e with e2 e3; subst e1 e2 e3
  refine ⟨by decide, fun hw y hy => ?_⟩
  have hd : decXRR y = b := decXRR_of b y hy
  have hs := wf_slot (i := .mvq h b) rfl hw
  obtain ⟨k, t, a, b2, c⟩ := h
  cases k <;> first | exact congrArg (fun z => some (Instr.mvq _ z)) hd | exact Bool.noConfusion (show false = true from hs)

theorem mbeg (h : Hd) (b : XRR) : Statement (.mbeg h b) := by
  refine ⟨encXRR_lt b, fun h1 op ks e => ?_⟩
  injection e with e; injection e with e1 e; injection e with e2 e3; subst e1 e2 e3
  refine ⟨by decide, fun hw y hy => ?_⟩
  have hd : decXRR y = b := decXRR_of b y hy
  have hs := wf_slot (i := .mbeg h b) rfl hw
  obtain ⟨k, t, a, b2, c⟩ := h
  cases k <;> first | exact congrArg (fun z => some (Instr.mbeg _ z)) hd | exact Bool.noConfusion (show false = true from hs)

theorem mend (h : Hd) (b : XRR) : Statement (.mend h b) := by
  refine ⟨encXRR_lt b, fun h1 op ks e => ?_⟩
  injection e with e; injection e with e1 e; injection e with e2 e3; subst e1 e2 e3
  refine ⟨by decide, fun hw y hy => ?_⟩
  have hd : decXRR y = b := decXRR_of b y hy
  have hs := wf_slot (i := .mend h b) rfl hw
  obtain ⟨k, t, a, b2, c⟩ := h
  cases k <;> first | exact congrArg (fun z => some (Instr.mend _ z)) hd | exact Bool.noConfusion (show false = true from hs)

theorem mldb (h : Hd) (b : XRR) : Statement (.mldb h b) := by
  refine ⟨encXRR_lt b, fun h1 op ks e => ?_⟩
  injection e with e; injection e with e1 e; injection e with e2 e3; subst e1 e2 e3
  refine ⟨by decide, fun hw y hy => ?_⟩
  have hd : decXRR y = b := decXRR_of b y hy
  have hs := wf_slot (i := .mldb h b) rfl hw
  obtain ⟨k, t, a, b2, c⟩ := h
  cases k <;> first | exact congrArg (fun z => some (Instr.mldb _ z)) hd | exact Bool.noConfusion (show false = true from hs)

theorem mma (h : Hd) (b : XRR) : Statement (.mma h b) := by
  refine ⟨encXRR_lt b, fun h1 op ks e => ?_⟩
  injection e with e; injection e with e1 e; injection e with e2 e3; subst e1 e2 e3
  refine ⟨by decide, fun hw y hy => ?_⟩
  have hd : decXRR y = b := decXRR_of b y hy
  have hs := wf_slot (i := .mma h b) rfl hw
  obtain ⟨k, t, a, b2, c⟩ := h
  cases k <;> first | exact congrArg (fun z => some (Instr.mma _ z)) hd | exact Bool.noConfusion (show false = true from hs)

theorem checksumReplay (core : Nat) : Statement (.checksumReplay core) :=
  ⟨Nat.two_pow_pos 33, fun _ _ _ e => nomatch e⟩

theorem mrd (h : Hd) (b : XRR) : Statement (.mrd h b) := by
  refine ⟨encXRR_lt b, fun h1 op ks e => ?_⟩
  injection e with e; injection e with e1 e; injection e with e2 e3; subst e1 e2 e3
  refine ⟨by decide, fun hw y hy => ?_⟩
  have hd : decXRR y = b := decXRR_of b y hy
  have hs := wf_slot (i := .mrd h b) rfl hw
  obtain ⟨k, t, a, b2, c⟩ := h
  cases k <;> first | exact congrArg (fun z => some (Instr.mrd _ z)) hd | exact Bool.noConfusion (show false = true from hs)

theorem mclr (h : Hd) (b : XRR) : Statement (.mclr h b) := by
  refine ⟨encXRR_lt b, fun h1 op ks e => ?_⟩
  injection e with e; injection e with e1 e; injection e with e2 e3; subst e1 e2 e3
  refine ⟨by decide, fun hw y hy => ?_⟩
  have hd : decXRR y = b := decXRR_of b y hy
  have hs := wf_slot (i := .mclr h b) rfl hw
  obtain ⟨k, t, a, b2, c⟩ := h
  cases k <;> first | exact congrArg (fun z => some (Instr.mclr _ z)) hd | exact Bool.noConfusion (show false = true from hs)

theorem mscl (h : Hd) (b : XRR) : Statement (.mscl h b) := by
  refine ⟨encXRR_lt b, fun h1 op ks e => ?_⟩
  injection e with e; injection e with e1 e; injection e with e2 e3; subst e1 e2 e3
  refine ⟨by decide, fun hw y hy => ?_⟩
  have hd : decXRR y = b := decXRR_of b y hy
  have hs := wf_slot (i := .mscl h b) rfl hw
  obtain ⟨k, t, a, b2, c⟩ := h
  cases k <;> first | exact congrArg (fun z => some (Instr.mscl _ z)) hd | exact Bool.noConfusion (show false = true from hs)

theorem mck (h : Hd) (b : XRR) : Statement (.mck h b) := by
  refine ⟨encXRR_lt b, fun h1 op ks e => ?_⟩
  injection e with e; injection e with e1 e; injection e with e2 e3; subst e1 e2 e3
  refine ⟨by decide, fun hw y hy => ?_⟩
  have hd : decXRR y = b := decXRR_of b y hy
  have hs := wf_slot (i := .mck h b) rfl hw
  obtain ⟨k, t, a, b2, c⟩ := h
  cases k <;> first | exact congrArg (fun z => some (Instr.mck _ z)) hd | exact Bool.noConfusion (show false = true from hs)

theorem arrayClockGate (core : Nat) : Statement (.arrayClockGate core) :=
  ⟨Nat.two_pow_pos 33, fun _ _ _ e => nomatch e⟩

theorem tld (h : Hd) (b : TRL) : Statement (.tld h b) := by
  refine ⟨encTRL_lt b, fun h1 op ks e => ?_⟩
  injection e with e; injection e with e1 e; injection e with e2 e3; subst e1 e2 e3
  refine ⟨by decide, fun hw y hy => ?_⟩
  have hd : decTRL y = b := decTRL_of b y hy
  have hs := wf_slot (i := .tld h b) rfl hw
  obtain ⟨k, t, a, b2, c⟩ := h
  cases k <;> first | exact congrArg (fun z => some (Instr.tld _ z)) hd | exact Bool.noConfusion (show false = true from hs)

theorem tst (h : Hd) (b : TRL) : Statement (.tst h b) := by
  refine ⟨encTRL_lt b, fun h1 op ks e => ?_⟩
  injection e with e; injection e with e1 e; injection e with e2 e3; subst e1 e2 e3
  refine ⟨by decide, fun hw y hy => ?_⟩
  have hd : decTRL y = b := decTRL_of b y hy
  have hs := wf_slot (i := .tst h b) rfl hw
  obtain ⟨k, t, a, b2, c⟩ := h
  cases k <;> first | exact congrArg (fun z => some (Instr.tst _ z)) hd | exact Bool.noConfusion (show false = true from hs)

theorem tshp (h : Hd) (b : TRH) : Statement (.tshp h b) := by
  refine ⟨encTRH_lt b, fun h1 op ks e => ?_⟩
  injection e with e; injection e with e1 e; injection e with e2 e3; subst e1 e2 e3
  refine ⟨by decide, fun hw y hy => ?_⟩
  have hd : decTRH y = b := decTRH_of b y hy
  have hs := wf_slot (i := .tshp h b) rfl hw
  obtain ⟨k, t, a, b2, c⟩ := h
  cases k <;> first | exact congrArg (fun z => some (Instr.tshp _ z)) hd | exact Bool.noConfusion (show false = true from hs)

theorem tscl (h : Hd) (b : TRC) : Statement (.tscl h b) := by
  refine ⟨encTRC_lt b, fun h1 op ks e => ?_⟩
  injection e with e; injection e with e1 e; injection e with e2 e3; subst e1 e2 e3
  refine ⟨by decide, fun hw y hy => ?_⟩
  have hd : decTRC y = b := decTRC_of b y hy
  have hs := wf_slot (i := .tscl h b) rfl hw
  obtain ⟨k, t, a, b2, c⟩ := h
  cases k <;> first | exact congrArg (fun z => some (Instr.tscl _ z)) hd | exact Bool.noConfusion (show false = true from hs)

theorem tup (h : Hd) (b : TRS) : Statement (.tup h b) := by
  refine ⟨encTRS_lt b, fun h1 op ks e => ?_⟩
  injection e with e; injection e with e1 e; injection e with e2 e3; subst e1 e2 e3
  refine ⟨by decide, fun hw y hy => ?_⟩
  have hd : decTRS y = b := decTRS_of b y hy
  have hs := wf_slot (i := .tup h b) rfl hw
  obtain ⟨k, t, a, b2, c⟩ := h
  cases k <;> first | exact congrArg (fun z => some (Instr.tup _ z)) hd | exact Bool.noConfusion (show false = true from hs)

theorem tdn (h : Hd) (b : TRS) : Statement (.tdn h b) := by
  refine ⟨encTRS_lt b, fun h1 op ks e => ?_⟩
  injection e with e; injection e with e1 e; injection e with e2 e3; subst e1 e2 e3
  refine ⟨by decide, fun hw y hy => ?_⟩
  have hd : decTRS y = b := decTRS_of b y hy
  have hs := wf_slot (i := .tdn h b) rfl hw
  obtain ⟨k, t, a, b2, c⟩ := h
  cases k <;> first | exact congrArg (fun z => some (Instr.tdn _ z)) hd | exact Bool.noConfusion (show false = true from hs)

theorem csig (h : Hd) (b : XRR) : Statement (.csig h b) := by
  refine ⟨encXRR_lt b, fun h1 op ks e => ?_⟩
  injection e with e; injection e with e1 e; injection e with e2 e3; subst e1 e2 e3
  refine ⟨by decide, fun hw y hy => ?_⟩
  have hd : decXRR y = b := decXRR_of b y hy
  have hs := wf_slot (i := .csig h b) rfl hw
  obtain ⟨k, t, a, b2, c⟩ := h
  cases k <;> first | exact congrArg (fun z => some (Instr.csig _ z)) hd | exact Bool.noConfusion (show false = true from hs)

theorem cthr (h : Hd) (b : XRR) : Statement (.cthr h b) := by
  refine ⟨encXRR_lt b, fun h1 op ks e => ?_⟩
  injection e with e; injection e with e1 e; injection e with e2 e3; subst e1 e2 e3
  refine ⟨by decide, fun hw y hy => ?_⟩
  have hd : decXRR y = b := decXRR_of b y hy
  have hs := wf_slot (i := .cthr h b) rfl hw
  obtain ⟨k, t, a, b2, c⟩ := h
  cases k <;> first | exact congrArg (fun z => some (Instr.cthr _ z)) hd | exact Bool.noConfusion (show false = true from hs)

theorem cskip (h : Hd) (b : XRR) : Statement (.cskip h b) := by
  refine ⟨encXRR_lt b, fun h1 op ks e => ?_⟩
  injection e with e; injection e with e1 e; injection e with e2 e3; subst e1 e2 e3
  refine ⟨by decide, fun hw y hy => ?_⟩
  have hd : decXRR y = b := decXRR_of b y hy
  have hs := wf_slot (i := .cskip h b) rfl hw
  obtain ⟨k, t, a, b2, c⟩ := h
  cases k <;> first | exact congrArg (fun z => some (Instr.cskip _ z)) hd | exact Bool.noConfusion (show false = true from hs)

theorem cmap (h : Hd) (b : XRR) : Statement (.cmap h b) := by
  refine ⟨encXRR_lt b, fun h1 op ks e => ?_⟩
  injection e with e; injection e with e1 e; injection e with e2 e3; subst e1 e2 e3
  refine ⟨by decide, fun hw y hy => ?_⟩
  have hd : decXRR y = b := decXRR_of b y hy
  have hs := wf_slot (i := .cmap h b) rfl hw
  obtain ⟨k, t, a, b2, c⟩ := h
  cases k <;> first | exact congrArg (fun z => some (Instr.cmap _ z)) hd | exact Bool.noConfusion (show false = true from hs)

theorem crst (h : Hd) (b : XRR) : Statement (.crst h b) := by
  refine ⟨encXRR_lt b, fun h1 op ks e => ?_⟩
  injection e with e; injection e with e1 e; injection e with e2 e3; subst e1 e2 e3
  refine ⟨by decide, fun hw y hy => ?_⟩
  have hd : decXRR y = b := decXRR_of b y hy
  have hs := wf_slot (i := .crst h b) rfl hw
  obtain ⟨k, t, a, b2, c⟩ := h
  cases k <;> first | exact congrArg (fun z => some (Instr.crst _ z)) hd | exact Bool.noConfusion (show false = true from hs)

theorem causewayService (core : Nat) : Statement (.causewayService core) :=
  ⟨Nat.two_pow_pos 33, fun _ _ _ e => nomatch e⟩

theorem ageTick (core : Nat) : Statement (.ageTick core) :=
  ⟨Nat.two_pow_pos 33, fun _ _ _ e => nomatch e⟩

theorem rowWarnPoint (core : Nat) (row : Nat) : Statement (.rowWarnPoint core row) :=
  ⟨Nat.two_pow_pos 33, fun _ _ _ e => nomatch e⟩

theorem rowLimitExpiry (core : Nat) (row : Nat) : Statement (.rowLimitExpiry core row) :=
  ⟨Nat.two_pow_pos 33, fun _ _ _ e => nomatch e⟩

theorem l7RefreshOverdue (core : Nat) (row : Nat) : Statement (.l7RefreshOverdue core row) :=
  ⟨Nat.two_pow_pos 33, fun _ _ _ e => nomatch e⟩

theorem refreshRequestEnter (core : Nat) : Statement (.refreshRequestEnter core) :=
  ⟨Nat.two_pow_pos 33, fun _ _ _ e => nomatch e⟩

theorem refreshStart (core : Nat) : Statement (.refreshStart core) :=
  ⟨Nat.two_pow_pos 33, fun _ _ _ e => nomatch e⟩

theorem refreshWriteback (core : Nat) (row : Nat) : Statement (.refreshWriteback core row) :=
  ⟨Nat.two_pow_pos 33, fun _ _ _ e => nomatch e⟩

theorem bandStepHotter (core : Nat) : Statement (.bandStepHotter core) :=
  ⟨Nat.two_pow_pos 33, fun _ _ _ e => nomatch e⟩

theorem bandStepCooler (core : Nat) : Statement (.bandStepCooler core) :=
  ⟨Nat.two_pow_pos 33, fun _ _ _ e => nomatch e⟩

theorem launchStart (graph : Nat) : Statement (.launchStart graph) :=
  ⟨Nat.two_pow_pos 33, fun _ _ _ e => nomatch e⟩

theorem tempTableApply : Statement (.tempTableApply) :=
  ⟨Nat.two_pow_pos 33, fun _ _ _ e => nomatch e⟩

theorem powerStateChange (isDie : Bool) (n : Nat) : Statement (.powerStateChange isDie n) :=
  ⟨Nat.two_pow_pos 33, fun _ _ _ e => nomatch e⟩

theorem coreStart (core : Nat) : Statement (.coreStart core) :=
  ⟨Nat.two_pow_pos 33, fun _ _ _ e => nomatch e⟩

theorem tokenArrival (node : Nat) (skip : Bool) : Statement (.tokenArrival node skip) :=
  ⟨Nat.two_pow_pos 33, fun _ _ _ e => nomatch e⟩

theorem loopBodyEnd (node : Nat) : Statement (.loopBodyEnd node) :=
  ⟨Nat.two_pow_pos 33, fun _ _ _ e => nomatch e⟩

theorem roundaboutSelection (die : Nat) : Statement (.roundaboutSelection die) :=
  ⟨Nat.two_pow_pos 33, fun _ _ _ e => nomatch e⟩

theorem dispatch (inst : Nat) : Statement (.dispatch inst) :=
  ⟨Nat.two_pow_pos 33, fun _ _ _ e => nomatch e⟩

theorem agingTick (die : Nat) : Statement (.agingTick die) :=
  ⟨Nat.two_pow_pos 33, fun _ _ _ e => nomatch e⟩

theorem preemptSave (inst : Nat) : Statement (.preemptSave inst) :=
  ⟨Nat.two_pow_pos 33, fun _ _ _ e => nomatch e⟩

theorem preemptResume (inst : Nat) : Statement (.preemptResume inst) :=
  ⟨Nat.two_pow_pos 33, fun _ _ _ e => nomatch e⟩

theorem spillStart (inst : Nat) : Statement (.spillStart inst) :=
  ⟨Nat.two_pow_pos 33, fun _ _ _ e => nomatch e⟩

theorem nodeComplete (node : Nat) : Statement (.nodeComplete node) :=
  ⟨Nat.two_pow_pos 33, fun _ _ _ e => nomatch e⟩

theorem spawnSetArrival (set : Nat) : Statement (.spawnSetArrival set) :=
  ⟨Nat.two_pow_pos 33, fun _ _ _ e => nomatch e⟩

theorem mewsRingRetry (die : Nat) : Statement (.mewsRingRetry die) :=
  ⟨Nat.two_pow_pos 33, fun _ _ _ e => nomatch e⟩

theorem queueRingDrain (die : Nat) : Statement (.queueRingDrain die) :=
  ⟨Nat.two_pow_pos 33, fun _ _ _ e => nomatch e⟩

theorem cancelMessage (die : Nat) (group : Nat) : Statement (.cancelMessage die group) :=
  ⟨Nat.two_pow_pos 33, fun _ _ _ e => nomatch e⟩

theorem cancelForcedStop (inst : Nat) : Statement (.cancelForcedStop inst) :=
  ⟨Nat.two_pow_pos 33, fun _ _ _ e => nomatch e⟩

theorem iterTimerHalf (deck : Nat) : Statement (.iterTimerHalf deck) :=
  ⟨Nat.two_pow_pos 33, fun _ _ _ e => nomatch e⟩

theorem iterOverrun (deck : Nat) : Statement (.iterOverrun deck) :=
  ⟨Nat.two_pow_pos 33, fun _ _ _ e => nomatch e⟩

theorem iterOverrunEnd (inst : Nat) : Statement (.iterOverrunEnd inst) :=
  ⟨Nat.two_pow_pos 33, fun _ _ _ e => nomatch e⟩

theorem trapEntry (deck : Nat) : Statement (.trapEntry deck) :=
  ⟨Nat.two_pow_pos 33, fun _ _ _ e => nomatch e⟩

theorem mutualStall (deck : Nat) : Statement (.mutualStall deck) :=
  ⟨Nat.two_pow_pos 33, fun _ _ _ e => nomatch e⟩

theorem invalidationComplete (inval : Nat) : Statement (.invalidationComplete inval) :=
  ⟨Nat.two_pow_pos 33, fun _ _ _ e => nomatch e⟩

theorem invalidationWatchdog (inval : Nat) : Statement (.invalidationWatchdog inval) :=
  ⟨Nat.two_pow_pos 33, fun _ _ _ e => nomatch e⟩

theorem rollback (inst : Nat) : Statement (.rollback inst) :=
  ⟨Nat.two_pow_pos 33, fun _ _ _ e => nomatch e⟩

theorem hbmRefresh (stack : Nat) (ch : Nat) (pc : Nat) (bank : Nat) : Statement (.hbmRefresh stack ch pc bank) :=
  ⟨Nat.two_pow_pos 33, fun _ _ _ e => nomatch e⟩

theorem hbmScrubWriteback (block : Nat) : Statement (.hbmScrubWriteback block) :=
  ⟨Nat.two_pow_pos 33, fun _ _ _ e => nomatch e⟩

theorem pinRepair (stack : Nat) (ch : Nat) (pin : Nat) : Statement (.pinRepair stack ch pin) :=
  ⟨Nat.two_pow_pos 33, fun _ _ _ e => nomatch e⟩

theorem pinRepairEnd (stack : Nat) (ch : Nat) : Statement (.pinRepairEnd stack ch) :=
  ⟨Nat.two_pow_pos 33, fun _ _ _ e => nomatch e⟩

theorem e2eTimeout (inst : Nat) (dest : Nat) : Statement (.e2eTimeout inst dest) :=
  ⟨Nat.two_pow_pos 33, fun _ _ _ e => nomatch e⟩

theorem messageResend (seq : Nat) : Statement (.messageResend seq) :=
  ⟨Nat.two_pow_pos 33, fun _ _ _ e => nomatch e⟩

theorem engineRowPerform (core : Nat) (eng : Nat) (row : Nat) : Statement (.engineRowPerform core eng row) :=
  ⟨Nat.two_pow_pos 33, fun _ _ _ e => nomatch e⟩

theorem machineCheckHandlerTimeout (deck : Nat) : Statement (.machineCheckHandlerTimeout deck) :=
  ⟨Nat.two_pow_pos 33, fun _ _ _ e => nomatch e⟩

theorem resetDeassert : Statement (.resetDeassert) :=
  ⟨Nat.two_pow_pos 33, fun _ _ _ e => nomatch e⟩

theorem triggerWrite (value : Word) : Statement (.triggerWrite value) :=
  ⟨Nat.two_pow_pos 33, fun _ _ _ e => nomatch e⟩

theorem uploadWindowWrite (die : Nat) (off : Nat) (value : Word) : Statement (.uploadWindowWrite die off value) :=
  ⟨Nat.two_pow_pos 33, fun _ _ _ e => nomatch e⟩

theorem hmaskWrite (k : Nat) (value : Word) : Statement (.hmaskWrite k value) :=
  ⟨Nat.two_pow_pos 33, fun _ _ _ e => nomatch e⟩

theorem tempTableWrite (entry : Nat) (value : Lane) : Statement (.tempTableWrite entry value) :=
  ⟨Nat.two_pow_pos 33, fun _ _ _ e => nomatch e⟩

theorem registerWrite (off : Nat) (value : Word) : Statement (.registerWrite off value) :=
  ⟨Nat.two_pow_pos 33, fun _ _ _ e => nomatch e⟩

theorem coreReqRun (core : Nat) : Statement (.coreReqRun core) :=
  ⟨Nat.two_pow_pos 33, fun _ _ _ e => nomatch e⟩

theorem coreReqGate (core : Nat) : Statement (.coreReqGate core) :=
  ⟨Nat.two_pow_pos 33, fun _ _ _ e => nomatch e⟩

theorem coreReqOff (core : Nat) : Statement (.coreReqOff core) :=
  ⟨Nat.two_pow_pos 33, fun _ _ _ e => nomatch e⟩

theorem dieReqActive (die : Nat) : Statement (.dieReqActive die) :=
  ⟨Nat.two_pow_pos 33, fun _ _ _ e => nomatch e⟩

theorem dieReqRetain (die : Nat) : Statement (.dieReqRetain die) :=
  ⟨Nat.two_pow_pos 33, fun _ _ _ e => nomatch e⟩

theorem dieReqOff (die : Nat) : Statement (.dieReqOff die) :=
  ⟨Nat.two_pow_pos 33, fun _ _ _ e => nomatch e⟩

theorem pageRequestResponse (ctx : Nat) (page : Nat) (answer : Option (Nat × Bool × Bool)) : Statement (.pageRequestResponse ctx page answer) :=
  ⟨Nat.two_pow_pos 33, fun _ _ _ e => nomatch e⟩

theorem atsInvalidateRequest (ctx : Nat) (base : Nat) (len : Nat) : Statement (.atsInvalidateRequest ctx base len) :=
  ⟨Nat.two_pow_pos 33, fun _ _ _ e => nomatch e⟩

theorem hbmRefreshIntervalChange (stack : Nat) (layer : Nat) (celsius : Nat) : Statement (.hbmRefreshIntervalChange stack layer celsius) :=
  ⟨Nat.two_pow_pos 33, fun _ _ _ e => nomatch e⟩

theorem linkDown (link : Nat) : Statement (.linkDown link) :=
  ⟨Nat.two_pow_pos 33, fun _ _ _ e => nomatch e⟩

theorem thermalTrip (die : Nat) (celsius : Nat) : Statement (.thermalTrip die celsius) :=
  ⟨Nat.two_pow_pos 33, fun _ _ _ e => nomatch e⟩

theorem thermalTripClear (die : Nat) (celsius : Nat) : Statement (.thermalTripClear die celsius) :=
  ⟨Nat.two_pow_pos 33, fun _ _ _ e => nomatch e⟩

theorem tapInstruction (codes : List Nat) : Statement (.tapInstruction codes) :=
  ⟨Nat.two_pow_pos 33, fun _ _ _ e => nomatch e⟩

theorem atsTranslationCompletion (ctx : Nat) (page : Nat) (answer : Option (Nat × Bool × Bool)) : Statement (.atsTranslationCompletion ctx page answer) :=
  ⟨Nat.two_pow_pos 33, fun _ _ _ e => nomatch e⟩

theorem peerPartialArrival (source : Nat × Nat) (partials : List (BitVec 320)) : Statement (.peerPartialArrival source partials) :=
  ⟨Nat.two_pow_pos 33, fun _ _ _ e => nomatch e⟩

theorem machineCheck (kind : Nat) (core : Nat) (deck : Nat) (detail : Word) : Statement (.machineCheck kind core deck detail) :=
  ⟨Nat.two_pow_pos 33, fun _ _ _ e => nomatch e⟩

theorem hbmScrubRead (block : Nat) (corrected : Bool) (bad : List Nat) : Statement (.hbmScrubRead block corrected bad) :=
  ⟨Nat.two_pow_pos 33, fun _ _ _ e => nomatch e⟩

end Sys2Proof.Laws.Maps
end

