-- ==== Sys2Proof/Tests/Slice0.lean ====
section
/-! SUPPORT. Tests: decoding and well-formedness, a witness for the hypotheses of every statement, one step of instructions on small states with
results worked out in the spec. -/
namespace Sys2Proof.Tests
open Sys2Proof Sys2Proof.Machine

set_option Elab.async false

/-! ### Decoding: words the spec writes out, then words laid out from R138 and R143-R145 -/

theorem test_decode_movhi : decodeSyl .s 0xFF00004028E00000 = .ok (.movhi ⟨.s, 0xFF, 0, 0, 0⟩ ⟨5, 0xE00000⟩) := by decide -- spec 07
theorem test_decode_loop : decodeSyl .s 0xFF00008A008C1000 = .ok (.loop ⟨.s, 0xFF, 0, 0, 0⟩ ⟨0, 35, 0x1000⟩) := by decide -- spec 18
theorem test_decode_addi_neg : decodeSyl .s 0xFF00003079FFFFFF = .ok (.addi ⟨.s, 0xFF, 0, 0, 0⟩ ⟨15, 15, 0x1FFFFF⟩) := by decide -- spec 25
theorem test_decode_semw : decodeSyl .a 0xFF0000CA00000041 = .ok (.semw ⟨.a, 0xFF, 0, 0, 0⟩ ⟨0, 0, 0, 0x41⟩) := by decide -- spec 24
theorem test_decode_sq : decodeSyl .s 0xFF0000C600000018 = .ok (.sq ⟨.s, 0xFF, 0, 0, 0⟩ ⟨0, 0, 0, 24⟩) := by decide -- spec 19
theorem test_decode_halt : decodeSyl .s 0x0F08009800000000 = .ok (.halt ⟨.s, 0x0F, 1, 0, 0⟩ ⟨0, 0, 0, 0⟩) := by decide -- spec 24
theorem test_decode_ldsD : decodeSyl .a 0xFF00010618400078 = .ok (.ldsD ⟨.a, 0xFF, 0, 0, 0⟩ ⟨3, 2, 0x78⟩) := by decide -- spec 24
theorem test_decode_hld : decodeSyl .a 0xF0300114F3E00005 = .ok (.hld ⟨.a, 0xF0, 6, 0, 0⟩ ⟨30, 31, 5⟩) := by decide -- spec 25
theorem test_decode_hidx : decodeSyl .a 0xFF000116A3C00007 = .ok (.hidx ⟨.a, 0xFF, 0, 0, 0⟩ ⟨20, 30, 0, 7⟩) := by decide -- spec 25
theorem test_decode_tcfg : decodeSyl .a 0xFF00011E01630034 = .ok (.tcfg ⟨.a, 0xFF, 0, 0, 0⟩ ⟨0, 11, 6, 0x34⟩) := by decide -- spec 24
theorem test_decode_xsel : decodeSyl .a 0xFF00012C02000000 = .ok (.xsel ⟨.a, 0xFF, 0, 0, 0⟩ ⟨0, 1, 0, 0⟩) := by decide -- spec 14
theorem test_decode_xred : decodeSyl .a 0xFF00012E00780002 = .ok (.xred ⟨.a, 0xFF, 0, 0, 0⟩ ⟨0, 30, 0, 2⟩) := by decide -- spec 19
theorem test_decode_vcvt : decodeSyl .v 0xFF00003A140180C1 = .ok (.vcvt ⟨.v, 0xFF, 0, 0, 0⟩ ⟨20, 3, 3, 0, 1⟩) := by decide -- spec 09
theorem test_decode_vfma_queues : decodeSyl .v 0xFF00000814A05040 = .ok (.vfma ⟨.v, 0xFF, 0, 0, 0⟩ ⟨20, 320, 321, 0, 0⟩) := by decide -- spec 25
theorem test_decode_vpop : decodeSyl .x 0xFF0000061FAB0000 = .ok (.vpop ⟨.x, 0xFF, 0, 0, 0⟩ ⟨31, 342, 0, 0, 0⟩) := by decide -- spec 19
theorem test_decode_mldb : decodeSyl .x 0xFF00002471A00030 = .ok (.mldb ⟨.x, 0xFF, 0, 0, 0⟩ ⟨14, 13, 0, 0x30⟩) := by decide -- spec 10
theorem test_decode_mrd : decodeSyl .x 0xFF00002892280000 = .ok (.mrd ⟨.x, 0xFF, 0, 0, 0⟩ ⟨18, 17, 16, 0⟩) := by decide -- spec 17
theorem test_decode_mclr : decodeSyl .x 0xFF00002A01460000 = .ok (.mclr ⟨.x, 0xFF, 0, 0, 0⟩ ⟨0, 10, 12, 0⟩) := by decide -- spec 17
theorem test_decode_tld : decodeSyl .x 0xFF00004002000300 = .ok (.tld ⟨.x, 0xFF, 0, 0, 0⟩ ⟨2, 0, 3, 0, 0⟩) := by decide -- spec 11
theorem test_decode_tst : decodeSyl .x 0xFF00004302018300 = .ok (.tst ⟨.x, 0xFF, 0, 0, 0⟩ ⟨258, 3, 3, 0, 0⟩) := by decide -- spec 11
theorem test_decode_ptt : decodeSyl .a 0xFF00004649608860 = .ok (.ptt ⟨.a, 0xFF, 0, 0, 0⟩ ⟨4, 0x96, 1, 2, 3, 0⟩) := by decide -- R138: pd 4; tt 0x96; pa 1; pb 2; pc 3
theorem test_decode_fork : decodeSyl .s 0xFF0000900005FFF0 = .ok (.fork ⟨.s, 0xFF, 0, 0, 0⟩ ⟨0, 5, 0xFFF0⟩) := by decide -- offA 5; offE −16
theorem test_decode_bins : decodeSyl .a 0xFF000028494003C8 = .ok (.bins ⟨.a, 0xFF, 0, 0, 0⟩ ⟨9, 10, 0, 0x3C8⟩) := by decide -- xd 9; xa 10; mod: lsb 8, width − 1 = 15
theorem test_decode_vcmp : decodeSyl .v 0xFF0000187F80E929 = .ok (.vcmp ⟨.v, 0xFF, 0, 0, 0⟩ ⟨7, 31, 3, 329, 2, 1⟩) := by decide -- pd 7; pe 31; na v3; nb oq1 peek = 329; lt; and
theorem test_decode_tshp : decodeSyl .x 0xFF00004400000A0C = .ok (.tshp ⟨.x, 0xFF, 0, 0, 0⟩ ⟨0, 5, 0, 12⟩) := by decide -- shape 5; xa 12
theorem test_decode_tscl : decodeSyl .x 0xFF00004600000103 = .ok (.tscl ⟨.x, 0xFF, 0, 0, 0⟩ ⟨0, 1, 0, 3⟩) := by decide -- SP32; xa 3
theorem test_decode_cthr : decodeSyl .x 0xFF00006200828001 = .ok (.cthr ⟨.x, 0xFF, 0, 0, 0⟩ ⟨0, 4, 5, 1⟩) := by decide -- xa 4; xb 5; mod[0] = 1
theorem test_decode_mtsr : decodeSyl .s 0xFF0000C200C0002F = .ok (.mtsrCrv ⟨.s, 0xFF, 0, 0, 0⟩ ⟨0, 6, 0x02F⟩) := by decide -- xa 6; register 0x02F
theorem test_decode_fence : decodeSyl .a 0xFF0000C400000004 = .ok (.fenceSystem ⟨.a, 0xFF, 0, 0, 0⟩ ⟨0, 0, 0, 4⟩) := by decide -- mod[2:0] = 4
theorem test_decode_xmit_store : decodeSyl .a 0xFF00012A52400064 = .ok (.xmit ⟨.a, 0xFF, 0, 0, 0⟩ ⟨2, 1, 72, 0, 100⟩) := by decide -- port 2; kind 1; xa 9 in bits 27:22; cycle 100

/-- One opcode, 0x01, is three instructions (R130). -/
theorem test_decode_maps : (decodeSyl .a 0xFF00000200000000, decodeSyl .v 0xFF00000200000000, decodeSyl .x 0xFF00000200000000) =
    (.ok (.add ⟨.a, 0xFF, 0, 0, 0⟩ ⟨0, 0, 0, 0⟩), .ok (.vadd ⟨.v, 0xFF, 0, 0, 0⟩ ⟨0, 0, 0, 0, 0⟩), .ok (.vst ⟨.x, 0xFF, 0, 0, 0⟩ ⟨0, 0, 0, 0, 0⟩)) := by decide
/-- Slot A holds no `halt`, map V ends at 0x2D (R146). -/
theorem test_decode_unassigned : (decodeSyl .a 0xFF00009800000000, decodeSyl .v 0xFF00005C00000000, decodeSyl .x 0xFF00012A00000000) =
    (.bad .encoding, .bad .encoding, .bad .encoding) := by decide

/-! ### Well-formedness: for each check a term it accepts and one, ill-formed by one field, that it refuses -/

/-- The head of an unguarded syllable. -/
def hd (k : Slot) : Hd := ⟨k, 0xFF, 0, 0, 0⟩

/-- Values this instruction does not accept: scalar, control, access (R136). -/
theorem test_wf_valid_fields_scalar : ([(.bext (hd .a) ⟨1, 2, 0, 0xFC0⟩, .bext (hd .a) ⟨1, 2, 0, 0xFC1⟩), (.bins (hd .s) ⟨1, 2, 0, 0x03F⟩, .bins (hd .s) ⟨1, 2, 0, 0x07F⟩), (.shli (hd .a) ⟨1, 2, 63⟩, .shli (hd .a) ⟨1, 2, 64⟩),
    (.srai (hd .a) ⟨1, 2, 63⟩, .srai (hd .a) ⟨1, 2, 0x1FFFFF⟩), (.cmp (hd .s) ⟨1, 2, 9, 2, 3, 4, 0⟩, .cmp (hd .s) ⟨1, 2, 10, 2, 3, 4, 0⟩), (.cmp (hd .s) ⟨1, 2, 9, 2, 3, 4, 0⟩, .cmp (hd .s) ⟨1, 2, 9, 3, 3, 4, 0⟩),
    (.cmp (hd .s) ⟨1, 2, 9, 2, 3, 4, 0⟩, .cmp (hd .s) ⟨1, 1, 9, 2, 3, 4, 0⟩), (.cmpi (hd .s) ⟨31, 31, 0, 0, 3, 4⟩, .cmpi (hd .s) ⟨5, 5, 0, 0, 3, 4⟩), (.loop (hd .s) ⟨0, 1, 0x1000⟩, .loop (hd .s) ⟨0, 0, 0x1000⟩),
    (.loop (hd .s) ⟨0, 1, 0x1000⟩, .loop (hd .s) ⟨1, 1, 0x1000⟩), (.loopi (hd .s) ⟨1, 1, 5⟩, .loopi (hd .s) ⟨0, 1, 5⟩), (.syncs (hd .a) ⟨0, 0, 15⟩, .syncs (hd .a) ⟨0, 0, 16⟩),
    (.mfsr (hd .s) ⟨1, 0, 0x41⟩, .mfsr (hd .s) ⟨1, 0, 0x05⟩), (.mtsrTvec (hd .s) ⟨0, 1, 0x40⟩, .mtsrTvec (hd .s) ⟨0, 1, 0x41⟩), (.mtsrCrv (hd .s) ⟨0, 1, 0x20⟩, .mtsrCrv (hd .s) ⟨0, 1, 0x1F⟩),
    (.fenceGang (hd .a) ⟨0, 0, 0, 2⟩, .fenceGang (hd .a) ⟨0, 0, 0, 5⟩), (.spawn (hd .s) ⟨1, 2, 3, 0x4000⟩, .spawn (hd .s) ⟨1, 2, 3, 0x6000⟩), (.trap (hd .s) ⟨0, 0, 0xFFFFF⟩, .trap (hd .s) ⟨0, 0, 0x100000⟩),
    (.widx (hd .s) ⟨1, 0, 5⟩, .widx (hd .s) ⟨1, 0, 6⟩), (.vlive (hd .s) ⟨0, 1, 0, 4⟩, .vlive (hd .s) ⟨0, 1, 0, 5⟩), (.tcfg (hd .a) ⟨0, 1, 2, 0x38⟩, .tcfg (hd .a) ⟨0, 1, 2, 0x0C⟩),
    (.pubR (hd .a) ⟨0, 1, 0, 1⟩, .pubR (hd .a) ⟨0, 1, 0, 0⟩), (.ldk (hd .a) ⟨1, 65535⟩, .ldk (hd .a) ⟨1, 65536⟩), (.ecmd (hd .x) ⟨2, 1, 2, 0⟩, .ecmd (hd .x) ⟨3, 1, 2, 0⟩),
    (.xmit (hd .a) ⟨4, 0, 351, 0, 0⟩, .xmit (hd .a) ⟨5, 0, 351, 0, 0⟩), (.xmit (hd .a) ⟨4, 0, 351, 0, 0⟩, .xmit (hd .a) ⟨0, 0, 351, 0, 0⟩), (.xmit (hd .a) ⟨4, 0, 351, 0, 0⟩, .xmit (hd .a) ⟨4, 0, 352, 0, 0⟩),
    (.xred (hd .a) ⟨0, 344, 0, 0⟩, .xred (hd .a) ⟨0, 352, 0, 0⟩), (.vadd (hd .v) ⟨339, 351, 320, 2, 8⟩, .vadd (hd .v) ⟨340, 351, 320, 2, 8⟩), (.vadd (hd .v) ⟨339, 351, 320, 2, 8⟩, .vadd (hd .v) ⟨328, 351, 320, 2, 8⟩),
    (.vadd (hd .v) ⟨339, 351, 320, 2, 8⟩, .vadd (hd .v) ⟨339, 352, 320, 2, 8⟩), (.vadd (hd .v) ⟨339, 351, 320, 2, 8⟩, .vadd (hd .v) ⟨339, 351, 352, 2, 8⟩), (.vadd (hd .v) ⟨339, 351, 320, 2, 8⟩, .vadd (hd .v) ⟨339, 351, 320, 3, 8⟩),
    (.vadd (hd .v) ⟨339, 351, 320, 2, 8⟩, .vadd (hd .v) ⟨339, 351, 320, 2, 10⟩)] : List (Instr × Instr)).all (fun p => p.1.wf && !p.2.wf) = true := by decide
/-- Values this instruction does not accept: vector, array, Trestle (R136). -/
theorem test_wf_valid_fields_rest : ([(.vfma (hd .v) ⟨319, 0, 0, 0, 0⟩, .vfma (hd .v) ⟨336, 0, 0, 0, 0⟩), (.vbcast (hd .v) ⟨0, 1, 12, 0, 0⟩, .vbcast (hd .v) ⟨0, 1, 13, 0, 0⟩), (.vscan (hd .v) ⟨0, 0, 0, 0, 2⟩, .vscan (hd .v) ⟨0, 0, 0, 0, 3⟩),
    (.vcvt (hd .v) ⟨0, 0, 0x0B, 0, 0⟩, .vcvt (hd .v) ⟨0, 0, 0x0C, 0, 0⟩), (.vcvt (hd .v) ⟨0, 0, 0x0B, 0, 0⟩, .vcvt (hd .v) ⟨0, 0, 0xAB, 0, 0⟩), (.vtopk (hd .v) ⟨318, 0, 0, 0, 0⟩, .vtopk (hd .v) ⟨319, 0, 0, 0, 0⟩),
    (.vidx (hd .v) ⟨0, 1, 8, 0, 0⟩, .vidx (hd .v) ⟨0, 1, 0, 0, 0⟩), (.vpop (hd .x) ⟨0, 320, 0, 0, 0⟩, .vpop (hd .x) ⟨0, 319, 0, 0, 0⟩), (.mvq (hd .x) ⟨1, 0, 0, 0⟩, .mvq (hd .x) ⟨1, 0, 0, 0x6000⟩),
    (.mldb (hd .x) ⟨1, 2, 3, 0x010⟩, .mldb (hd .x) ⟨1, 2, 3, 0x000⟩), (.mldb (hd .x) ⟨1, 2, 3, 0x010⟩, .mldb (hd .x) ⟨1, 2, 3, 0x210⟩), (.mrd (hd .x) ⟨1, 2, 3, 0x1000⟩, .mrd (hd .x) ⟨1, 2, 3, 0x1800⟩),
    (.mrd (hd .x) ⟨1, 2, 3, 0x1000⟩, .mrd (hd .x) ⟨1, 2, 3, 0x0007⟩), (.mrd (hd .x) ⟨1, 2, 3, 0x1000⟩, .mrd (hd .x) ⟨1, 2, 3, 0x00A0⟩), (.mrd (hd .x) ⟨1, 2, 3, 0x1000⟩, .mrd (hd .x) ⟨1, 2, 3, 0x6000⟩),
    (.mclr (hd .x) ⟨0, 1, 2, 2⟩, .mclr (hd .x) ⟨0, 1, 2, 3⟩), (.tst (hd .x) ⟨0, 339, 0, 0, 0⟩, .tst (hd .x) ⟨0, 340, 0, 0, 0⟩), (.tup (hd .x) ⟨0, 0, 0, 1, 2, 0⟩, .tup (hd .x) ⟨0, 0, 0, 1, 3, 0⟩)] : List (Instr × Instr)).all (fun p => p.1.wf && !p.2.wf) = true := by decide
/-- Fields marked zero (R136, R138). -/
theorem test_wf_zero_fields : ([(.nop (hd .s) ⟨0⟩, .nop (hd .s) ⟨1⟩), (.add (hd .a) ⟨1, 2, 3, 0⟩, .add (hd .a) ⟨1, 2, 3, 0x4000⟩), (.sel (hd .s) ⟨1, 2, 3, 31⟩, .sel (hd .s) ⟨1, 2, 3, 32⟩),
    (.clz (hd .a) ⟨1, 2, 0, 0⟩, .clz (hd .a) ⟨1, 2, 1, 0⟩), (.cmp (hd .a) ⟨1, 2, 0, 0, 0, 0, 0⟩, .cmp (hd .a) ⟨1, 2, 0, 0, 0, 0, 1⟩), (.ptt (hd .a) ⟨1, 2, 0, 0, 0, 0⟩, .ptt (hd .a) ⟨1, 2, 0, 0, 0, 16⟩),
    (.br (hd .s) ⟨0, 0, 1⟩, .br (hd .s) ⟨1, 0, 1⟩), (.br (hd .s) ⟨0, 0, 1⟩, .br (hd .s) ⟨0, 1, 1⟩), (.call (hd .s) ⟨1, 0, 1⟩, .call (hd .s) ⟨1, 1, 1⟩),
    (.ret (hd .s) ⟨0, 1, 0, 0⟩, .ret (hd .s) ⟨0, 1, 1, 0⟩), (.rep (hd .s) ⟨0, 0, 1⟩, .rep (hd .s) ⟨0, 1, 1⟩), (.rep (hd .s) ⟨0, 0, 1⟩, .rep (hd .s) ⟨1, 0, 1⟩),
    (.fork (hd .s) ⟨0, 1, 1⟩, .fork (hd .s) ⟨1, 1, 1⟩), (.halt (hd .s) ⟨0, 0, 0, 0⟩, .halt (hd .s) ⟨0, 0, 0, 1⟩), (.semw (hd .a) ⟨0, 0, 0, 0x7F⟩, .semw (hd .a) ⟨0, 0, 0, 0x80⟩),
    (.sema (hd .a) ⟨0, 1, 0, 0x7FBF⟩, .sema (hd .a) ⟨0, 1, 0, 0x40⟩), (.rfe (hd .s) ⟨0, 0, 0, 0⟩, .rfe (hd .s) ⟨1, 0, 0, 0⟩), (.ldq (hd .a) ⟨0, 1, 2, 0x7F⟩, .ldq (hd .a) ⟨0, 1, 2, 0x80⟩),
    (.hld (hd .a) ⟨1, 2, 63⟩, .hld (hd .a) ⟨1, 2, 64⟩), (.tcfg (hd .a) ⟨0, 1, 2, 0x7A⟩, .tcfg (hd .a) ⟨0, 1, 2, 0x80⟩), (.tcfg (hd .a) ⟨0, 1, 2, 0x7A⟩, .tcfg (hd .a) ⟨0, 1, 2, 1⟩),
    (.ecmd (hd .a) ⟨0, 1, 2, 0⟩, .ecmd (hd .a) ⟨0, 1, 2, 1⟩), (.xmit (hd .a) ⟨1, 1, 8, 0, 0⟩, .xmit (hd .a) ⟨1, 1, 9, 0, 0⟩), (.xmit (hd .a) ⟨1, 1, 8, 0, 0⟩, .xmit (hd .a) ⟨1, 1, 8, 1, 0⟩),
    (.vmov (hd .v) ⟨0, 1, 0, 0, 0⟩, .vmov (hd .v) ⟨0, 1, 1, 0, 0⟩), (.vbcast (hd .v) ⟨0, 63, 0, 0, 0⟩, .vbcast (hd .v) ⟨0, 64, 0, 0, 0⟩), (.vshl (hd .v) ⟨0, 1, 31, 0, 1⟩, .vshl (hd .v) ⟨0, 1, 32, 0, 1⟩),
    (.vst (hd .x) ⟨0, 63, 63, 0, 0⟩, .vst (hd .x) ⟨0, 63, 64, 0, 0⟩), (.mck (hd .x) ⟨1, 0, 0, 1⟩, .mck (hd .x) ⟨1, 0, 0, 2⟩), (.tshp (hd .x) ⟨0, 63, 0, 63⟩, .tshp (hd .x) ⟨1, 63, 0, 63⟩),
    (.tshp (hd .x) ⟨0, 63, 0, 63⟩, .tshp (hd .x) ⟨0, 63, 1, 63⟩), (.tdn (hd .x) ⟨0, 0, 0, 0, 0, 0⟩, .tdn (hd .x) ⟨0, 0, 0, 1, 0, 0⟩), (.tdn (hd .x) ⟨0, 0, 0, 0, 0, 0⟩, .tdn (hd .x) ⟨0, 0, 0, 0, 1, 0⟩),
    (.cskip (hd .x) ⟨1, 2, 0, 0⟩, .cskip (hd .x) ⟨1, 2, 1, 0⟩)] : List (Instr × Instr)).all (fun p => p.1.wf && !p.2.wf) = true := by decide
/-- The wrong map, the truth table that is never decoded, a row without an encoding. -/
theorem test_wf_map_and_table : ([.halt (hd .a) ⟨0, 0, 0, 0⟩, .vadd (hd .x) ⟨0, 0, 0, 0, 0⟩, .add ⟨.s, 0, 0, 0, 0⟩ ⟨1, 2, 3, 0⟩, .ageTick 0] : List Instr).all
    (fun i => !i.wf) = true := by decide

/-! ### Witnesses: states and operands that meet the hypotheses of the statements, clause by clause -/

/-- The device at ready with deck 0 as given; deck 0 issues. -/
def onDeck (d : Deck) : State := { State.reset with decks := [(0, d)] }
/-- The same with core 0 as given. -/
def onCore (d : Deck) (k : Core) : State := { onDeck d with cores := [(0, k)] }
/-- A deck in fork mode, and one in supervisor mode. -/
def forked : Deck := { Deck.reset with fork := true }
def sup : Deck := { Deck.reset with sup := true }

theorem witness_DecodeOfEncode : Instr.wf (.addi (hd .a) ⟨7, 7, 16⟩) = true ∧ opcodeOf (.addi (hd .a) ⟨7, 7, 16⟩) = some (hd .a, 0x18, [.a, .s]) ∧
    encode (.addi (hd .a) ⟨7, 7, 16⟩) = some 0xFF00003038E00010 := by decide
theorem witness_DecodedIsWellFormed : decodeSyl .x 0xFF00006439200000 = .ok (.cskip (hd .x) ⟨7, 9, 0, 0⟩) := by decide
theorem witness_SpecialTruthTables : bits 0x00FFFFFFFFFFFFFF 56 8 = 0 ∧ (hd .a).tt = 0xFF ∧ 127 < 128 := by decide

/-- A first instruction stands where step fetches: the hypotheses of the step statement hold of it. -/
def fetched : State := State.reset.withFetchWord 64 0xFF00003038E00010
theorem witness_StepRunsDecoded : fetched.phase = .issue ∧ fetched.nextDeck = some 0 ∧ fetched.replayDue 0 = none ∧ fetched.entersKernel 0 = false ∧
    fetched.sideDue 0 = some none ∧ (fetched.getDeck 0).overrunEnd = false ∧ (fetched.getDeck 0).overrunA = false ∧ (fetched.getDeck 0).boundary = false ∧
    fetched.bundleAt 0 (fetched.getDeck 0).pcE = ⟨.ok (.addi (hd .a) ⟨7, 7, 16⟩), .empty, .empty, .empty⟩ ∧
    ∃ t, exec (.addi (hd .a) ⟨7, 7, 16⟩) (fetched.beginBundle 0 none (fetched.getDeck 0).pcE none) = .next t ∧ t.issue.stall = false ∧
      t.issue.waitOther = false ∧ t.issue.raised = none ∧ t.issue.freeing = [] ∧ t.issue.joins = false ∧ t.haltWaits 0 = false :=
  ⟨by decide, by decide, by decide, by decide, by decide, by decide, by decide, by decide, by decide, _, rfl, by decide, by decide, by decide, by decide, by decide,
    by decide⟩
theorem witness_StepRunsDecoded_event : ({ State.reset with agenda := [(0, .ageTick 0)] } : State).agenda = (0, .ageTick 0) :: [] ∧
    0 ≤ State.reset.clock ∧ State.reset.phase ≠ .issue := by decide
theorem witness_StepKeepsMemoryCanonical : State.reset.Inv ∧ ∃ t, step State.reset = .next t := ⟨by decide, _, rfl⟩
theorem witness_EverythingHasAMeaning : (opcodeOf (.halt (hd .s) ⟨0, 0, 0, 0⟩)).isSome = true := by decide

theorem witness_ScalarForms : State.reset.Runs (hd .s) [63, 0] ∧ (⟨0, 1, 63⟩ : XI).imm.toNat ≤ 63 ∧ Instr.wf (.shli (hd .s) ⟨0, 1, 63⟩) = true ∧
    Instr.wf (.shri (hd .s) ⟨0, 1, 63⟩) = true ∧ Instr.wf (.srai (hd .s) ⟨0, 1, 63⟩) = true := by decide
theorem witness_BitCountsAndFields : State.reset.Runs (hd .s) [1, 2, 0] ∧ (onDeck { Deck.reset with x := [(2, 1)] }).x 2 ≠ 0 ∧
    (0x0FC0 : BitVec 15).getLsbD 12 = false ∧ (0x1FC0 : BitVec 15).getLsbD 12 = true ∧ bits 0x1FC0 0 6 + (bits 0x1FC0 6 6 + 1) ≤ 64 := by decide
theorem witness_SelChoosesByBit0 : State.reset.Runs (hd .s) [1, 2] ∧ Instr.wf (.sel (hd .s) ⟨3, 1, 2, 31⟩) = true := by decide
theorem witness_MoviMovhi : State.reset.Runs (hd .a) [] ∧ State.reset.Runs (hd .a) [5] := by decide
theorem witness_ComparesAndTables : State.reset.Runs (hd .s) [1, 2] ∧ State.reset.Runs (hd .s) [1] ∧ State.reset.Runs (hd .s) [] := by decide
theorem witness_NopHasNoEffect : (hd .a).tt ≠ 0 ∧ ((hd .a).slot = .a ∨ (hd .a).slot = .s) ∧ opcodeOf (.nop (hd .a) ⟨0⟩) = some (hd .a, 0, [.a, .s, .v, .x]) := by
  decide
theorem witness_ScalarResultLands : 0 < 1 ∧ State.reset.dk.trapWait = none ∧ State.reset.dk.frozen = none ∧ State.reset.dk.latches = [] ∧
    (2 : BitVec 6) ≠ 1 := by decide
theorem witness_ScalarAndVectorFrame : (∃ t, exec (.add (hd .s) ⟨1, 2, 3, 0⟩) State.reset = .next t) ∧
    ∃ t, exec (.vmov (hd .v) ⟨0, 1, 0, 0, 0⟩) State.reset = .next t ∧ t.issue.raised = none := ⟨⟨_, rfl⟩, _, rfl, by decide⟩
/-- A head whose guard p0 is 0. -/
def off (k : Slot) : Hd := ⟨k, 0xF0, 0, 0, 0⟩
theorem witness_DisabledScalarDoesNothing : State.reset.guard0 (off .s) = false ∧ State.reset.issue.anew = none := by decide

theorem witness_Branches : State.reset.dk.inKernel = false ∧ State.reset.Acts (hd .s) [] ∧ State.reset.Acts (hd .s) [63] ∧
    (onDeck { Deck.reset with aToE := [true] }).dk.aToE = true :: [] ∧ (onDeck { Deck.reset with aToE := [true] }).Acts (hd .s) [] ∧
    (onDeck { Deck.reset with aToE := List.replicate 15 true }).dk.aToE.length + 0 < 16 ∧ State.reset.Runs (hd .a) [] := by decide
theorem witness_Loops : State.reset.dk.inKernel = false ∧ (onDeck { Deck.reset with loopsA := List.replicate 3 ⟨1, 2, 1⟩, loopsE := List.replicate 3 ⟨1, 2, 1⟩ }).Acts (hd .s) [1] ∧
    ((onDeck { Deck.reset with loopsA := List.replicate 3 ⟨1, 2, 1⟩, loopsE := List.replicate 3 ⟨1, 2, 1⟩ }).loops (hd .s)).length < 4 ∧
    (∀ l ∈ (onDeck { Deck.reset with loopsA := List.replicate 3 ⟨1, 2, 1⟩, loopsE := List.replicate 3 ⟨1, 2, 1⟩ }).loops (hd .s), l.stop ≠ 0) ∧
    (onDeck forked).Acts (hd .a) [] ∧ ((onDeck forked).loops (hd .a)).length < 4 := by decide
theorem witness_ForkJoinSyncHalt : State.reset.Runs (hd .s) [] ∧ State.reset.dk.fork = false ∧ (onDeck forked).Runs (hd .s) [] ∧ (onDeck forked).dk.fork = true ∧
    (⟨0, 0, 15⟩ : XI).imm.toNat ≤ 15 ∧ (onDeck { Deck.reset with sync := 0x8000 }).dk.sync.getLsbD 15 = true ∧ State.reset.dk.chain = none := by decide
theorem witness_SpecialRegisters : State.reset.Runs (hd .s) [1] ∧ (⟨0, 1, 0x3F⟩ : XI).imm.toNat < 0x40 ∧ 0x40 ≤ (⟨0, 1, 0x40⟩ : XI).imm.toNat ∧
    State.reset.dk.sup = false ∧ (onDeck sup).dk.sup = true ∧ (onDeck sup).Runs (hd .s) [1] := by decide
theorem witness_SpecialRegisterFields : 0x020 ≤ 0x020 ∧ 0x02F ≤ 0x02F ∧ 0x011 ≠ 0x010 := by decide
theorem witness_FencesAndPoints : State.reset.Runs (hd .a) [] ∧ State.reset.storesPending (State.reset.earlierStores (isEx (hd .a))) = false ∧
    State.reset.loadsDone State.reset.dn (isEx (hd .a)) false = true ∧ State.reset.loadsDone State.reset.dn (isEx (hd .a)) true = true ∧
    State.reset.ownCmds State.reset.dn (isEx (hd .a)) State.reset.clock = [] ∧
    State.reset.extentsDone State.reset.dn (isEx (hd .a)) State.reset.issue.seq0 State.reset.clock = true := by decide
/-- A store of deck 0 that has not performed when a bundle issues. -/
def storing : State := { State.reset with micro := [⟨6, 0, 0, false, 0, 0, .write 0 1 0 none⟩], seq := 1, issue := { Issue.idle with seq0 := 1 } }
theorem witness_FencesAndPoints_stall : storing.Runs (hd .a) [] ∧ storing.storesPending (storing.earlierStores (isEx (hd .a))) = true := by decide
/-- Deck 0 runs instance 0, described by x. -/
def running (x : Inst) (d : Deck) : State := { onDeck { d with inst := some 0 } with insts := [(0, x)], nextInst := 1 }
theorem witness_FencesAndPoints_square : (running { Inst.absent with squareAt := some 0 } Deck.reset).dk.fork = false ∧
    (running { Inst.absent with squareAt := some 0 } Deck.reset).inst.squareAt = some 0 ∧ (running { Inst.absent with squareAt := some 0 } Deck.reset).Runs (hd .s) [] := by
  decide
theorem witness_Semaphores : State.reset.Runs (hd .s) [1] ∧ State.reset.guard0 (hd .s) = true ∧ (0x7F : BitVec 15).getLsbD 6 = true ∧
    (0x3F : BitVec 15).getLsbD 6 = false ∧ ((onCore Deck.reset { Core.reset with sems := [(63, ⟨1, 1, 0, 0, 0, []⟩)] }).ck.sem 63).target.toNat ≤ 1 ∧
    ((onCore Deck.reset { Core.reset with sems := [(0, ⟨0, 1, 0, 0, 0, []⟩)] }).ck.sem 0).value.toNat + ((onCore Deck.reset { Core.reset with sems := [(0, ⟨0, 1, 0, 0, 0, []⟩)] }).ck.sem 0).used < ((onCore Deck.reset { Core.reset with sems := [(0, ⟨0, 1, 0, 0, 0, []⟩)] }).ck.sem 0).target.toNat ∧
    State.reset.storesPending [] = false ∧ State.reset.signals = [] ∧ ({ State.reset with signals := [⟨0, 95, 63, [], 0⟩] } : State).signals = [⟨0, 95, 63, [], 0⟩] ∧ (Sem.reset.sum = 0 ∧ Sem.reset.base = Sem.reset.value.toNat) ∧ ([1] : List Int) ≠ [] := by decide
theorem witness_Leases : State.reset.Runs (hd .s) [] ∧ (onCore Deck.reset { Core.reset with leaseHolder := some 0 }).ck.leaseHolder = some 0 ∧
    State.reset.ck.leaseHolder ≠ some (State.reset.dn % 4) ∧ State.reset.dk.chain = none ∧ ({ Core.reset with leaseReq := [3] } : Core).leaseHolder = none ∧
    Core.reset.leaseLast < 4 ∧ 3 < 4 ∧ (3 ∈ ({ Core.reset with leaseReq := [3] } : Core).leaseReq) ∧
    ∀ e, e < 4 → e ∈ [3] → (3 + 3 - Core.reset.leaseLast) % 4 ≤ (e + 3 - Core.reset.leaseLast) % 4 := by decide
theorem witness_TrapsWaitsMasks : State.reset.Runs (hd .s) [1] ∧ State.reset.dk.sup = false ∧ State.reset.dk.pend20 = false ∧ State.reset.dk.pend21 = 0 ∧
    State.reset.dk.pend23 = false ∧ (onDeck { Deck.reset with pend20 := true }).dk.pend20 = true ∧ bits 4 0 3 ≤ 4 ∧ (onDeck sup).dk.sup = true ∧
    (onDeck sup).dk.fork = false ∧ (onDeck sup).inst.doomed = false := by decide
theorem witness_TrapEntry : (State.reset.getDeck 0).sup = false ∧ (State.reset.getDeck 0).revoc = [] ∧ (State.reset.getDeck 0).arrFaults = [] ∧
    (⟨0x22, 0, 0, 6⟩ : Trap).order = 6 ∧ ((onDeck sup).getDeck 0).sup = true ∧ ((onDeck sup).getDeck 0).inst = none := by decide
theorem witness_FrameHoldsContext : (⟨0xFFFFFFFFFFFFFFFF, false, false, false, false, false, 0, [], 0⟩ : Extra).node < 2 ^ 64 := by decide

/-- A deck of a running instance that has a `trap` to take in this clock. -/
def trapping : State := running { Inst.absent with st := .running, decks := [0], iterMax := 1 } { Deck.reset with halted := false, pendTrap := some ⟨0x22, 5, 0, 6⟩ }
theorem witness_TrapEvents : (trapping.getDeck 0).trapWait = none ∧ trapping.dueTrap 0 = some ⟨0x22, 5, 0, 6⟩ ∧
    ((onDeck { Deck.reset with trapWait := some ⟨⟨0x22, 5, 0, 6⟩, 0⟩ }).getDeck 0).trapWait ≠ none := by decide
/-- Both sequencers have stalled on each other since clock 0. -/
def stuck : State :=
  { running Inst.absent { Deck.reset with halted := false, fork := true, waitA := some 0, waitE := some 0 } with clock := 64 }
theorem witness_TrapEvents_stall : stuck.mutuallyStalled 0 = true ∧ (stuck.getDeck 0).trapWait = none ∧ (stuck.getDeck 0).interrupt (stuck.deferred 0) = none ∧
    (let s := stuck.modDeck 0 fun d => { d with pend20 := true }
     s.mutuallyStalled 0 = true ∧ (s.getDeck 0).trapWait = none ∧ (s.getDeck 0).interrupt (s.deferred 0) = some ⟨0x20, 0, 0, 5⟩ ∧
       s.wfiKeeps 0 ⟨0x20, 0, 0, 5⟩ = false) := by decide
theorem witness_TrapEvents_timer :
    (∀ k ∈ [1250, 2500], (running { Inst.absent with st := .running, iterMax := 1 } { Deck.reset with halted := false, timer := k }).timed 0 = true) ∧
    ((running { Inst.absent with st := .running, iterMax := 1 } { Deck.reset with halted := false, timer := 1250 }).getDeck 0).timer =
      (running { Inst.absent with st := .running, iterMax := 1 } { Deck.reset with halted := false, timer := 1250 }).iterClocks 0 / 2 ∧
    ((running { Inst.absent with st := .running, iterMax := 1 } { Deck.reset with halted := false, timer := 2500 }).getDeck 0).timer =
      (running { Inst.absent with st := .running, iterMax := 1 } { Deck.reset with halted := false, timer := 2500 }).iterClocks 0 := by decide

/-- Deck 0 runs instance 0; page 0 of context 0 is translated; the descriptor of queue 0 is live with generation 0. -/
def spawning (x : Word) : State :=
  { running { Inst.absent with exts := [⟨3, 0, 512, 0, false, false, none⟩] } { Deck.reset with x := [(1, x)] } with
    trans := [⟨0, 0, false, 0, false, none⟩], mem := [(2 ^ 41 + 5, 0x10)] }
theorem witness_Spawning : (spawning 3).Runs (hd .s) [1, 0, 2] ∧ (spawning 3).HasInst 0 ∧ (spawning 3).rqRoomNow 5 = true ∧ bits 0 13 2 = 0 ∧
    bits ((spawning 3).x 1).toNat 13 19 = 0 ∧ (spawning 3).inst.ctx = 0 ∧ (spawning 3).inst.ext (bits ((spawning 3).x 1).toNat 0 4) = some ⟨3, 0, 512, 0, false, false, none⟩ ∧
    (spawning 2).inst.ext (bits ((spawning 2).x 1).toNat 0 4) = none ∧ bits ((spawning 3).x 1).toNat 0 13 ≠ 0 := by decide
theorem witness_Spawning_queue : (spawning 3).reachable 0 ((spawning 3).queueAddr 0 0) 32 = true ∧ (spawning 3).queueLive 0 0 0 = true := by decide

/-- Deck 0 with x1 = w. -/
def withX1 (w : Word) : State := onDeck { Deck.reset with x := [(1, w)] }
theorem witness_ScalarLoads : (Instr.ldsD (hd .a) ⟨2, 1, 0⟩, 3) ∈ [(Instr.ldsB (hd .a) ⟨2, 1, 0⟩, 0), (.ldsH (hd .a) ⟨2, 1, 0⟩, 1), (.ldsW (hd .a) ⟨2, 1, 0⟩, 2), (.ldsD (hd .a) ⟨2, 1, 0⟩, 3)] ∧
    (withX1 0x3EFFFFF).MayRecord (hd .a) [1] ∧ addrOf ((withX1 0x3EFFFFF).x 1 + 0) = .store 0x3EFFFFF ∧ (withX1 0x3EFFFFF).frameBarred (0x3EFFFFF / 16384) = false := by
  decide
/-- Deck 0 waits for a load numbered 7 of a valid row 131071 of core 0. -/
def sampling : State :=
  onCore { Deck.reset with revoc := [⟨7, false, 0, 0, 0, 0, [], 1, 0, 0, none, 0⟩] } { Core.reset with rows := [(131071, ⟨.valid, 0, false⟩)] }
theorem witness_ScalarLoads_sample : sampling.liveRevoc 0 7 = true ∧ (sampling.getCore 0).meet (0x3FFFFF8 / 512) = .data ∧ (sampling.getCore 0).pendBits = [] ∧
    (sampling.getCore 0).badGran = [] ∧ 63 ≠ 0 ∧ 3 ≤ 3 := by decide
theorem witness_ScalarStores : (withX1 0x3EFFFFF).Passed (hd .a) [1, 2] ∧ addrOf ((withX1 0x3EFFFFF).x 1 + 0) = .store 0x3EFFFFF ∧
    (withX1 0x3EFFFFF).frameBarred (0x3EFFFFF / 16384) = false ∧ ((withX1 0x3EFFFFF).ck.tile (0x3EFFFFF / 16384)).published = false := by decide
theorem witness_WritePerforms : (⟨6, 0, 0, false, 0, 0, .write 131071 wholeMask 1 none⟩ : Micro).act = .write 131071 wholeMask 1 none ∧ Memory.wf [] = true ∧
    (1 : BitVec 512) ≠ wholeMask ∧ 511 < 512 ∧
    ((onCore Deck.reset { Core.reset with tiles := [(4095, { Tile.reset with tag := 0x04 })] }).ck.tile (131071 / 32)).tag = 0x04 := by decide +kernel
theorem witness_AccessTraps : (withX1 0x4000000).MayRecord (hd .a) [1] ∧ addrOf (0x4000000 : Word) = .bad ∧ (withX1 0x4000000).Passed (hd .a) [1, 2] ∧
    addrOf ((withX1 0x3F00000).x 1 + 0) = .store 0x3F00000 ∧ 4032 ≤ 0x3F00000 / 16384 ∧ (withX1 0x3F00000).dk.sup = false ∧
    ((onCore { Deck.reset with x := [(1, 0x4000)] } { Core.reset with tiles := [(1, { Tile.reset with published := true })] }).ck.tile (0x4000 / 16384)).published = true := by
  decide
theorem witness_QueueLoads : (withX1 0x3EFF000).MayRecord (hd .a) [1, 0] ∧ addrOf ((withX1 0x3EFF000).x 1 + (withX1 0x3EFF000).x 0) = .store 0x3EFF000 ∧
    (mget [] (withX1 0x3EFF000).dk.oq 7).length + (bits 0x3F 3 3 + 1) ≤ 8 ∧ 0x3EFF000 / 512 + 8 ≤ 131072 ∧ (withX1 0x3EFF000).frameBarred ((0x3EFF000 / 512 + 8 - 1) / 32) = false ∧
    addrOf ((withX1 (2 ^ 62 + 95 * 2 ^ 32)).x 1 + (withX1 (2 ^ 62 + 95 * 2 ^ 32)).x 0) = .remote 95 0 := by decide +kernel
/-- A record of one dimension: I32 (tag 8), base 0, stride 1, size 128, bound 128. -/
def plainRecord : BitVec 512 := BitVec.ofNat 512 ((2 ^ 55 + 8 * 2 ^ 50) * 2 ^ 64 + (2 ^ 32 + 128 * 2 ^ 16 + 128) * 2 ^ 128)
/-- Deck 0, supervisor, with that record under handle 0, and tile 0 of format I32. -/
def handling : State := onCore { Deck.reset with sup := true, lcache := [(0, ⟨0, plainRecord, true⟩)] } { Core.reset with tiles := [(0, { Tile.reset with tag := 8 })] }
theorem witness_QueueLoads_ldqt : handling.MayRecord (hd .a) [1, 0] ∧ handling.dk.handle (handling.x 1) = some ⟨0, plainRecord, true⟩ ∧
    (mget [] handling.dk.oq 0).length < 8 ∧ recKind plainRecord = 0 ∧ recFaults plainRecord = false ∧
    (handling.ck.tile (((8 * (recWord plainRecord 0 : Int) + recBits plainRecord (packedIndices (handling.x 0) 0)) % 2 ^ 29).toNat / 8 / 16384)).tag.toNat = recFormat plainRecord ∧
    (ldqtElems plainRecord (handling.x 0)).any (fun x => !x.2.2) = false ∧ handling.dk.sup = true := by decide +kernel
theorem witness_RemoteLoads : ({ State.reset with remotes := [⟨5, 0, 5, 1, 0, 1, 0, [9], 0, none, 0, 0, [(0, 1, 0, 0)]⟩] } : State).remotes = [⟨5, 0, 5, 1, 0, 1, 0, [9], 0, none, 0, 0, [(0, 1, 0, 0)]⟩] ∧
    mget [] ((onDeck { Deck.reset with oq := [(0, [⟨9, 0, 0, false, false⟩])] }).getDeck 0).oq 0 = [⟨9, 0, 0, false, false⟩] ∧ [9].getD 0 0 = 9 := by decide +kernel
/-- An `hld` whose record has been read and arrives. -/
def arriving : State := onDeck { Deck.reset with lcache := [(5, ⟨63, 0, false⟩)], revoc := [⟨7, false, 0x8A * 2 ^ 33, 0, 0, 0, [], 1, 0, 63 * 64 + 5, none, plainRecord⟩] }
theorem witness_Handles : (withX1 0x3EFFFC0).MayRecord (hd .a) [1] ∧ addrOf ((withX1 0x3EFFFC0).x 1) = .store 0x3EFFFC0 ∧ 0x3EFFFC0 % 8 = 0 ∧ 0x3EFFFC0 + 64 ≤ 2 ^ 26 ∧
    (withX1 0x3EFFFC0).frameBarred (0x3EFFFC0 / 16384) = false ∧ State.reset.extWait = [] ∧ 63 < 64 ∧
    arriving.wantsRecord 0 5 63 = true ∧ ((arriving.getDeck 0).hldOf 5 63).any (fun r => !recBad r.record) = true ∧
    handling.Passed (hd .a) [1, 0, 2] ∧ handling.dk.handle (handling.x 1) = some ⟨0, plainRecord, true⟩ ∧
    wholeByte plainRecord (recBits plainRecord (packedIndices (handling.x 0) 0)) = true ∧ recBits plainRecord (packedIndices (handling.x 0) 0) % 8 = 0 := by decide +kernel
/-- Core 0 with a directory of one set from tile 8: way 0 holds block 0, pinned 15 times. -/
def directory : Core := { Core.reset with sdcfg := 0x1008, ways := [(0, ⟨0, 0, 2, 15, 0⟩)] }
theorem witness_SlotDirectory : (onCore Deck.reset directory).Passed (hd .a) [1] ∧ (onCore Deck.reset directory).ck.findWay 0 0 = some 0 ∧
    ((onCore Deck.reset directory).ck.way 0).st = 2 ∧ (onCore Deck.reset directory).ck.findWay 0 1 = none ∧ dirSets (onCore Deck.reset directory).ck ≠ 0 ∧
    (onCore Deck.reset directory).ck.victimWay 1 = some 1 ∧ (onCore Deck.reset directory).ck.engineFull 1 = false ∧ (onCore Deck.reset directory).dk.fork = false ∧
    (directory.way 0).st ≠ 0 ∧ (onCore Deck.reset directory).frameBarred (dirBase (onCore Deck.reset directory).ck + 1) = false := by decide
/-- The same directory from tile 4032, a frame tile. -/
theorem witness_SlotDirectory_frame : let s := onCore Deck.reset { directory with sdcfg := 0x1FC0 }
    s.Passed (hd .a) [1] ∧ s.ck.findWay 0 0 = some 0 ∧ s.frameBarred (dirBase s.ck + 0) = true := by decide
theorem witness_TileInstructions : (onDeck sup).Passed (hd .a) [1, 2] ∧ (onDeck sup).dk.sup = true ∧ (0 : BitVec 15).getLsbD 0 = false ∧
    State.reset.storesPending [] = false ∧ ((State.reset.getCore 95).tile 4095).locks = [] ∧ (onDeck Deck.reset).Passed (hd .a) [] ∧
    ({ Core.reset with tileReqs := [(4095, 0, .rel)] } : Core).tileReqs = (4095, 0, .rel) :: [] ∧
    ({ Core.reset with tileReqs := [(4095, 0, .cfg 0x60 0 none)] } : Core).tileReqs = (4095, 0, .cfg 0x60 0 none) :: [] ∧ 0 ≤ State.reset.clock ∧
    (State.reset.getCore 0).tileBanksLocked 4095 = false := by decide

/-- Deck 0 with a copy of tile 0 to tile 40 in x1 and its count in x2. -/
def commanding (count : Word) (k : Core) : State := onCore { Deck.reset with x := [(1, 40 * 2 ^ 32), (2, count)] } k
theorem witness_EngineCommands : (commanding 1 Core.reset).Passed (hd .a) [1, 2] ∧
    ((commanding 0 Core.reset).newCmd (hd .a) ((commanding 0 Core.reset).x 1) ((commanding 0 Core.reset).x 2)).count = 0 ∧
    (let s := commanding 1 Core.reset
     let c := s.newCmd (hd .a) (s.x 1) (s.x 2)
     c.count ≠ 0 ∧ c.job 0 s.ck = .copy 1280 0 ∧ s.ck.engineFull 0 = false ∧ c.badField 0 (.copy 1280 0) = false ∧
       (Job.copy 1280 0).namesFrame s.cn (c.rows 0 - 1) = false ∧ s.badExtent (.copy 1280 0) c.count = none) := by decide
/-- A copy with a consuming wait on semaphore 63. -/
def waitingCopy : Cmd := ⟨0xFF * 2 ^ 56 + 40 * 2 ^ 32, 1, false, 0, false, 1, 0, none, none, [], none, true, 0, true⟩
theorem witness_EngineCommands_full : (commanding 1 { Core.reset with engines := [(0, { Engine.reset with queue := List.replicate 16 waitingCopy })] }).ck.engineFull 0 = true := by
  decide
/-- Tram 0 of core 0 has that copy at its head and semaphore 63 holds its target. -/
def leaving : State :=
  { onCore Deck.reset { Core.reset with engines := [(0, { Engine.reset with queue := [waitingCopy] })], sems := [(63, ⟨1, 1, 0, 0, 0, []⟩)] } with clock := 2 }
theorem witness_CommandsLeave : ((leaving.getCore 0).engine 0).queue = waitingCopy :: [] ∧ leaving.leaveReady 0 0 = true ∧
    leaving.headLeaves 0 0 = some (.tramCopy 0 0) ∧ waitingCopy.f 62 2 = 3 := by decide
/-- A remote copy of one row to tile 40 of core 1, its row read. -/
def remoteCopy : Running :=
  ⟨⟨3 * 2 ^ 44 + 1 * 2 ^ 37 + 40 * 2 ^ 25, 1, false, 0, false, 1, 0, none, none, [], none, true, 0, true⟩, 0, [], [0], [(0, 1, 16)], 0, [], none, false, false, none, none,
    [1 * 4096 + 40], []⟩
/-- Core 0 performs it; Tram 1 of core 0 holds an entry for deck 0. -/
def copying : State :=
  onCore Deck.reset { Core.reset with power := ⟨0, 0, false⟩, engines := [(0, { Engine.reset with cur := some remoteCopy }), (1, { Engine.reset with held := [⟨0, 4, 1, 8⟩] })] }
theorem witness_EngineEvents : copying.running 0 0 = some remoteCopy ∧ remoteCopy.cmd.job 0 (copying.getCore 0) = .remote 1 1280 0 ∧
    remoteCopy.got = [(0, 1, 2 * 8)] ∧ copying.receivable remoteCopy [(1, 1280 + 0)] = true ∧ remoteCopy.fault = none ∧ 1 ≠ 0 ∧
    ((copying.getCore 0).engine 1).held = ⟨0, 4, 1, 8⟩ :: [] ∧ (mget [] (copying.getDeck 0).rq 4).length < 4 := by decide +kernel
/-- A command that stood at page 0 of context 0, which has arrived. -/
def resuming : State :=
  { onCore Deck.reset { Core.reset with engines := [(0, { Engine.reset with cur := some { remoteCopy with page := some (0, 0) } })] } with
    trans := [⟨0, 0, false, 0, false, none⟩] }
theorem witness_EngineEvents_resume : resuming.resumeReady 0 0 = true := by decide +kernel

/-- A head whose guard is 1 in every lane, and one in none, is above; an operand queue with a head that has arrived. -/
def queued : Deck := { Deck.reset with oq := [(0, [⟨1, 7, 8, true, false⟩])], rq := [(0, [⟨2, 7, 8, true, false⟩])] }
theorem witness_VectorOperands : queued.takeAll [320, 344] = .inr ([⟨7, 8⟩, ⟨7, 8⟩], { queued with oq := [] }) ∧ mget [] queued.oq 0 = [⟨1, 7, 8, true, false⟩] ∧
    State.reset.dk.guard (off .v) = 0 ∧ State.reset.dk.guard (hd .v) ≠ 0 ∧ State.reset.dk.takeAll [320, 0] = .inl 320 ∧
    (⟨0, 320, 0, 0, 0⟩ : VRR).a ∈ [(⟨0, 320, 0, 0, 0⟩ : VRR).a, (⟨0, 320, 0, 0, 0⟩ : VRR).b2] ∧ 320 ≤ (⟨0, 320, 0, 0, 0⟩ : VRR).a := by decide +kernel
/-- Result queue 3 is full. -/
def fullQueue : State := onDeck { queued with rq := [(3, List.replicate 4 ⟨1, 0, 0, true, false⟩)] }
theorem witness_VectorOperands_full : fullQueue.dk.guard (hd .v) ≠ 0 ∧ fullQueue.dk.takeAll [320, 0] = .inr ([⟨7, 8⟩, ⟨0, 0⟩], { fullQueue.dk with oq := [] }) ∧
    (⟨339, 320, 0, 0, 0⟩ : VRR).d = 336 + 3 ∧ 3 < 4 ∧ 4 + fullQueue.issue.freeing.count 3 ≤ (mget [] ({ fullQueue.dk with oq := [] } : Deck).rq 3).length := by decide +kernel
/-- v1, v2, v3 have the tags given. -/
def tagged (a b c : Tag) : State := onDeck { Deck.reset with v := [(1, ⟨0, a⟩), (2, ⟨0, b⟩), (3, ⟨0, c⟩)] }
theorem witness_VectorOperands_tags :
    (tagged 3 0 0).Ready (hd .v) [1, 2] 319 [⟨0, 3⟩, ⟨0, 0⟩] (tagged 3 0 0).dk ∧ tagA 3 = false ∧ tagA 0 = true ∧
    (tagged 0 8 0).Ready (hd .v) [1, 2] 319 [⟨0, 0⟩, ⟨0, 8⟩] (tagged 0 8 0).dk ∧ (0 : Tag) ≠ 8 :=
  ⟨⟨by decide +kernel, by decide +kernel, fun q e => by cases e⟩, by decide, by decide, ⟨by decide +kernel, by decide +kernel, fun q e => by cases e⟩, by decide⟩
theorem witness_VectorArithmetic :
    (tagged 8 8 8).Ready (hd .v) [1, 2] 319 [⟨0, 8⟩, ⟨0, 8⟩] (tagged 8 8 8).dk ∧ (tagged 8 8 8).Ready (hd .v) [1] 319 [⟨0, 8⟩] (tagged 8 8 8).dk ∧
    (tagged 0 0 0).Ready (hd .v) [1, 2, 3] 3 [⟨0, 0⟩, ⟨0, 0⟩, ⟨0, 0⟩] (tagged 0 0 0).dk ∧ (tagged 8 8 8).Ready (hd .v) [1, 2, 3] 3 [⟨0, 8⟩, ⟨0, 8⟩, ⟨0, 8⟩] (tagged 8 8 8).dk ∧
    (tagged 0x0A 0x0B 8).Ready (hd .v) [1, 2, 3] 3 [⟨0, 0x0A⟩, ⟨0, 0x0B⟩, ⟨0, 8⟩] (tagged 0x0A 0x0B 8).dk ∧ tagA 8 = true ∧ isNTag 8 = true ∧ isFTag 0 = true :=
  ⟨⟨by decide +kernel, by decide +kernel, fun q e => by cases e⟩, ⟨by decide +kernel, by decide +kernel, fun q e => by cases e⟩,
    ⟨by decide +kernel, by decide +kernel, fun q e => by cases e⟩, ⟨by decide +kernel, by decide +kernel, fun q e => by cases e⟩,
    ⟨by decide +kernel, by decide +kernel, fun q e => by cases e⟩, by decide, by decide, by decide⟩
theorem witness_VectorMoves :
    (tagged 12 8 0).Ready (hd .v) [1] 319 [⟨0, 12⟩] (tagged 12 8 0).dk ∧ isF 12 = true ∧ tagA 0 = true ∧ (12 : Tag) ≠ 4 ∧ (12 : Tag) ≠ 6 ∧
    (tagged 8 8 0).Ready (hd .v) [1, 2] 319 [⟨0, 8⟩, ⟨0, 8⟩] (tagged 8 8 0).dk ∧ State.reset.Ready (hd .v) [] 319 [] State.reset.dk ∧
    State.reset.waitsLds [(1 : BitVec 9).setWidth 6] = false ∧ (State.reset.dk.guard (off .v)).getLsbD 127 = false ∧
    (State.reset.dk.guard (hd .v)).getLsbD 127 = true ∧ (tagged 12 8 0).dk.takeAll [1] = .inr ([⟨0, 12⟩], (tagged 12 8 0).dk) :=
  ⟨⟨by decide +kernel, by decide +kernel, fun q e => by cases e⟩, by decide, by decide, by decide, by decide,
    ⟨by decide +kernel, by decide +kernel, fun q e => by cases e⟩, ⟨by decide +kernel, by decide +kernel, fun q e => by cases e⟩,
    by decide, by decide, by decide, by decide +kernel⟩
theorem witness_VectorComparesAndShifts : State.reset.dk.guard (hd .v) ≠ 0 ∧ (tagged 9 9 0).dk.takeAll [1, 2] = .inr ([⟨0, 9⟩, ⟨0, 9⟩], (tagged 9 9 0).dk) ∧
    tagA 9 = true ∧ isNTag 9 = true ∧ isFTag 0 = true ∧ laneOf 0 127 = 127 ∧ Val.isNaN (decIEEE (ffmtOf 0) 0x7FC00000) = true ∧
    (tagged 9 9 0).Ready (hd .v) [1, 2] 319 [⟨0, 9⟩, ⟨0, 9⟩] (tagged 9 9 0).dk ∧ (tagged 9 9 0).Ready (hd .v) [1] 319 [⟨0, 9⟩] (tagged 9 9 0).dk ∧
    (0 : BitVec 4).getLsbD 0 = false ∧ (1 : BitVec 4).getLsbD 0 = true :=
  ⟨by decide, by decide +kernel, by decide, by decide, by decide, by decide, by decide, ⟨by decide +kernel, by decide +kernel, fun q e => by cases e⟩,
    ⟨by decide +kernel, by decide +kernel, fun q e => by cases e⟩, by decide, by decide⟩
theorem witness_VectorReductionsAndConversions :
    (tagged 8 0 0).Ready (hd .v) [1] 319 [⟨0, 8⟩] (tagged 8 0 0).dk ∧ (tagged 0 0 0).Ready (hd .v) [1] 319 [⟨0, 0⟩] (tagged 0 0 0).dk ∧ tagA 8 = true ∧ isNTag 8 = true ∧
    isF 8 = true ∧ (8 : Nat) ≠ 0x0C ∧ bits 0x0B 5 3 ≠ 4 ∧ bits State.reset.dk.fmode.toNat 5 3 ≠ 4 ∧ 8 ≠ 0x0B ∧
    (tagged 8 0 0).dk.takeAll [1] = .inr ([⟨0, 8⟩], (tagged 8 0 0).dk) ∧ addrOf (State.reset.x (xField 1) + State.reset.x (xField 2)) = .store 0 ∧
    State.reset.frameBarred (0 / 16384) = false ∧ (State.reset.ck.tile (0 / 16384)).published = false ∧ State.reset.waitsLds [(1 : BitVec 9).setWidth 6, (2 : BitVec 9).setWidth 6] = false ∧
    (onDeck queued).dk.takeAll [344 + 0] = .inr ([⟨7, 8⟩], queued) ∧ State.reset.Runs (hd .x) [] :=
  ⟨⟨by decide +kernel, by decide +kernel, fun q e => by cases e⟩, ⟨by decide +kernel, by decide +kernel, fun q e => by cases e⟩, by decide, by decide, by decide,
    by decide, by decide, by decide, by decide, by decide +kernel, by decide, by decide, by decide, by decide, by decide +kernel, by decide⟩

/-- Deck 0 holds the array lease of core 0, with a chain of c commands of a kind open. -/
def leased (c : Option Chain) (x : Map Word) : State := onCore { Deck.reset with sup := true, chain := c, x := x } { Core.reset with leaseHolder := some 0 }
theorem witness_MatrixCommands : (leased none []).Granted (hd .x) [] 0 ∧ (leased none []).dk.chain = none ∧ (leased (some ⟨0, none⟩) []).Granted (hd .x) [] 0 ∧
    (leased (some ⟨0, none⟩) []).dk.chain ≠ none ∧ (leased none []).ck.leaseReq = [] ∧
    (onCore Deck.reset { Core.reset with leaseHolder := some 0, leaseReq := [3] }).ck.leaseReq ≠ [] ∧ State.reset.Runs (hd .x) [] ∧
    State.reset.ck.leaseHolder ≠ some (State.reset.dn % 4) ∧ State.reset.dn % 4 ∉ State.reset.ck.leaseReq ∧ State.reset.Runs (hd .x) [1] := by decide
/-- x1 names an accumulator row or a store row, x2 a count, x3 is free. -/
def operated (kind : Option Bool) (a n d : Word) : State := leased (some ⟨255, kind⟩) [(1, a), (2, n), (3, d)]
theorem witness_MatrixCommands_mclr : (operated none 224 32 0).Granted (hd .x) [1, 2] (operated none 224 32 0).ck.gantryFree ∧
    (operated none 224 32 0).dk.chain = some ⟨255, none⟩ ∧ 0 < bits ((operated none 224 32 0).x 2).toNat 0 32 ∧ bits ((operated none 224 32 0).x 2).toNat 0 32 ≤ 32 ∧
    bits ((operated none 224 32 0).x 1).toNat 0 10 + 32 ≤ 49152 / kindCols (bits 0 0 2) := by decide
theorem witness_MatrixCommands_mldb : (operated none 0x3FE8000 0 192).Granted (hd .x) [3, 1, 2] (operated none 0x3FE8000 0 192).ck.loadFree ∧
    (operated none 0x3FE8000 0 192).slotRead 0 15 = false ∧ bits ((operated none 0x3FE8000 0 192).x 3).toNat 0 32 ≤ modeCols 3 ∧
    addrOf ((operated none 0x3FE8000 0 192).x 1) = .store 0x3FE8000 ∧ 0x3FE8000 / 512 + loadRows 3 192 ≤ 131072 ∧ (operated none 0x3FE8000 0 192).dk.sup = true := by decide
theorem witness_MatrixCommands_mma : (operated none 0x3FF0000 32 224).Granted (hd .x) [3, 1, 2] (operated none 0x3FF0000 32 224).ck.gantryFree ∧
    (operated none 0x3FF0000 32 224).slotLoads 0 0 = false ∧ isTapered ((operated none 0x3FF0000 32 224).ck.slot 0).mode = true ∧
    bits ((operated none 0x3FF0000 32 224).x 3).toNat 0 10 + 32 ≤ 49152 / modeCols ((operated none 0x3FF0000 32 224).ck.slot 0).mode ∧
    addrOf ((operated none 0x3FF0000 32 224).x 1) = .store 0x3FF0000 ∧ 0x3FF0000 / 512 + 128 ≤ 131072 := by decide
theorem witness_MatrixCommands_mrd : (operated none 224 32 288).Granted (hd .x) [3, 1, 2] (operated none 224 32 288).ck.readFree ∧ bits 0x0800 11 1 = 1 ∧
    bits 0x0800 12 1 = 0 ∧ bits 0x0800 13 2 ≠ 2 ∧ (operated none 224 32 288).ck.spoiled 0 (kindCols (bits 0x0800 13 2)) 224 32 = false ∧
    bits ((operated none 224 32 288).x 1).toNat 0 10 + 32 ≤ 49152 / kindCols (bits 0x0800 13 2) ∧ bits ((operated none 224 32 288).x 3).toNat 0 9 + 32 ≤ 320 := by decide
/-- A checksum that waits for its second run. -/
def replaying : Core := { Core.reset with replays := [⟨⟨0, none, 1, 0, 0, 0, 0, [], none, none, none, [], 0, ⟨[], [], []⟩, true, 0⟩, 0, [], none, 0⟩] }
theorem witness_MatrixCommands_gate : ({ onCore Deck.reset Core.reset with clock := 4097 }.getCore 0).mayGate 4097 = true ∧
    (replaying.replays.map (·.perf)) = [none] ∧ replaying.clearedSince 1 (0 + 0) (modeCols (replaying.slot 0).mode) = false ∧ State.reset.micro = [] := by decide
theorem witness_AccumulatorCells : (∀ k, k ≤ ([1, -1] : List Int).length → -2 ^ 111 ≤ (([1, -1] : List Int).take k).sum ∧ (([1, -1] : List Int).take k).sum < 2 ^ 111) ∧
    (2 ^ 112 : BitVec 128).getLsbD 112 = true := by decide +kernel
theorem witness_AccumulatorCells_read : ∃ q : ReadOut, q.seqn = false ∧ q.fmt = 0 ∧ q.ms = 0x3F800000 ∧ q.rm = 0 :=
  ⟨{ deck := 0, inst := none, at_ := 0, accRow := 0, width := 192, cb := 0, seqn := false, fmt := 0, rm := 0, ms := 0x3F800000, lfsr := 1, cv := ⟨[], [], []⟩, j := 0,
     toReg := true, dst := 0, tagged := true, num := 0, whole := true }, rfl, rfl, rfl, rfl⟩

theorem witness_TrestleInstructions : State.reset.Runs (hd .x) [] ∧ State.reset.dk.treeFree 0 = true ∧ treeBeyond 2 448 false = some 512 ∧
    treeBeyond 0 0 false = none ∧ treeBeyond 0 0 true = none ∧ State.reset.rqRoomNow 7 = true ∧ State.reset.dk.guard (hd .x) ≠ 0 ∧
    (⟨384, 0, 127, 0, 0⟩ : TRL).t.toNat + (⟨384, 0, 127, 0, 0⟩ : TRL).n.toNat + 1 ≤ 512 ∧ State.reset.dk.takeAll [0] = .inr ([⟨0, 0⟩], State.reset.dk) ∧
    State.reset.Runs (hd .x) [1] ∧ 6 < 7 := by decide +kernel
theorem witness_TrestleInstructions_push : ∀ q, pushOf (⟨384, 339, 127, 0, 0⟩ : TRL).vn.toNat = some q → State.reset.rqRoomNow q = true := by
  intro q e
  have : q = 3 := by simpa [pushOf] using e.symm
  subst this
  decide

/-- Core 0 with block 15: tiles 1 on watched, tiles 2 on computed, one index, both signatures finite; a tile pends and its own are free. -/
def watching : Core :=
  { Core.reset with blocks := [(15, ⟨1, 15 + 1 * 2 ^ 4 + 2 * 2 ^ 16, 0, [(0, ⟨0, 0, true⟩)], [(0, ⟨0, 0, true⟩)], 0, 0⟩)], pendTiles := [⟨15, 0, 0⟩] }
theorem witness_CausewayInstructions : (withX1 15).Runs (hd .x) [1, 0] ∧ (1 : BitVec 15).getLsbD 0 = true ∧ (0 : BitVec 15).getLsbD 0 = false ∧
    bits (4095 * 2 ^ 4 + 4095 * 2 ^ 16) 38 26 = 0 ∧ bits (4095 * 2 ^ 4 + 4095 * 2 ^ 16) 4 12 + bits (4095 * 2 ^ 4 + 4095 * 2 ^ 16) 28 10 + 1 ≤ 4096 ∧
    4096 < bits (4095 * 2 ^ 4 + 1 * 2 ^ 28) 4 12 + bits (4095 * 2 ^ 4 + 1 * 2 ^ 28) 28 10 + 1 ∧ (withX1 15).Runs (hd .x) [1] ∧ mfind (withX1 15).ck.blocks 15 = none ∧
    (mfind watching.blocks 15).isSome = true ∧ watching.busyBlock 0 15 none = true ∧ ({ watching with pendTiles := [] } : Core).busyBlock 0 15 none = false ∧
    watching.service = none ∧ watching.nextService 1 = some ⟨15, 0, 0⟩ := by decide +kernel

/-- A valid row past its warn point and limit at age 0xFFFF. -/
def aged (k : Core) : Core := { k with ticks := 0xFFFF, rows := [(0, ⟨.valid, 0, false⟩)] }
theorem witness_RowLifetimes : ((State.reset.getCore 0).row 0).base ≤ (State.reset.getCore 0).ticks ∧ (State.reset.getCore 0).age 0 < 0xFFFF ∧
    (onCore Deck.reset (aged Core.reset)).pastLimit 0 0 0xFFFF = true ∧
    (onCore Deck.reset { aged Core.reset with tiles := [(0, { Tile.reset with cfg := 0x74 })] }).pastWarn 0 0 ((aged Core.reset).age 0) = true := by
  decide +kernel
theorem witness_RowLifetimes_unit : (let k := { Core.reset with offered := [131071], sensor := 50 }; k.notes = [] ∧ k.offered = [131071] ∧ k.refreshQ.length < 32 ∧ k.band < 7 ∧ 40 + 10 * (k.band + 1) ≤ k.sensor) ∧
    (let k := { Core.reset with refreshQ := List.replicate 32 0, band := 7, sensor := 106 }; k.notes = [] ∧ k.refreshQ.length = 32 ∧ k.nextRefresh 0 = some 0 ∧ 0 < k.band ∧ k.sensor + 3 < 40 + 10 * k.band) ∧
    (let k := { Core.reset with rows := [(0, ⟨.refreshing, 0, false⟩)] }; (k.row 0).st = .refreshing ∧ k.badIn 0 0 7 = false) ∧
    (let s := onCore Deck.reset { Core.reset with ticks := 0xFFFF, rows := [(0, ⟨.queued, 0, false⟩)], tiles := [(0, { Tile.reset with cfg := 0x74 })] }
     ((s.getCore 0).row 0).st = .queued ∧ ((s.getCore 0).row 0).overdue = false ∧ (s.getCore 0).classOf 0 = 7 ∧ s.rowLimit 0 0 ≤ (s.getCore 0).age 0 ∧
       ∀ d, d < 4 → (s.getDeck (4 * 0 + d)).inst = none) ∧
    ({ State.reset with tempPending := [(0, 16)] } : State).tempPending = [(0, 16)] := by decide +kernel

/-- Deck 0 of a superstep gang whose transfer phase opened at clock 0, now at clock c. -/
def inPhase (c : Nat) (d : Deck) : State := { running { Inst.absent with kind := 2, xfer := some ⟨0, 40⟩ } d with clock := c }
theorem witness_FabricTransfers : (inPhase 1 Deck.reset).Passed (hd .a) [] ∧ (inPhase 1 Deck.reset).phaseCycle = some 0 ∧ State.reset.phaseCycle = none ∧
    State.reset.Passed (hd .a) [] ∧ (⟨1, 0, 21, 0, 0⟩ : XFM).kind = 0 ∧ (inPhase 1 Deck.reset).dk.takeAll [21] = .inr ([⟨0, 0⟩], (inPhase 1 Deck.reset).dk) ∧
    ((⟨1, 0, 21, 0, 0⟩ : XFM).cycle.toNat : Int) < 1 ∧ (inPhase 1 Deck.reset).Passed (hd .a) [BitVec.ofNat 6 (72 / 8 % 64)] ∧ addrOf (0x3EFFE00 : Word) = .store 0x3EFFE00 ∧
    (inPhase 1 Deck.reset).frameBarred (0x3EFFE00 / 16384) = false ∧ (0 : Int) + 2 ≤ ((⟨1, 1, 72, 0, 2⟩ : XFM).cycle.toNat : Int) ∧
    (inPhase 1 Deck.reset).HasInst 0 ∧ (inPhase 1 Deck.reset).dk.inst = some 0 := by decide +kernel
theorem witness_FabricTransfers_reduction : (inPhase 1 { Deck.reset with x := [(1, 4095)] }).Passed (hd .a) [1] ∧ ((inPhase 1 { Deck.reset with x := [(1, 4095)] }).x 1).toNat < 4096 ∧
    4096 ≤ ((inPhase 1 { Deck.reset with x := [(1, 4096)] }).x 1).toNat ∧ (8 : Tag) ≠ 0 ∧
    ((running { Inst.absent with contribs := [⟨4095, 0, 0, false⟩] } Deck.reset).getInst 0).contribs = [⟨4095, 0, 0, false⟩] ∧ State.reset.boundGroups 4095 = [] ∧ LineError.sum 0 4095 ∉ State.reset.lineErrors ∧
    (mget [] (State.reset.getDeck 0).rq 6).length < 4 ∧ ((State.reset.getCore (0 / 4)).engine 3).held = [] ∧ (∀ p ∈ State.reset.insts, (State.reset.getInst p.1).bound = []) ∧
    312 ≤ 315 ∧ 315 < 316 := by decide +kernel

/-- A launch of graph 0 with node record 0 of die 0, whose words are in the graph store: word 0 is w0 and the count is 1 or 2. -/
def launched (w0 count : Nat) : State :=
  { State.reset with launches := [⟨0, [], [0], [], [], []⟩], mem := Memory.write (Memory.write [] (2 ^ 34) 8 w0) (2 ^ 34 + 8) 8 (count * 2 ^ 48) }
theorem witness_NodesAndSets : (∀ l ∈ ({ State.reset with launchQ := [(0, [])] } : State).launches, l.graph ≠ 0) ∧ (launched 0 2).launchOf 0 = some ⟨0, [], [0], [], [], []⟩ ∧
    (launched 0 2).unacked = [] ∧ (launched 0 2).nodeState 0 = 0 ∧ isTemplate ((launched 0 2).nodeWords 0) = false ∧ 0 ∉ (⟨0, [], [0], [], [], []⟩ : Launch).skips ∧
    1 < (launched 0 2).nodeCount 0 ∧ (launched 0 1).nodeCount 0 = 1 := by decide +kernel
/-- A loop node, kind 4, in state 1, without body nodes, whose predicate lies at address 0 of a translated page. -/
def looping (pred iters : Nat) : State :=
  { State.reset with launches := [⟨0, [], [0], [], [], []⟩], trans := [⟨0, 0, false, 0, false, none⟩],
                     mem := Memory.write (Memory.write (Memory.write (Memory.write [] (2 ^ 34) 8 (4 * 2 ^ 61)) (2 ^ 34 + 8) 8 (2 ^ 46 + iters * 2 ^ 30)) (2 ^ 34 + 24) 8 5) (2 ^ 41) 8 pred }
theorem witness_NodesAndSets_loop : ((looping 1 4).launchOf 0).isSome = true ∧ (looping 1 4).nodeState 0 = 1 ∧ nodeKind ((looping 1 4).nodeWords 0) = 4 ∧
    (∀ b ∈ listed ((looping 1 4).nodeWords 0), 2 ≤ (looping 1 4).nodeState b) ∧ (looping 1 4).reachable ((looping 1 4).nodeCtx 0) 0 8 = true ∧
    (looping 1 4).readCommitted 0 0 8 ≠ 0 ∧ (looping 1 4).nodeIters 0 < field ((looping 1 4).nodeWords 0) 3 0 16 ∧
    field ((looping 1 5).nodeWords 0) 3 0 16 ≤ (looping 1 5).nodeIters 0 ∧ (looping 0 0).readCommitted 0 0 8 = 0 := by decide +kernel
theorem witness_NodesAndSets_commit :
    (∀ q ∈ [none, some 0], (running { Inst.absent with st := .retired, decks := [], spawnSet := q } Deck.reset).nodeCommits ({ Inst.absent with spawnSet := q } : Inst).shadowNode = true) ∧
    bits (({ Inst.absent with st := .retired } : Inst).words.getD 20 0).toNat 0 57 = 0 := by decide +kernel
/-- A set for queue 0 in flight; its descriptor is live with room for one set in its ring, or dead. -/
def sending (live : Bool) : State :=
  { State.reset with flying := [⟨0, 0, 0, 0, none, 0, [], 0, 0, false, 0, 0, 0⟩], trans := [⟨0, 0, false, 0, false, none⟩],
                     mem := if live then [(2 ^ 41 + 5, 0x10), (2 ^ 41 + 16, 1)] else [] }
theorem witness_NodesAndSets_sets : (sending true).reachable 0 ((sending true).queueAddr 0 0) 32 = true ∧ (sending true).queueLive 0 0 0 = true ∧
    (sending false).queueLive 0 0 0 = false ∧ (sending false).reachable 0 ((sending false).queueAddr 0 0) 32 = true ∧ 0 ∉ ((sending true).getDie 0).resident ∧
    0 ∈ ({ Die.reset with resident := [0] } : Die).resident ∧ (sending true).ringRoom 0 ⟨0, 0, 0, 0, none, 0, [], 0, 0, false, 0, 0, 0⟩ = true ∧
    Die.reset.resident.length < 4096 ∧ State.reset.unacked = [] ∧ State.reset.launches = [] := by decide +kernel
theorem witness_NodesAndSets_cancel : (let x := { Inst.absent with groups := [8191], st := .running, decks := [0] }
    let s := { State.reset with insts := [(0, x)] }
    s.unacked = [] ∧ s.launches = [] ∧ s.insts = [(0, x)] ∧ x.die = 0 ∧ 8191 ∈ x.groups ∧ x.st = .running ∧ x.stopAt = none) := by decide

/-- A solo instance ready for deck 383 of core 95, which is in Run. -/
def selectable : Inst := { Inst.absent with st := .ready, words := (List.replicate 32 (0 : Word)).set 3 (2 ^ 35 + 2 ^ 31) }
def selecting : State := { State.reset with insts := [(0, selectable)], cores := [(95, { Core.reset with power := ⟨0, 0, false⟩ })] }
theorem witness_InstancesOnDecks : selecting.insts = [(0, selectable)] ∧ selectable.die = 0 ∧ selectable.st = .ready ∧ selectable.stopAt = none ∧ selectable.doomed = false ∧
    selectable.due = false ∧ (selecting.places selectable).find? (selecting.mayPlace 0 selectable) = some [383] ∧ [383].Nodup := by decide +kernel
theorem witness_InstancesOnDecks_dispatch : (let s := { State.reset with insts := [(0, { Inst.absent with st := .preparing, prepared := true, decks := [383], saved := [] })] }
    (s.getInst 0).st = .preparing ∧ (s.getInst 0).prepared = true) := by decide
theorem witness_InstancesOnDecks_aging : (let s := { selecting with clock := 2500000 }
    s.clock < 1 + (s.getDie 0).rbcfg.toNat * 2500 ∧ selectable.waitFrom + (s.getDie 0).rbcfg.toNat * 2500 ≤ s.clock ∧ selectable.level = 0 ∧
      ({ selectable with level := 3 } : Inst).level ≠ 0) := by decide
/-- Instance 0 on deck 0 as given. -/
theorem witness_InstancesOnDecks_save : (running { Inst.absent with st := .saving, decks := [0] } Deck.reset).saveReady 0 = true := by decide
theorem witness_InstancesOnDecks_boundary :
    (let s := running { Inst.absent with st := .running, decks := [0], preemptFor := some 1 } { Deck.reset with halted := false, boundary := true }
     (s.getInst 0).st = .running ∧ (s.getInst 0).preemptFor.isSome = true ∧ (s.getInst 0).doomed = false ∧ (s.getInst 0).stopAt = none ∧ s.boundaryFree 0 = true) := by decide
theorem witness_InstancesOnDecks_rest :
    (let s := running { Inst.absent with st := .preempted, budget := some 1 } Deck.reset
     (s.getInst 0).st = .preempted ∧ (s.getInst 0).budget.isSome = true ∧ ∀ p ∈ s.spillRows (s.getInst 0), (s.getCore p.1).badIn p.2 0 7 = false) ∧
    (running { Inst.absent with st := .preempted, stopAt := some 0 } Deck.reset).stopDue 0 = true ∧
    (let s := running { Inst.absent with st := .running, decks := [0], iterMax := 1 } { Deck.reset with halted := false, timer := 5000 }
     0 ∈ (s.getInst 0).decks ∧ (s.getDeck 0).inst = some 0 ∧ (s.getDeck 0).halted = false ∧ 2 * (s.getInst 0).iterMax * 2500 ≤ (s.getDeck 0).timer ∧
       (s.getInst 0).stopAt = none ∧ (s.getInst 0).rollbacks < 3) := by decide

theorem witness_HostAndPower : bits (64 : Word).toNat 0 7 ≤ 64 ∧ (∀ l ∈ State.reset.launches, l.graph ≠ 255) ∧ (∀ q ∈ State.reset.launchQ, q.1 ≠ 255) ∧
    (let s := { State.reset with launches := [⟨0, [], [], [], [], []⟩], launchQ := List.replicate 7 (0, []) }; (∃ l ∈ s.launches, l.graph = 0) ∧ s.launchQ.length < 8) ∧
    (let s := { State.reset with launches := [⟨0, [], [], [], [], []⟩], launchQ := List.replicate 8 (0, []) }; (∃ l ∈ s.launches, l.graph = 0) ∧ 8 ≤ s.launchQ.length) ∧
    bits (State.reset.getDie 11).select.toNat 31 1 = 0 ∧ bits ({ Die.reset with select := 0x80000000 } : Die).select.toNat 31 1 = 1 ∧ 11 < 12 ∧ 31 < 32 ∧
    State.reset.uploaded = false ∧ bits 4096 0 13 = 2 ^ 12 ∧ bits (0 % 2 ^ 30) 0 13 ≠ 2 ^ 12 := by decide
theorem witness_HostAndPower_cores : (∃ c ∈ selecting.cores, c.2.power.cur = 0) ∧ (∀ c ∈ State.reset.cores, c.2.power.cur ≠ 0) ∧ 61 < 64 ∧ 61 % 8 < 6 ∧ 127 < 128 ∧ 95 < 96 ∧
    (State.reset.getDie (95 / 8)).power.cur = 0 ∧ (State.reset.getDie (95 / 8)).tripped = false ∧
    ¬(({ State.reset with dies := [(11, { Die.reset with tripped := true })] } : State).getDie (95 / 8)).tripped = false ∧ (State.reset.getCore 95).power.cur = 2 := by decide
theorem witness_HostAndPower_changes : (∀ r ∈ [1, 2], (({ State.reset with cores := [(95, { Core.reset with power := ⟨0, r, false⟩ })] } : State).getCore 95).power = ⟨0, r, false⟩) ∧
    State.reset.coreIdle 95 = true ∧ (({ State.reset with dies := [(11, { Die.reset with power := ⟨0, 1, false⟩ })] } : State).getDie 11).power = ⟨0, 1, false⟩ ∧
    (∀ c, c < 8 → (State.reset.getCore (8 * 11 + c)).power.cur ≠ 0) ∧ ({ State.reset with starting := [95] } : State).starting = 95 :: [] ∧ State.reset.nextStart ≤ State.reset.clock := by decide
theorem witness_HostAndPower_on : ∃ d, d < 12 ∧ (State.reset.getDie d).power.cur ≠ 2 := ⟨11, by decide⟩
theorem witness_HostAndPower_off : (let s := { State.reset with dies := (List.range 12).map fun d => (d, { Die.reset with power := ⟨2, 2, false⟩ }) }
    ∀ d, d < 12 → (s.getDie d).power.cur = 2) := by decide
theorem witness_HostAndPower_translations : (let s := { State.reset with atsReq := [(255, 7)] }; s.atsReq = [(255, 7)] ∧ s.extWait = [] ∧ s.cores = []) ∧
    (let s := { State.reset with pageReq := [(255, 7, none)] }; s.pageReq = [(255, 7, none)] ∧ s.extWait = []) ∧
    (let s := { State.reset with invals := [⟨3, 0, 0, 65536, 0, [(0, 1)]⟩], clock := 250000 }; s.invals = [⟨3, 0, 0, 65536, 0, [(0, 1)]⟩] ∧
      0 + (s.getInst 0).invalUs * 2500 ≤ s.clock) ∧ (⟨3, 0, 0, 65536, 0, []⟩ : Inval).waiting = [] := by decide

theorem witness_ErrorsAndTrips : (State.reset.getDeck (4 * 95 + 3 % 4)).inst = none ∧
    (let s := running { Inst.absent with st := .running, decks := [0] } { Deck.reset with halted := false }
     (s.getDeck (4 * 0 + 0 % 4)).inst = some 0 ∧ (s.getInst 0).st = .running ∧ (s.getInst 0).decks = [4 * 0 + 0 % 4] ∧ (s.getDeck (4 * 0 + 0 % 4)).halted = false ∧
       (s.getDeck 0).sup = false ∧ (s.getDeck 0).trapWait = none) ∧
    (let s := { onDeck { Deck.reset with halted := false, checkedAt := some 0 } with clock := 2048 }
     (s.getDeck 0).checkedAt = some 0 ∧ (s.getDeck 0).halted = false ∧ 0 + 2048 ≤ s.clock) ∧ (State.reset.getDie (23 / 2)).power.cur = 0 ∧
    (∀ g ∈ State.reset.hbm.badGran, g / 8 ≠ 0) ∧ State.reset.hbm.lostBlock 0 = false ∧ (∀ g ∈ State.reset.hbm.weak, State.reset.hbm.reads 0 512 g = false) ∧
    (∃ g ∈ ({ Hbm.reset with weak := [7], scrubs := [0] } : Hbm).weak, ({ Hbm.reset with weak := [7], scrubs := [0] } : Hbm).reads 0 512 g = true) ∧ 0 ∉ Hbm.reset.scrubs ∧ State.reset.stackPaused 23 = false ∧ mget 0 State.reset.hbm.pause 767 ≤ State.reset.clock ∧ 0 ∉ State.reset.linksDown := by decide
theorem witness_ErrorsAndTrips_pins : (let s := { State.reset with hbm := { Hbm.reset with pause := [(0, 1)] } }; s.stackPaused 0 = true) ∧
    (95 < 96 ∧ 83 ≤ 83 ∧ 85 < 86 ∧ 93 ≤ 93 ∧ 83 < 85 ∧ 85 ≤ 85 ∧ 93 < 95 ∧ 95 ≤ 95) ∧ 11 < 12 ∧ 125 ≤ 125 ∧ (∀ c, c < 8 → State.reset.instsOn (8 * 11 + c) = []) ∧ 114 < 115 ∧ 115 ≤ 115 := by decide
/-- The model fixes no number of redundant lanes: one of the two cases of a repair holds. -/
theorem witness_ErrorsAndTrips_lanes : ∃ n, mget 0 ({ Hbm.reset with lanesUsed := [(0, n)] } : Hbm).lanesUsed 0 = Config.redundantLanes := ⟨_, rfl⟩
theorem witness_ErrorsAndTrips_messages :
    (let s := { running { Inst.absent with st := .running, decks := [0] } { Deck.reset with halted := false } with signals := [⟨0, 95, 63, [], 0⟩], clock := 65536 }
     95 ∈ s.lateAcks 0 ∧ (s.getInst 0).st = .running ∧ (s.getInst 0).decks = [0] ∧ (s.getDeck 0).halted = false ∧ 94 ∉ s.lateAcks 0) ∧
    ({ State.reset with unacked := [⟨0, .ageTick 0, 0, 0, 1⟩] } : State).unacked = [⟨0, .ageTick 0, 0, 0, 1⟩] := by decide

/-! ### Witnesses: the clauses on the fabric, the stacks and the saves -/

theorem witness_StepRunsDecoded_flight : ∃ t, exec (.addi (hd .a) ⟨7, 7, 16⟩) (fetched.beginBundle 0 none (fetched.getDeck 0).pcE none) = .next t ∧
    fetched.inFlight 0 < t.inFlight 0 ∧ t.inFlight 0 ≤ 128 := ⟨_, rfl, by decide⟩
/-- Die 11 is Off. -/
def dieOff : State := { State.reset with dies := [(11, { Die.reset with power := ⟨2, 1, false⟩ })], agenda := [(0, .agingTick 11)] }
theorem witness_StepRunsDecoded_asleep : dieOff.agenda = (0, .agingTick 11) :: [] ∧ 0 ≤ dieOff.clock ∧ dieOff.phase ≠ .issue ∧
    ({ dieOff with agenda := [] } : State).asleep (.agingTick 11) = true ∧ ({ dieOff with agenda := [] } : State).asleep (.agingTick 10) = false := by decide
theorem witness_Loops_stacks : State.reset.dk.loopsA = State.reset.dk.loopsE ∧ State.reset.dk.fork = false ∧ State.reset.Acts (hd .s) [63] := by decide
theorem witness_ForkJoinSyncHalt_join : (onDeck forked).bothHere = true ∧
    (onDeck forked).storesPending ((onDeck forked).earlierStores true ++ (onDeck forked).earlierStores false) = false ∧ (onDeck forked).dk.loopsA = (onDeck forked).dk.loopsE ∧
    (let s := onDeck { forked with loopsA := [⟨0, 1, 2⟩] }
     s.bothHere = true ∧ s.dk.loopsA ≠ s.dk.loopsE) ∧
    (let s := { storing with decks := [(0, forked)] }
     s.Runs (hd .s) [] ∧ s.dk.fork = true ∧ s.bothHere = true ∧ s.storesPending (s.earlierStores true ++ s.earlierStores false) = true) := by decide
theorem witness_Spawning_staging : (spawning 3).stagedOn ((spawning 3).cn / 8) < Config.stagingSets ∧ bits ((spawning 0).x 1).toNat 0 13 = 0 ∧ (spawning 0).inst.groups = [] ∧
    (spawning 0).Runs (hd .s) [1, 0, 2] := by decide
theorem witness_ScalarLoads_quiet : (sampling.getCore 0).hist = [] := by decide
theorem witness_QueueLoads_remote : (let s := withX1 (2 ^ 62 + 95 * 2 ^ 32 + 0x3EFF000)
    s.MayRecord (hd .a) [1, 0] ∧ addrOf (s.x 1 + s.x 0) = .remote 95 0x3EFF000 ∧ 95 ≠ s.cn ∧ 0x3EFF000 / 512 + 8 ≤ 131072 ∧
      s.frameBarred ((0x3EFF000 / 512 + 8 - 1) / 32) = false ∧ s.frameBarred ((0x3F00000 / 512 + 8 - 1) / 32) = true) := by decide +kernel
/-- A command word w with one row, and one with an extent that deck 0's instance has not. -/
def worded (w : Word) : State := running Inst.absent { Deck.reset with x := [(1, w), (2, 1)] }
theorem witness_EngineCommands_bad : (let s := worded (40 * 2 ^ 32 + 2 ^ 54)
    let c := s.newCmd (hd .a) (s.x 1) (s.x 2)
    s.Passed (hd .a) [1, 2] ∧ c.count ≠ 0 ∧ s.ck.engineFull 0 = false ∧ c.job 0 s.ck = .copy 1280 0 ∧ c.badField 0 (c.job 0 s.ck) = true) ∧
    (let s := worded (2 ^ 44 + 4080 * 2 ^ 32)
     let c := s.newCmd (hd .a) (s.x 1) (s.x 2)
     c.user = true ∧ (c.job 0 s.ck).namesFrame s.cn (c.rows 0 - 1) = true) ∧
    (let s := worded (1 * 2 ^ 44 + 40 * 2 ^ 32)
     let c := s.newCmd (hd .a) (s.x 1) (s.x 2)
     c.count ≠ 0 ∧ c.badField 0 (c.job 0 s.ck) = false ∧ (c.job 0 s.ck).namesFrame s.cn (c.rows 0 - 1) = false ∧ (s.badExtent (c.job 0 s.ck) c.count).isSome = true) := by
  decide +kernel
theorem witness_EngineEvents_take : copying.rowUnderWay 0 0 0 = false ∧ (copying.getCore 0).power.cur = 0 ∧ remoteCopy.launched = [0] ∧ remoteCopy.todo = [] ∧
    remoteCopy.cmd.way = none ∧ remoteCopy.cmd.touchesExtent = false ∧ copying.micro = [] ∧ 510 < 511 ∧
    (⟨0, 1, 0, false, 0, 0, .engWrite 0 0 0 1280 (some 1) (some 8)⟩ : Micro).act = .engWrite 0 0 0 1280 (some 1) (some 8) := by decide +kernel
/-- Lane 127 alone is enabled. -/
def lastLane : State := onDeck { Deck.reset with p := [(1, 2 ^ 127)] }
theorem witness_TrestleInstructions_lanes : lastLane.dk.guard ⟨.x, 0xF0, 1, 0, 0⟩ &&& BitVec.ofNat 128 (2 ^ (126 + 1) - 1) = 0 ∧
    lastLane.dk.guard ⟨.x, 0xF0, 1, 0, 0⟩ &&& BitVec.ofNat 128 (2 ^ (127 + 1) - 1) ≠ 0 := by decide +kernel
theorem witness_RowLifetimes_cooler : (let k := { Core.reset with band := 7, sensor := 107 }; 0 < k.band ∧ k.sensor + 3 ≤ 40 + 10 * k.band) := by decide

/-- The result of slot 4095 waits for a partial of device 3 of group 0; deck 0 asked for it. -/
def bound : State := { running { Inst.absent with bound := [⟨4095, [0], [], some 0, [(0, 3)]⟩] } Deck.reset with peers := [] }
theorem witness_FabricTransfers_peers : (∀ p ∈ bound.insts, ∀ b ∈ p.2.bound, (0, 2) ∉ b.missing) ∧
    bound.insts = [(0, { Inst.absent with bound := [⟨4095, [0], [], some 0, [(0, 3)]⟩] })] ∧ (mget [] (bound.getDeck 0).rq 6).length < 4 ∧
    ((bound.getCore (0 / 4)).engine 3).held = [] := by decide
/-- A packet at router 0 for output 2, and one that has a hop left; a phase of instance 0 holds output 2 of router 0. -/
def packet (rest : List (Nat × Nat × Nat)) : Packet := ⟨0, (0, 2, 5) :: rest, 0, 0, 0, 100, .ageTick 0, false⟩
theorem witness_FabricTransfers_packets : (packet []).left = (0, 2, 5) :: [] ∧ (packet [(1, 16, 10)]).left = (0, 2, 5) :: [(1, 16, 10)] ∧ State.reset.clock < (packet []).stop ∧
    (packet []).at_ ≤ State.reset.clock ∧ State.reset.outputHeld 0 2 = false := by decide
theorem witness_FabricTransfers_held : (let s := { inPhase 3 Deck.reset with
      insts := [(0, { Inst.absent with kind := 2, xfer := some ⟨0, 40⟩, decks := [0, 1, 2, 3] })], cores := [(0, { Core.reset with sched := [⟨portRouter 0 0, 0, 1, 1, 0⟩] })] }
    s.outputHeld (portRouter 0 0) 0 = true) := by decide +kernel
theorem witness_FabricTransfers_inbound : (let s := { State.reset with inbound := [.put 95 131071 1 8], cores := [(95, { Core.reset with tiles := [(4095, { Tile.reset with receivable := true })] })] }
    ((s.getCore 95).tile (131071 / 32)).receivable = true) ∧ ((State.reset.getCore 95).tile (131071 / 32)).receivable = false ∧
    ({ State.reset with inbound := [.signal 95 63] } : State).micro = [] := by decide

theorem witness_NodesAndSets_zero : (launched 0 0).nodeCount 0 = 0 := by decide +kernel
/-- A set of queue 0 whose ring has n places, and the memory behind it. -/
def ringed (n : Nat) (d : Die) : State := { sending true with dies := [(0, d)], mem := if n = 0 then [(2 ^ 41 + 5, 0x10)] else [(2 ^ 41 + 5, 0x10), (2 ^ 41 + 16, BitVec.ofNat 8 n)] }
def set0 : SpawnSet := ⟨0, 0, 0, 0, none, 0, [], 0, 0, false, 0, 0, 0⟩
theorem witness_NodesAndSets_rings : ((sending true).getDie 0).heldSets = [] ∧ (sending true).reachable 0 ((sending true).nextRing 0 set0) 32 = true ∧
    (let s := ringed 1 { Die.reset with heldSets := [set0] }
     (s.getDie 0).heldSets = [set0] ∧ s.ringRoom 0 set0 = true ∧ s.reachable 0 (s.nextRing 0 set0) 32 = true) ∧
    (ringed 0 { Die.reset with heldSets := [set0] }).ringRoom 0 set0 = false ∧
    (let s := ringed 1 { Die.reset with rings := [set0] }
     (s.getDie 0).rings = [set0] ∧ (s.getDie 0).resident.length < 4096 ∧ s.reachable 0 (s.queueAddr 0 0) 32 = true ∧
       s.reachable 0 (s.ringAddr 0 (s.queueAddr 0 0) set0.slot) 32 = true) := by decide +kernel

theorem witness_InstancesOnDecks_code : ∀ n ∈ [383], selecting.holdsCode selectable (n / 4) = true := by decide +kernel
/-- Deck 0 of instance 0 without live vector registers, at rest in its save slot; four pages hold the slot. -/
def savable (x : Inst) : State :=
  { running x { Deck.reset with halted := false, boundary := true, vlive := 0 } with
    trans := [⟨0, 0, false, 0, false, none⟩, ⟨0, 1, false, 65536, false, none⟩, ⟨0, 2, false, 131072, false, none⟩, ⟨0, 3, false, 196608, false, none⟩] }
theorem witness_InstancesOnDecks_slot :
    (let s := savable { Inst.absent with st := .saving, decks := [0] }
     let x := s.getInst 0
     x.st = .saving ∧ s.saveReady 0 = true ∧ s.savedDecks 0 x = [0] ∧ s.rangeReady x.ctx (s.imageAddr x 0) (s.imageBytes x (s.saveDeck x 0).2) = true ∧
       s.rangeBad x.ctx (s.imageAddr x 0) (s.imageBytes x (s.saveDeck x 0).2) = none) := by decide +kernel
/-- What is kept of deck 0 beside its image. -/
def kept : Saved := ⟨0, 0x2300, false, none, 0, [], [], [], [], [], []⟩
theorem witness_InstancesOnDecks_resume :
    (let s := savable { Inst.absent with st := .preparing, decks := [0], slot := some 0, saved := [kept] }
     let x := s.getInst 0
     x.st = .preparing ∧ x.saved = [kept] ∧ x.spills = [] ∧ x.spilled = [] ∧ s.copiesAhead 0 x = false ∧
       s.rangeReady x.ctx (s.imageAddr x kept.deck) (s.imageBytes x kept) = true) ∧
    (0, 131071, 3) ∈ ({ Inst.absent with spilled := [(0, 131071, 3)] } : Inst).spilled := by decide +kernel
theorem witness_InstancesOnDecks_copies : (running { Inst.absent with st := .preempted, stopAt := some 0 } Deck.reset).stopDue 0 = true ∧
    (Inst.absent).copies = [] := by decide

theorem witness_HostAndPower_stacks : (dieOff.getDie 11).power = ⟨2, 1, false⟩ ∧ 1 < 2 ∧ (∀ c, c < 8 → (dieOff.getCore (8 * 11 + c)).power.cur ≠ 0) ∧
    ({ State.reset with hbm := { Hbm.reset with starting := [23], nextStack := 0 } } : State).hbm.starting = 23 :: [] ∧
    (let s := { State.reset with hbm := { Hbm.reset with starting := [23], nextStack := 1 } }; s.clock < s.hbm.nextStack) := by decide
/-- Bring-up: every die is Off and turns Active at clock 0; the device is ready at clock r. -/
def booting (r : Nat) : State :=
  { State.reset with boot := some ⟨List.replicate 12 0, r⟩, ready := false, dies := (List.range 12).map fun d => (d, { Die.reset with power := ⟨2, 2, false⟩ }) }
theorem witness_HostAndPower_boot : (booting 0).boot = some ⟨List.replicate 12 0, 0⟩ ∧ 11 < 12 ∧ ((booting 0).getDie 11).power.cur = 2 ∧
    (List.replicate 12 0).getD 11 0 ≤ (booting 0).clock ∧ (⟨List.replicate 12 0, 0⟩ : Boot).readyAt ≤ (booting 0).clock ∧
    (booting 1).clock < (⟨List.replicate 12 0, 1⟩ : Boot).readyAt := by decide
theorem witness_ErrorsAndTrips_resend : State.reset.awaits (.spawnSetArrival 0) = false ∧
    ({ State.reset with unacked := [⟨0, .spawnSetArrival 0, 0, 0, 1⟩] } : State).unacked = [⟨0, .spawnSetArrival 0, 0, 0, 1⟩] := by decide

/-! ### Witnesses: parity, the barred rows, the float clauses, held traffic and the check events -/

theorem witness_StepRunsDecoded_unchecked : (fetched.getDeck 0).parity = [] ∧ (fetched.getDeck 0).par = none := by decide
theorem witness_AccessTraps_loads : (withX1 0x3F00000).MayRecord (hd .a) [1] ∧ addrOf ((withX1 0x3F00000).x 1 + 0) = .store 0x3F00000 ∧ 4032 ≤ 0x3F00000 / 16384 ∧
    (withX1 0x3F00000).dk.sup = false ∧ (withX1 0x3F00000).Passed (hd .a) [1, 2] ∧ Instr.ldsW (hd .a) ⟨2, 1, 0⟩ ∈ [Instr.ldsB (hd .a) ⟨2, 1, 0⟩,
      .ldsH (hd .a) ⟨2, 1, 0⟩, .ldsW (hd .a) ⟨2, 1, 0⟩, .ldsD (hd .a) ⟨2, 1, 0⟩] := by decide
/-- A record like plainRecord whose elements begin in tile 4032. -/
def frameRecord : BitVec 512 := plainRecord + 0x3F00000
def handlingFrame : State := onDeck { Deck.reset with lcache := [(0, ⟨0, frameRecord, true⟩)] }
theorem witness_QueueLoads_barred :
    (let s := withX1 0x3F00000
     s.MayRecord (hd .a) [1, 0] ∧ addrOf (s.x 1 + s.x 0) = .store 0x3F00000 ∧ (mget [] s.dk.oq 7).length + 8 ≤ 8 ∧ s.frameBarred ((0x3F00000 / 512 + 8 - 1) / 32) = true) ∧
    handlingFrame.MayRecord (hd .a) [1, 0] ∧ handlingFrame.dk.handle (handlingFrame.x 1) = some ⟨0, frameRecord, true⟩ ∧ (mget [] handlingFrame.dk.oq 0).length < 8 ∧
    recKind frameRecord = 0 ∧
    (bankWords (tagBits (recFormat frameRecord)) ((ldqtElems frameRecord (handlingFrame.x 0)).filterMap fun x => x.2.1.map fun a => (x.1, a))).any
      (fun k => handlingFrame.frameBarred (k / 128)) = true := by decide +kernel
theorem witness_AccumulatorCells_clear : (BitVec.ofInt 128 (-2) &&& BitVec.ofNat 128 (2 ^ 112 - 1)).getLsbD 112 = false := by decide +kernel
theorem witness_VectorComparesAndShifts_float : (tagged 0 0 0).dk.takeAll [1, 2] = .inr ([⟨0, 0⟩, ⟨0, 0⟩], (tagged 0 0 0).dk) ∧
    (tagged 0 0 0).Ready (hd .v) [1, 2] 319 [⟨0, 0⟩, ⟨0, 0⟩] (tagged 0 0 0).dk ∧ isFTag 0 = true ∧ tagA 0 = true :=
  ⟨by decide +kernel, ⟨by decide +kernel, by decide +kernel, fun q e => by cases e⟩, by decide, by decide⟩
theorem witness_VectorReductionsAndConversions_float : (tagged 0 0 0).dk.guard (hd .v) = BitVec.allOnes 128 ∧ isFTag 0 = true ∧
    (tagged 0 0 0).dk.takeAll [1] = .inr ([⟨0, 0⟩], (tagged 0 0 0).dk) ∧ (tagged 7 0 0).Ready (hd .v) [1] 319 [⟨0, 7⟩] (tagged 7 0 0).dk ∧ isF 7 = true ∧ isF 0 = true ∧
    (tagged 0 0 0).Ready (hd .v) [1] 319 [⟨0, 0⟩] (tagged 0 0 0).dk ∧ bits 0x81 5 3 = 4 ∧ 0x81 % 32 = 1 ∧ isF 1 = true :=
  ⟨by decide +kernel, by decide, by decide +kernel, ⟨by decide +kernel, by decide +kernel, fun q e => by cases e⟩, by decide, by decide,
    ⟨by decide +kernel, by decide +kernel, fun q e => by cases e⟩, by decide, by decide, by decide⟩
/-- Core 95 in Run, or, as after reset, Off; one message of a peer. -/
def peering (m : FromPeer) : State := { State.reset with inbound := [m], cores := [(95, { Core.reset with power := ⟨0, 0, false⟩ })] }
theorem witness_FabricTransfers_awake : (∀ m ∈ [FromPeer.put 95 131071 1 8, .signal 95 63], (peering m).inbound = [m] ∧ (peering m).outputHeld (coreRouter 95) 0 = false ∧
      ((peering m).getCore 95).power.cur ≠ 2 ∧ (peering m).micro = []) ∧
    (State.reset.getCore 95).power.cur = 2 ∧ (dieOff.getDie (176 / 16)).power.cur = 2 ∧ (State.reset.getDie (0 / 16)).power.cur ≠ 2 := by decide +kernel
theorem witness_NodesAndSets_order : (∀ q ∈ [none, some 0],
      let s := running { Inst.absent with st := .retired, decks := [], spawnSet := q } Deck.reset
      s.lateEntry (s.nodeInsts ({ Inst.absent with spawnSet := q } : Inst).shadowNode) = none) ∧
    (let s := ringed 1 { Die.reset with resident := [set0.key] }
     set0.key ∈ (s.getDie (0 % 12)).resident ∧ (s.getDie (0 % 12)).rings ++ (s.getDie (0 % 12)).heldSets = [] ∧ s.queueLive 0 0 0 = true) ∧
    (let s := ringed 2 { Die.reset with resident := [set0.key], rings := [set0] }
     (∃ r ∈ (s.getDie (0 % 12)).rings, r.key = set0.key) ∧ s.ringRoom 0 set0 = true ∧ (s.getDie (0 % 12)).heldSets = [] ∧
       s.reachable 0 (s.nextRing 0 set0) 32 = true ∧ (s.getDie 0).rings = [set0] ∧ (s.getDie 0).resident.length < 4096 ∧ set0.key ∈ (s.getDie 0).resident) := by
  decide +kernel
theorem witness_InstancesOnDecks_trip : ({ Inst.absent with st := .preparing, prepared := true } : Inst).tripAddr = none ∧
    (let x := { Inst.absent with words := (List.replicate 32 (0 : Word)).set 4 (2 ^ 53), st := .preparing, prepared := true }
     let s := { State.reset with insts := [(0, x)], trans := [⟨0, 0, false, 0, false, none⟩] }
     (s.getInst 0).tripAddr = some 0 ∧ s.reachable 0 0 4 = true) := by decide +kernel
theorem witness_ErrorsAndTrips_kinds : (0 : Word).getLsbD 63 = false ∧ (State.reset.getDeck (4 * 95 + 3)).inst = none ∧
    (let s := running { Inst.absent with st := .running, decks := [0] } { Deck.reset with halted := false }
     (s.getDeck (4 * 0 + 0)).inst = some 0 ∧ (s.getInst 0).st = .running) := by decide
/-- Die 0 is Off. -/
def dieZeroOff : State := { State.reset with dies := [(0, { Die.reset with power := ⟨2, 1, false⟩ })], hbm := { Hbm.reset with scrubs := [2 ^ 32] } }
theorem witness_ErrorsAndTrips_scrubs : 0 ∉ State.reset.hbm.scrubs ∧ 2 ^ 32 ∈ dieZeroOff.hbm.scrubs ∧ dieZeroOff.mustQueue [2 ^ 32 - 2 ^ 32] = true ∧
    ({ dieZeroOff with dies := [] } : State).mustQueue [2 ^ 32 - 2 ^ 32] = false := by decide +kernel
theorem witness_ErrorsAndTrips_late : (let s := { running { Inst.absent with st := .running, decks := [0] } Deck.reset with
      remotes := [⟨5, 0, 5, 94, 0, 1, 0, [9], 0, none, 0, 0, []⟩], clock := 65536 }
    (s.getDeck 0).inst = some 0 ∧ 0 + 65536 ≤ s.clock ∧ 94 ∈ s.lateAcks 0) ∧
    (let u : Unacked := ⟨0, .ageTick 0, 0, 0, 1⟩
     ({ State.reset with unacked := [u] } : State).awaits u.ev = false ∧ ({ State.reset with unacked := [u], agenda := [(9, .ageTick 0)] } : State).awaits u.ev = true) := by
  decide +kernel

/-! ### One step of an instruction on a small state: results worked out in the spec, or by hand from its rules -/

/-- Deck 0's scalar register r once the results of i that are due within n clocks have landed. -/
def xAfter (i : Instr) (s : State) (n : Nat) (r : BitVec 6) : Option Word :=
  match exec i s with
  | .next t => some (((t.landDeck 0 (s.clock + n)).getDeck 0).getX r)
  | _ => none
/-- The same for a vector register and for a predicate. -/
def vAfter (i : Instr) (s : State) (n r : Nat) : Option VReg :=
  match exec i s with
  | .next t => some (mget VReg.zero ((t.landDeck 0 (s.clock + n)).getDeck 0).v r)
  | _ => none
def pAfter (i : Instr) (s : State) (n : Nat) (r : BitVec 5) : Option Pred :=
  match exec i s with
  | .next t => some (((t.landDeck 0 (s.clock + n)).getDeck 0).getP r)
  | _ => none
/-- x1 and x2 as given. -/
def xs (a b : Word) : State := onDeck { Deck.reset with x := [(1, a), (2, b)] }
/-- v1 and v2 as given. -/
def vs (a b : VReg) : State := onDeck { Deck.reset with v := [(1, a), (2, b)] }

-- R149: wrap, arithmetic shift by bits 5:0, high products, signed against unsigned
theorem test_add_wraps : xAfter (.add (hd .s) ⟨3, 1, 2, 0⟩) (xs 0xFFFFFFFFFFFFFFFF 2) 1 3 = some 1 := by decide +kernel
theorem test_add_later : xAfter (.add (hd .s) ⟨3, 1, 2, 0⟩) (xs 1 2) 0 3 = some 0 := by decide +kernel
theorem test_sub_same : xAfter (.sub (hd .s) ⟨1, 2, 1, 0⟩) (xs 3 2) 1 1 = some 0xFFFFFFFFFFFFFFFF := by decide +kernel
theorem test_sra_amount : xAfter (.sra (hd .s) ⟨3, 1, 2, 0⟩) (xs 0xFFFFFFFFFFFFFFF8 65) 1 3 = some 0xFFFFFFFFFFFFFFFC := by decide +kernel
theorem test_mulh_sign : xAfter (.mulh (hd .s) ⟨3, 1, 2, 0⟩) (xs 0xFFFFFFFFFFFFFFFF 2) 3 3 = some 0xFFFFFFFFFFFFFFFF := by decide +kernel
theorem test_mulhu : xAfter (.mulhu (hd .s) ⟨3, 1, 2, 0⟩) (xs 0xFFFFFFFFFFFFFFFF 0xFFFFFFFFFFFFFFFF) 3 3 = some 0xFFFFFFFFFFFFFFFE := by decide +kernel
theorem test_max_signed : xAfter (.max (hd .s) ⟨3, 1, 2, 0⟩) (xs 0xFFFFFFFFFFFFFFFF 0) 1 3 = some 0 := by decide +kernel
theorem test_maxu : xAfter (.maxu (hd .s) ⟨3, 1, 2, 0⟩) (xs 0xFFFFFFFFFFFFFFFF 0) 1 3 = some 0xFFFFFFFFFFFFFFFF := by decide +kernel
theorem test_clz : xAfter (.clz (hd .s) ⟨3, 1, 0, 0⟩) (xs 1 0) 1 3 = some 63 ∧ xAfter (.clz (hd .s) ⟨3, 1, 0, 0⟩) (xs 0 0) 1 3 = some 64 := by decide +kernel
theorem test_bext_signed : xAfter (.bext (hd .s) ⟨3, 1, 0, 0x1000 + 4 + 64 * 3⟩) (xs 0xF0 0) 1 3 = some 0xFFFFFFFFFFFFFFFF := by decide +kernel
theorem test_bins : xAfter (.bins (hd .s) ⟨2, 1, 0, 8 + 64 * 7⟩) (xs 0x1AB 0xFFFF) 1 2 = some 0xABFF := by decide +kernel
-- R150: the immediate is sign-extended
theorem test_addi_negative : xAfter (.addi (hd .a) ⟨1, 1, 0x1FFFFF⟩) (xs 0 0) 1 1 = some 0xFFFFFFFFFFFFFFFF := by decide +kernel
-- spec 07, the command word built in three instructions
theorem test_movhi : xAfter (.movhi (hd .s) ⟨1, 0xE00000⟩) (xs 0x20E 0) 1 1 = some 0x1070E00000 := by decide +kernel
theorem test_movhi_again : xAfter (.movhi (hd .s) ⟨1, 0x401234⟩) (xs 0x1070E00000 0) 1 1 = some 0x8387000000401234 := by decide +kernel
-- R154: ltu against lt; pe takes the complement; nothing before latency 2
theorem test_cmp : pAfter (.cmp (hd .s) ⟨1, 2, 4, 0, 1, 2, 0⟩) (xs 0xFFFFFFFFFFFFFFFF 0) 2 2 = some (BitVec.allOnes 128) ∧
    pAfter (.cmp (hd .s) ⟨1, 2, 2, 0, 1, 2, 0⟩) (xs 0xFFFFFFFFFFFFFFFF 0) 2 1 = some (BitVec.allOnes 128) ∧
    pAfter (.cmp (hd .s) ⟨1, 2, 2, 0, 1, 2, 0⟩) (xs 0xFFFFFFFFFFFFFFFF 0) 1 1 = some 0 := by decide +kernel
-- R155: index pa 4, pb 2, pc 1
theorem test_ptt : pAfter (.ptt (hd .s) ⟨4, 0x10, 1, 2, 3, 0⟩) (onDeck { Deck.reset with p := [(1, 5), (2, 4)] }) 2 4 = some 1 := by decide +kernel
-- spec 06, the worked bundle: a branch of −5 at 0x0105
theorem test_br : (match exec (.br (hd .s) ⟨0, 0, 0x1FFFFB⟩) { State.reset with issue := { Issue.idle with pc := 0x105 } } with
    | .next t => t.issue.target | _ => none) = some 0x100 := by decide +kernel
-- R32: slot A acts only in fork mode
theorem test_br_slot_a : (match exec (.br (hd .a) ⟨0, 0, 5⟩) State.reset with | .next t => t.issue.target | _ => none) = none := by decide +kernel
theorem test_loopi : (match exec (.loopi (hd .s) ⟨1, 4, 8⟩) State.reset with | .next t => t.dk.loopsE | _ => []) = [⟨1, 4, 7⟩] := by decide +kernel
-- R405: a fifth level
theorem test_loopi_full : (match exec (.loopi (hd .s) ⟨1, 4, 8⟩) (onDeck { Deck.reset with loopsE := List.replicate 4 ⟨1, 9, 0⟩ }) with
    | .next t => t.issue.raised.map (·.cause) | _ => none) = some 0x10 := by decide +kernel
-- R148, R181
theorem test_mtsr_user : (match exec (.mtsrTvec (hd .s) ⟨0, 1, 0x40⟩) State.reset with | .next t => t.issue.raised.map (·.cause) | _ => none) = some 0x11 := by
  decide +kernel
theorem test_readSpr : ({ State.reset with issue := { Issue.idle with deck := 7 } } : State).readSpr 0x001 = 3 ∧
    ({ State.reset with issue := { Issue.idle with deck := 7 } } : State).readSpr 0x002 = 1 := by decide +kernel
-- R167: two adds in one clock, clamped once
theorem test_sem_clamp : (([65535, 10, -5] : List Int).foldl Sem.add Sem.reset).value = 65535 := by decide +kernel
-- R218, R219: FP32 1.5 + 2.5; I8 100 + 100, wrapped and saturated
theorem test_vadd_float : vAfter (.vadd (hd .v) ⟨3, 1, 2, 0, 0⟩) (vs ⟨0x3FC00000, 0⟩ ⟨0x40200000, 0⟩) 2 3 = some ⟨0x40800000, 0⟩ := by decide +kernel
theorem test_vadd_wrap : vAfter (.vadd (hd .v) ⟨3, 1, 2, 0, 0⟩) (vs ⟨100, 0x0A⟩ ⟨100, 0x0A⟩) 2 3 = some ⟨0xC8, 0x0A⟩ ∧
    vAfter (.vadd (hd .v) ⟨3, 1, 2, 0, 1⟩) (vs ⟨100, 0x0A⟩ ⟨100, 0x0A⟩) 2 3 = some ⟨0x7F, 0x0A⟩ := by decide +kernel
-- R215: a lane that the guard disables keeps its data
theorem test_vmov_guard : vAfter (.vmov ⟨.v, 0xF0, 1, 0, 0⟩ ⟨2, 1, 0, 0, 0⟩) (onDeck { Deck.reset with p := [(1, 1)], v := [(1, ⟨0x1100000022, 8⟩), (2, ⟨0x3300000044, 0⟩)] }) 2 2 =
    some ⟨0x3300000022, 8⟩ := by decide +kernel
-- R220: one rounding: (1 + 2^-12)^2 − 1 = 2^-11 + 2^-24
theorem test_vfma : vAfter (.vfma (hd .v) ⟨3, 1, 1, 0, 0⟩) (onDeck { Deck.reset with v := [(1, ⟨0x3F800800, 0⟩), (3, ⟨0xBF800000, 0⟩)] }) 4 3 = some ⟨0x3A000400, 0⟩ := by
  decide +kernel
theorem test_vredsum : vAfter (.vredsum ⟨.v, 0xF0, 1, 0, 0⟩ ⟨3, 1, 0, 0, 0⟩) (onDeck { Deck.reset with p := [(1, 3)], v := [(1, ⟨0x70000000500000003, 8⟩)] }) 5 3 =
    some ⟨0x0000000800000008, 8⟩ := by decide +kernel
theorem test_vcmp : pAfter (.vcmp (hd .v) ⟨1, 31, 1, 2, 2, 0⟩) (vs ⟨0x00000005FFFFFFFF, 8⟩ ⟨0x0000000500000001, 8⟩) 2 1 = some 1 := by decide +kernel
theorem test_vslide : vAfter (.vslide (hd .v) ⟨3, 1, 1, 0, 0⟩) (vs ⟨0x0000000700000005, 8⟩ VReg.zero) 2 3 = some ⟨7, 8⟩ := by decide +kernel
theorem test_vext : xAfter (.vext (hd .v) ⟨3, 1, 1, 0, 0⟩) (vs ⟨0x8000000100000005, 8⟩ VReg.zero) 2 3 = some 0x80000001 := by decide +kernel
theorem test_vidx : (vAfter (.vidx (hd .v) ⟨3, 1, 8, 0, 0⟩) (xs 5 0) 2 3).map (fun v => bits v.data.toNat (32 * 127) 32) = some 132 := by decide +kernel
theorem test_vtag_wrong : (match exec (.vadd (hd .v) ⟨3, 1, 2, 0, 0⟩) (vs ⟨0, 8⟩ ⟨0, 9⟩) with | .next t => t.issue.raised.map (·.info) | _ => none) =
    some (BitVec.ofNat 64 ((9 + 32) * 2 ^ 40 + 2 * 2 ^ 16)) := by decide +kernel
-- R87: a signalling NaN that is converted raises nv (FP32 into BF16); R107: a disabled lane is an exact identity, toward −inf too
theorem test_vcvt_snan : (match exec (.vcvt (hd .v) ⟨3, 1, 1, 0, 0⟩) (vs ⟨0x7F800001, 0⟩ VReg.zero) with
    | .next t => ((t.landDeck 0 3).getDeck 0).fflags.getLsbD 4 | _ => false) = true := by decide +kernel
theorem test_vredsum_identity : (vAfter (.vredsum ⟨.v, 0xF0, 1, 0, 0⟩ ⟨3, 1, 0, 0, 6⟩) (onDeck { Deck.reset with p := [(1, 1)] }) 5 3).map (fun v => bits v.data.toNat 0 32) =
    some 0 := by decide +kernel
-- R186: a store of 8 bytes at an address aligned down, performed at issue + 6
theorem test_sts : (match exec (.stsD (hd .a) ⟨2, 1, 0⟩) (xs 15 0xAB) with | .next t => t.micro.map (fun m => (m.at_, m.act)) | _ => []) =
    [(6, .write 0 (byteRange 8 8) (0xAB <<< 64) none)] := by decide +kernel
theorem test_write : (({ State.reset with clock := 6 }.performMicro ⟨6, 1, 4, false, 0, 0, .write 3 (byteRange 8 2) (0xABCD <<< 64) none⟩).mem) =
    [(2 ^ 26 + 3 * 512 + 8, 0xCD), (2 ^ 26 + 3 * 512 + 9, 0xAB)] := by decide +kernel
-- R103, R104: the sum of cells is exact; out of 112 bits it overflows
theorem test_cell : addCell (addCell 0 5 false) (-7) false = BitVec.ofInt 128 (-2) &&& BitVec.ofNat 128 (2 ^ 112 - 1) ∧
    (addCell (BitVec.ofNat 128 (2 ^ 111 - 1)) 1 false).getLsbD 112 = true := by decide +kernel
/-- Spec 11, the search-tree backup: leaves t2-t5, weights t70-t73, its shape word and the parent's reach in t100. -/
def backup : State := onDeck { Deck.reset with
  shapes := [(0, 0x510308283)],
  t := [(2, 0x3F400000), (3, 0xBF000000), (4, 0x3F800000), (5, 0x3E800000), (70, 0x3F000000), (71, 0x3E800000), (72, 0x3E000000), (73, 0x3E000000), (100, 0x3F000000)] }
theorem test_tup : (match exec (.tup (hd .x) ⟨101, 0, 0, 0, 0, 0⟩) backup with | .next t => mget 0 ((t.landDeck 0 6).getDeck 0).t 101 | _ => 0) = 0x3ED00000 := by
  decide +kernel
theorem test_tdn : (match exec (.tdn (hd .x) ⟨100, 0, 0, 0, 0, 0⟩) backup with
    | .next t => [258, 259, 260, 261].map (mget 0 ((t.landDeck 0 6).getDeck 0).t) | _ => []) = [0x3E800000, 0x3E000000, 0x3D800000, 0x3D800000] := by decide +kernel
/-- Spec 12, step 2 of the block: sums of tiles 100 and 101 against those of step 1, θ = 0.0625; the rows of tiles 200 and 201 are valid. -/
def stepTwo : State := onCore Deck.reset { Core.reset with
  blocks := [(0, ⟨1, 100 * 2 ^ 4 + 200 * 2 ^ 16 + 1 * 2 ^ 28, 0x3D800000, [(0, ⟨0x45800200, 0x45800200, true⟩), (1, ⟨0x45000000, 0xC5000000, true⟩)],
    [(0, ⟨0x45800000, 0x45800000, true⟩), (1, ⟨0x45000000, 0x45000000, true⟩)], 0, 0⟩)],
  rows := (List.range 64).map fun j => (6400 + j, ⟨.valid, 0, false⟩) }
theorem test_cskip : xAfter (.cskip (hd .x) ⟨7, 9, 0, 0⟩) stepTwo 4 7 = some 0x0000000200000001 := by decide +kernel
-- R379, R402: a synchronous cause in supervisor mode is a double fault
theorem test_double_fault : (match exec (.mtsrTvec (hd .s) ⟨0, 1, 0x40⟩) (onDeck sup) with | .next t => t.issue.raised.isSome | _ => true) = false ∧
    (match exec (.stsD (hd .a) ⟨2, 1, 0⟩) { onDeck { sup with x := [(1, 0x4000000)] } with issue := Issue.idle } with | .next t => t.log.map (·.kind) | _ => []) = [0x07] := by
  decide +kernel
-- R424, R337
theorem test_trigger_full : (match exec (.triggerWrite 0) { State.reset with launches := [⟨0, [], [], [], [], []⟩], launchQ := List.replicate 8 (0, []) } with
    | .next t => t.launchQ.length | _ => 0) = 8 := by decide +kernel
/-- The first instruction after reset: spec 06's `addi x7, x7, 16` runs, and the sequencers stand at the next bundle. -/
theorem test_first_step : (match step fetched with
    | .next t => (((t.landDeck 0 (t.clock + 1)).getDeck 0).getX 7, (t.getDeck 0).pcA, (t.getDeck 0).pcE) | _ => (0, 0, 0)) = (16, 1, 1) := by decide +kernel
/-- The same record and tile in user mode: the entry lies in tile 0. -/
def handlingUser : State := onCore { Deck.reset with lcache := [(0, ⟨0, plainRecord, true⟩)] } { Core.reset with tiles := [(0, { Tile.reset with tag := 8 })] }
theorem witness_QueueLoads_user : handlingUser.MayRecord (hd .a) [1, 0] ∧ handlingUser.dk.sup = false ∧
    (recFaults plainRecord && (ldqtElems plainRecord (handlingUser.x 0)).any fun x => x.2.1.isNone) = false ∧
    (bankWords (tagBits (recFormat plainRecord)) ((ldqtElems plainRecord (handlingUser.x 0)).filterMap fun x => x.2.1.map fun a => (x.1, a))).any
      (fun k => handlingUser.frameBarred (k / 128)) = false := by decide +kernel
theorem witness_TileInstructions_user : (withX1 4031).Passed (hd .a) [1] ∧ (∀ t ∈ (List.range 1).map (4031 + ·), t < 4032) ∧ (withX1 4031).dk.sup = false ∧
    (∃ t ∈ (List.range 2).map (4031 + ·), 4032 ≤ t) ∧ (withX1 4031).frameBarred (((withX1 4031).x 1).toNat % 4096) = false ∧
    (withX1 129023).frameBarred (((withX1 129023).x 1).toNat % 2 ^ 17 / 32) = false ∧ (1 : BitVec 15).getLsbD 0 = true := by decide +kernel
/-- A gather of one row to tile 40 through handle 0, its indices in tile 41. -/
def gathering : State := onCore { Deck.reset with x := [(1, 4 * 2 ^ 44 + 40 * 2 ^ 32 + 41 * 2 ^ 8), (2, 1)], lcache := [(0, ⟨0, plainRecord, true⟩)] } Core.reset
theorem witness_EngineCommands_gather : gathering.Passed (hd .a) [1, 2] ∧
    (let c := gathering.newCmd (hd .a) (gathering.x 1) (gathering.x 2)
     c.count ≠ 0 ∧ c.job 0 gathering.ck = .gather 1280 0 1312 ∧ gathering.dk.handle (BitVec.ofNat 64 0) = some ⟨0, plainRecord, true⟩ ∧
       c.badField 0 (.gather 1280 0 1312) = false ∧ (Job.gather 1280 0 1312).namesFrame 0 (c.rows 0 - 1) = false ∧
       gathering.badExtent (.gather 1280 0 1312) c.count = none) := by decide +kernel
/-- Deck 0 in user mode, with the lease and an open chain. -/
def operatedUser (a n d : Word) : State :=
  onCore { Deck.reset with chain := some ⟨0, none⟩, x := [(1, a), (2, n), (3, d)] } { Core.reset with leaseHolder := some 0 }
theorem witness_MatrixCommands_user : (operatedUser 0x3EE8000 4031 192).Granted (hd .x) [3, 1, 2] (operatedUser 0x3EE8000 4031 192).ck.loadFree ∧
    (0x3EE8000 / 512 + loadRows 3 192 ≤ 129024 ∧ (bits 0x0230 9 1 = 1 → bits ((operatedUser 0x3EE8000 4031 192).x 2).toNat 0 12 < 4032)) ∧
    (operatedUser 0x3EFC000 32 (4031 * 2 ^ 16)).Granted (hd .x) [3, 1, 2] (operatedUser 0x3EFC000 32 (4031 * 2 ^ 16)).ck.gantryFree ∧
    (∀ i, i < 32 → ∀ r ∈ aRows true (0x3EFC000 / 512) i, r < 131072 ∧ (operatedUser 0x3EFC000 32 0).frameBarred (r / 32) = false) ∧
    bits ((operatedUser 0x3EFC000 32 (4031 * 2 ^ 16)).x 3).toNat 16 12 < 4032 ∧
    (∀ i, i < 32 → ∀ r ∈ aRows false (0x3EF8000 / 512) i, r < 131072 ∧ (operatedUser 0x3EF8000 32 0).frameBarred (r / 32) = false) := by decide +kernel
theorem witness_MatrixCommands_skip : (let k := { Core.reset with blocks := [(0, ⟨1, 4031 * 2 ^ 4 + 4030 * 2 ^ 16, 0, [], [], 1, 0⟩)] }
    k.skipped (129023 / 32) = true ∧ k.skipped (128959 / 32) = false) := by decide +kernel
theorem witness_MatrixCommands_store : (operatedUser 224 32 0x3EFC000).Granted (hd .x) [3, 1, 2] (operatedUser 224 32 0x3EFC000).ck.readFree ∧
    addrOf ((operatedUser 224 32 0x3EFC000).x 3) = .store 0x3EFC000 ∧ 0x3EFC000 / 512 + 32 ≤ 131072 ∧
    (operatedUser 224 32 0x3EFC000).frameBarred ((0x3EFC000 / 512 + 32 - 1) / 32) = false ∧
    (∀ j, j < 32 → ((operatedUser 224 32 0x3EFC000).ck.tile ((0x3EFC000 / 512 + j) / 32)).published = false) ∧ (bits 0x4000 13 2 = 2 → bits (224 : Word).toNat 16 1 = 0) := by decide +kernel
theorem witness_CausewayInstructions_busy : bits (15 + 0 * 2 ^ 4) 4 10 ≤ bits 0 28 10 ∧ watching.busyBlock 0 15 (some 0) = true ∧
    4096 < bits (4095 * 2 ^ 16 + 1 * 2 ^ 28) 16 12 + bits (4095 * 2 ^ 16 + 1 * 2 ^ 28) 28 10 + 1 := by decide +kernel
theorem witness_InstancesOnDecks_rollback : ∀ n ∈ [0], ((running { Inst.absent with st := .running, decks := [0] } Deck.reset).getDeck n).engFaults = [] ∧
    ((running { Inst.absent with st := .running, decks := [0] } Deck.reset).getDeck n).arrFaults = [] := by decide +kernel
theorem witness_HostAndPower_ignored : 64 < bits (65 : Word).toNat 0 7 ∧ 64 ≤ 64 ∧ 6 ≤ 63 % 8 ∧ (3 : Word).getLsbD 11 = false ∧ bits (2 : Word).toNat 0 2 = 2 := by decide +kernel

end Sys2Proof.Tests
end

namespace Sys2Proof.Laws.ScalarControl
open Sys2Proof.Machine

/-! SUPPORT AND CLAIMS. `movi` and `movhi`, `sel`, and `nop` (spec 07 R151, R152, R166). -/

/-! ### Meanings, and what the register form does once it runs -/

theorem exec_nop (h : Hd) (b : NB) (s : State) : exec (.nop h b) s = .next s := rfl

theorem exec_sel (h : Hd) (b : XRR) (s : State) :
    exec (.sel h b) s = .next (s.alu h 1 b fun x y => if (s.dk.getP (BitVec.ofNat 5 (bits b.m.toNat 0 5))).getLsbD 0 then x else y) := rfl

theorem exec_movi (h : Hd) (b : XL) (s : State) :
    exec (.movi h b) s = .next (s.scalar h [] fun s => s.writeX h 1 b.xd (b.imm.signExtend 64)) := rfl

theorem exec_movhi (h : Hd) (b : XL) (s : State) :
    exec (.movhi h b) s = .next (s.scalar h [b.xd] fun s => s.writeX h 1 b.xd ((s.x b.xd <<< 27) + b.imm.setWidth 64)) := rfl

/-- R149: a register form whose sources have landed writes its function of them. -/
theorem alu_runs {s : State} {h : Hd} {b : XRR} (lat : Nat) (f : Word → Word → Word) (r : s.Runs h [b.xa, b.xb]) :
    s.alu h lat b f = s.writeX h lat b.xd (f (s.x b.xa) (s.x b.xb)) := State.scalar_runs _ r

/-! ### Well-formed syllables and the canonical no-op -/

/-- R136: a well-formed instruction has zero in every field marked zero. -/
theorem fieldsZero_of_wf {i : Instr} (w : i.wf = true) : fieldsZero i = true := by
  unfold Instr.wf at w
  split at w
  case h_1 => cases w
  case h_2 => exact (Bool.and_eq_true_iff.mp w).2

/-- R166: every map holds `nop`, so only the truth table and the body decide whether it is well formed. -/
theorem wf_nop_iff (h : Hd) (b : NB) : Instr.wf (.nop h b) = true ↔ h.tt ≠ 0 ∧ b.z = 0 := by
  have hslot : [Slot.a, .s, .v, .x].contains h.slot = true := by cases h.slot <;> rfl
  simp only [Instr.wf, opcodeOf, hslot, fieldsValid, fieldsZero]
  simp [← BitVec.toNat_inj]

/-- R135: a syllable whose truth table is 0x00 is not decoded. -/
theorem decodeSyl_of_tt_zero {k : Slot} {y : Nat} (hy : bits y 56 8 = 0) : decodeSyl k y = .empty := if_pos hy

/-- R166: the canonical no-op is the zero word, whatever its slot. -/
theorem encode_canonical_nop (k : Slot) : encode (.nop ⟨k, 0, 0, 0, 0⟩ ⟨0⟩) = some 0 := by
  simp [encode, opcodeOf, bodyOf, encHd, encNB]

/-! ### Constants of 64 bits in pieces of 10, 27 and 27 bits -/

/-- R151: shifting 27 bits in is multiplying by 2^27 and adding, modulo 2^64. -/
theorem shiftLeft_add_setWidth (x : Word) (imm : BitVec 27) :
    (x <<< 27) + imm.setWidth 64 = BitVec.ofNat 64 (x.toNat * 2 ^ 27 + imm.toNat) := by
  apply BitVec.eq_of_toNat_eq
  simp [Nat.shiftLeft_eq]

/-- `movi` of a number below 2^26, whose sign bit is 0, writes that number. -/
theorem toNat_movi_of_lt {n : Nat} (hn : n < 2 ^ 26) : (BitVec.ofInt 64 (BitVec.ofNat 27 n).toInt).toNat = n := by
  have hmod : n % 2 ^ 27 = n := by omega
  have hint : (BitVec.ofNat 27 n).toInt = n := by
    rw [BitVec.toInt_eq_toNat_cond, BitVec.toNat_ofNat, hmod, if_pos (by omega)]
  rw [hint, BitVec.ofInt_natCast, BitVec.toNat_ofNat]
  omega

/-- R151: `movi` of v[63:54], `movhi` of v[53:27] and `movhi` of v[26:0] leave v. -/
theorem constant_of_pieces (v : Word) :
    let a := BitVec.ofInt 64 (BitVec.ofNat 27 (v.toNat / 2 ^ 54)).toInt
    let b := BitVec.ofNat 64 (a.toNat * 2 ^ 27 + v.toNat / 2 ^ 27 % 2 ^ 27)
    BitVec.ofNat 64 (b.toNat * 2 ^ 27 + v.toNat % 2 ^ 27) = v := by
  intro a b
  have hv : v.toNat < 2 ^ 64 := v.isLt
  have ha : a.toNat = v.toNat / 2 ^ 54 := toNat_movi_of_lt (by omega)
  have hb : b.toNat = v.toNat / 2 ^ 27 := by
    simp only [b, ha, BitVec.toNat_ofNat]
    omega
  rw [hb, Nat.div_add_mod', BitVec.ofNat_toNat, BitVec.setWidth_eq]

/-! ### The claims -/

/-- Settles O14: both writes are those of R151, and the constant comes back piece by piece. -/
theorem moviMovhi : Obligations.MoviMovhi := by
  refine ⟨fun h b s r => ?_, fun h b s r => ?_, constant_of_pieces⟩
  · rw [exec_movi, State.scalar_runs _ r, BitVec.signExtend]
  · rw [exec_movhi, State.scalar_runs _ r, shiftLeft_add_setWidth]

/-- Settles O13: mod[14:5] is a field marked zero, and bit 0 of pn picks the word that is written. -/
theorem selChoosesByBit0 : Obligations.SelChoosesByBit0 := by
  intro h b s r
  refine ⟨fun w => ?_, ?_⟩
  · exact beq_iff_eq.mp (fieldsZero_of_wf w)
  · rw [exec_sel, alu_runs _ _ r]

/-- Settles O16: `nop` leaves every state, its body decides whether it is well formed, and its canonical form is an empty syllable. -/
theorem nopHasNoEffect : Obligations.NopHasNoEffect := by
  refine ⟨exec_nop, fun h b htt _ => ?_, fun h b => rfl, fun k => ?_, fun s => ⟨rfl, rfl⟩⟩
  · rw [wf_nop_iff, and_iff_right htt]
  · exact ⟨encode_canonical_nop k, decodeSyl_of_tt_zero rfl⟩

end Sys2Proof.Laws.ScalarControl


namespace Sys2Proof.Laws.Decoding
open Sys2Proof

/-! SUPPORT AND CLAIMS. The decoder and the encoder (spec 06 R129-R146): they agree, and what is decoded is well formed. -/

/-! ### Every encoding is read back -/

/-- Each instruction's own lemma of `Laws.Maps`, as one statement about all of them. -/
theorem maps_statement (i : Instr) : Maps.Statement i :=
  match i with
  | .nop h b => Maps.nop h b
  | .add h b => Maps.add h b
  | .sub h b => Maps.sub h b
  | .and h b => Maps.and h b
  | .or h b => Maps.or h b
  | .xor h b => Maps.xor h b
  | .shl h b => Maps.shl h b
  | .shr h b => Maps.shr h b
  | .sra h b => Maps.sra h b
  | .mul h b => Maps.mul h b
  | .mulh h b => Maps.mulh h b
  | .mulhu h b => Maps.mulhu h b
  | .min h b => Maps.min h b
  | .minu h b => Maps.minu h b
  | .max h b => Maps.max h b
  | .maxu h b => Maps.maxu h b
  | .sel h b => Maps.sel h b
  | .clz h b => Maps.clz h b
  | .popc h b => Maps.popc h b
  | .bext h b => Maps.bext h b
  | .bins h b => Maps.bins h b
  | .addi h b => Maps.addi h b
  | .andi h b => Maps.andi h b
  | .ori h b => Maps.ori h b
  | .xori h b => Maps.xori h b
  | .shli h b => Maps.shli h b
  | .shri h b => Maps.shri h b
  | .srai h b => Maps.srai h b
  | .movi h b => Maps.movi h b
  | .movhi h b => Maps.movhi h b
  | .cmp h b => Maps.cmp h b
  | .cmpi h b => Maps.cmpi h b
  | .ptt h b => Maps.ptt h b
  | .br h b => Maps.br h b
  | .call h b => Maps.call h b
  | .ret h b => Maps.ret h b
  | .brq h b => Maps.brq h b
  | .boq h b => Maps.boq h b
  | .loop h b => Maps.loop h b
  | .loopi h b => Maps.loopi h b
  | .rep h b => Maps.rep h b
  | .fork h b => Maps.fork h b
  | .join h b => Maps.join h b
  | .syncs h b => Maps.syncs h b
  | .syncw h b => Maps.syncw h b
  | .halt h b => Maps.halt h b
  | .mfsr h b => Maps.mfsr h b
  | .mtsrSlipw h b => Maps.mtsrSlipw h b
  | .mtsrFmode h b => Maps.mtsrFmode h b
  | .mtsrFflags h b => Maps.mtsrFflags h b
  | .mtsrCrv h b => Maps.mtsrCrv h b
  | .mtsrSdcfg h b => Maps.mtsrSdcfg h b
  | .mtsrTvec h b => Maps.mtsrTvec h b
  | .fenceDeck h b => Maps.fenceDeck h b
  | .fenceCore h b => Maps.fenceCore h b
  | .fenceGang h b => Maps.fenceGang h b
  | .fenceDevice h b => Maps.fenceDevice h b
  | .fenceSystem h b => Maps.fenceSystem h b
  | .qpt h b => Maps.qpt h b
  | .sq h b => Maps.sq h b
  | .squareComplete inst => Maps.squareComplete inst
  | .transferPhaseEnd inst => Maps.transferPhaseEnd inst
  | .semw h b => Maps.semw h b
  | .sema h b => Maps.sema h b
  | .semaAddPerform core sem amount stores => Maps.semaAddPerform core sem amount stores
  | .semt h b => Maps.semt h b
  | .semr h b => Maps.semr h b
  | .alease h b => Maps.alease h b
  | .leaseGrant core => Maps.leaseGrant core
  | .arel h b => Maps.arel h b
  | .spawn h b => Maps.spawn h b
  | .cancel h b => Maps.cancel h b
  | .xfork h b => Maps.xfork h b
  | .trap h b => Maps.trap h b
  | .rfe h b => Maps.rfe h b
  | .wfi h b => Maps.wfi h b
  | .widx h b => Maps.widx h b
  | .plive h b => Maps.plive h b
  | .vlive h b => Maps.vlive h b
  | .ldsB h b => Maps.ldsB h b
  | .ldsH h b => Maps.ldsH h b
  | .ldsW h b => Maps.ldsW h b
  | .ldsD h b => Maps.ldsD h b
  | .stsB h b => Maps.stsB h b
  | .stsH h b => Maps.stsH h b
  | .stsW h b => Maps.stsW h b
  | .stsD h b => Maps.stsD h b
  | .ldq h b => Maps.ldq h b
  | .remoteReadArrival req => Maps.remoteReadArrival req
  | .remoteReadResponse req row => Maps.remoteReadResponse req row
  | .ldqt h b => Maps.ldqt h b
  | .hld h b => Maps.hld h b
  | .hldRecordArrival deck entry gen => Maps.hldRecordArrival deck entry gen
  | .hidx h b => Maps.hidx h b
  | .probe h b => Maps.probe h b
  | .probeFill core => Maps.probeFill core
  | .ppin h b => Maps.ppin h b
  | .pfree h b => Maps.pfree h b
  | .tcfg h b => Maps.tcfg h b
  | .tcfgTakeEffect core tile => Maps.tcfgTakeEffect core tile
  | .trel h b => Maps.trel h b
  | .trelTakeEffect core tile => Maps.trelTakeEffect core tile
  | .tage h b => Maps.tage h b
  | .pub h b => Maps.pub h b
  | .pubR h b => Maps.pubR h b
  | .tileMarkTakeEffect core tile recv stores => Maps.tileMarkTakeEffect core tile recv stores
  | .ldk h b => Maps.ldk h b
  | .ecmd h b => Maps.ecmd h b
  | .tramCopy core eng => Maps.tramCopy core eng
  | .tramLoad core eng => Maps.tramLoad core eng
  | .tramStoreBack core eng => Maps.tramStoreBack core eng
  | .tramRemoteCopy core eng => Maps.tramRemoteCopy core eng
  | .tramGather core eng => Maps.tramGather core eng
  | .tramFill core eng => Maps.tramFill core eng
  | .tramBroadcast core eng => Maps.tramBroadcast core eng
  | .tramPut core eng => Maps.tramPut core eng
  | .tramGet core eng => Maps.tramGet core eng
  | .engineCommandResume core eng => Maps.engineCommandResume core eng
  | .culvertFp32Add core => Maps.culvertFp32Add core
  | .culvertI32Add core => Maps.culvertI32Add core
  | .culvertFp32Max core => Maps.culvertFp32Max core
  | .culvertFp32Min core => Maps.culvertFp32Min core
  | .culvertI32Max core => Maps.culvertI32Max core
  | .culvertI32Min core => Maps.culvertI32Min core
  | .culvertOr core => Maps.culvertOr core
  | .heldQueueEntryEnter core eng => Maps.heldQueueEntryEnter core eng
  | .remoteSignalArrival core sem => Maps.remoteSignalArrival core sem
  | .xsel h b => Maps.xsel h b
  | .xmit h b => Maps.xmit h b
  | .xred h b => Maps.xred h b
  | .xredResultDelivery inst slot => Maps.xredResultDelivery inst slot
  | .vadd h b => Maps.vadd h b
  | .vsub h b => Maps.vsub h b
  | .vmul h b => Maps.vmul h b
  | .vfma h b => Maps.vfma h b
  | .vfms h b => Maps.vfms h b
  | .vfnma h b => Maps.vfnma h b
  | .vmin h b => Maps.vmin h b
  | .vmax h b => Maps.vmax h b
  | .vabs h b => Maps.vabs h b
  | .vneg h b => Maps.vneg h b
  | .vabsd h b => Maps.vabsd h b
  | .vcmp h b => Maps.vcmp h b
  | .vsel h b => Maps.vsel h b
  | .vmov h b => Maps.vmov h b
  | .vbcast h b => Maps.vbcast h b
  | .vext h b => Maps.vext h b
  | .vins h b => Maps.vins h b
  | .vperm h b => Maps.vperm h b
  | .vslide h b => Maps.vslide h b
  | .vrev h b => Maps.vrev h b
  | .vredsum h b => Maps.vredsum h b
  | .vredmax h b => Maps.vredmax h b
  | .vredmin h b => Maps.vredmin h b
  | .vscan h b => Maps.vscan h b
  | .vrcpe h b => Maps.vrcpe h b
  | .vrsqe h b => Maps.vrsqe h b
  | .vexp2e h b => Maps.vexp2e h b
  | .vlog2e h b => Maps.vlog2e h b
  | .vcvt h b => Maps.vcvt h b
  | .vcmpd h b => Maps.vcmpd h b
  | .vexpnd h b => Maps.vexpnd h b
  | .vtag h b => Maps.vtag h b
  | .vtopk h b => Maps.vtopk h b
  | .vand h b => Maps.vand h b
  | .vor h b => Maps.vor h b
  | .vxor h b => Maps.vxor h b
  | .vnot h b => Maps.vnot h b
  | .vshl h b => Maps.vshl h b
  | .vshr h b => Maps.vshr h b
  | .vsra h b => Maps.vsra h b
  | .vclz h b => Maps.vclz h b
  | .vpopc h b => Maps.vpopc h b
  | .vidx h b => Maps.vidx h b
  | .vdot4 h b => Maps.vdot4 h b
  | .vmadi h b => Maps.vmadi h b
  | .vst h b => Maps.vst h b
  | .vpop h b => Maps.vpop h b
  | .mvq h b => Maps.mvq h b
  | .mbeg h b => Maps.mbeg h b
  | .mend h b => Maps.mend h b
  | .mldb h b => Maps.mldb h b
  | .mma h b => Maps.mma h b
  | .checksumReplay core => Maps.checksumReplay core
  | .mrd h b => Maps.mrd h b
  | .mclr h b => Maps.mclr h b
  | .mscl h b => Maps.mscl h b
  | .mck h b => Maps.mck h b
  | .arrayClockGate core => Maps.arrayClockGate core
  | .tld h b => Maps.tld h b
  | .tst h b => Maps.tst h b
  | .tshp h b => Maps.tshp h b
  | .tscl h b => Maps.tscl h b
  | .tup h b => Maps.tup h b
  | .tdn h b => Maps.tdn h b
  | .csig h b => Maps.csig h b
  | .cthr h b => Maps.cthr h b
  | .cskip h b => Maps.cskip h b
  | .cmap h b => Maps.cmap h b
  | .crst h b => Maps.crst h b
  | .causewayService core => Maps.causewayService core
  | .ageTick core => Maps.ageTick core
  | .rowWarnPoint core row => Maps.rowWarnPoint core row
  | .rowLimitExpiry core row => Maps.rowLimitExpiry core row
  | .l7RefreshOverdue core row => Maps.l7RefreshOverdue core row
  | .refreshRequestEnter core => Maps.refreshRequestEnter core
  | .refreshStart core => Maps.refreshStart core
  | .refreshWriteback core row => Maps.refreshWriteback core row
  | .bandStepHotter core => Maps.bandStepHotter core
  | .bandStepCooler core => Maps.bandStepCooler core
  | .launchStart graph => Maps.launchStart graph
  | .tempTableApply => Maps.tempTableApply
  | .powerStateChange isDie n => Maps.powerStateChange isDie n
  | .coreStart core => Maps.coreStart core
  | .tokenArrival node skip => Maps.tokenArrival node skip
  | .loopBodyEnd node => Maps.loopBodyEnd node
  | .roundaboutSelection die => Maps.roundaboutSelection die
  | .dispatch inst => Maps.dispatch inst
  | .agingTick die => Maps.agingTick die
  | .preemptSave inst => Maps.preemptSave inst
  | .preemptResume inst => Maps.preemptResume inst
  | .spillStart inst => Maps.spillStart inst
  | .nodeComplete node => Maps.nodeComplete node
  | .spawnSetArrival set => Maps.spawnSetArrival set
  | .mewsRingRetry die => Maps.mewsRingRetry die
  | .queueRingDrain die => Maps.queueRingDrain die
  | .cancelMessage die group => Maps.cancelMessage die group
  | .cancelForcedStop inst => Maps.cancelForcedStop inst
  | .iterTimerHalf deck => Maps.iterTimerHalf deck
  | .iterOverrun deck => Maps.iterOverrun deck
  | .iterOverrunEnd inst => Maps.iterOverrunEnd inst
  | .trapEntry deck => Maps.trapEntry deck
  | .mutualStall deck => Maps.mutualStall deck
  | .invalidationComplete inval => Maps.invalidationComplete inval
  | .invalidationWatchdog inval => Maps.invalidationWatchdog inval
  | .rollback inst => Maps.rollback inst
  | .hbmRefresh stack ch pc bank => Maps.hbmRefresh stack ch pc bank
  | .hbmScrubWriteback block => Maps.hbmScrubWriteback block
  | .pinRepair stack ch pin => Maps.pinRepair stack ch pin
  | .pinRepairEnd stack ch => Maps.pinRepairEnd stack ch
  | .e2eTimeout inst dest => Maps.e2eTimeout inst dest
  | .messageResend seq => Maps.messageResend seq
  | .engineRowPerform core eng row => Maps.engineRowPerform core eng row
  | .machineCheckHandlerTimeout deck => Maps.machineCheckHandlerTimeout deck
  | .resetDeassert => Maps.resetDeassert
  | .triggerWrite value => Maps.triggerWrite value
  | .uploadWindowWrite die off value => Maps.uploadWindowWrite die off value
  | .hmaskWrite k value => Maps.hmaskWrite k value
  | .tempTableWrite entry value => Maps.tempTableWrite entry value
  | .registerWrite off value => Maps.registerWrite off value
  | .coreReqRun core => Maps.coreReqRun core
  | .coreReqGate core => Maps.coreReqGate core
  | .coreReqOff core => Maps.coreReqOff core
  | .dieReqActive die => Maps.dieReqActive die
  | .dieReqRetain die => Maps.dieReqRetain die
  | .dieReqOff die => Maps.dieReqOff die
  | .pageRequestResponse ctx page answer => Maps.pageRequestResponse ctx page answer
  | .atsInvalidateRequest ctx base len => Maps.atsInvalidateRequest ctx base len
  | .hbmRefreshIntervalChange stack layer celsius => Maps.hbmRefreshIntervalChange stack layer celsius
  | .linkDown link => Maps.linkDown link
  | .thermalTrip die celsius => Maps.thermalTrip die celsius
  | .thermalTripClear die celsius => Maps.thermalTripClear die celsius
  | .tapInstruction codes => Maps.tapInstruction codes
  | .atsTranslationCompletion ctx page answer => Maps.atsTranslationCompletion ctx page answer
  | .peerPartialArrival source partials => Maps.peerPartialArrival source partials
  | .machineCheck kind core deck detail => Maps.machineCheck kind core deck detail
  | .hbmScrubRead block corrected bad => Maps.hbmScrubRead block corrected bad
/-- R136: a well-formed instruction has a truth table other than 0x00. -/
theorem tt_ne_zero_of_wf {i : Instr} {h : Hd} {op : Nat} {ks : List Slot} (e : opcodeOf i = some (h, op, ks)) (w : i.wf = true) : h.tt ≠ 0 := by
  simp only [Instr.wf, e, Bool.and_eq_true] at w
  obtain ⟨⟨⟨-, ht⟩, -⟩, -⟩ := w
  simpa using ht

/-- R135, R136: what a word must meet to be read as an instruction. -/
theorem decodeSyl_eq_ok_iff {k : Slot} {y : Nat} {i : Instr} : decodeSyl k y = .ok i ↔
    bits y 56 8 ≠ 0 ∧ decodeMap k (bits y 33 8) (decHd k y) y = some i ∧ fieldsValid i = true ∧ fieldsZero i = true := by
  by_cases ht : bits y 56 8 = 0
  · simp [decodeSyl, ht]
  cases hm : decodeMap k (bits y 33 8) (decHd k y) y with
  | none => simp [decodeSyl, ht, hm]
  | some j =>
    simp only [decodeSyl, ht, hm, if_false, ne_eq, not_false_eq_true, true_and, Option.some.injEq, Bool.not_eq_true']
    by_cases hj : fieldsValid j = true ∧ fieldsZero j = true
    · obtain ⟨hv, hz⟩ := hj
      simp only [hv, hz, Bool.true_eq_false, if_false, Syl.ok.injEq]
      exact ⟨fun e => ⟨e, e ▸ hv, e ▸ hz⟩, And.left⟩
    · refine ⟨fun e => ?_, fun ⟨e, hi⟩ => absurd (e ▸ hi) hj⟩
      split at e
      · cases e
      · split at e
        · cases e
        · simp_all

/-- Settles O1: the parts of the word give back the head, the opcode and the body, and the map of the slot reads the body back. -/
theorem decodeOfEncode : Obligations.DecodeOfEncode := by
  intro i h op ks y w e he
  obtain ⟨hb, hi⟩ := maps_statement i
  obtain ⟨ho, hmap⟩ := hi h op ks e
  have hy : y = sylWord h op (bodyOf i) := by
    simp only [encode, e, Option.some.injEq] at he
    exact he.symm
  obtain ⟨hlt, hbody, hop, htt, -⟩ := sylWord_parts h op (bodyOf i) ho hb
  subst hy
  refine ⟨hlt, decodeSyl_eq_ok_iff.mpr ⟨?_, ?_, Maps.wf_valid e w, ScalarControl.fieldsZero_of_wf w⟩⟩
  · rw [htt]
    exact fun h0 => tt_ne_zero_of_wf e w (BitVec.eq_of_toNat_eq h0)
  · rw [hop, decHd_sylWord h op _ ho hb]
    exact hmap w _ hbody

/-! ### What is decoded -/

/-- The instruction stands at this head and opcode in a map that holds the slot. -/
def StandsAt (i : Instr) (h : Hd) (op : Nat) (k : Slot) : Prop := ∃ ks, opcodeOf i = some (h, op, ks) ∧ k ∈ ks

theorem decodeMtsr_standsAt {h : Hd} {b : XI} {i : Instr} (e : decodeMtsr h b = some i) : StandsAt i h 0x61 .s := by
  unfold decodeMtsr at e
  repeat' split at e
  all_goals cases e
  all_goals exact ⟨_, rfl, .head _⟩

theorem decodeFence_standsAt {h : Hd} {b : XRR} {i : Instr} (e : decodeFence h b = some i) : StandsAt i h 0x62 .a ∧ StandsAt i h 0x62 .s := by
  unfold decodeFence at e
  split at e
  all_goals cases e
  all_goals exact ⟨⟨_, rfl, .head _⟩, ⟨_, rfl, .tail _ (.head _)⟩⟩

/-- What map A reads stands in it, at its own opcode (R143). -/
theorem decodeA_standsAt {op y : Nat} {h : Hd} {i : Instr} (e : decodeA op h y = some i) : StandsAt i h op .a := by
  unfold decodeA at e
  repeat' split at e
  case h_45 => exact (decodeFence_standsAt e).1
  all_goals cases e
  all_goals exact ⟨_, rfl, .head _⟩

/-- What map S reads stands in it, at its own opcode (R143). -/
theorem decodeS_standsAt {op y : Nat} {h : Hd} {i : Instr} (e : decodeS op h y = some i) : StandsAt i h op .s := by
  unfold decodeS at e
  split at e
  case h_48 => exact decodeMtsr_standsAt e
  case h_49 => exact (decodeFence_standsAt e).2
  all_goals cases e
  all_goals exact ⟨_, rfl, List.elem_iff.mp rfl⟩

/-- What map V reads stands in it, at its own opcode (R144). -/
theorem decodeV_standsAt {op y : Nat} {h : Hd} {i : Instr} (e : decodeV op h y = some i) : StandsAt i h op .v := by
  unfold decodeV at e
  split at e
  all_goals cases e
  all_goals exact ⟨_, rfl, List.elem_iff.mp rfl⟩

/-- What map X reads stands in it, at its own opcode (R145). -/
theorem decodeX_standsAt {op y : Nat} {h : Hd} {i : Instr} (e : decodeX op h y = some i) : StandsAt i h op .x := by
  unfold decodeX at e
  split at e
  all_goals cases e
  all_goals exact ⟨_, rfl, List.elem_iff.mp rfl⟩

theorem decodeMap_standsAt {k : Slot} {op y : Nat} {h : Hd} {i : Instr} (e : decodeMap k op h y = some i) : StandsAt i h op k :=
  match k with
  | .a => decodeA_standsAt e
  | .s => decodeS_standsAt e
  | .v => decodeV_standsAt e
  | .x => decodeX_standsAt e

theorem decHd_tt_ne_zero {k : Slot} {y : Nat} (h : bits y 56 8 ≠ 0) : (decHd k y).tt ≠ 0 := by
  intro e
  have := congrArg BitVec.toNat e
  simp [decHd, bits] at this h
  omega

/-- Settles O2: the map of the slot holds what it reads at the opcode it was read from, and the rest are the checks of the decoder. -/
theorem decodedIsWellFormed : Obligations.DecodedIsWellFormed := by
  intro k y i e
  obtain ⟨ht, hm, hv, hz⟩ := decodeSyl_eq_ok_iff.mp e
  obtain ⟨ks, ho, hk⟩ := decodeMap_standsAt hm
  refine ⟨?_, _, _, ks, ho, rfl, hk, rfl⟩
  have hs : (decHd k y).slot ∈ ks := hk
  simpa [Instr.wf, ho, hv, hz] using And.intro hs (decHd_tt_ne_zero ht)

end Sys2Proof.Laws.Decoding


namespace Sys2Proof.Laws.MemoryInvariant
open Sys2Proof.Machine

/-! SUPPORT AND CLAIMS. No action of the machine brings memory out of its canonical form (a form of the model, NOTES.md Assumptions 1 and 2). -/

/-- Where the outcome has a next state, memory has its canonical form there. -/
def Keeps (o : Out) : Prop := ∀ t, o = .next t → t.mem.wf = true

theorem keeps_next {t : State} (h : t.mem.wf = true) : Keeps (.next t) := by
  rintro _ ⟨⟩
  exact h
@[simp] theorem keeps_fault (f : Fault) : Keeps (.fault f) := by simp [Keeps]
@[simp] theorem keeps_next_iff {t : State} : Keeps (.next t) ↔ t.mem.wf = true := ⟨fun h => h t rfl, keeps_next⟩
theorem keeps_refused (r : Refusal) : Keeps (.refused r) := by simp [Keeps]
theorem keeps_ite {c : Prop} [Decidable c] {a b : Out} (ha : Keeps a) (hb : Keeps b) : Keeps (if c then a else b) := by
  split <;> assumption

theorem wf_of_mem_eq {s t : State} (h : t.mem = s.mem) (hs : s.mem.wf = true) : t.mem.wf = true := h ▸ hs

variable {s : State}

/-! ### Scalar and control instructions -/

theorem keeps_arel (h : Hd) (b : XRR) (hs : s.mem.wf = true) : Keeps (execArel h b s) :=
  keeps_next (State.wf_scalar _ _ _ _ hs fun _ hs => State.wf_ite (State.wf_raise _ _ _ _ _ hs) hs)

theorem keeps_fork (h : Hd) (b : BRF) (hs : s.mem.wf = true) : Keeps (execFork h b s) :=
  keeps_next (State.wf_scalar _ _ _ _ hs fun _ hs => State.wf_ite (State.wf_raise _ _ _ _ _ hs) hs)

theorem keeps_halt (h : Hd) (b : XRR) (hs : s.mem.wf = true) : Keeps (execHalt h b s) :=
  keeps_next (State.wf_scalar _ _ _ _ hs fun _ hs =>
    State.wf_ite (State.wf_raise _ _ _ _ _ hs) (State.wf_ite (State.wf_raise _ _ _ _ _ hs) hs))

theorem keeps_join (h : Hd) (b : XRR) (hs : s.mem.wf = true) : Keeps (execJoin h b s) :=
  keeps_next (State.wf_scalar _ _ _ _ hs fun _ hs =>
    State.wf_ite hs (State.wf_ite hs (State.wf_ite hs (State.wf_ite (State.wf_raise _ _ _ _ _ hs) hs))))

theorem keeps_sq (h : Hd) (b : XRR) (hs : s.mem.wf = true) : Keeps (execSq h b s) :=
  keeps_next (State.wf_scalar _ _ _ _ hs fun _ hs => State.wf_ite (State.wf_raise _ _ _ _ _ hs) (State.wf_ite hs hs))

theorem keeps_mfsr (h : Hd) (b : XI) (hs : s.mem.wf = true) : Keeps (execMfsr h b s) :=
  keeps_next (State.wf_scalar _ _ _ _ hs fun _ hs => State.wf_ite (State.wf_raise _ _ _ _ _ hs) (wf_of_mem_eq (State.mem_writeX _ _ _ _ _) hs))

theorem keeps_rfe (h : Hd) (b : XRR) (hs : s.mem.wf = true) : Keeps (execRfe h b s) :=
  keeps_next (State.wf_scalar _ _ _ _ hs fun s hs => State.wf_ite (State.wf_raise _ _ _ _ _ hs) (State.wf_ite (State.wf_raise _ _ _ _ _ hs)
    (State.wf_ite (wf_of_mem_eq (State.mem_stopDeck s s.dn) hs) (wf_of_mem_eq (State.mem_trapReturn s s.dn) hs))))

theorem keeps_cancel (h : Hd) (b : XRR) (hs : s.mem.wf = true) : Keeps (execCancel h b s) := by
  refine keeps_next (State.wf_scalar _ _ _ _ hs fun s hs => ?_)
  dsimp only
  split
  · exact hs
  · exact State.wf_foldl _ _ _ hs fun s d hs => by simp [hs]

theorem keeps_spawn (h : Hd) (b : XRR) (hs : s.mem.wf = true) : Keeps (execSpawn h b s) := by
  refine keeps_next (State.wf_scalar _ _ _ _ hs fun s hs => State.wf_ite (wf_of_mem_eq (State.mem_askFor _ _ _ _) hs) ?_)
  refine State.wf_operands _ _ _ _ _ _ _ hs fun s _ hs => ?_
  extract_lets live mews status sub tmpl k set
  split
  · refine State.wf_ite (wf_of_mem_eq (State.mem_askFor _ _ _ _) hs) (wf_of_mem_eq (State.mem_pushStatus _ _ _) (State.wf_ite ?_ ?_))
    all_goals exact State.wf_ite (State.wf_writeVA _ _ _ _ _ _ _ hs) hs
  · exact hs

theorem keeps_xfork (h : Hd) (b : XRR) (hs : s.mem.wf = true) : Keeps (execXfork h b s) := by
  refine keeps_next (State.wf_scalar _ _ _ _ hs fun s hs => State.wf_operands _ _ _ _ _ _ _ hs fun s _ hs => ?_)
  dsimp only
  split
  · exact State.wf_raise _ _ _ _ _ hs
  · rw [State.mem_pushStatus]
    split <;> exact hs

/-! ### Accesses -/

theorem mem_ldqRows (s : State) (q id n0 : Nat) (want : Option (BitVec 8)) (r k : Nat) : (s.ldqRows q id n0 want r k).mem = s.mem := by
  induction k generalizing s r with
  | zero => rfl
  | succ k ih => rw [State.ldqRows, ih, State.mem_access]

theorem keeps_ldq (h : Hd) (b : XRR) (hs : s.mem.wf = true) : Keeps (execLdq h b s) := by
  refine keeps_next (State.wf_revocable _ _ _ _ hs fun s hs => ?_)
  extract_lets w m q k rows want full
  split
  · refine State.wf_ite hs (State.wf_ite hs (State.wf_ite (State.wf_raise _ _ _ _ _ hs) (State.wf_ite (State.wf_raise _ _ _ _ _ hs) ?_)))
    exact wf_of_mem_eq (mem_ldqRows _ _ _ _ _ _ _) hs
  · refine State.wf_ite hs (State.wf_ite hs (State.wf_ite (State.wf_raise _ _ _ _ _ hs) (State.wf_ite (State.wf_raise _ _ _ _ _ hs) ?_)))
    exact wf_of_mem_eq (State.mem_carry _ _ _ _ _) (wf_of_mem_eq (State.mem_toCore _ _ _) hs)
  · exact State.wf_ite hs (State.wf_raise _ _ _ _ _ hs)

/-- Asking for the pages of a record, or walking to them, writes no memory. -/
theorem mem_walkAll (s : State) (ctx : Nat) (ps : List Nat) : (ps.foldl (fun s p => s.walk s.cn ctx p) s).mem = s.mem :=
  State.mem_foldl _ _ _ fun s p => State.mem_walk s s.cn ctx p

theorem keeps_hld (h : Hd) (b : XI) (hs : s.mem.wf = true) : Keeps (execHld h b s) := by
  refine keeps_next (State.wf_revocable _ _ _ _ hs fun s hs => ?_)
  extract_lets w e old later gen enter
  have henter : ∀ s : State, s.mem.wf = true → (enter s).mem.wf = true := fun s hs => by
    refine State.wf_ite ?_ (wf_of_mem_eq (State.mem_writeX _ _ _ _ _) ?_) <;> exact State.wf_ite hs hs
  clear_value enter
  split
  · refine State.wf_ite (State.wf_raise _ _ _ _ _ hs) (State.wf_ite (State.wf_raise _ _ _ _ _ hs) ?_)
    exact henter _ (wf_of_mem_eq (State.mem_addRevoc _ _ _ _ _ _ _) hs)
  · refine State.wf_ite hs ?_
    split
    · exact State.wf_raise _ _ _ _ _ hs
    refine State.wf_ite (State.wf_raise _ _ _ _ _ hs) ?_
    extract_lets va s2
    have h2 : s2.mem.wf = true := henter _ (wf_of_mem_eq (State.mem_addRevoc _ _ _ _ _ _ _) hs)
    split
    · exact wf_of_mem_eq (State.mem_askPage _ _ _) h2
    · refine wf_of_mem_eq (State.mem_fetchRecord _ _ _ _ _ _ _) (State.wf_ite (wf_of_mem_eq (mem_walkAll _ _ _) h2) h2)
  · exact State.wf_raise _ _ _ _ _ hs

theorem keeps_remoteReadArrival (req : Nat) (hs : s.mem.wf = true) : Keeps (execRemoteReadArrival req s) := by
  refine keeps_next ?_
  split
  · exact State.wf_foldl _ _ _ hs fun s r hs => hs
  · exact hs

theorem keeps_vst (h : Hd) (b : VRR) (hs : s.mem.wf = true) : Keeps (execVst h b s) := by
  refine keeps_next (State.wf_ite hs (State.wf_ite hs ?_))
  split
  · exact State.wf_ite (State.wf_raise _ _ _ _ _ hs) (State.wf_operands _ _ _ _ _ _ _ hs fun s vs hs => hs)
  · exact State.wf_operands _ _ _ _ _ _ _ hs fun s vs hs => hs

theorem keeps_vcvt (h : Hd) (b : VRR) (hs : s.mem.wf = true) : Keeps (execVcvt h b s) := by
  refine keeps_next (State.wf_ite hs (State.wf_operands _ _ _ _ _ _ _ hs fun s vs hs => ?_))
  refine State.wf_ite (by simp [hs]) ?_
  extract_lets rm es ed n p off src w lanesOn r s1
  have h1 : s1.mem.wf = true := State.wf_ite hs hs
  simp [h1]

theorem keeps_xmit (h : Hd) (b : XFM) (hs : s.mem.wf = true) : Keeps (execXmit h b s) := by
  refine keeps_next (State.wf_ite ?_ ?_)
  · exact State.wf_irrevocable _ _ _ _ hs fun s hs => State.wf_operands _ _ _ _ _ _ _ hs fun s vs hs => hs
  · refine State.wf_irrevocable _ _ _ _ hs fun s hs => ?_
    extract_lets w
    split
    · refine State.wf_ite (State.wf_raise _ _ _ _ _ hs) ?_
      split
      · exact State.wf_raise _ _ _ _ _ hs
      · exact State.wf_ite (State.wf_raise _ _ _ _ _ hs) hs
    · exact State.wf_raise _ _ _ _ _ hs

/-! ### The array and the Trestle -/

theorem keeps_mclr (h : Hd) (b : XRR) (hs : s.mem.wf = true) : Keeps (execMclr h b s) :=
  keeps_next (State.wf_matrix _ _ _ _ _ _ _ hs fun _ hs => State.wf_matrixChecks _ _ _ _ _ _ _ hs fun _ hs =>
    State.wf_foldl _ _ _ hs fun _ _ hs => hs)

theorem keeps_mma (h : Hd) (b : XRR) (hs : s.mem.wf = true) : Keeps (execMma h b s) := by
  refine keeps_next (State.wf_matrix _ _ _ _ _ _ _ hs fun _ hs => State.wf_matrixChecks _ _ _ _ _ _ _ hs fun s hs => ?_)
  extract_lets todo g s1 s2 prio s3
  have h3 : s3.mem.wf = true := State.wf_foldl _ _ _ hs fun _ _ hs => hs
  clear_value s3 todo
  cases todo <;> exact h3

theorem keeps_mrd (h : Hd) (b : XRR) (hs : s.mem.wf = true) : Keeps (execMrd h b s) := by
  refine keeps_next (State.wf_matrix _ _ _ _ _ _ _ hs fun _ hs => State.wf_matrixChecks _ _ _ _ _ _ _ hs fun s hs => ?_)
  refine State.wf_foldl _ _ _ ?_ fun _ _ hs => hs
  exact State.wf_ite hs hs

theorem keeps_tdn (h : Hd) (b : TRS) (hs : s.mem.wf = true) : Keeps (execTdn h b s) := by
  refine keeps_next (State.wf_scalar _ _ _ _ hs fun s hs => State.wf_ite hs ?_)
  split
  · exact State.wf_raise _ _ _ _ _ hs
  · refine State.wf_foldl _ _ _ (by simp [hs]) fun s i hs => by simp [hs]

/-! ### Nodes, instances and sets -/

theorem keeps_squareComplete (inst : Nat) (hs : s.mem.wf = true) : Keeps (execSquareComplete inst s) := by
  refine keeps_next (State.wf_foldl _ _ _ ?_ fun s n hs => by simp [hs])
  refine wf_of_mem_eq (State.mem_forgetVersions _) (State.wf_foldl _ _ _ ?_ fun s c hs => hs)
  exact wf_of_mem_eq (State.mem_endPhase _ _) hs

theorem keeps_loopBodyEnd (node : Nat) (hs : s.mem.wf = true) : Keeps (execLoopBodyEnd node s) :=
  keeps_next (State.wf_ite hs (State.wf_ite (by simp [hs]) (State.wf_ite (State.wf_nodeReady _ _ _ hs) (State.wf_completePlain _ _ _ hs))))

theorem keeps_tokenArrival (node : Nat) (skip : Bool) (hs : s.mem.wf = true) : Keeps (execTokenArrival node skip s) := by
  refine keeps_next ?_
  have h0 : (s.acknowledge (.tokenArrival node skip)).mem.wf = true := by simp [hs]
  revert h0
  generalize s.acknowledge (.tokenArrival node skip) = s
  intro h0
  split
  · exact h0
  rename_i l _
  refine State.wf_ite (State.wf_runConditional _ _ h0) (State.wf_ite h0 ?_)
  have h1 := State.wf_setSlotWord (s.modLaunch l.graph fun l => { l with skips := if skip then l.skips ++ [node] else l.skips }) node 1
    (runtimeWord (s.nodeCount node - 1) 0 (s.nodeIters node)) (wf_of_mem_eq (State.mem_modLaunch _ _ _) h0)
  exact State.wf_ite h1 (State.wf_ite (by simp [h1]) (State.wf_nodeReady _ _ _ h1))

theorem keeps_launchStart (graph : Nat) (hs : s.mem.wf = true) : Keeps (execLaunchStart graph s) := by
  unfold execLaunchStart
  split
  · exact keeps_next hs
  refine keeps_ite (keeps_next hs) (keeps_next ?_)
  rw [State.mem_checkLaunchEnd]
  refine State.wf_foldl _ _ _ ?_ fun s p hs => State.wf_nodeReady _ _ _ hs
  exact State.wf_foldl _ _ _ hs fun s p hs => State.wf_setSlotWord _ _ _ _ hs

theorem keeps_roundaboutSelection (die : Nat) (hs : s.mem.wf = true) : Keeps (execRoundaboutSelection die s) := by
  refine keeps_next (State.wf_foldl _ _ _ ?_ fun s p hs => by simp [hs])
  exact State.wf_foldl _ _ _ hs fun s p hs => State.wf_ite (State.wf_selectOne _ _ hs) hs

/-- Putting a set into its ring writes its entry and no other memory. -/
theorem wf_appendRing {die : Nat} {q : SpawnSet} {ahead : List SpawnSet} {t : State}
    (e : s.appendRing die q ahead = some t) (hs : s.mem.wf = true) : t.mem.wf = true := by
  unfold State.appendRing at e
  dsimp only at e
  split at e
  · cases e
    exact State.wf_writeVA _ _ _ _ _ _ _ hs
  · cases e

theorem keeps_spawnSetArrival (set : Nat) (hs : s.mem.wf = true) : Keeps (execSpawnSetArrival set s) := by
  refine keeps_next ?_
  have h0 : (s.acknowledge (.spawnSetArrival set)).mem.wf = true := by simp [hs]
  revert h0
  generalize s.acknowledge (.spawnSetArrival set) = s
  intro h0
  split
  · exact h0
  refine State.wf_ite h0 (State.wf_ite (by simp [h0]) (State.wf_ite h0 (State.wf_ite (wf_of_mem_eq (State.mem_listSet _ _ _) h0) ?_)))
  split
  · rename_i t e
    exact wf_appendRing e h0
  · exact wf_of_mem_eq (State.mem_askFor { s with flying := _ } _ _ _) h0

theorem keeps_mewsRingRetry (die : Nat) (hs : s.mem.wf = true) : Keeps (execMewsRingRetry die s) := by
  have hfold : ∀ (l : List SpawnSet) (f : State × List SpawnSet → SpawnSet → State × List SpawnSet) (p : State × List SpawnSet),
      p.1.mem.wf = true → (∀ p q, p.1.mem.wf = true → (f p q).1.mem.wf = true) → (l.foldl f p).1.mem.wf = true := fun l f => by
    induction l with
    | nil => exact fun _ hp _ => hp
    | cons q l ih => exact fun p hp hf => ih _ (hf _ _ hp) hf
  refine keeps_next (hfold _ _ _ hs fun p q hp => ?_)
  split
  · rename_i t e
    exact (wf_appendRing e hp :)
  · exact wf_of_mem_eq (State.mem_askFor _ _ _ _) hp

theorem keeps_dispatch (inst : Nat) (hs : s.mem.wf = true) : Keeps (execDispatch inst s) := by
  unfold execDispatch
  extract_lets +onlyGivenNames x
  refine keeps_ite (keeps_next hs) (keeps_ite (keeps_next ?_) (keeps_ite (keeps_next (State.wf_copyStep _ _ hs)) ?_))
  · split
    · exact State.wf_ite (by simp [hs]) (by simp [hs])
    · simp [hs]
  extract_lets +onlyGivenNames x s1 need
  have h1 : s1.mem.wf = true := hs
  clear_value s1
  refine keeps_ite (keeps_next ?_) (keeps_ite (keeps_next (by simp [h1])) ?_)
  · exact wf_of_mem_eq (State.mem_foldl _ _ _ fun s p => State.mem_askPage s _ p) h1
  split
  · exact keeps_fault _
  split
  rename_i c2 s2 e2
  have h2 : s2.mem.wf = true := by
    have := congrArg (fun q => q.2.mem.wf) e2
    rw [← this]
    exact State.wf_foldl2 _ _ _ h1 fun q e hq => by simp [hq]
  extract_lets +onlyGivenNames writes
  split
  rename_i c3 s3 e3
  have h3 : s3.mem.wf = true := by
    have := congrArg (fun q => q.2.mem.wf) e3
    rw [← this]
    exact State.wf_foldl2 _ _ _ h2 fun q e hq => by simp [hq]
  extract_lets +onlyGivenNames s4 cs s5
  have h5 : s5.mem.wf = true := State.wf_foldl _ _ _ h3 fun s c hs => State.wf_copyPage _ _ _ hs
  clear_value s5
  refine keeps_ite (keeps_next (State.wf_copyStep _ _ h5)) ?_
  split
  rename_i t s6 e6
  have h6 : s6.mem = s5.mem := by
    have := congrArg (fun q => q.2.mem) e6
    rw [← this]
    simp
  exact keeps_next (wf_of_mem_eq h6 h5)

theorem keeps_nodeComplete (node : Nat) (hs : s.mem.wf = true) : Keeps (execNodeComplete node s) := by
  unfold execNodeComplete
  extract_lets +onlyGivenNames commits is
  refine keeps_ite (keeps_next hs) ?_
  split
  · exact keeps_next hs
  extract_lets +onlyGivenNames hc
  split
  · exact keeps_next (by simp [hs])
  refine keeps_ite (keeps_next (by simp [hs])) ?_
  split
  · exact keeps_fault _
  extract_lets +onlyGivenNames s1 s2 s3
  have h1 : s1.mem.wf = true := State.wf_ite (wf_of_mem_eq (State.mem_commitNode _ _ _) hs)
    (State.wf_foldl _ _ _ hs fun s p hs => State.wf_ite (State.wf_killInst _ _ _ hs) hs)
  clear_value s1
  have h2 : s2.mem.wf = true := by
    simp only [s2]
    generalize hc = o
    cases o with
    | none => exact h1
    | some h => exact State.wf_writeVA _ _ _ _ _ _ _ h1
  clear_value s2
  have h3 : s3.mem.wf = true := wf_of_mem_eq (State.mem_endInsts _ _) h2
  refine keeps_ite (keeps_next h3) (keeps_next ?_)
  rw [State.mem_nodeFinished, State.mem_sendTokens]
  exact State.wf_setNodeState _ _ _ h3

theorem mem_awaitRanges (s : State) (ctx : Nat) (rs : List (Nat × Nat)) (ev : Instr) : (s.awaitRanges ctx rs ev).mem = s.mem := by
  have hask := State.mem_foldl rs (fun (s : State) r => s.askRange ctx r.1 r.2) s fun s r => State.mem_askRange s _ _ _
  unfold State.awaitRanges
  dsimp only
  split
  · rw [State.mem_joinQueue, hask]
  · exact hask

theorem keeps_preemptSave (inst : Nat) (hs : s.mem.wf = true) : Keeps (execPreemptSave inst s) := by
  unfold execPreemptSave
  extract_lets +onlyGivenNames x
  refine keeps_ite (keeps_next (State.wf_foldl _ _ _ hs fun s n hs => hs)) (keeps_ite ?_ (keeps_next hs))
  extract_lets +onlyGivenNames s1 saved ranges
  have h1 : s1.mem.wf = true := State.wf_foldl _ _ _ hs fun s n hs => by simp [hs]
  clear_value s1
  refine keeps_ite (keeps_next (wf_of_mem_eq (mem_awaitRanges _ _ _ _) h1)) ?_
  split
  · exact keeps_fault _
  extract_lets +onlyGivenNames s2 slot s3 x'
  have h2 : s2.mem.wf = true := State.wf_foldl _ _ _ h1 fun s q hs =>
    State.wf_ite (State.wf_writePart _ _ _ _ _ (State.wf_writeRange _ _ _ _ _ hs)) (State.wf_writeRange _ _ _ _ _ hs)
  clear_value s2
  have h3 : s3.mem.wf = true := State.wf_foldl _ _ _ h2 fun s n hs => by simp [hs]
  exact keeps_next (wf_of_mem_eq (State.mem_askSelections _) h3)

theorem keeps_preemptResume (inst : Nat) (hs : s.mem.wf = true) : Keeps (execPreemptResume inst s) := by
  refine keeps_next (State.wf_ite hs (State.wf_ite hs (State.wf_ite ?_ (State.wf_ite ?_ ?_))))
  · exact wf_of_mem_eq (State.mem_copyRows _ _ _ _) (wf_of_mem_eq (State.mem_leaveTrams _ _ _) hs)
  · exact wf_of_mem_eq (mem_awaitRanges _ _ _ _) hs
  · refine wf_of_mem_eq (State.mem_forgetVersions _) (State.wf_foldl _ _ _ (wf_of_mem_eq (State.mem_leaveTrams _ _ _) hs) fun s v hs => ?_)
    exact wf_of_mem_eq (State.mem_dropHeld s v.deck) hs

theorem keeps_xredResultDelivery (inst slot : Nat) (hs : s.mem.wf = true) : Keeps (execXredResultDelivery inst slot s) := by
  refine keeps_ite (keeps_next hs) (keeps_ite (keeps_next ?_) (keeps_ite (keeps_next ?_) (keeps_next ?_)))
  · exact wf_of_mem_eq (State.mem_loseSum _ _ _) hs
  · exact wf_of_mem_eq (State.mem_roundSlot _ _ _ _) hs
  · refine wf_of_mem_eq (State.mem_closeBound _ _) (State.wf_foldl _ _ _ ?_ fun s p hs => wf_of_mem_eq (State.mem_peerPartials _ _ _ _) hs)
    exact State.wf_foldl _ _ _ hs fun s g hs => wf_of_mem_eq (State.mem_sendGroup _ _ _) hs

theorem keeps_checksumReplay (core : Nat) (hs : s.mem.wf = true) : Keeps (execChecksumReplay core s) := by
  refine keeps_next (State.wf_foldl _ _ _ hs fun s r hs => State.wf_ite ?_ ?_)
  · exact wf_of_mem_eq (State.mem_arrayCheck _ _ _ _ _ _) (wf_of_mem_eq (State.mem_modStatus _ _ _) hs)
  · exact wf_of_mem_eq (State.mem_spoiledReads _ _ _ _ _ _) hs

/-! ### Rows, engines, memory stacks -/

theorem keeps_tcfgTakeEffect (core tile : Nat) (hs : s.mem.wf = true) : Keeps (execTcfgTakeEffect core tile s) := by
  refine keeps_next ?_
  split
  · refine State.wf_ite hs ?_
    dsimp only
    rw [State.mem_modCore, State.mem_pushNotes]
    exact State.wf_foldl _ _ _ hs fun s j hs => wf_of_mem_eq (State.mem_evalRow _ _ _) hs
  · exact hs

theorem keeps_l7RefreshOverdue (core row : Nat) (hs : s.mem.wf = true) : Keeps (execL7RefreshOverdue core row s) := by
  refine keeps_next (State.wf_ite ?_ hs)
  extract_lets +onlyGivenNames s1 is
  have h1 : s1.mem.wf = true := hs
  clear_value s1
  refine State.wf_ite (wf_of_mem_eq (State.mem_logError _ _ _ _ _ _) h1) ?_
  exact State.wf_foldl _ _ _ h1 fun _ _ hs => wf_of_mem_eq (State.mem_arrayCheck _ _ _ _ _ _) hs

theorem keeps_tempTableApply (hs : s.mem.wf = true) : Keeps (execTempTableApply s) :=
  keeps_next (State.wf_ite (State.wf_foldl _ _ _ hs fun _ _ hs => wf_of_mem_eq (State.mem_reevaluate _ _) hs) hs)

theorem keeps_hbmScrubRead (block : Nat) (corrected : Bool) (bad : List Nat) (hs : s.mem.wf = true) :
    Keeps (execHbmScrubRead block corrected bad s) := by
  have h1 := State.wf_spoilHbm s ((bad.filter (· < 8)).map (8 * block + ·)) hs
  refine keeps_ite (keeps_next h1) (keeps_ite (keeps_next ?_) (keeps_next h1))
  refine wf_of_mem_eq (State.mem_delay _) (State.wf_foldl _ _ _ ?_ fun s x hs => wf_of_mem_eq (State.mem_countSymbol _ _) hs)
  exact State.wf_ite (wf_of_mem_eq (State.mem_countSymbol _ _) h1) h1

theorem keeps_atsTranslationCompletion (ctx page : Nat) (answer : Option (Nat × Bool × Bool)) (hs : s.mem.wf = true) :
    Keeps (execAtsTranslationCompletion ctx page answer s) := by
  refine keeps_ite (keeps_next hs) ?_
  extract_lets +onlyGivenNames s1
  have h1 : s1.mem.wf = true := hs
  clear_value s1
  split
  · exact keeps_next (wf_of_mem_eq (State.mem_installPage _ _ _ _) h1)
  extract_lets +onlyGivenNames ws first s2
  have h2 : s2.mem.wf = true := wf_of_mem_eq (State.mem_send _ _ _ _ _) h1
  clear_value first s2
  split
  · exact keeps_next h2
  extract_lets +onlyGivenNames i s3 s4
  have h4 : s4.mem.wf = true := State.wf_foldl _ _ _ h2 fun s w hs => by
    split
    · exact wf_of_mem_eq (State.mem_pageAbsent _ _ _ _) hs
    · exact hs
  clear_value s4
  refine keeps_next ?_
  split
  · dsimp only
    split
    · rw [State.mem_failCheck]
      exact h4
    · exact h4
  · exact h4

theorem mem_rowIn (s : State) (core eng r : Nat) (q : Running) (c dst : Nat) (data : Option Image) (tag : Tag) :
    (s.rowIn core eng r q c dst data tag).mem = s.mem := by
  unfold State.rowIn
  dsimp only
  split <;> rfl

theorem keeps_memoryRow (core eng r : Nat) (q : Running) (va d : Nat) (hs : s.mem.wf = true) : Keeps (s.memoryRow core eng r q va d) := by
  unfold State.memoryRow
  dsimp only
  split
  · exact keeps_fault _
  split
  · exact keeps_next (by simp [hs])
  · exact keeps_next (wf_of_mem_eq (mem_rowIn _ _ _ _ _ _ _ _ _) (wf_of_mem_eq (State.mem_correctHbm _ _ _ _ _ _) hs))

/-- What a row that comes in does, kind of command by kind of command: only a store back writes memory at once. -/
theorem keeps_performRow (core eng r : Nat) (q : Running) (hs : s.mem.wf = true) : Keeps (s.performRow core eng r q) := by
  unfold State.performRow
  extract_lets +onlyGivenNames j x v got silent tag
  clear_value j
  have hfail : ∀ (s : State) (c : Nat) (a : Word), s.mem.wf = true → (s.failRow core eng r c a).mem.wf = true :=
    fun s c a hs => wf_of_mem_eq (State.mem_failRow _ _ _ _ _ _) hs
  have hpeer : ∀ t, (s.peerRefuses q t).2.mem.wf = true := fun t => wf_of_mem_eq (State.mem_peerRefuses _ _ _) hs
  split
  case h_1 =>
    split
    · exact keeps_memoryRow _ _ _ _ _ _ hs
    · exact keeps_next hs
  case h_2 => exact keeps_memoryRow _ _ _ _ _ _ hs
  case h_3 =>
    split
    · exact keeps_next (State.wf_rowDone _ _ _ _ (State.wf_writeRowVA _ _ _ _ _ _ _ hs))
    · exact keeps_next hs
  case h_4 | h_5 =>
    refine keeps_ite (keeps_next (hfail _ _ _ hs)) (keeps_next ?_)
    exact State.wf_foldl _ _ _ hs fun s d hs => wf_of_mem_eq (mem_rowIn _ _ _ _ _ _ _ _ _) hs
  case h_6 =>
    refine keeps_ite (keeps_next (wf_of_mem_eq (State.mem_lostTraffic _) hs)) ?_
    extract_lets +onlyGivenNames t
    have hp := hpeer t
    generalize s.peerRefuses q t = p at hp ⊢
    obtain ⟨no, s⟩ := p
    refine keeps_ite (keeps_next (hfail _ _ _ hp)) ?_
    exact keeps_next (State.wf_rowDone _ _ _ _ (wf_of_mem_eq (State.mem_send _ _ _ _ _) (wf_of_mem_eq (State.mem_modRunning _ _ _ _) hp)))
  case h_7 =>
    refine keeps_ite (keeps_next (wf_of_mem_eq (State.mem_lostTraffic _) hs)) ?_
    extract_lets +onlyGivenNames t
    have hp := hpeer t
    generalize s.peerRefuses q t = p at hp ⊢
    obtain ⟨no, s⟩ := p
    refine keeps_ite (keeps_next (hfail _ _ _ hp)) ?_
    extract_lets +onlyGivenNames s1 img tag
    have h1 : s1.mem.wf = true := wf_of_mem_eq (State.mem_modRunning _ _ _ _) hp
    have hr : ({ s1 with free := s1.free + 1 } : State).peerRow.2.mem.wf = true := h1
    clear_value img tag
    generalize ({ s1 with free := s1.free + 1 } : State).peerRow = p at hr ⊢
    obtain ⟨meets, s⟩ := p
    cases meets with
    | inl c => exact keeps_next (hfail _ _ _ hr)
    | inr silent => exact keeps_next (wf_of_mem_eq (mem_rowIn _ _ _ _ _ _ _ _ _) hr)
  case h_8 =>
    split
    · extract_lets +onlyGivenNames w
      split
      · exact keeps_fault _
      · exact keeps_next hs
    · exact keeps_next hs
  all_goals exact keeps_next hs

theorem keeps_engineRowPerform (core eng row : Nat) (hs : s.mem.wf = true) : Keeps (execEngineRowPerform core eng row s) := by
  unfold execEngineRowPerform
  split
  · exact keeps_ite (keeps_next hs) (keeps_ite (keeps_next hs) (keeps_ite (keeps_next (wf_of_mem_eq (State.mem_joinQueue _ _ _) hs))
      (keeps_performRow _ _ _ _ hs)))
  · exact keeps_next hs

theorem keeps_hbmScrubWriteback (block : Nat) (hs : s.mem.wf = true) : Keeps (execHbmScrubWriteback block s) :=
  keeps_next (State.wf_ite hs (State.wf_ite (wf_of_mem_eq (State.mem_joinQueue _ _ _) hs) hs))

/-! ### Traps, timers, cancellation, the host, errors -/

theorem keeps_queueRingDrain (die : Nat) (hs : s.mem.wf = true) : Keeps (execQueueRingDrain die s) := by
  refine keeps_next ?_
  split
  · refine State.wf_ite (wf_of_mem_eq (State.mem_askFor _ _ _ _) hs) (State.wf_ite ?_ ?_)
    · exact State.wf_foldl _ _ _ hs fun s r hs => wf_of_mem_eq (State.mem_askFor _ _ _ _) hs
    · exact State.wf_foldl _ _ _ hs fun s r hs => wf_of_mem_eq (State.mem_listSet _ _ _) hs
  · exact hs

theorem keeps_cancelMessage (die group : Nat) (hs : s.mem.wf = true) : Keeps (execCancelMessage die group s) := by
  unfold execCancelMessage
  extract_lets +onlyGivenNames s1 s2 mine keys s3 waiting s4 keep sets s5 s6 s7
  have h2 : s2.mem.wf = true := wf_of_mem_eq (State.mem_acknowledge _ _) hs
  have h3 : s3.mem.wf = true := State.wf_foldl _ _ _ h2 fun s p hs => State.wf_cancelOne _ _ hs
  have h4 : s4.mem.wf = true := State.wf_foldl _ _ _ h3 fun s r hs => State.wf_cancelWaiting _ _ hs
  have h5 : s5.mem.wf = true := State.wf_foldl _ _ _ h4 fun s q hs => State.wf_ite hs (wf_of_mem_eq (State.mem_cancelSet _ _) hs)
  clear_value s5
  have h6 : s6.mem.wf = true := h5
  clear_value s6
  have h7 : s7.mem.wf = true := h6
  clear_value s7
  exact keeps_next (wf_of_mem_eq (State.mem_postNext _ _) h7)

theorem keeps_cancelForcedStop (inst : Nat) (hs : s.mem.wf = true) : Keeps (execCancelForcedStop inst s) :=
  keeps_next (State.wf_ite (wf_of_mem_eq (State.mem_postNext _ _) (State.wf_killInst _ _ _ hs)) hs)

theorem keeps_iterOverrunEnd (inst : Nat) (hs : s.mem.wf = true) : Keeps (execIterOverrunEnd inst s) :=
  keeps_next (State.wf_ite (wf_of_mem_eq (State.mem_postNext _ _) (State.wf_killInst _ _ _ (wf_of_mem_eq (State.mem_endNode _ _) hs))) hs)

theorem keeps_trapEntry (deck : Nat) (hs : s.mem.wf = true) : Keeps (execTrapEntry deck s) := by
  refine keeps_next (State.wf_ite (State.wf_enterTrap _ _ hs) ?_)
  split
  · exact State.wf_takeTrap _ _ _ hs
  · exact hs

theorem keeps_mutualStall (deck : Nat) (hs : s.mem.wf = true) : Keeps (execMutualStall deck s) :=
  keeps_next (State.wf_ite (State.wf_takeTrap _ _ _ hs) hs)

theorem keeps_invalidationComplete (inval : Nat) (hs : s.mem.wf = true) : Keeps (execInvalidationComplete inval s) := by
  refine keeps_next ?_
  split
  · exact hs
  · exact State.wf_ite hs hs

theorem keeps_invalidationWatchdog (inval : Nat) (hs : s.mem.wf = true) : Keeps (execInvalidationWatchdog inval s) := by
  refine keeps_next ?_
  split
  · exact hs
  · exact State.wf_foldl _ _ _ hs fun s i hs => State.wf_rollBack _ _ hs

theorem keeps_pageRequestResponse (ctx page : Nat) (answer : Option (Nat × Bool × Bool)) (hs : s.mem.wf = true) :
    Keeps (execPageRequestResponse ctx page answer s) := by
  refine keeps_next ?_
  split
  · exact hs
  dsimp only
  split
  · rw [State.mem_installPage]
    exact hs
  · refine wf_of_mem_eq (State.mem_postNext _ _) ?_
    refine State.wf_foldl _ _ _ ?_ fun s i hs => wf_of_mem_eq (State.mem_endNode _ _) hs
    exact hs

theorem keeps_pinRepair (stack ch pin : Nat) (hs : s.mem.wf = true) : Keeps (execPinRepair stack ch pin s) :=
  keeps_next (State.wf_ite hs (State.wf_ite hs hs))

theorem keeps_e2eTimeout (inst dest : Nat) (hs : s.mem.wf = true) : Keeps (execE2eTimeout inst dest s) :=
  keeps_next (State.wf_ite (wf_of_mem_eq (State.mem_checkInst _ _) hs) hs)

theorem keeps_messageResend (seq : Nat) (hs : s.mem.wf = true) : Keeps (execMessageResend seq s) := by
  unfold execMessageResend
  split
  · exact keeps_next hs
  · exact keeps_next (wf_of_mem_eq (State.mem_delay _) (State.wf_ite hs (wf_of_mem_eq (State.mem_messageOut _ _ _ _ _) hs)))

theorem keeps_thermalTrip (die celsius : Nat) (hs : s.mem.wf = true) : Keeps (execThermalTrip die celsius s) :=
  fun _ h => wf_execThermalTrip hs h

theorem keeps_resetDeassert (hs : s.mem.wf = true) : Keeps (execResetDeassert s) := keeps_next (Memory.wf_filter hs _)

theorem keeps_machineCheck (kind core deck : Nat) (detail : Word) (hs : s.mem.wf = true) : Keeps (execMachineCheck kind core deck detail s) := by
  refine keeps_next (State.wf_ite (State.wf_errorArises _ _ _ _ _ hs) ?_)
  extract_lets +onlyGivenNames s1 s2
  have h1 : s1.mem.wf = true := State.wf_ite (State.wf_spoilGranule _ _ _ hs) (State.wf_ite (State.wf_spoilHbm _ _ hs) hs)
  have h2 : s2.mem.wf = true := State.wf_ite (wf_of_mem_eq (State.mem_dropPacket _ _) h1) h1
  clear_value s2
  refine State.wf_ite h2 (State.wf_ite h2 (State.wf_ite ?_ (State.wf_ite h2 (State.wf_ite ?_ ?_))))
  · exact State.wf_foldl _ _ _ h2 fun s i hs => wf_of_mem_eq (State.mem_checkInst _ _) hs
  · exact wf_of_mem_eq (State.mem_checkResidue _ _ _ _) h2
  · exact wf_of_mem_eq (State.mem_checkDeck _ _ _ _) h2

/-! ### Meanings with several outcomes, case by case -/

theorem keeps_brq (h : Hd) (b : BR) (hs : s.mem.wf = true) : Keeps (execBrq h b s) := by
  refine keeps_next (State.wf_control _ _ _ _ hs fun s hs => ?_)
  dsimp only
  (repeat' split) <;> simp [hs]

theorem keeps_boq (h : Hd) (b : XRR) (hs : s.mem.wf = true) : Keeps (execBoq h b s) := by
  refine keeps_next (State.wf_scalar _ _ _ _ hs fun s hs => ?_)
  dsimp only
  (repeat' split) <;> simp [hs]

theorem keeps_semw (h : Hd) (b : XRR) (hs : s.mem.wf = true) : Keeps (execSemw h b s) := by
  refine keeps_next (State.wf_scalar _ _ _ _ hs fun s hs => ?_)
  dsimp only
  (repeat' split) <;> simp [hs]

theorem keeps_leaseGrant (core : Nat) (hs : s.mem.wf = true) : Keeps (execLeaseGrant core s) := by
  unfold execLeaseGrant
  dsimp only
  (repeat' split) <;> simp [hs]

theorem keeps_remoteReadResponse (req : Nat) (row : Nat) (hs : s.mem.wf = true) : Keeps (execRemoteReadResponse req row s) := by
  unfold execRemoteReadResponse
  dsimp only
  (repeat' split) <;> simp [hs]

theorem keeps_ldqt (h : Hd) (b : XRR) (hs : s.mem.wf = true) : Keeps (execLdqt h b s) := by
  refine keeps_next (State.wf_revocable _ _ _ _ hs fun s hs => ?_)
  dsimp only
  (repeat' split) <;> simp [hs]

theorem keeps_hldRecordArrival (deck : Nat) (entry : Nat) (gen : Nat) (hs : s.mem.wf = true) : Keeps (execHldRecordArrival deck entry gen s) := by
  unfold execHldRecordArrival
  dsimp only
  (repeat' split) <;> simp [hs]

theorem keeps_hidx (h : Hd) (b : XRR) (hs : s.mem.wf = true) : Keeps (execHidx h b s) := by
  refine keeps_next (State.wf_irrevocable _ _ _ _ hs fun s hs => ?_)
  dsimp only
  (repeat' split) <;> simp [hs]

theorem keeps_probe (h : Hd) (b : XI) (hs : s.mem.wf = true) : Keeps (execProbe h b s) := by
  refine keeps_next (State.wf_irrevocable _ _ _ _ hs fun s hs => ?_)
  dsimp only
  (repeat' split) <;> simp [hs]

theorem keeps_trelTakeEffect (core : Nat) (tile : Nat) (hs : s.mem.wf = true) : Keeps (execTrelTakeEffect core tile s) := by
  unfold execTrelTakeEffect
  dsimp only
  (repeat' split) <;> simp [hs]

theorem keeps_tage (h : Hd) (b : XRR) (hs : s.mem.wf = true) : Keeps (execTage h b s) := by
  refine keeps_next (State.wf_irrevocable _ _ _ _ hs fun s hs => ?_)
  dsimp only
  (repeat' split) <;> simp [hs]

theorem keeps_ecmd (h : Hd) (b : EC) (hs : s.mem.wf = true) : Keeps (execEcmd h b s) := by
  refine keeps_next (State.wf_irrevocable _ _ _ _ hs fun s hs => ?_)
  dsimp only
  (repeat' split) <;> simp [hs]

theorem keeps_heldQueueEntryEnter (core : Nat) (eng : Nat) (hs : s.mem.wf = true) : Keeps (execHeldQueueEntryEnter core eng s) := by
  unfold execHeldQueueEntryEnter
  dsimp only
  (repeat' split) <;> simp [hs]

theorem keeps_remoteSignalArrival (core : Nat) (sem : Nat) (hs : s.mem.wf = true) : Keeps (execRemoteSignalArrival core sem s) := by
  unfold execRemoteSignalArrival
  dsimp only
  (repeat' split) <;> simp [hs]

theorem keeps_xsel (h : Hd) (b : XFS) (hs : s.mem.wf = true) : Keeps (execXsel h b s) := by
  refine keeps_next (State.wf_irrevocable _ _ _ _ hs fun s hs => ?_)
  dsimp only
  (repeat' split) <;> simp [hs]

theorem keeps_tup (h : Hd) (b : TRS) (hs : s.mem.wf = true) : Keeps (execTup h b s) := by
  refine keeps_next (State.wf_scalar _ _ _ _ hs fun s hs => ?_)
  dsimp only
  (repeat' split) <;> simp [hs]

theorem keeps_csig (h : Hd) (b : XRR) (hs : s.mem.wf = true) : Keeps (execCsig h b s) := by
  refine keeps_next (State.wf_scalar _ _ _ _ hs fun s hs => ?_)
  dsimp only
  (repeat' split) <;> simp [hs]

theorem keeps_cthr (h : Hd) (b : XRR) (hs : s.mem.wf = true) : Keeps (execCthr h b s) := by
  refine keeps_next (State.wf_scalar _ _ _ _ hs fun s hs => ?_)
  dsimp only
  (repeat' split) <;> simp [hs]

theorem keeps_cskip (h : Hd) (b : XRR) (hs : s.mem.wf = true) : Keeps (execCskip h b s) := by
  refine keeps_next (State.wf_scalar _ _ _ _ hs fun s hs => ?_)
  dsimp only
  (repeat' split) <;> simp [hs]

theorem keeps_causewayService (core : Nat) (hs : s.mem.wf = true) : Keeps (execCausewayService core s) := by
  unfold execCausewayService
  dsimp only
  (repeat' split) <;> simp [hs]

theorem keeps_refreshStart (core : Nat) (hs : s.mem.wf = true) : Keeps (execRefreshStart core s) := by
  unfold execRefreshStart
  dsimp only
  (repeat' split) <;> simp [hs]

theorem keeps_powerStateChange (isDie : Bool) (n : Nat) (hs : s.mem.wf = true) : Keeps (execPowerStateChange isDie n s) := by
  unfold execPowerStateChange
  dsimp only
  (repeat' split) <;> simp [hs]

/-! ### All instructions and events -/

/-- No instruction and no event brings memory out of its canonical form. -/
theorem keeps_exec (i : Instr) (s : State) (hs : s.mem.wf = true) : Keeps (exec i s) :=
  match i with
  | .nop h b => keeps_next (by simp [hs])
  | .add h b => keeps_next (by simp [hs])
  | .sub h b => keeps_next (by simp [hs])
  | .and h b => keeps_next (by simp [hs])
  | .or h b => keeps_next (by simp [hs])
  | .xor h b => keeps_next (by simp [hs])
  | .shl h b => keeps_next (by simp [hs])
  | .shr h b => keeps_next (by simp [hs])
  | .sra h b => keeps_next (by simp [hs])
  | .mul h b => keeps_next (by simp [hs])
  | .mulh h b => keeps_next (by simp [hs])
  | .mulhu h b => keeps_next (by simp [hs])
  | .min h b => keeps_next (by simp [hs])
  | .minu h b => keeps_next (by simp [hs])
  | .max h b => keeps_next (by simp [hs])
  | .maxu h b => keeps_next (by simp [hs])
  | .sel h b => keeps_next (by simp [hs])
  | .clz h b => keeps_next (by simp [hs])
  | .popc h b => keeps_next (by simp [hs])
  | .bext h b => keeps_next (by simp [hs])
  | .bins h b => keeps_next (by simp [hs])
  | .addi h b => keeps_next (by simp [hs])
  | .andi h b => keeps_next (by simp [hs])
  | .ori h b => keeps_next (by simp [hs])
  | .xori h b => keeps_next (by simp [hs])
  | .shli h b => keeps_next (by simp [hs])
  | .shri h b => keeps_next (by simp [hs])
  | .srai h b => keeps_next (by simp [hs])
  | .movi h b => keeps_next (by simp [hs])
  | .movhi h b => keeps_next (by simp [hs])
  | .cmp h b => keeps_next (by simp [hs])
  | .cmpi h b => keeps_next (by simp [hs])
  | .ptt h b => keeps_next (by simp [hs])
  | .br h b => keeps_next (State.wf_control _ _ _ _ hs fun _ hs => by simp [hs])
  | .call h b => keeps_next (State.wf_control _ _ _ _ hs fun _ hs => by simp [hs])
  | .ret h b => keeps_next (State.wf_control _ _ _ _ hs fun _ hs => by simp [hs])
  | .brq h b => keeps_brq h b hs
  | .boq h b => keeps_boq h b hs
  | .loop h b => keeps_next (State.wf_control _ _ _ _ hs fun _ hs => by simp [hs])
  | .loopi h b => keeps_next (State.wf_control _ _ _ _ hs fun _ hs => by simp [hs])
  | .rep h b => keeps_next (State.wf_control _ _ _ _ hs fun _ hs => by simp [hs])
  | .fork h b => keeps_fork h b hs
  | .join h b => keeps_join h b hs
  | .syncs h b => keeps_next (State.wf_scalar _ _ _ _ hs fun _ hs => by simp [hs])
  | .syncw h b => keeps_next (State.wf_scalar _ _ _ _ hs fun _ hs => by simp [hs, State.wf_ite])
  | .halt h b => keeps_halt h b hs
  | .mfsr h b => keeps_mfsr h b hs
  | .mtsrSlipw h b => keeps_next (by simp [hs])
  | .mtsrFmode h b => keeps_next (by simp [hs])
  | .mtsrFflags h b => keeps_next (by simp [hs])
  | .mtsrCrv h b => keeps_next (by simp [hs])
  | .mtsrSdcfg h b => keeps_next (by simp [hs])
  | .mtsrTvec h b => keeps_next (by simp [hs])
  | .fenceDeck h b => keeps_next (by simp [hs])
  | .fenceCore h b => keeps_next (by simp [hs])
  | .fenceGang h b => keeps_next (by simp [hs])
  | .fenceDevice h b => keeps_next (by simp [hs])
  | .fenceSystem h b => keeps_next (by simp [hs])
  | .qpt h b => keeps_next (State.wf_scalar _ _ _ _ hs fun _ hs => by simp [hs, State.wf_ite])
  | .sq h b => keeps_sq h b hs
  | .squareComplete inst => keeps_squareComplete inst hs
  | .transferPhaseEnd inst => keeps_next (by simp [hs])
  | .semw h b => keeps_semw h b hs
  | .sema h b => keeps_next (State.wf_scalar _ _ _ _ hs fun _ hs => by simp [hs])
  | .semaAddPerform core sem amount stores => keeps_next (by simp [hs, State.wf_ite])
  | .semt h b => keeps_next (State.wf_scalar _ _ _ _ hs fun _ hs => by simp [hs])
  | .semr h b => keeps_next (by simp [hs])
  | .alease h b => keeps_next (State.wf_scalar _ _ _ _ hs fun _ hs => by simp [hs, State.wf_ite])
  | .leaseGrant core => keeps_leaseGrant core hs
  | .arel h b => keeps_arel h b hs
  | .spawn h b => keeps_spawn h b hs
  | .cancel h b => keeps_cancel h b hs
  | .xfork h b => keeps_xfork h b hs
  | .trap h b => keeps_next (State.wf_scalar _ _ _ _ hs fun _ hs => by simp [hs])
  | .rfe h b => keeps_rfe h b hs
  | .wfi h b => keeps_next (State.wf_scalar _ _ _ _ hs fun _ hs => by simp [hs, State.wf_ite])
  | .widx h b => keeps_next (by simp [hs])
  | .plive h b => keeps_next (State.wf_scalar _ _ _ _ hs fun _ hs => by simp [hs])
  | .vlive h b => keeps_next (State.wf_scalar _ _ _ _ hs fun _ hs => by simp [hs])
  | .ldsB h b => keeps_next (by simp [hs])
  | .ldsH h b => keeps_next (by simp [hs])
  | .ldsW h b => keeps_next (by simp [hs])
  | .ldsD h b => keeps_next (by simp [hs])
  | .stsB h b => keeps_next (by simp [hs])
  | .stsH h b => keeps_next (by simp [hs])
  | .stsW h b => keeps_next (by simp [hs])
  | .stsD h b => keeps_next (by simp [hs])
  | .ldq h b => keeps_ldq h b hs
  | .remoteReadArrival req => keeps_remoteReadArrival req hs
  | .remoteReadResponse req row => keeps_remoteReadResponse req row hs
  | .ldqt h b => keeps_ldqt h b hs
  | .hld h b => keeps_hld h b hs
  | .hldRecordArrival deck entry gen => keeps_hldRecordArrival deck entry gen hs
  | .hidx h b => keeps_hidx h b hs
  | .probe h b => keeps_probe h b hs
  | .probeFill core => keeps_next (by simp [hs])
  | .ppin h b => keeps_next (by simp [hs])
  | .pfree h b => keeps_next (by simp [hs])
  | .tcfg h b => keeps_next (by simp [hs])
  | .tcfgTakeEffect core tile => keeps_tcfgTakeEffect core tile hs
  | .trel h b => keeps_next (by simp [hs])
  | .trelTakeEffect core tile => keeps_trelTakeEffect core tile hs
  | .tage h b => keeps_tage h b hs
  | .pub h b => keeps_next (by simp [hs])
  | .pubR h b => keeps_next (by simp [hs])
  | .tileMarkTakeEffect core tile recv stores => keeps_next (by simp [hs, State.wf_ite])
  | .ldk h b => keeps_next (by simp [hs])
  | .ecmd h b => keeps_ecmd h b hs
  | .tramCopy core eng => keeps_next (by simp [hs])
  | .tramLoad core eng => keeps_next (by simp [hs])
  | .tramStoreBack core eng => keeps_next (by simp [hs])
  | .tramRemoteCopy core eng => keeps_next (by simp [hs])
  | .tramGather core eng => keeps_next (by simp [hs])
  | .tramFill core eng => keeps_next (by simp [hs])
  | .tramBroadcast core eng => keeps_next (by simp [hs])
  | .tramPut core eng => keeps_next (by simp [hs])
  | .tramGet core eng => keeps_next (by simp [hs])
  | .engineCommandResume core eng => keeps_next (by simp [hs, State.wf_ite])
  | .culvertFp32Add core => keeps_next (by simp [hs])
  | .culvertI32Add core => keeps_next (by simp [hs])
  | .culvertFp32Max core => keeps_next (by simp [hs])
  | .culvertFp32Min core => keeps_next (by simp [hs])
  | .culvertI32Max core => keeps_next (by simp [hs])
  | .culvertI32Min core => keeps_next (by simp [hs])
  | .culvertOr core => keeps_next (by simp [hs])
  | .heldQueueEntryEnter core eng => keeps_heldQueueEntryEnter core eng hs
  | .remoteSignalArrival core sem => keeps_remoteSignalArrival core sem hs
  | .xsel h b => keeps_xsel h b hs
  | .xmit h b => keeps_xmit h b hs
  | .xred h b => keeps_next (State.wf_irrevocable _ _ _ _ hs fun _ hs => State.wf_operands _ _ _ _ _ _ _ hs fun _ _ hs => by simp [hs])
  | .xredResultDelivery inst slot => keeps_xredResultDelivery inst slot hs
  | .vadd h b => keeps_next (by simp [hs])
  | .vsub h b => keeps_next (by simp [hs])
  | .vmul h b => keeps_next (by simp [hs])
  | .vfma h b => keeps_next (by simp [hs])
  | .vfms h b => keeps_next (by simp [hs])
  | .vfnma h b => keeps_next (by simp [hs])
  | .vmin h b => keeps_next (by simp [hs])
  | .vmax h b => keeps_next (by simp [hs])
  | .vabs h b => keeps_next (by simp [hs])
  | .vneg h b => keeps_next (by simp [hs])
  | .vabsd h b => keeps_next (by simp [hs])
  | .vcmp h b => keeps_next (State.wf_ite hs (State.wf_operands _ _ _ _ _ _ _ hs fun _ _ hs => by simp [hs]))
  | .vsel h b => keeps_next (by simp [hs])
  | .vmov h b => keeps_next (by simp [hs])
  | .vbcast h b => keeps_next (by simp [hs])
  | .vext h b => keeps_next (State.wf_ite hs (State.wf_operands _ _ _ _ _ _ _ hs fun _ _ hs => by simp [hs]))
  | .vins h b => keeps_next (by simp [hs, State.wf_ite])
  | .vperm h b => keeps_next (by simp [hs])
  | .vslide h b => keeps_next (by simp [hs])
  | .vrev h b => keeps_next (by simp [hs])
  | .vredsum h b => keeps_next (by simp [hs])
  | .vredmax h b => keeps_next (by simp [hs])
  | .vredmin h b => keeps_next (by simp [hs])
  | .vscan h b => keeps_next (by simp [hs])
  | .vrcpe h b => keeps_next (by simp [hs])
  | .vrsqe h b => keeps_next (by simp [hs])
  | .vexp2e h b => keeps_next (by simp [hs])
  | .vlog2e h b => keeps_next (by simp [hs])
  | .vcvt h b => keeps_vcvt h b hs
  | .vcmpd h b => keeps_next (by simp [hs])
  | .vexpnd h b => keeps_next (by simp [hs])
  | .vtag h b => keeps_next (by simp [hs])
  | .vtopk h b => keeps_next (State.wf_ite hs (State.wf_operands _ _ _ _ _ _ _ hs fun _ _ hs => by simp [hs]))
  | .vand h b => keeps_next (by simp [hs])
  | .vor h b => keeps_next (by simp [hs])
  | .vxor h b => keeps_next (by simp [hs])
  | .vnot h b => keeps_next (by simp [hs])
  | .vshl h b => keeps_next (by simp [hs])
  | .vshr h b => keeps_next (by simp [hs])
  | .vsra h b => keeps_next (by simp [hs])
  | .vclz h b => keeps_next (by simp [hs])
  | .vpopc h b => keeps_next (by simp [hs])
  | .vidx h b => keeps_next (by simp [hs])
  | .vdot4 h b => keeps_next (by simp [hs])
  | .vmadi h b => keeps_next (by simp [hs])
  | .vst h b => keeps_vst h b hs
  | .vpop h b => keeps_next (by simp [hs])
  | .mvq h b => keeps_next (State.wf_scalar _ _ _ _ hs fun _ hs => State.wf_operands _ _ _ _ _ _ _ hs fun _ _ hs => by simp [hs])
  | .mbeg h b => keeps_next (State.wf_matrix _ _ _ _ _ _ _ hs fun _ hs => State.wf_matrixChecks _ _ _ _ _ _ _ hs fun _ hs => by simp [hs])
  | .mend h b => keeps_next (State.wf_matrix _ _ _ _ _ _ _ hs fun _ hs => State.wf_matrixChecks _ _ _ _ _ _ _ hs fun _ hs => by simp [hs])
  | .mldb h b => keeps_next (State.wf_matrix _ _ _ _ _ _ _ hs fun _ hs => State.wf_matrixChecks _ _ _ _ _ _ _ hs fun _ hs => by simp [hs])
  | .mma h b => keeps_mma h b hs
  | .checksumReplay core => keeps_checksumReplay core hs
  | .mrd h b => keeps_mrd h b hs
  | .mclr h b => keeps_mclr h b hs
  | .mscl h b => keeps_next (State.wf_scalar _ _ _ _ hs fun _ hs => by simp [hs])
  | .mck h b => keeps_next (State.wf_scalar _ _ _ _ hs fun _ hs => by simp [hs, State.wf_ite])
  | .arrayClockGate core => keeps_next (by simp [hs, State.wf_ite])
  | .tld h b => keeps_next (State.wf_ite hs (State.wf_operands _ _ _ _ _ _ _ hs fun _ _ hs => by simp [hs]))
  | .tst h b => keeps_next (State.wf_ite hs (State.wf_operands _ _ _ _ _ _ _ hs fun _ _ hs => by simp [hs]))
  | .tshp h b => keeps_next (State.wf_scalar _ _ _ _ hs fun _ hs => by simp [hs])
  | .tscl h b => keeps_next (State.wf_scalar _ _ _ _ hs fun _ hs => by simp [hs])
  | .tup h b => keeps_tup h b hs
  | .tdn h b => keeps_tdn h b hs
  | .csig h b => keeps_csig h b hs
  | .cthr h b => keeps_cthr h b hs
  | .cskip h b => keeps_cskip h b hs
  | .cmap h b => keeps_next (by simp [hs])
  | .crst h b => keeps_next (State.wf_scalar _ _ _ _ hs fun _ hs => by simp [hs])
  | .causewayService core => keeps_causewayService core hs
  | .ageTick core => keeps_next (by simp [hs])
  | .rowWarnPoint core row => keeps_next (by simp [hs, State.wf_ite])
  | .rowLimitExpiry core row => keeps_next (by simp [hs, State.wf_ite])
  | .l7RefreshOverdue core row => keeps_l7RefreshOverdue core row hs
  | .refreshRequestEnter core => keeps_next (by simp [hs])
  | .refreshStart core => keeps_refreshStart core hs
  | .refreshWriteback core row => keeps_next (by simp [hs, State.wf_ite])
  | .bandStepHotter core => keeps_next (by simp [hs, State.wf_ite])
  | .bandStepCooler core => keeps_next (by simp [hs, State.wf_ite])
  | .launchStart graph => keeps_launchStart graph hs
  | .tempTableApply => keeps_tempTableApply hs
  | .powerStateChange isDie n => keeps_powerStateChange isDie n hs
  | .coreStart core => keeps_next (by simp [hs, State.wf_ite])
  | .tokenArrival node skip => keeps_tokenArrival node skip hs
  | .loopBodyEnd node => keeps_loopBodyEnd node hs
  | .roundaboutSelection die => keeps_roundaboutSelection die hs
  | .dispatch inst => keeps_dispatch inst hs
  | .agingTick die => keeps_next (by simp [hs])
  | .preemptSave inst => keeps_preemptSave inst hs
  | .preemptResume inst => keeps_preemptResume inst hs
  | .spillStart inst => keeps_next (by simp [hs, State.wf_ite])
  | .nodeComplete node => keeps_nodeComplete node hs
  | .spawnSetArrival set => keeps_spawnSetArrival set hs
  | .mewsRingRetry die => keeps_mewsRingRetry die hs
  | .queueRingDrain die => keeps_queueRingDrain die hs
  | .cancelMessage die group => keeps_cancelMessage die group hs
  | .cancelForcedStop inst => keeps_cancelForcedStop inst hs
  | .iterTimerHalf deck => keeps_next (State.wf_ite hs hs)
  | .iterOverrun deck => keeps_next (State.wf_ite hs hs)
  | .iterOverrunEnd inst => keeps_iterOverrunEnd inst hs
  | .trapEntry deck => keeps_trapEntry deck hs
  | .mutualStall deck => keeps_mutualStall deck hs
  | .invalidationComplete inval => keeps_invalidationComplete inval hs
  | .invalidationWatchdog inval => keeps_invalidationWatchdog inval hs
  | .rollback inst => keeps_next (by simp [hs])
  | .hbmRefresh stack ch pc bank => keeps_next (State.wf_ite hs hs)
  | .hbmScrubWriteback block => keeps_hbmScrubWriteback block hs
  | .pinRepair stack ch pin => keeps_pinRepair stack ch pin hs
  | .pinRepairEnd stack ch => keeps_next (State.wf_ite hs hs)
  | .e2eTimeout inst dest => keeps_e2eTimeout inst dest hs
  | .messageResend seq => keeps_messageResend seq hs
  | .engineRowPerform core eng row => keeps_engineRowPerform core eng row hs
  | .machineCheckHandlerTimeout deck => keeps_next (State.wf_ite (wf_of_mem_eq (State.mem_stopDeck _ _) hs) hs)
  | .resetDeassert => keeps_resetDeassert hs
  | .triggerWrite value => keeps_next (by simp [hs])
  | .uploadWindowWrite die off value => keeps_next (State.wf_ite (State.wf_uploadWrite _ _ _ _ hs) hs)
  | .hmaskWrite k value => keeps_next (by simp [hs])
  | .tempTableWrite entry value => keeps_next (by simp [hs])
  | .registerWrite off value => keeps_next (by simp [hs])
  | .coreReqRun core => keeps_next (by simp [hs])
  | .coreReqGate core => keeps_next (by simp [hs])
  | .coreReqOff core => keeps_next (by simp [hs])
  | .dieReqActive die => keeps_next (by simp [hs])
  | .dieReqRetain die => keeps_next (by simp [hs])
  | .dieReqOff die => keeps_next (by simp [hs])
  | .pageRequestResponse ctx page answer => keeps_pageRequestResponse ctx page answer hs
  | .atsInvalidateRequest ctx base len => keeps_next (by simp [hs])
  | .hbmRefreshIntervalChange stack layer celsius => keeps_next (by simp [hs])
  | .linkDown link => keeps_next (by simp [hs])
  | .thermalTrip die celsius => keeps_thermalTrip die celsius hs
  | .thermalTripClear die celsius => keeps_next (by simp [hs])
  | .tapInstruction codes => keeps_next (State.wf_ite hs hs)
  | .atsTranslationCompletion ctx page answer => keeps_atsTranslationCompletion ctx page answer hs
  | .peerPartialArrival source partials => keeps_next (by simp [hs])
  | .machineCheck kind core deck detail => keeps_machineCheck kind core deck detail hs
  | .hbmScrubRead block corrected bad => keeps_hbmScrubRead block corrected bad hs

/-! ### Syllables -/

theorem keeps_syllable (k : Slot) (y : Syl) (hs : s.mem.wf = true) : Keeps (s.syllable k y) := by
  cases y with
  | empty => exact keeps_next hs
  | bad e => exact keeps_next (State.wf_illegal _ _ _ hs)
  | ok i => exact keeps_exec i s hs

/-- Both states that a run of syllables carries have memory in its canonical form. -/
def RanWf (r : Ran) : Prop := r.acc.mem.wf = true ∧ r.base.mem.wf = true

theorem ranWf_run {r r' : Ran} (k : Slot) (y : Syl) (freeing : List Nat) (hr : RanWf r) (h : r.run k y freeing = .next r') : RanWf r' := by
  obtain ⟨hacc, hbase⟩ := hr
  have hk : Keeps ((r.acc.modIssue fun i => { i with stall := false, waitOther := false, raised := none, freeing := freeing }).syllable k y) :=
    keeps_syllable k y hacc
  unfold Ran.run at h
  dsimp only at h
  generalize (r.acc.modIssue fun i => { i with stall := false, waitOther := false, raised := none, freeing := freeing }).syllable k y = o at hk h
  cases o with
  | fault f => exact nomatch h
  | refused q => exact nomatch h
  | next t =>
    have ht := hk t rfl
    dsimp only at h
    split at h
    · cases h
      exact ⟨hacc, hbase⟩
    · split at h
      · cases h
        exact ⟨hacc, hbase⟩
      · cases h
        exact ⟨State.wf_ite ht ht, hbase⟩

theorem ranWf_runAll (ys : List (Slot × Syl)) : ∀ {r r' : Ran}, RanWf r → r.runAll ys = .next r' → RanWf r' := by
  induction ys with
  | nil =>
    intro r r' hr h
    cases h
    exact hr
  | cons y rest ih =>
    intro r r' hr h
    unfold Ran.runAll at h
    generalize hq : r.run y.1 y.2 (rest.flatMap fun q => r.base.popsOf q.2) = o at h
    cases o with
    | fault f => exact nomatch h
    | refused q => exact nomatch h
    | next r1 => exact ih (ranWf_run _ _ _ hr hq) h

/-! ### Bundles -/

theorem mem_foldl {α : Type} (l : List α) (f : State → α → State) (s : State) (hf : ∀ s x, (f s x).mem = s.mem) : (l.foldl f s).mem = s.mem := by
  induction l generalizing s with
  | nil => rfl
  | cons x l ih => exact (ih (f s x)).trans (hf s x)

theorem mem_dropComparedOf (s s0 : State) (n : Nat) (i : Instr) :
    (match opcodeOf i with | some (h, _) => s.dropCompared s0 n h | none => s).mem = s.mem := by
  split
  · exact State.mem_dropCompared _ _ _ _
  · rfl

@[simp] theorem mem_runParapet (s s0 acc : State) (n : Nat) (side : Option Bool) (b : Bundle) : (s.runParapet s0 acc n side b).mem = s.mem := by
  unfold State.runParapet
  extract_lets +onlyGivenNames d0
  split
  · extract_lets +onlyGivenNames ys q
    split
    · extract_lets +onlyGivenNames e p' bad s1
      have h1 : s1.mem = s.mem := (mem_foldl _ _ _ fun s i => mem_dropComparedOf s s0 n i).trans (State.mem_modDeck _ _ _)
      clear_value s1
      split
      · exact h1
      · dsimp only
        split
        · rw [State.mem_checkInst, State.mem_logError, h1]
        · rw [State.mem_logError, h1]
    · rfl
  · rfl

theorem mem_checkBundle (s s0 acc : State) (n : Nat) (side : Option Bool) (b : Bundle) : (s.checkBundle s0 acc n side b).mem = s.mem := by
  rw [State.checkBundle, mem_runParapet, State.mem_checkParity]

theorem wf_trapBundle (n : Nat) (side : Option Bool) (q : Trap) (hs : s.mem.wf = true) : (s.trapBundle n side q).mem.wf = true :=
  State.wf_ite hs (State.wf_takeTrap _ _ _ hs)

theorem keeps_runBundle (n : Nat) (side : Option Bool) (pc : CodeAddr) (b : Bundle) (hs : s.mem.wf = true) :
    Keeps (s.runBundle n side pc b) := by
  have h0 : (s.beginBundle n side pc none).mem.wf = true := hs
  have hrun := fun r => ranWf_runAll (slotsOf b side) (r := ⟨s.beginBundle n side pc none, s.beginBundle n side pc none, 0, true, none⟩) (r' := r) ⟨h0, h0⟩
  unfold State.runBundle
  extract_lets +onlyGivenNames s0
  change ∀ r, (⟨s0, s0, 0, true, none⟩ : Ran).runAll (slotsOf b side) = .next r → RanWf r at hrun
  change s0.mem.wf = true at h0
  clear_value s0
  generalize (⟨s0, s0, 0, true, none⟩ : Ran).runAll (slotsOf b side) = o at hrun ⊢
  cases o with
  | fault f => exact keeps_fault f
  | refused q => exact keeps_refused q
  | next r =>
    obtain ⟨hacc, hbase⟩ := hrun r rfl
    refine keeps_ite (keeps_next ?_) ?_
    · exact wf_of_mem_eq (State.mem_stallBundle _ n side (r.other && decide (r.stalls ≠ 0))) (State.wf_ite hbase hbase)
    · split
      · exact keeps_next (wf_trapBundle _ _ _ h0)
      · exact keeps_next (wf_of_mem_eq (mem_checkBundle _ _ _ _ _ _) (wf_of_mem_eq (State.mem_finishBundle _ _ _) hacc))

/-- The definition is unfolded as a function: the kernel, comparing `s.replay n a` with its body, would evaluate the decoder on the syllable. -/
theorem keeps_replay (n : Nat) (a : Again) (hs : s.mem.wf = true) : Keeps (s.replay n a) := by
  suffices h : ∀ f, f = State.replay → Keeps (f s n a) from h _ rfl
  intro f hf
  delta State.replay at hf
  subst hf
  dsimp -zeta only
  generalize decodeSyl .a (a.syl % 2 ^ 56 + 0xFF * 2 ^ 56) = y
  extract_lets +onlyGivenNames s0 drop
  have hk : Keeps (s0.syllable .a y) := keeps_syllable _ _ hs
  clear_value s0
  generalize s0.syllable .a y = o at hk ⊢
  cases o with
  | fault f => exact keeps_fault f
  | refused q => exact keeps_refused q
  | next t =>
    have ht := hk t rfl
    dsimp only
    split
    · exact keeps_next hs
    · exact keeps_ite (keeps_next hs) (keeps_next ht)

/-! ### Decks and actions of the machine -/

theorem keeps_runDeck (n : Nat) (hs : s.mem.wf = true) : Keeps (s.runDeck n) := by
  unfold State.runDeck
  split
  · exact keeps_replay _ _ hs
  refine keeps_ite (keeps_next (wf_of_mem_eq (State.mem_enterKernel _ _) hs)) ?_
  split
  · exact keeps_next hs
  extract_lets +onlyGivenNames d pc s1
  have h1 : s1.mem.wf = true := State.wf_ite (wf_of_mem_eq (State.mem_quiesce _ _) hs) hs
  exact keeps_ite (keeps_next (wf_of_mem_eq (State.mem_stallBundle _ _ _ _) h1)) (keeps_runBundle _ _ _ _ h1)

theorem mem_nextEvent {e : Instr} {t : State} (h : s.nextEvent = some (e, t)) : t.mem = s.mem := by
  unfold State.nextEvent at h
  split at h
  · split at h
    · cases h
      rfl
    · exact nomatch h
  · exact nomatch h

/-- An event that is due, or its wait for a sleeping part of the device. -/
theorem keeps_event {e : Instr} {t : State} (hs : s.mem.wf = true) (h : s.nextEvent = some (e, t)) :
    Keeps (if t.asleep e then .next (t.post (t.clock + 1) e) else exec e t) := by
  have ht : t.mem.wf = true := wf_of_mem_eq (mem_nextEvent h) hs
  exact keeps_ite (keeps_next ht) (keeps_exec e t ht)

theorem keeps_act (hs : s.mem.wf = true) : Keeps s.act := by
  unfold State.act
  split
  · split
    · exact keeps_event hs ‹_›
    · exact keeps_next (State.wf_pointsAndLandings _ hs)
  · split
    · exact keeps_event hs ‹_›
    · exact keeps_next hs
  · split
    · exact keeps_runDeck _ hs
    · exact keeps_next hs
  · split
    · exact keeps_event hs ‹_›
    · split
      · exact keeps_exec _ _ hs
      · exact keeps_next (wf_of_mem_eq (State.mem_takeWait _ _ _) hs)
      · exact keeps_exec _ _ hs
      · split
        · exact keeps_fault _
        · exact keeps_next (State.wf_advance _ hs)

/-- Settles O9: each instruction and event keeps the form, and so does what the machine does around them. -/
theorem stepKeepsMemoryCanonical : Obligations.StepKeepsMemoryCanonical := by
  unfold Obligations.StepKeepsMemoryCanonical
  exact fun s t hs h => keeps_act hs t h

end Sys2Proof.Laws.MemoryInvariant

namespace Sys2Proof.Laws.Meaning
open Sys2Proof.Machine

/-! SUPPORT AND CLAIMS. Every instruction and event has a meaning, and an encoded instruction a next state: a fault (log 1, an address outside the
model's memory) can come of ten events only. -/

/-- The outcome is a next state or a fault. -/
def Meaningful (o : Out) : Prop := ∀ r, o ≠ .refused r

@[simp] theorem meaningful_next (t : State) : Meaningful (.next t) := fun _ h => nomatch h
@[simp] theorem meaningful_fault (f : Fault) : Meaningful (.fault f) := fun _ h => nomatch h
theorem meaningful_ite {c : Prop} [Decidable c] {a b : Out} (ha : Meaningful a) (hb : Meaningful b) : Meaningful (if c then a else b) := by
  split <;> assumption

/-- The events whose meaning has branches that end elsewhere than in a next state, or a case split around the next states. -/
def branches : Instr → Bool
  | .hldRecordArrival .. | .xredResultDelivery .. | .launchStart .. | .dispatch .. | .preemptSave .. | .nodeComplete .. | .messageResend ..
  | .engineRowPerform .. | .atsTranslationCompletion .. | .hbmScrubRead .. => true
  | _ => false

/-- Outside `branches` the meaning is a next state by its definition. -/
theorem exec_next (i : Instr) (s : State) (h : branches i = false) : ∃ t, exec i s = .next t := by
  cases i
  case hldRecordArrival | xredResultDelivery | launchStart | dispatch | preemptSave | nodeComplete | messageResend | engineRowPerform
      | atsTranslationCompletion | hbmScrubRead => exact nomatch h
  all_goals exact ⟨_, rfl⟩

theorem opcodeOf_of_branches (i : Instr) (h : branches i = true) : opcodeOf i = none := by
  unfold branches at h
  split at h
  case h_11 => exact nomatch h
  all_goals rfl

variable (s : State)

theorem meaningful_performRow (core eng r : Nat) (q : Running) : Meaningful (s.performRow core eng r q) := by
  unfold State.performRow State.memoryRow
  dsimp only
  (repeat' split) <;> simp

theorem meaningful_engineRowPerform (core eng row : Nat) : Meaningful (execEngineRowPerform core eng row s) := by
  unfold execEngineRowPerform
  dsimp only
  (repeat' split) <;> simp [meaningful_performRow]

theorem meaningful_hldRecordArrival (deck entry gen : Nat) : Meaningful (execHldRecordArrival deck entry gen s) := by
  unfold execHldRecordArrival
  dsimp only
  (repeat' split) <;> simp

theorem meaningful_xredResultDelivery (inst slot : Nat) : Meaningful (execXredResultDelivery inst slot s) := by
  unfold execXredResultDelivery
  dsimp only
  (repeat' split) <;> simp

theorem meaningful_launchStart (graph : Nat) : Meaningful (execLaunchStart graph s) := by
  unfold execLaunchStart
  split
  · exact meaningful_next _
  · exact meaningful_ite (meaningful_next _) (meaningful_next _)

theorem meaningful_dispatch (inst : Nat) : Meaningful (execDispatch inst s) := by
  unfold execDispatch
  refine meaningful_ite (meaningful_next _) (meaningful_ite (meaningful_next _) (meaningful_ite (meaningful_next _) ?_))
  refine meaningful_ite (meaningful_next _) (meaningful_ite (meaningful_next _) ?_)
  split
  · exact meaningful_fault _
  · exact meaningful_ite (meaningful_next _) (meaningful_next _)

theorem meaningful_preemptSave (inst : Nat) : Meaningful (execPreemptSave inst s) := by
  unfold execPreemptSave
  refine meaningful_ite (meaningful_next _) (meaningful_ite (meaningful_ite (meaningful_next _) ?_) (meaningful_next _))
  split
  · exact meaningful_fault _
  · exact meaningful_next _

theorem meaningful_nodeComplete (node : Nat) : Meaningful (execNodeComplete node s) := by
  unfold execNodeComplete
  refine meaningful_ite (meaningful_next _) ?_
  split
  · exact meaningful_next _
  dsimp only
  split
  · exact meaningful_next _
  refine meaningful_ite (meaningful_next _) ?_
  split
  · exact meaningful_fault _
  · exact meaningful_ite (meaningful_next _) (meaningful_next _)

theorem meaningful_messageResend (seq : Nat) : Meaningful (execMessageResend seq s) := by
  unfold execMessageResend
  split <;> exact meaningful_next _

theorem meaningful_atsTranslationCompletion (ctx page : Nat) (answer : Option (Nat × Bool × Bool)) :
    Meaningful (execAtsTranslationCompletion ctx page answer s) := by
  unfold execAtsTranslationCompletion
  refine meaningful_ite (meaningful_next _) ?_
  dsimp only
  split
  · exact meaningful_next _
  · split <;> exact meaningful_next _

theorem meaningful_hbmScrubRead (block : Nat) (corrected : Bool) (bad : List Nat) : Meaningful (execHbmScrubRead block corrected bad s) :=
  meaningful_ite (meaningful_next _) (meaningful_ite (meaningful_next _) (meaningful_next _))

theorem meaningful_exec (i : Instr) (s : State) : Meaningful (exec i s) := by
  cases h : branches i with
  | false =>
    obtain ⟨t, ht⟩ := exec_next i s h
    exact ht ▸ meaningful_next t
  | true =>
    unfold branches at h
    split at h
    · exact meaningful_hldRecordArrival _ _ _ _
    · exact meaningful_xredResultDelivery _ _ _
    · exact meaningful_launchStart _ _
    · exact meaningful_dispatch _ _
    · exact meaningful_preemptSave _ _
    · exact meaningful_nodeComplete _ _
    · exact meaningful_messageResend _ _
    · exact meaningful_engineRowPerform _ _ _ _
    · exact meaningful_atsTranslationCompletion _ _ _ _
    · exact meaningful_hbmScrubRead _ _ _ _
    · exact nomatch h

/-- Settles O10: each encoded instruction's meaning is a next state by definition, and no branch of an event's is a refusal. -/
theorem everythingHasAMeaning : Obligations.EverythingHasAMeaning := by
  unfold Obligations.EverythingHasAMeaning
  refine ⟨fun i s => meaningful_exec i s, fun i s h => exec_next i s ?_⟩
  cases hb : branches i with
  | false => rfl
  | true => simp [opcodeOf_of_branches i hb] at h

end Sys2Proof.Laws.Meaning

namespace Sys2Proof.Laws.Scalar
open Sys2Proof.Machine
open Sys2Proof.Laws.ScalarControl

/-! SUPPORT AND CLAIMS. Truth tables, words of the opcode maps, reset and dispatch, and the integer operations, compares and results of
scalar instructions (spec 06, spec 07 R149-R155). -/

/-! ### Truth tables -/

/-- R135: bit l of a three-input table is the bit that the three inputs' bits l pick. -/
theorem truth_bit (tt : BitVec 8) (a b c : Pred) (l : Nat) (hl : l < 128) :
    (truth tt a b c).getLsbD l =
      tt.getLsbD ((if a.getLsbD l then 4 else 0) + (if b.getLsbD l then 2 else 0) + (if c.getLsbD l then 1 else 0)) := by
  have hor : ∀ (t : Bool) (x y : Pred), (if t = true then x ||| y else x).getLsbD l = (x.getLsbD l || (t && y.getLsbD l)) := by
    intro t x y
    cases t <;> simp
  have hnot : ∀ x : Pred, (~~~x).getLsbD l = !x.getLsbD l := by simp [hl]
  simp only [truth, List.range, List.range.loop, List.foldl_cons, List.foldl_nil, hor, Nat.reduceDiv, Nat.reduceMod, Nat.zero_div,
    Nat.zero_mod, Nat.zero_ne_one, if_true, if_false, BitVec.getLsbD_and, hnot]
  generalize a.getLsbD l = p, b.getLsbD l = q, c.getLsbD l = r
  cases p <;> cases q <;> cases r <;> simp

theorem guard_allOnes (d : Deck) (h : Hd) (htt : h.tt = 0xFF) : d.guard h = BitVec.allOnes 128 := if_pos htt

/-- Settles O3: TT 0x00 is not decoded, TT 0xFF does not look at the predicates. -/
theorem specialTruthTables : Obligations.SpecialTruthTables := by
  refine ⟨fun k y hy => decodeSyl_of_tt_zero hy, fun s k => rfl, fun d h l htt hl => ?_⟩
  rw [guard_allOnes d h htt, BitVec.getLsbD_allOnes, decide_eq_true hl]

/-- Settles O4: the decoder evaluated on each word. -/
theorem wordsDecode : Obligations.WordsDecode := by
  unfold Obligations.WordsDecode
  decide +kernel

/-! ### Reset and dispatch -/

/-- Settles O5: each map is empty at reset, so its entries have their reset values. -/
theorem resetDevice : Obligations.ResetDevice :=
  ⟨rfl, fun _ => rfl, fun _ => rfl, fun _ _ => rfl, rfl, rfl, rfl, rfl, fun _ => rfl⟩

/-- Settles O8: memory is empty at reset. -/
theorem resetMemoryCanonical : Obligations.ResetMemoryCanonical := rfl

theorem mget_startArgs (args : List Word) (r : Nat) :
    mget (0 : Word) ((List.range 4).foldl (fun m k => mset 0 m (k + 1) (args.getD k 0)) []) r =
      if 1 ≤ r ∧ r ≤ 4 then args.getD (r - 1) 0 else 0 := by
  have hput : ∀ (m : Map Word) (k : Nat) (v : Word), mget 0 (mset 0 m k v) r = if r = k then v else mget 0 m r := by
    intro m k v
    split
    · rename_i e
      rw [e, mget_mset_same]
    · rename_i e
      exact mget_mset_other 0 m v (Ne.symm e)
  simp only [List.range, List.range.loop, List.foldl_cons, List.foldl_nil, hput, mget_nil]
  match r with
  | 0 | 1 | 2 | 3 | 4 => rfl
  | r + 5 => simp

/-- Settles O6: the fields of a deck at dispatch are those of reset but for addresses, arguments, trap vector, work id, seed and kernel. -/
theorem deckAtDispatch : Obligations.DeckAtDispatch := by
  intro i n clock x d
  have hx : ∀ r : BitVec 6, d.getX r = if 1 ≤ r.toNat ∧ r.toNat ≤ 4 then x.args.getD (r.toNat - 1) 0 else 0 := by
    intro r
    by_cases hr : r = 0
    · subst hr
      rfl
    · rw [Deck.getX, if_neg hr]
      exact mget_startArgs x.args r.toNat
  exact ⟨rfl, rfl, rfl, rfl, hx, fun _ => rfl, fun _ => rfl, fun _ => rfl, fun _ => rfl, fun _ => rfl, rfl, rfl, rfl, rfl, rfl, fun _ => rfl, fun _ => rfl,
    rfl, rfl, rfl, rfl, fun _ => rfl, rfl, rfl, rfl, rfl, rfl, rfl, rfl, rfl, fun _ => rfl, rfl, rfl, rfl⟩

/-! ### Integer operations -/

theorem shiftL_eq (x y : Word) : shiftL x y = BitVec.ofNat 64 (x.toNat * 2 ^ (y.toNat % 64)) := by
  apply BitVec.eq_of_toNat_eq
  simp [shiftL, Nat.shiftLeft_eq]

theorem shiftR_eq (x y : Word) : shiftR x y = BitVec.ofNat 64 (x.toNat / 2 ^ (y.toNat % 64)) := by
  apply BitVec.eq_of_toNat_eq
  simp only [shiftR, BitVec.toNat_ushiftRight, BitVec.toNat_ofNat, Nat.shiftRight_eq_div_pow]
  exact (Nat.mod_eq_of_lt (Nat.lt_of_le_of_lt (Nat.div_le_self _ _) x.isLt)).symm

theorem shiftA_eq (x y : Word) : shiftA x y = BitVec.ofInt 64 (x.toInt / 2 ^ (y.toNat % 64)) := by
  rw [shiftA, BitVec.sshiftRight, Int.shiftRight_eq_div_pow]
  norm_cast

theorem add_eq_ofNat (x y : Word) : x + y = BitVec.ofNat 64 (x.toNat + y.toNat) := by
  rw [BitVec.ofNat_add, BitVec.ofNat_toNat, BitVec.ofNat_toNat, BitVec.setWidth_eq, BitVec.setWidth_eq]

theorem sub_eq_ofInt (x y : Word) : x - y = BitVec.ofInt 64 (x.toInt - y.toInt) := by
  apply BitVec.eq_of_toInt_eq
  rw [BitVec.toInt_sub, BitVec.toInt_ofInt]

theorem mul_eq_ofNat (x y : Word) : x * y = BitVec.ofNat 64 (x.toNat * y.toNat) := by
  rw [BitVec.ofNat_mul, BitVec.ofNat_toNat, BitVec.ofNat_toNat, BitVec.setWidth_eq, BitVec.setWidth_eq]

theorem minS_eq (x y : Word) : minS x y = if x.toInt ≤ y.toInt then x else y := by
  simp only [minS, BitVec.slt, decide_eq_true_eq]
  rcases Int.lt_trichotomy x.toInt y.toInt with h | h | h
  · rw [if_pos h, if_pos (Int.le_of_lt h)]
  · rw [BitVec.eq_of_toInt_eq h]
    simp
  · rw [if_neg (by omega), if_neg (by omega)]

theorem maxS_eq (x y : Word) : maxS x y = if x.toInt ≤ y.toInt then y else x := by
  simp only [maxS, BitVec.slt, decide_eq_true_eq]
  rcases Int.lt_trichotomy x.toInt y.toInt with h | h | h
  · rw [if_pos h, if_pos (Int.le_of_lt h)]
  · rw [BitVec.eq_of_toInt_eq h]
    simp
  · rw [if_neg (by omega), if_neg (by omega)]

theorem minU_eq (x y : Word) : minU x y = if x.toNat ≤ y.toNat then x else y := by
  simp only [minU, BitVec.ult, decide_eq_true_eq]
  rcases Nat.lt_trichotomy x.toNat y.toNat with h | h | h
  · rw [if_pos h, if_pos (Nat.le_of_lt h)]
  · rw [BitVec.eq_of_toNat_eq h]
    simp
  · rw [if_neg (by omega), if_neg (by omega)]

theorem maxU_eq (x y : Word) : maxU x y = if x.toNat ≤ y.toNat then y else x := by
  simp only [maxU, BitVec.ult, decide_eq_true_eq]
  rcases Nat.lt_trichotomy x.toNat y.toNat with h | h | h
  · rw [if_pos h, if_pos (Nat.le_of_lt h)]
  · rw [BitVec.eq_of_toNat_eq h]
    simp
  · rw [if_neg (by omega), if_neg (by omega)]

/-- R150: an immediate of 0 to 63 is its own shift amount. -/
theorem shift_amount {m : BitVec 21} (hm : m.toNat ≤ 63) : (m.signExtend 64).toNat % 64 = m.toNat := by
  have : m.toInt = m.toNat := by rw [BitVec.toInt_eq_toNat_cond, if_pos (by omega)]
  rw [BitVec.signExtend, this, BitVec.ofInt_natCast, BitVec.toNat_ofNat]
  omega

theorem aluImm_runs {s : State} {h : Hd} {b : XI} (f : Word → Word → Word) (r : s.Runs h [b.xa]) :
    s.aluImm h b f = s.writeX h 1 b.xd (f (s.x b.xa) (b.imm.signExtend 64)) := State.scalar_runs _ r

theorem fieldsValid_of_wf {i : Instr} (w : i.wf = true) : fieldsValid i = true := by
  unfold Instr.wf at w
  split at w
  case h_1 => cases w
  case h_2 => exact (Bool.and_eq_true_iff.mp (Bool.and_eq_true_iff.mp w).1).2

/-! ### Compares and tables -/

/-- R139: the ten conditions, as relations of the two words read signed or unsigned. -/
theorem condition_eq (k : Nat) (x y : Word) :
    condition k x y = match k with
      | 0 => decide (x = y) | 1 => decide (x ≠ y) | 2 => decide (x.toInt < y.toInt) | 3 => decide (y.toInt ≤ x.toInt)
      | 4 => decide (x.toNat < y.toNat) | 5 => decide (y.toNat ≤ x.toNat) | 6 => decide (x.toInt ≤ y.toInt) | 7 => decide (y.toInt < x.toInt)
      | 8 => decide (x.toNat ≤ y.toNat) | _ => decide (y.toNat < x.toNat) := by
  unfold condition
  split <;> simp only [BitVec.slt, BitVec.ult, bne, Bool.beq_eq_decide_eq, ← decide_not, Int.not_lt, Nat.not_lt, ne_eq]

theorem combine_eq (comb : BitVec 2) (p q c : Pred) :
    combine comb.toNat p q c = if comb = 1 then (p &&& c, q &&& ~~~c) else if comb = 2 then (p ||| c, q ||| ~~~c) else (c, ~~~c) := by
  have h1 : comb.toNat = 1 ↔ comb = 1 := ⟨fun h => BitVec.eq_of_toNat_eq h, fun h => h ▸ rfl⟩
  have h2 : comb.toNat = 2 ↔ comb = 2 := ⟨fun h => BitVec.eq_of_toNat_eq h, fun h => h ▸ rfl⟩
  simp only [combine, h1, h2]

/-- Settles O15: a compare writes what `combine` gives, `ptt` what the table gives in each lane. -/
theorem comparesAndTables : Obligations.ComparesAndTables := by
  refine ⟨fun h b s r => ?_, fun h b s r => ?_, fun h b s r => ?_⟩
  · refine (congrArg Host.Outcome.next (State.scalar_runs _ r)).trans ?_
    rw [State.compare, combine_eq, condition_eq] <;> rfl
  · refine (congrArg Host.Outcome.next (State.scalar_runs _ r)).trans ?_
    rw [State.compare, combine_eq]
    rfl
  · exact ⟨_, congrArg Host.Outcome.next (State.scalar_runs _ r), fun l hl => truth_bit _ _ _ _ l hl⟩

/-! ### A disabled syllable -/

theorem control_disabled {s : State} {h : Hd} {rs : List (BitVec 6)} (f : State → State) (g : s.guard0 h = false) : s.control h rs f = s := by
  unfold State.control
  split
  · exact State.scalar_disabled f g
  · rfl

theorem irrevocable_disabled {s : State} {h : Hd} {rs : List (BitVec 6)} (f : State → State) (g : s.guard0 h = false) :
    s.irrevocable h rs f = s := State.scalar_disabled _ g

theorem matrix_disabled {s : State} {h : Hd} {rs : List (BitVec 6)} {none_ busy : State → Bool} {port : State → Nat} (f : State → State)
    (g : s.guard0 h = false) : s.matrix h rs none_ port busy f = s := State.scalar_disabled _ g

/-- A disabled revocable syllable leaves the state unless `rfe` issues it again, which it does unguarded (R387). -/
theorem revocable_disabled {s : State} {h : Hd} {rs : List (BitVec 6)} (f : State → State) (g : s.guard0 h = false) (n : s.issue.anew = none) :
    s.revocable h rs f = s := by
  rw [State.revocable, State.isReplay, n]
  exact (if_neg Bool.false_ne_true).trans (State.scalar_disabled _ g)

/-- Settles O19: each of them acts through a form that a guard of 0 disables. -/
theorem disabledScalarDoesNothing : Obligations.DisabledScalarDoesNothing := by
  intro s h b c l q p e g
  have scalar := fun rs f => congrArg (Host.Outcome.next (φ := Fault) (ρ := Refusal)) (State.scalar_disabled (s := s) (rs := rs) f g)
  have control := fun rs f => congrArg (Host.Outcome.next (φ := Fault) (ρ := Refusal)) (control_disabled (s := s) (rs := rs) f g)
  have irrevocable := fun rs f => congrArg (Host.Outcome.next (φ := Fault) (ρ := Refusal)) (irrevocable_disabled (s := s) (rs := rs) f g)
  exact ⟨scalar _ _, scalar _ _, scalar _ _, control _ _, control _ _, control _ _, scalar _ _, scalar _ _, scalar _ _, scalar _ _, scalar _ _,
    irrevocable _ _, fun n => congrArg Host.Outcome.next (revocable_disabled _ g n), irrevocable _ _, congrArg Host.Outcome.next (matrix_disabled _ g)⟩

/-- Settles O11: the register and immediate forms write the operation of their row of R149. -/
theorem scalarForms : Obligations.ScalarForms := by
  refine ⟨fun h b s r => ?_, fun h b s r => ?_⟩
  · have alu := fun lat f => congrArg (Host.Outcome.next (φ := Fault) (ρ := Refusal)) (alu_runs (s := s) lat f r)
    refine ⟨(alu 1 _).trans ?_, (alu 1 _).trans ?_, alu 1 _, alu 1 _, alu 1 _, (alu 1 _).trans ?_, (alu 1 _).trans ?_, (alu 1 _).trans ?_,
      (alu 3 _).trans ?_, alu 3 _, alu 3 _, (alu 1 _).trans ?_, (alu 1 _).trans ?_, (alu 1 _).trans ?_, (alu 1 _).trans ?_⟩
    · rw [add_eq_ofNat]
    · rw [sub_eq_ofInt]
    · rw [shiftL_eq]
    · rw [shiftR_eq]
    · rw [shiftA_eq]
    · rw [mul_eq_ofNat]
    · rw [minS_eq]
    · rw [minU_eq]
    · rw [maxS_eq]
    · rw [maxU_eq]
  · have alu := fun f => congrArg (Host.Outcome.next (φ := Fault) (ρ := Refusal)) (aluImm_runs (s := s) f r)
    refine ⟨alu _, alu _, alu _, alu _, fun hm => ⟨(alu _).trans ?_, (alu _).trans ?_, (alu _).trans ?_⟩, ?_, ?_, ?_⟩
    · rw [shiftL_eq, shift_amount hm]
    · rw [shiftR_eq, shift_amount hm]
    · rw [shiftA_eq, shift_amount hm]
    all_goals exact fun w => of_decide_eq_true (fieldsValid_of_wf w)

/-! ### Bit counts and fields -/

/-- No pending `lds` holds a register of the list; then none holds one of a part of it. -/
theorem waitsLds_of_subset {s : State} {rs qs : List (BitVec 6)} (w : s.waitsLds rs = false) (hq : ∀ q ∈ qs, q ∈ rs) : s.waitsLds qs = false := by
  simp only [State.waitsLds, Deck.waitsLds, List.any_eq_false] at w ⊢
  exact fun q m => w q (hq q m)

/-- R149: the leading zeros of a word, 64 of the word 0. -/
theorem leadingZeros_spec (x : Word) : ∃ n, n ≤ 64 ∧ x.toNat < 2 ^ (64 - n) ∧ (x ≠ 0 → 2 ^ (63 - n) ≤ x.toNat ∧ n < 64) ∧
    leadingZeros x = BitVec.ofNat 64 n := by
  by_cases hx : x = 0
  · subst hx
    exact ⟨64, by decide, by decide, fun h => absurd rfl h, rfl⟩
  · have hpos : x.toNat ≠ 0 := fun h => hx (BitVec.eq_of_toNat_eq h)
    have hlog : x.toNat.log2 < 64 := (Nat.log2_lt hpos).2 x.isLt
    refine ⟨63 - x.toNat.log2, by omega, ?_, fun _ => ⟨?_, by omega⟩, if_neg hx⟩
    · rw [show 64 - (63 - x.toNat.log2) = x.toNat.log2 + 1 by omega]
      exact Nat.lt_log2_self
    · rw [show 63 - (63 - x.toNat.log2) = x.toNat.log2 by omega]
      exact Nat.log2_self_le hpos

theorem onesOf_eq (x : Word) : onesOf x = BitVec.ofNat 64 ((List.range 64).filter fun l => x.getLsbD l).length := by
  rw [onesOf, List.countP_eq_length_filter]

/-- A number that a word can hold as a signed one is what it is read as. -/
theorem toInt_ofInt_of_bounds {i : Int} (hlo : -2 ^ 63 ≤ i) (hhi : i < 2 ^ 63) : (BitVec.ofInt 64 i).toInt = i := by
  rw [BitVec.toInt_ofInt]
  exact Int.bmod_eq_of_le (by omega) (by omega)

/-- R153: a signed field is the residue of the field's bits between −2^(width−1) and 2^(width−1). -/
theorem extract_signed (x : Word) (lsb width : Nat) (hpos : 0 < width) (hw : width ≤ 64) :
    ((extract x lsb width true).toInt - (x.toNat / 2 ^ lsb % 2 ^ width : Nat)) % 2 ^ width = 0 ∧
      -2 ^ (width - 1) ≤ (extract x lsb width true).toInt ∧ (extract x lsb width true).toInt < 2 ^ (width - 1) := by
  obtain ⟨w, rfl⟩ : ∃ w, width = w + 1 := ⟨width - 1, by omega⟩
  have hlt : bits x.toNat lsb (w + 1) < 2 ^ (w + 1) := Nat.mod_lt _ (Nat.two_pow_pos _)
  have h63 : (2 : Int) ^ w ≤ 2 ^ 63 := by exact_mod_cast Nat.pow_le_pow_right (by decide) (by omega : w ≤ 63)
  have hsucc : (2 : Int) ^ (w + 1) = 2 * 2 ^ w := by rw [Int.pow_succ, Int.mul_comm]
  rw [show x.toNat / 2 ^ lsb % 2 ^ (w + 1) = bits x.toNat lsb (w + 1) from rfl]
  simp only [extract, Bool.true_and, Nat.add_sub_cancel]
  generalize bits x.toNat lsb (w + 1) = f at hlt ⊢
  have hf : (f : Int) < 2 * 2 ^ w := by rw [← hsucc]; exact_mod_cast hlt
  split
  case isTrue hge =>
    have hge : (2 : Int) ^ w ≤ f := by exact_mod_cast of_decide_eq_true hge
    rw [toInt_ofInt_of_bounds (by omega) (by omega)]
    refine ⟨?_, by omega, by omega⟩
    rw [show (f : Int) - 2 ^ (w + 1) - f = -2 ^ (w + 1) by omega]
    simp
  case isFalse hlt' =>
    have hlt' : (f : Int) < 2 ^ w := by
      have : f < 2 ^ w := by simpa using hlt'
      exact_mod_cast this
    rw [← BitVec.ofInt_natCast, toInt_ofInt_of_bounds (by omega) (by omega)]
    exact ⟨by simp, by omega, hlt'⟩

/-- R153: bit i of the word with a field put in. -/
theorem insertField_bit (d a : Word) (lsb width i : Nat) (hi : i < 64) :
    (insertField d a lsb width).getLsbD i = if lsb ≤ i ∧ i < lsb + width then a.getLsbD (i - lsb) else d.getLsbD i := by
  have hm : (BitVec.ofNat 64 ((2 ^ width - 1) * 2 ^ lsb)).getLsbD i = decide (lsb ≤ i ∧ i < lsb + width) := by
    rw [BitVec.getLsbD_ofNat, decide_eq_true hi, Bool.true_and, Nat.testBit_mul_two_pow, Nat.testBit_two_pow_sub_one, ← Bool.decide_and]
    exact decide_eq_decide.2 (by omega)
  simp only [insertField, BitVec.getLsbD_or, BitVec.getLsbD_and, BitVec.getLsbD_not, BitVec.getLsbD_shiftLeft, hm, hi, decide_true, Bool.true_and]
  by_cases hf : lsb ≤ i ∧ i < lsb + width
  · simp [hf]
  · simp [hf]

/-- Settles O12: each form writes its function of xa (and xd), which the lemmas above describe. -/
theorem bitCountsAndFields : Obligations.BitCountsAndFields := by
  intro h b s r x lsb width
  have hab : s.Runs h [b.xa, b.xb] := ⟨r.1, waitsLds_of_subset r.2 (by simp)⟩
  have hda : s.Runs h [b.xd, b.xa] := ⟨r.1, waitsLds_of_subset r.2 (by simp)⟩
  have alu := fun f => congrArg (Host.Outcome.next (φ := Fault) (ρ := Refusal)) (alu_runs (s := s) 1 f hab)
  refine ⟨?_, ?_, fun hm => ?_, fun hm hw => ?_, ?_⟩
  · obtain ⟨n, hn, hlt, hge, e⟩ := leadingZeros_spec x
    exact ⟨n, hn, hlt, hge, e ▸ alu _⟩
  · exact onesOf_eq x ▸ alu _
  · refine (alu _).trans ?_
    rw [hm]
    rfl
  · obtain ⟨hmod, hlo, hhi⟩ := extract_signed x lsb width (Nat.succ_pos _) (by omega)
    refine ⟨_, hmod, hlo, hhi, (alu _).trans ?_⟩
    rw [hm]
  · exact ⟨_, congrArg Host.Outcome.next (State.scalar_runs _ hda), fun i hi => insertField_bit _ _ _ _ i hi⟩

/-! ### Results -/

theorem landDeck_early {s : State} {n c : Nat} (ht : (s.getDeck n).trapWait = none) (hf : (s.getDeck n).frozen = none)
    (hl : ∀ l ∈ (s.getDeck n).latches, c < l.land) : s.landDeck n c = s := by
  have hdue : (s.getDeck n).latches.filter (fun l => l.land ≤ c) = [] := by
    simpa using hl
  simp [State.landDeck, ht, hf, hdue]

/-- The one result in flight of a deck lands once its clock has come. -/
theorem landDeck_one {s : State} {n c r : Nat} {l : Latch} (ht : (s.getDeck n).trapWait = none) (hf : (s.getDeck n).frozen = none)
    (hl : (s.getDeck n).latches = [l]) (hc : l.land ≤ c) (hd : l.dest = .x r) :
    (s.landDeck n c).getDeck n = ({ s.getDeck n with latches := [] } : Deck).land l := by
  simp [State.landDeck, ht, hf, hl, hc, insertLatch, hd]

/-- What a scalar result leaves in the issuing deck: one latch more. -/
theorem writeX_latch (s : State) (h : Hd) (lat : Nat) {r : BitVec 6} (v : Word) (hr : r ≠ 0) :
    ∃ l : Latch, l.land = s.clock + lat ∧ l.dest = .x r.toNat ∧ l.data = v.setWidth 4096 ∧
      (s.writeX h lat r v).getDeck s.dn = { s.dk with latches := s.dk.latches ++ [l] } := by
  rw [State.writeX_pos s h lat v hr]
  exact ⟨_, rfl, rfl, rfl, State.result_dk s h lat (.x r.toNat) (BitVec.allOnes 128) (v.setWidth 4096) 0⟩

/-- Settles O17: the result is the deck's one latch, and `landDeck` takes it at issue + lat. -/
theorem scalarResultLands : Obligations.ScalarResultLands := by
  intro h lat r v s hlat
  refine ⟨rfl, fun ht hf hl => ?_⟩
  by_cases hr : r = 0
  · subst hr
    have land : ∀ c, s.landDeck s.dn c = s := fun c => landDeck_early ht hf (by simp [show (s.getDeck s.dn).latches = [] from hl])
    simp only [State.writeX_zero, land]
    exact ⟨rfl, rfl, fun q _ => rfl⟩
  · obtain ⟨l, hland, hdest, hdata, hd⟩ := writeX_latch s h lat v hr
    have hd : (s.writeX h lat r v).getDeck s.dn = { s.dk with latches := [l] } := by rw [hd, hl, List.nil_append]
    have ht' : ((s.writeX h lat r v).getDeck s.dn).trapWait = none := by rw [hd]; exact ht
    have hf' : ((s.writeX h lat r v).getDeck s.dn).frozen = none := by rw [hd]; exact hf
    have hlate : ((s.writeX h lat r v).landDeck s.dn (s.clock + lat)).getDeck s.dn = ({ s.dk with latches := [] } : Deck).land l := by
      rw [landDeck_one ht' hf' (by rw [hd]) (by omega) hdest, hd]
    have hpos : r.toNat ≠ 0 := fun e => hr (BitVec.eq_of_toNat_eq e)
    have hx : (v.setWidth 4096).setWidth 64 = v := by simp
    rw [hlate, Deck.land_x _ _ _ hdest hpos, hdata, hx, if_neg hr]
    refine ⟨?_, ?_, fun q hq => ?_⟩
    · rw [Deck.getX, if_neg hr, mget_mset_same]
    · rw [landDeck_early ht' hf' (by simp [hd]; omega)]
      rw [hd]
      rfl
    · simp only [Deck.getX, State.x]
      rw [mget_mset_other _ _ _ fun e => hq (BitVec.eq_of_toNat_eq e.symm)]

end Sys2Proof.Laws.Scalar

namespace Sys2Proof.Laws.Stepping
open Sys2Proof.Machine

/-! SUPPORT AND CLAIMS. What a step does at a bundle of one decoded syllable, and with an event that is due. -/

/-! ### Syllables of a bundle -/

/-- The state in which a syllable runs: nothing has stalled or been raised, and the entries that later syllables free are known. -/
def readyFor (s : State) (freeing : List Nat) : State :=
  s.modIssue fun i => { i with stall := false, waitOther := false, raised := none, freeing := freeing }

theorem issue_eq_self {i : Issue} (hs : i.stall = false) (hw : i.waitOther = false) (hr : i.raised = none) (hf : i.freeing = []) :
    ({ i with stall := false, waitOther := false, raised := none, freeing := [] } : Issue) = i := by
  cases i
  cases hs
  cases hw
  cases hr
  cases hf
  rfl

theorem readyFor_eq_self {s : State} (hs : s.issue.stall = false) (hw : s.issue.waitOther = false) (hr : s.issue.raised = none)
    (hf : s.issue.freeing = []) : readyFor s [] = s :=
  congrArg (fun i => { s with issue := i }) (issue_eq_self hs hw hr hf)

/-- A syllable that neither stalls nor raises a trap leaves its state to the next. -/
theorem run_next {r : Ran} {k : Slot} {y : Syl} {f : List Nat} {t : State} (h : (readyFor r.acc f).syllable k y = .next t)
    (hs : t.issue.stall = false) (hr : t.issue.raised = none) (hj : t.issue.joins = false) : r.run k y f = .next { r with acc := t } := by
  unfold readyFor at h
  simp only [Ran.run, h, hs, hr, hj, Bool.false_eq_true, and_false, if_false]

theorem run_empty (r : Ran) (k : Slot) (f : List Nat) (hj : r.acc.issue.joins = false) :
    r.run k .empty f = .next { r with acc := readyFor r.acc f } := run_next rfl rfl rfl hj

/-- Empty syllables before others change at most which entries count as being freed. -/
theorem runAll_skip (ks : List Slot) (ys : List (Slot × Syl)) : ∀ r : Ran, r.acc.issue.joins = false →
    ∃ a : State, readyFor a [] = readyFor r.acc [] ∧ a.issue.joins = false ∧
      r.runAll (ks.map (·, Syl.empty) ++ ys) = ({ r with acc := a } : Ran).runAll ys := by
  induction ks with
  | nil => exact fun r hj => ⟨r.acc, rfl, hj, rfl⟩
  | cons k ks ih =>
    intro r hj
    obtain ⟨a, ha, hja, e⟩ := ih { r with acc := readyFor r.acc ((ks.map (·, Syl.empty) ++ ys).flatMap fun q => r.base.popsOf q.2) } hj
    refine ⟨a, ha, hja, ?_⟩
    rw [List.map_cons, List.cons_append, Ran.runAll, run_empty r k _ hj]
    exact e

theorem pops_of_empties (s : State) (ks : List Slot) : ((ks.map (·, Syl.empty)).flatMap fun q : Slot × Syl => s.popsOf q.2) = [] := by
  rw [List.flatMap_eq_nil_iff]
  intro q hq
  obtain ⟨k, -, rfl⟩ := List.mem_map.mp hq
  rfl

/-- Empty syllables at the end of a bundle change nothing. -/
theorem runAll_empties (ks : List Slot) : ∀ r : Ran, r.acc.issue.joins = false → readyFor r.acc [] = r.acc →
    r.runAll (ks.map (·, Syl.empty)) = .next r := by
  induction ks with
  | nil => exact fun r _ _ => rfl
  | cons k ks ih =>
    intro r hj hr
    rw [List.map_cons, Ran.runAll, pops_of_empties, run_empty r k _ hj, hr]
    exact ih r hj hr

/-- A bundle with one syllable that is not empty runs it in the state in which the bundle begins. -/
theorem runAll_one {r : Ran} {i : Instr} {t : State} (k : Slot) (before after : List Slot) (hj : r.acc.issue.joins = false)
    (h : exec i (readyFor r.acc []) = .next t) (hs : t.issue.stall = false) (hw : t.issue.waitOther = false) (hr : t.issue.raised = none)
    (hf : t.issue.freeing = []) (hjt : t.issue.joins = false) :
    r.runAll (before.map (·, Syl.empty) ++ (k, .ok i) :: after.map (·, Syl.empty)) = .next { r with acc := t } := by
  obtain ⟨a, ha, -, e⟩ := runAll_skip before ((k, .ok i) :: after.map (·, Syl.empty)) r hj
  have hrun : ({ r with acc := a } : Ran).run k (.ok i) [] = .next { r with acc := t } :=
    run_next (show (readyFor a []).syllable k (.ok i) = .next t from ha ▸ h) hs hr hjt
  rw [e, Ran.runAll, pops_of_empties, hrun]
  exact runAll_empties after _ hjt (readyFor_eq_self hs hw hr hf)

/-- A bundle whose only syllable is i, in slot k. -/
def single (k : Slot) (i : Instr) : Bundle :=
  ⟨if k = .a then .ok i else .empty, if k = .s then .ok i else .empty, if k = .v then .ok i else .empty, if k = .x then .ok i else .empty⟩

/-- In lockstep mode it is one syllable between empty ones, whatever the order in which the bundle's slots run. -/
theorem slotsOf_single (k : Slot) (i : Instr) : ∃ before after : List Slot,
    slotsOf (single k i) none = before.map (·, Syl.empty) ++ (k, .ok i) :: after.map (·, Syl.empty) := by
  unfold slotsOf
  dsimp only
  split
  · cases k
    · exact ⟨[], [.v, .x, .s], rfl⟩
    · exact ⟨[.a, .v, .x], [], rfl⟩
    · exact ⟨[.a], [.x, .s], rfl⟩
    · exact ⟨[.a, .v], [.s], rfl⟩
  · cases k
    · exact ⟨[], [.s, .v, .x], rfl⟩
    · exact ⟨[.a], [.v, .x], rfl⟩
    · exact ⟨[.a, .s], [.x], rfl⟩
    · exact ⟨[.a, .s, .v], [], rfl⟩

/-! ### Bundles and steps -/

theorem runBundle_single {s t : State} {n : Nat} {k : Slot} {i : Instr} {pc : CodeAddr} (he : (s.getDeck n).overrunEnd = false)
    (ha : (s.getDeck n).overrunA = false) (h : exec i (s.beginBundle n none pc none) = .next t) (hs : t.issue.stall = false)
    (hw : t.issue.waitOther = false) (hr : t.issue.raised = none) (hf : t.issue.freeing = []) (hj : t.issue.joins = false)
    (hh : t.haltWaits n = false) (hin : s.inFlight n < t.inFlight n → t.inFlight n ≤ 128) :
    s.runBundle n none pc (single k i) =
      .next ((t.finishBundle n none).checkBundle (s.beginBundle n none pc none) t n none (single k i)) := by
  obtain ⟨before, after, hslots⟩ := slotsOf_single k i
  have hran := runAll_one (r := ⟨s.beginBundle n none pc none, s.beginBundle n none pc none, 0, true, none⟩) k before after rfl h hs hw hr hf hj
  have hpass : s.passedEnd n none pc = none := by simp [State.passedEnd, he, ha]
  have hgo : ¬ ((0 : Nat) ≠ 0 ∨ t.haltWaits n = true ∨ (s.inFlight n < t.inFlight n ∧ 128 < t.inFlight n)) := by
    rw [hh]
    rintro (h | h | ⟨h1, h2⟩)
    · exact h rfl
    · exact nomatch h
    · exact Nat.not_lt.mpr (hin h1) h2
  rw [State.runBundle]
  simp only [hslots, hran, hpass]
  rw [if_neg hgo]
  rfl

theorem checkBundle_clean {s s0 t : State} {n : Nat} (side : Option Bool) (b : Bundle) (hp : (s0.getDeck n).parity = [])
    (hpar : (s0.getDeck n).par = none) : s.checkBundle s0 t n side b = s := by
  have hparity : ∀ is, s.checkParity s0 n is = s := by
    intro is
    simp [State.checkParity, hp]
  rw [State.checkBundle, hparity, State.runParapet]
  simp only [hpar]
  split <;> simp_all

theorem nextEvent_due {s : State} {c : Nat} {e : Instr} {rest : List (Nat × Instr)} (h : s.agenda = (c, e) :: rest) (hc : c ≤ s.clock) :
    s.nextEvent = some (e, { s with agenda := rest }) := by
  rw [State.nextEvent, h]
  exact if_pos hc

/-- Outside the issue phase a step takes the event that is due. -/
theorem step_of_nextEvent {s s' : State} {e : Instr} (hp : s.phase ≠ .issue) (h : s.nextEvent = some (e, s')) :
    step s = if s'.asleep e then .next (s'.post (s'.clock + 1) e) else exec e s' := by
  unfold step State.act
  split
  case h_3 hi => exact absurd hi hp
  all_goals simp only [h]

/-- Settles O7: the one syllable of the bundle runs as its own `exec`, and an event as its own. -/
theorem stepRunsDecoded : Obligations.StepRunsDecoded := by
  refine ⟨fun s n k i t hphase hnext hreplay henters hside he ha hb hbundle h hs hw hr hf hj hh hin => ?_,
    fun s s0 t n side b hp hpar => checkBundle_clean side b hp hpar, fun s c e rest hag hc hp => ?_⟩
  · have hstep : step s = s.runDeck n := by
      unfold step State.act
      simp only [hphase, hnext]
    rw [hstep, State.runDeck, hreplay]
    dsimp only
    rw [henters, hside]
    change s.bundleAt (n / 4) (s.getDeck n).pcE = single k i at hbundle
    have := runBundle_single (k := k) he ha h hs hw hr hf hj hh hin
    simpa [hb, Deck.slipHolds, hbundle] using this
  · have hstep := step_of_nextEvent hp (nextEvent_due hag hc)
    exact ⟨fun ha => by rw [hstep, ha]; rfl, fun ha => by rw [hstep, ha]; rfl⟩

end Sys2Proof.Laws.Stepping

namespace Sys2Proof.Laws.Control
open Sys2Proof.Machine
open Sys2Proof.Laws.Scalar

/-! SUPPORT AND CLAIMS. Branches, loops, fork and join, special registers, fences, leases, traps and live masks (spec 07 R156-R184). -/

section
variable {s : State} {h : Hd} {rs : List (BitVec 6)}

theorem next_scalar (f : State → State) (r : s.Runs h rs) : (.next (s.scalar h rs f) : Out) = .next (f s) :=
  congrArg Host.Outcome.next (State.scalar_runs f r)

theorem next_control (f : State → State) (r : s.Acts h rs) : (.next (s.control h rs f) : Out) = .next (f s) :=
  congrArg Host.Outcome.next (State.control_acts f r)

theorem runs_of_subset {qs : List (BitVec 6)} (r : s.Runs h rs) (hq : ∀ q ∈ qs, q ∈ rs) : s.Runs h qs :=
  ⟨r.1, waitsLds_of_subset r.2 hq⟩

end

/-! ### Branches -/

/-- R140: the address of this bundle plus the offset, modulo 2^14. -/
theorem code_target (pc : CodeAddr) {w : Nat} (off : BitVec w) : pc + (off.signExtend 64).setWidth 14 = BitVec.ofInt 14 (pc.toNat + off.toInt) := by
  apply BitVec.eq_of_toNat_eq
  rw [BitVec.toNat_add, BitVec.toNat_setWidth, BitVec.signExtend, BitVec.toNat_ofInt, BitVec.toNat_ofInt]
  omega

theorem jump_outside_kernel {s : State} (h : Hd) (t : CodeAddr) (pops : Bool) (hk : s.dk.inKernel = false) :
    s.jump h t pops = s.modIssue fun i => { i with target := some t, popLoops := pops, taken := true } := by
  simp [State.jump, hk]

theorem link_value (pc : CodeAddr) : (pc + 1).setWidth 64 = BitVec.ofNat 64 ((pc.toNat + 1) % 2 ^ 14) := by
  apply BitVec.eq_of_toNat_eq
  simp

theorem inKernel_writeX (s : State) (h : Hd) (lat : Nat) (r : BitVec 6) (v : Word) : (s.writeX h lat r v).dk.inKernel = s.dk.inKernel := by
  unfold State.writeX
  split
  · rfl
  · rw [State.result_dk]
    rfl

/-- Settles O20: outside a kernel a jump is the bundle's target, and `boq` has room. -/
theorem branches : Obligations.Branches := by
  intro h b c s hk goes dest
  have htarget : s.target b.off = dest := code_target s.issue.pc b.off
  refine ⟨fun r => ?_, fun r => ?_, fun r => ?_, fun o os hslot hq r => ?_, fun hslot hroom r => ?_⟩
  · refine (next_control _ r).trans ?_
    rw [jump_outside_kernel _ _ _ hk, htarget]
  · refine (next_control _ r).trans ?_
    rw [jump_outside_kernel _ _ _ ((inKernel_writeX s h 1 b.xd _).trans hk), htarget, link_value]
  · refine (next_control _ r).trans ?_
    rw [jump_outside_kernel _ _ _ hk, ← BitVec.ofNat_toNat]
  · intro s'
    refine (next_control _ r).trans ?_
    have hout : s.outcomes h = o :: os := by rw [State.outcomes, hslot]; exact hq
    have hk' : s'.dk.inKernel = false := by rw [State.dk_modDk]; exact hk
    have hpop : (s.modDk fun d => if h.slot = .a then { d with edge := { d.edge with popEA := true } }
        else { d with edge := { d.edge with popAE := true } }) = s' :=
      congrArg s.modDk (funext fun d => if_neg (by rw [hslot]; decide))
    simp only [hout, hpop]
    rw [jump_outside_kernel _ _ _ hk', show s'.target b.off = dest from htarget]
  · refine (next_scalar _ r).trans ?_
    have hfull : ¬ 16 + (if s.dk.edge.popAE || s.issue.freeing.contains outcomeQueue then 1 else 0) ≤ s.dk.aToE.length + s.dk.edge.pushAE.length := by
      omega
    simp only [hslot, if_true, if_neg hfull]
    rfl

/-! ### Loops -/

/-- R158: a setup with a free level, where no level ends at this bundle. -/
theorem setupLoop_free {s : State} (h : Hd) (n : Nat) (stop : CodeAddr) (hk : s.dk.inKernel = false) (hfree : (s.loops h).length < 4)
    (hend : ∀ l ∈ s.loops h, l.stop ≠ s.issue.pc) :
    s.setupLoop h n stop =
      if n = 0 then s.modIssue fun i => { i with target := some (stop + 1), popLoops := true, taken := true }
      else
        let l : Level := ⟨s.issue.pc + 1, stop, BitVec.ofNat 32 (n - 1)⟩
        s.modDk fun d => { d with loopsA := if d.fork ∧ h.slot ≠ .a then d.loopsA else l :: d.loopsA,
                                  loopsE := if d.fork ∧ h.slot = .a then d.loopsE else l :: d.loopsE } := by
  have htop : (s.loops h).head?.any (fun l => l.stop == s.issue.pc) = false := by
    cases hl : s.loops h with
    | nil => rfl
    | cons l ls => simpa [hl] using hend l (by simp [hl])
  rw [State.setupLoop]
  simp only [htop, Bool.false_eq_true, if_false, if_neg (Nat.not_le.mpr hfree), jump_outside_kernel _ _ _ hk]
  split
  · rfl
  · refine congrArg s.modDk (funext fun d => ?_)
    cases hf : d.fork <;> by_cases hs : h.slot = .a <;> simp [hs]

/-- Settles O21: the three setups are `setupLoop` with their counts and last bundles. -/
theorem loops : Obligations.Loops := by
  intro h b s hk hfree hend put
  have set := fun n stop => congrArg (Host.Outcome.next (φ := Fault) (ρ := Refusal)) (setupLoop_free (s := s) h n stop hk hfree hend)
  exact ⟨fun r _ => (next_control _ r).trans (set _ _), fun r => (next_control _ r).trans (set _ _), fun r => (next_control _ r).trans (set _ _)⟩

/-! ### Fork and join, sync bits, halt -/

/-- Bit k of the mask of sync bit n. -/
theorem syncMask_bit {n k : Nat} (hk : k < 16) : ((1 : BitVec 16) <<< n).getLsbD k = decide (k = n) := by
  rw [BitVec.getLsbD_shiftLeft, decide_eq_true hk, Bool.true_and]
  by_cases hn : k < n
  · simp [hn]
    omega
  · rw [decide_eq_false hn, Bool.not_false, Bool.true_and, show (1 : BitVec 16).getLsbD (k - n) = decide (k - n = 0) by simp]
    exact decide_eq_decide.2 (by omega)

/-- Settles O22: each form runs, and the mode, the other sequencer and the pending stores decide its branch. -/
theorem forkJoinSyncHalt : Obligations.ForkJoinSyncHalt := by
  intro h f b c s r
  refine ⟨fun hf => ?_, fun hf => ?_, fun hf => ?_, fun hf hb hp => ?_, fun hf hb hp => ?_, fun hc => ⟨1 <<< c.imm.toNat, fun k hk => syncMask_bit hk, ?_, fun hs => ?_⟩,
    fun hf hch => ?_⟩
  · refine (next_scalar _ r).trans ?_
    simp only [hf, Bool.false_eq_true, if_false, code_target]
  · refine (next_scalar _ r).trans ?_
    rw [if_pos hf]
  · refine (next_scalar _ r).trans ?_
    rw [State.lockstep, hf]
    rfl
  · refine (next_scalar _ r).trans ?_
    simp only [State.lockstep, hf, hb, hp, Bool.not_true, Bool.false_eq_true, if_false]
    by_cases hl : s.dk.loopsA = s.dk.loopsE <;> simp [hl]
  · refine (next_scalar _ r).trans ?_
    simp only [State.lockstep, hf, hb, hp, Bool.not_true, Bool.false_eq_true, if_false, if_true]
  · exact next_scalar _ r
  · refine (next_scalar _ r).trans ?_
    rw [if_pos hs]
  · refine (next_scalar _ r).trans ?_
    simp only [hf, hch, Option.isSome_none, Bool.false_eq_true, if_false]

/-! ### Special registers -/

/-- A register of user mode, or any register in supervisor mode, is not barred. -/
theorem not_barred {n : Nat} {sup : Bool} (hn : n < 0x40 ∨ sup = true) : ¬ (decide (0x40 ≤ n) && !sup) = true := by
  rcases hn with hn | hn
  · rw [decide_eq_false (Nat.not_le.mpr hn)]
    exact Bool.false_ne_true
  · rw [hn, Bool.not_true, Bool.and_false]
    exact Bool.false_ne_true

theorem setSpr_user {s : State} {h : Hd} {b : XI} {n : Nat} (r : s.Runs h [b.xa]) (hn : n < 0x40 ∨ s.dk.sup = true) :
    s.setSpr h b n = s.result h 1 (.spr n) 0 ((s.x b.xa).setWidth 4096) 0 := by
  rw [State.setSpr, State.scalar_runs _ r, isSupervisorReg, if_neg]
  exact not_barred hn

theorem setSpr_barred {s : State} {h : Hd} {b : XI} {n : Nat} (r : s.Runs h [b.xa]) (hn : 0x40 ≤ n) (hs : s.dk.sup = false) :
    s.setSpr h b n = s.raise h 0x11 0 0 := by
  rw [State.setSpr, State.scalar_runs _ r, isSupervisorReg, if_pos]
  simp [hn, hs]

/-- Settles O23: only registers from 0x40 on are the supervisor's. -/
theorem specialRegisters : Obligations.SpecialRegisters := by
  intro h b s r put
  have r0 : s.Runs h [] := runs_of_subset r (by simp)
  have user := fun n hn => congrArg (Host.Outcome.next (φ := Fault) (ρ := Refusal)) (setSpr_user (n := n) r hn)
  refine ⟨fun hn => ?_, fun hn hs => ?_, user _ (.inl (by decide)), user _ (.inl (by decide)), user _ (.inl (by decide)), fun hn => user _ (.inl hn),
    user _ (.inl (by decide)), fun hs => user _ (.inr hs), fun hs => congrArg Host.Outcome.next (setSpr_barred r (by decide) hs), next_scalar _ r0,
    rfl, rfl, rfl, rfl, rfl, ?_⟩
  · refine (next_scalar _ r0).trans ?_
    rw [isSupervisorReg, if_neg]
    exact not_barred hn
  · refine (next_scalar _ r0).trans ?_
    rw [isSupervisorReg, if_pos]
    simp [hn, hs]
  · exact (BitVec.ofNat_toNat _ _).symm

/-- A field of a number, in place. -/
theorem and_field (n lo w : Nat) : n &&& (2 ^ w - 1) * 2 ^ lo = n / 2 ^ lo % 2 ^ w * 2 ^ lo := by
  apply Nat.eq_of_testBit_eq
  intro i
  rw [Nat.testBit_and, Nat.testBit_mul_two_pow, Nat.testBit_mul_two_pow, Nat.testBit_two_pow_sub_one, Nat.testBit_mod_two_pow, Nat.testBit_div_two_pow]
  by_cases hi : lo ≤ i
  · simp [hi, Nat.sub_add_cancel hi, Bool.and_comm]
  · simp [hi]

theorem bits_low (n w : Nat) : bits n 0 w = n % 2 ^ w := by rw [bits, Nat.pow_zero, Nat.div_one]

/-- R178: fmode keeps bits 4:3 and a rounding mode of at most 4 in bits 7:5. -/
theorem fmode_value (w : Word) : (w &&& 0x18) ||| (if bits w.toNat 5 3 > 4 then 0 else w &&& 0xE0) =
    BitVec.ofNat 64 ((w.toNat / 8 % 4) * 8 + (if w.toNat / 32 % 8 > 4 then 0 else w.toNat / 32 % 8) * 32) := by
  have hlow : (w &&& 0x18).toNat = w.toNat / 8 % 4 * 8 := by
    rw [BitVec.toNat_and]
    exact and_field w.toNat 3 2
  have hmode : (w &&& 0xE0).toNat = w.toNat / 32 % 8 * 32 := by
    rw [BitVec.toNat_and]
    exact and_field w.toNat 5 3
  have hor : ∀ m, w.toNat / 8 % 4 * 8 ||| m * 32 = w.toNat / 8 % 4 * 8 + m * 32 := by
    intro m
    have := Nat.two_pow_add_eq_or_of_lt (b := w.toNat / 8 % 4 * 8) (i := 5) (by omega) m
    rw [Nat.or_comm, Nat.mul_comm m 32, ← this, Nat.add_comm]
  apply BitVec.eq_of_toNat_eq
  rw [BitVec.toNat_or, hlow, BitVec.toNat_ofNat]
  change _ ||| (if w.toNat / 32 % 8 > 4 then (0 : Word) else w &&& 0xE0).toNat = _
  rw [apply_ite BitVec.toNat, hmode]
  split
  · rw [Nat.zero_mul, Nat.add_zero, show (0 : Word).toNat = 0 from rfl, Nat.or_zero]
    omega
  · rw [hor]
    omega

/-- Bit k of the mask of the flags that are defined. -/
theorem flagMask_bit {k : Nat} (hk : k < 8) : (0xDF : BitVec 8).getLsbD k = decide (k ≠ 5) := by
  revert k
  decide

/-- What `writeSpr` keeps of a corner value: a finite positive break, and no slope between two pairs. -/
def crvClean (n : Nat) (w : Word) : Word :=
  let brk := bits w.toNat 32 32
  let brk' := if n = 0x020 ∨ brk ≥ 0x80000000 ∨ brk > 0x7F800000 then 0 else brk
  let sl := bits w.toNat 27 5
  let sl' := if 8 < sl ∧ sl < 16 then 8 else if 16 ≤ sl ∧ sl < 24 then 24 else sl
  BitVec.ofNat 64 (brk' * 2 ^ 32 + sl' * 2 ^ 27)

theorem crvClean_eq (n : Nat) (w : Word) : crvClean n w =
    BitVec.ofNat 64 ((if n = 0x020 ∨ w.toNat / 2 ^ 32 > 0x7F800000 then 0 else w.toNat / 2 ^ 32) * 2 ^ 32 +
      (let sl := w.toNat / 2 ^ 27 % 32; if 8 < sl ∧ sl < 16 then 8 else if 16 ≤ sl ∧ sl < 24 then 24 else sl) * 2 ^ 27) := by
  have hlt := w.isLt
  have hb : bits w.toNat 32 32 = w.toNat / 2 ^ 32 := Nat.mod_eq_of_lt (by omega)
  have hc : (n = 0x020 ∨ w.toNat / 2 ^ 32 ≥ 0x80000000 ∨ w.toNat / 2 ^ 32 > 0x7F800000) ↔ (n = 0x020 ∨ w.toNat / 2 ^ 32 > 0x7F800000) := by omega
  unfold crvClean
  simp only [hb, hc]
  rfl

/-- Settles O24: what `writeSpr` does, register by register. -/
theorem specialRegisterFields : Obligations.SpecialRegisterFields := by
  intro d w
  refine ⟨?_, ?_, ⟨?_, fun k hk hk5 => ?_⟩, ?_, fun n hlo hhi => ?_, ?_, ?_, ?_⟩
  · change (if bits w.toNat 0 10 = 0 then (1 : Word) else _) = _
    rw [bits_low] <;> rfl
  · exact fmode_value w
  · simp [Deck.writeSpr]
  · have hf : (d.writeSpr 0x012 w).fflags = w.setWidth 8 &&& 0xDF := rfl
    rw [hf, BitVec.getLsbD_and, BitVec.getLsbD_setWidth, decide_eq_true hk, Bool.true_and, flagMask_bit hk, decide_eq_true hk5, Bool.and_true]
  · exact (BitVec.ofNat_toNat 14 w).symm
  · have hn : d.writeSpr n w = { d with crv := mset (crvReset (n - 0x020)) d.crv (n - 0x020) (crvClean n w) } := by
      unfold Deck.writeSpr
      rw [if_neg (by omega), if_neg (by omega), if_neg (by omega), if_neg (by omega), if_pos ⟨hlo, hhi⟩]
      rfl
    rw [hn, mget_mset_same]
    exact crvClean_eq n w
  · intro n hn
    unfold Deck.writeSpr
    rw [if_neg hn]
    (repeat' split) <;> rfl
  · intro n
    unfold Deck.writeSpr
    (repeat' split) <;> rfl
  · intro n
    unfold Deck.writeSpr
    (repeat' split) <;> rfl

end Sys2Proof.Laws.Control

namespace Sys2Proof.Laws.Waits
open Sys2Proof.Machine
open Sys2Proof.Laws.Scalar Sys2Proof.Laws.Control

/-! SUPPORT AND CLAIMS. Fences and quiescent points, semaphores, leases, traps, waits and live masks (spec 07 R167-R184). -/

/-! ### Fences -/

/-- R117: a fence lets its bundle go once nothing that it waits for is left. -/
theorem fence_goes {s : State} {h : Hd} (remote cmds acks : Bool) (r : s.Runs h []) (hs : s.storesPending (s.earlierStores (isEx h)) = false)
    (hl : s.loadsDone s.dn (isEx h) remote = true) (hc : cmds = true → s.ownCmds s.dn (isEx h) s.clock = []) :
    s.fence h remote cmds acks = if acks && s.ackPending s.dn (isEx h) then s.stalled else s := by
  have hc' : (cmds && !(s.ownCmds s.dn (isEx h) s.clock).isEmpty) = false := by
    cases cmds
    · rfl
    · rw [hc rfl]
      rfl
  rw [State.fence, State.scalar_runs _ r]
  simp only [hs, hl, hc', Bool.not_true, Bool.false_or]

/-- R117: an earlier store that has not performed holds a fence of any scope. -/
theorem fence_holds {s : State} {h : Hd} (remote cmds acks : Bool) (r : s.Runs h []) (hs : s.storesPending (s.earlierStores (isEx h)) = true) :
    s.fence h remote cmds acks = s.stalled := by
  rw [State.fence, State.scalar_runs _ r]
  simp only [hs, Bool.true_or, if_true]

/-- Settles O25: each scope is `fence` with its own conditions; `qpt` and `sq` have a condition each. -/
theorem fencesAndPoints : Obligations.FencesAndPoints := by
  intro h b s r
  have goes := fun remote cmds acks hs hl hc =>
    congrArg (Host.Outcome.next (φ := Fault) (ρ := Refusal)) (fence_goes (s := s) (h := h) remote cmds acks r hs hl hc)
  refine ⟨fun hs hl => ⟨goes false false false hs hl nofun, goes false false false hs hl nofun⟩, fun hs hl => goes true false false hs hl nofun,
    fun hs hl hc => ⟨goes true true false hs hl fun _ => hc, goes true true true hs hl fun _ => hc⟩,
    fun hs => congrArg Host.Outcome.next (fence_holds false false false r hs), fun hd => ?_, fun hf hq => ?_⟩
  · exact (next_scalar _ r).trans (congrArg _ (if_pos hd))
  · refine (next_scalar _ r).trans ?_
    simp only [hf, hq, Bool.false_eq_true, if_false, if_true]

/-! ### Semaphores -/

theorem sem_setSem (c : Core) (n : Nat) (x : Sem) : (c.setSem n x).sem n = x := mget_mset_same _ _ _ _

/-- R168: the adds of a clock leave base and target, sum up, and the value is that of the last clamp. -/
theorem foldl_add (ks : List Int) : ∀ x : Sem, (ks.foldl Sem.add x).target = x.target ∧ (ks.foldl Sem.add x).base = x.base ∧
    (ks.foldl Sem.add x).sum = x.sum + ks.sum ∧
    (ks ≠ [] → (ks.foldl Sem.add x).value = BitVec.ofNat 16 (min 65535 (x.base + (x.sum + ks.sum)).toNat)) := by
  induction ks with
  | nil => exact fun x => ⟨rfl, rfl, by simp, fun h => absurd rfl h⟩
  | cons k ks ih =>
    intro x
    obtain ⟨ht, hb, hs, hv⟩ := ih (x.add k)
    have hsum : (x.add k).sum + ks.sum = x.sum + (k :: ks).sum := by
      rw [List.sum_cons, ← Int.add_assoc]
      rfl
    refine ⟨ht, hb, hs.trans hsum, fun _ => ?_⟩
    rw [List.foldl_cons]
    by_cases hks : ks = []
    · subst hks
      rw [List.sum_singleton]
      rfl
    · rw [hv hks, hsum]
      rfl

/-- R168: one clamp of the sum, whatever the order of the adds. -/
theorem foldl_add_value {x : Sem} {ks : List Int} (hs : x.sum = 0) (hb : x.base = x.value.toNat) (hks : ks ≠ []) :
    ((ks.foldl Sem.add x).value.toNat : Int) = max 0 (min 65535 (x.value.toNat + ks.sum)) := by
  rw [(foldl_add ks x).2.2.2 hks, hs, hb, BitVec.toNat_ofNat]
  omega

/-- A signal that is under way brings the writes that it releases (R118). -/
theorem remoteSignal_found {s : State} {core sem : Nat} {g : Signal} (h : s.signals.find? (fun p => p.core == core && p.sem == sem) = some g) :
    exec (.remoteSignalArrival core sem) s = .next (({ s with signals := s.signals.erase g }.semAdd core sem 1).modCore core fun k =>
      k.setSem sem { k.sem sem with rel := g.rel.foldl (fun m (p : Nat × Nat) => mput m p.1 (max p.2 (mget 0 m p.1))) (k.sem sem).rel }) := by
  change execRemoteSignalArrival core sem s = _
  unfold execRemoteSignalArrival
  rw [h]

/-- Settles O26: the waits compare target and value, the adds of a clock are one clamped sum. -/
theorem semaphores : Obligations.Semaphores := by
  refine ⟨?_, fun x ks hs hb hks => ⟨foldl_add_value hs hb hks, (foldl_add ks x).1⟩⟩
  intro h b s r _ n q
  have r0 : s.Runs h [] := runs_of_subset r (by simp)
  refine ⟨fun hm hq => ?_, fun hm hq => ?_, fun hq => ?_, ?_, ?_, next_scalar _ r0, fun core sem amount stores hp => ?_, fun core sem hn => ?_,
    fun g hg => ?_⟩
  · refine (next_scalar _ r0).trans ?_
    rw [if_pos hm, if_pos hq]
  · refine (next_scalar _ r0).trans ?_
    rw [if_neg (by rw [hm]; decide), if_pos hq]
  · refine (next_scalar _ r0).trans ?_
    have hv : ¬ q.target.toNat ≤ q.value.toNat := by omega
    have hu : ¬ q.target.toNat ≤ q.value.toNat + q.used := by omega
    dsimp only
    rw [if_neg hv, if_neg hu, ite_self]
  · refine (next_scalar _ r).trans ?_
    rw [← BitVec.ofNat_toNat]
    rfl
  · refine (next_scalar _ r).trans ?_
    rw [← BitVec.ofNat_toNat]
  · exact congrArg Host.Outcome.next (if_neg (by rw [hp]; decide))
  · refine congrArg Host.Outcome.next ?_
    rw [hn]
    rfl
  · have hfind : s.signals.find? (fun p => p.core == g.core && p.sem == g.sem) = some g := by
      rw [hg]
      simp
    refine ⟨_, remoteSignal_found hfind, ?_, ?_, ?_, rfl⟩
    · change s.signals.erase g = []
      rw [hg, List.erase_cons_head]
    · rw [State.getCore_modCore, sem_setSem, State.semAdd, State.getCore_modCore, sem_setSem]
      rfl
    · rw [State.getCore_modCore, sem_setSem, State.semAdd, State.getCore_modCore, sem_setSem]
      rfl

/-! ### Leases -/

/-- R41: of the requesters the first after the last holder is granted. -/
theorem nextLease_eq {c : Core} {d : Nat} (hl : c.leaseLast < 4) (hd : d < 4) (hreq : d ∈ c.leaseReq)
    (hmin : ∀ e, e < 4 → e ∈ c.leaseReq → (d + 3 - c.leaseLast) % 4 ≤ (e + 3 - c.leaseLast) % 4) : c.nextLease = some d := by
  unfold Core.nextLease
  generalize c.leaseLast = l at hl hmin ⊢
  obtain ⟨k, hk⟩ : ∃ k, k = (d + 3 - l) % 4 := ⟨_, rfl⟩
  rw [← hk] at hmin
  have hit : c.leaseReq.contains ((l + (k + 1)) % 4) = true ∧ (l + (k + 1)) % 4 = d := by
    have hd' : (l + (k + 1)) % 4 = d := by omega
    rw [hd']
    exact ⟨by simpa using hreq, rfl⟩
  have miss : ∀ i, i < k → c.leaseReq.contains ((l + (i + 1)) % 4) = false := fun i hi => by
    refine Bool.eq_false_iff.mpr fun hc => ?_
    have := hmin ((l + (i + 1)) % 4) (by omega) (by simpa using hc)
    omega
  rw [List.map_cons, List.map_cons, List.map_cons, List.map_cons, List.map_nil]
  obtain rfl | rfl | rfl | rfl : k = 0 ∨ k = 1 ∨ k = 2 ∨ k = 3 := by omega
  · rw [List.find?_cons_of_pos hit.1, hit.2]
  · rw [List.find?_cons_of_neg (Bool.eq_false_iff.mp (miss 0 (by decide))), List.find?_cons_of_pos hit.1, hit.2]
  · rw [List.find?_cons_of_neg (Bool.eq_false_iff.mp (miss 0 (by decide))), List.find?_cons_of_neg (Bool.eq_false_iff.mp (miss 1 (by decide))),
      List.find?_cons_of_pos hit.1, hit.2]
  · rw [List.find?_cons_of_neg (Bool.eq_false_iff.mp (miss 0 (by decide))), List.find?_cons_of_neg (Bool.eq_false_iff.mp (miss 1 (by decide))),
      List.find?_cons_of_neg (Bool.eq_false_iff.mp (miss 2 (by decide))), List.find?_cons_of_pos hit.1, hit.2]

theorem leaseGrant_free {s : State} {core d : Nat} (hfree : (s.getCore core).leaseHolder = none) (hnext : (s.getCore core).nextLease = some d) :
    exec (.leaseGrant core) s =
      .next { (s.setCore core ((s.getCore core).giveLease d s.clock)).rearm (4 * core + d) with phase := .issue } := by
  change Host.Outcome.next _ = _
  simp only [hfree, hnext]

/-- Settles O27: the lease goes to the requester that `nextLease` finds. -/
theorem leases : Obligations.Leases := by
  refine ⟨fun h b s r => ⟨fun hh => ?_, fun hh => ?_, fun hc => ?_⟩, fun core d s hfree hl hd hreq hmin => ?_⟩
  · exact (next_scalar _ r).trans (congrArg _ (if_pos hh))
  · have hck : ∀ f, ((s.modCk f).stalled).ck = f s.ck := fun f => State.getCore_modCore s s.cn f
    refine ⟨_, (next_scalar _ r).trans (congrArg _ (if_neg hh)), rfl, ?_⟩
    rw [hck]
    split
    · rename_i hreq
      simpa using hreq
    · exact List.mem_append_right _ (List.mem_singleton_self _)
  · refine (next_scalar _ r).trans ?_
    rw [hc]
    rfl
  · obtain ⟨t, ht, hcore, hmem⟩ : ∃ t, exec (.leaseGrant core) s = .next t ∧ t.getCore core = (s.getCore core).giveLease d s.clock ∧
        t.mem = s.mem := ⟨_, leaseGrant_free hfree (nextLease_eq hl hd hreq hmin), State.getCore_setCore s core _, rfl⟩
    refine ⟨t, ht, ?_, ?_, ?_, hmem⟩ <;> rw [hcore]
    · rfl
    · rfl
    · simp [Core.giveLease]

/-! ### Traps, waits, live masks -/

/-- R183: the live mask of a group of 64 rows takes the word, the others stand. -/
theorem vlive_bit (m : BitVec 320) (w : Word) {k i : Nat} (hi : i < 320) (hk : k ≤ 4) :
    ((m &&& ~~~((BitVec.allOnes 64).setWidth 320 <<< (64 * k))) ||| (w.setWidth 320 <<< (64 * k))).getLsbD i =
      if i / 64 = k then w.getLsbD (i % 64) else m.getLsbD i := by
  simp only [BitVec.getLsbD_or, BitVec.getLsbD_and, BitVec.getLsbD_not, BitVec.getLsbD_shiftLeft, BitVec.getLsbD_setWidth, BitVec.getLsbD_allOnes, hi, decide_true, Bool.true_and]
  rcases Nat.lt_trichotomy (i / 64) k with h | rfl | h
  · have h1 : i < 64 * k := by omega
    rw [if_neg (by omega)]
    simp [h1]
  · have h1 : ¬ i < 64 * (i / 64) := by omega
    have h2 : i - 64 * (i / 64) = i % 64 := by omega
    have h3 : i % 64 < 64 := Nat.mod_lt _ (by decide)
    have h4 : i % 64 < 320 := by omega
    simp [h1, h2, h3, h4]
  · have h1 : ¬ i < 64 * k := by omega
    have h2 : ¬ i - 64 * k < 64 := by omega
    have h3 : w.getLsbD (i - 64 * k) = false := BitVec.getLsbD_of_ge _ _ (by omega)
    rw [if_neg (by omega)]
    simp [h1, h2, h3]

/-- Settles O28: each of them runs, and the mode or the pending interrupts decide its branch. -/
theorem trapsWaitsMasks : Obligations.TrapsWaitsMasks := by
  intro h b c s r
  have r0 : s.Runs h [] := runs_of_subset r (by simp)
  refine ⟨fun hs => ?_, fun hp => ?_, fun h20 h21 h23 => ?_, ?_, ⟨_, next_scalar _ r, fun hm i hi => ?_⟩, fun hs => ?_, fun hs hf hd => ?_⟩
  · refine (next_scalar _ r0).trans ?_
    have hm : (s.modDk fun d => { d with pendTrap := some ⟨0x22, BitVec.ofNat 64 (bits c.imm.toNat 0 20), 0, if d.sup then 7 else 6⟩ }) =
        s.setDk { s.dk with pendTrap := some ⟨0x22, BitVec.ofNat 64 (bits c.imm.toNat 0 20), 0, if s.dk.sup then 7 else 6⟩ } := rfl
    rw [hm, hs, bits_low]
    rfl
  · refine (next_scalar _ r0).trans (congrArg _ (if_pos ?_))
    rcases hp with hp | hp | hp <;> simp [hp]
  · refine (next_scalar _ r0).trans (congrArg _ (if_neg ?_))
    simp [h20, h21, h23]
  · refine (next_scalar _ r).trans ?_
    rw [← BitVec.ofNat_toNat]
  · exact vlive_bit _ _ hi hm
  · exact (next_scalar _ r0).trans (congrArg _ (if_pos (by rw [hs]; rfl)))
  · refine (next_scalar _ r0).trans ?_
    simp only [hs, hf, hd, Bool.not_true, Bool.false_and, Bool.false_eq_true, if_false]

end Sys2Proof.Laws.Waits

namespace Sys2Proof.Laws.Traps
open Sys2Proof.Machine

/-! SUPPORT AND CLAIMS. Trap entry, the frame, the return, and the events that bring a deck to a trap (spec 20). -/

/-! ### Entry -/

/-- The deck that has entered a trap: d with the effects of its bundle, cause and information saved, nothing in flight. -/
def trapped (d : Deck) (t : Trap) (lat : List Latch) (held : List Nat) : Deck :=
  { d with
    tcause := BitVec.ofNat 8 t.cause, tinfo := t.info, latches := [], heldIds := lat.map (fun l => l.dest.qid), ldsHeld := held,
    ldsWait := [], revoc := [], trapWait := none, hold := true, sup := true, fork := false, slip := 0, loopsA := [], loopsE := [],
    pendTrap := if t.cause = 0x22 then none else d.pendTrap, waitA := none, waitE := none, atSq := none, irq := none,
    overrunEnd := d.overrunEnd && !(t.cause == 0x10 && bits t.info.toNat 16 2 == 1),
    overrunA := d.overrunA && !(t.cause == 0x10 && bits t.info.toNat 16 2 == 0),
    pend20 := d.pend20 && !(t.cause == 0x20 && t.order == 5), pend21 := if t.cause = 0x21 ∧ t.order = 4 then 0 else d.pend21,
    pend23 := d.pend23 && !(t.cause == 0x23), arrFaults := d.arrFaults, pcA := d.tvec, pcE := d.tvec,
    par := d.par.map fun p => { p with loopsA := [], loopsE := [], own := [], skip := [] } }

/-- A deck with no access open and no fault of the array enters the trap it waits for, and its frame is written from then on. -/
theorem enterTrap_eq {s : State} {n : Nat} {w : TrapWait} (hw : (s.getDeck n).trapWait = some w) (hr : (s.getDeck n).revoc = [])
    (ha : (s.getDeck n).arrFaults = []) (ho : w.trap.order = 6) :
    ∃ lat held b rows opens, s.enterTrap n = (s.setDeck n (trapped (s.getDeck n).applyEdge w.trap lat held)).startFrame n b rows opens := by
  obtain ⟨⟨cause, info, addr, order⟩, ct⟩ := w
  subst ho
  unfold State.enterTrap
  simp only [hw, hr, ha, Deck.oldestFailure, State.squashFrom, List.any_nil, List.find?_nil, Option.bind_none, Option.any_none]
  exact ⟨_, _, _, _, _, rfl⟩

theorem takeTrap_user {s : State} {n : Nat} {t : Trap} (hs : (s.getDeck n).sup = false) (hr : (s.getDeck n).revoc = [])
    (ha : (s.getDeck n).arrFaults = []) (ho : t.order = 6) :
    ∃ lat held b rows opens, s.takeTrap n t = ((s.setDeck n
      { s.getDeck n with trapWait := some ⟨t, s.clock⟩, hold := true, wire := some 0 }).setDeck n
        (trapped ({ s.getDeck n with trapWait := some ⟨t, s.clock⟩, hold := true, wire := some 0 } : Deck).applyEdge t lat held)).startFrame n b rows opens := by
  have h : ∀ d : Deck, d.trapWait = some ⟨t, s.clock⟩ → d.revoc = [] → d.arrFaults = [] → ∃ lat held b rows opens,
      (s.setDeck n d).enterTrap n = ((s.setDeck n d).setDeck n (trapped d.applyEdge t lat held)).startFrame n b rows opens := by
    intro d h1 h2 h3
    have := enterTrap_eq (s := s.setDeck n d) (n := n) (w := ⟨t, s.clock⟩) (by rw [State.getDeck_setDeck, h1]) (by rw [State.getDeck_setDeck, h2])
      (by rw [State.getDeck_setDeck, h3]) ho
    rwa [State.getDeck_setDeck] at this
  obtain ⟨lat, held, b, rows, opens, e⟩ := h { s.getDeck n with trapWait := some ⟨t, s.clock⟩, hold := true, wire := some 0 } rfl hr ha
  refine ⟨lat, held, b, rows, opens, ?_⟩
  rw [State.takeTrap]
  exact (if_neg (by rw [hs]; decide)).trans e

theorem getDeck_setDeck_other (s : State) {n m : Nat} (d : Deck) (h : m ≠ n) : (s.setDeck n d).getDeck m = s.getDeck m :=
  mget_mput_other _ _ _ h.symm

/-- A synchronous cause in supervisor mode, on a deck without an `Inst`, is logged and holds the deck. -/
theorem takeTrap_supervisor {s : State} {n : Nat} (t : Trap) (hs : (s.getDeck n).sup = true) (hi : (s.getDeck n).inst = none) :
    s.takeTrap n t = (s.modDeck n fun d => { d with hold := true }).logError 0x07 (n / 4) n 0 ((s.getDeck n).pcE.setWidth 64) := by
  rw [State.takeTrap]
  refine (if_pos hs).trans ?_
  simp only [State.checkDeck, State.getDeck_modDeck, hi]

/-- Settles O29: the two cases of `takeTrap`. -/
theorem trapEntry : Obligations.TrapEntry := by
  refine ⟨fun s n t hs hr ha ho => ?_, fun s n t hs hi => ?_⟩
  · obtain ⟨lat, held, b, rows, opens, e⟩ := takeTrap_user hs hr ha ho
    intro d d'
    have hd : d' = trapped ({ d with trapWait := some ⟨t, s.clock⟩, hold := true, wire := some 0 } : Deck).applyEdge t lat held :=
      (congrArg (State.getDeck · n) e).trans (State.getDeck_setDeck _ _ _)
    rw [hd, e]
    refine ⟨rfl, rfl, rfl, rfl, rfl, rfl, rfl, rfl, rfl, rfl, rfl, rfl, rfl, rfl, rfl, rfl, fun m hm => ?_, rfl⟩
    exact (getDeck_setDeck_other _ _ hm).trans (getDeck_setDeck_other _ _ hm)
  · rw [takeTrap_supervisor t hs hi, BitVec.ofNat_toNat]
    refine ⟨?_, rfl, rfl, rfl⟩
    exact congrArg Deck.hold (State.getDeck_modDeck s n fun d => { d with hold := true })

/-! ### Return -/

/-- Settles O31: the deck that `trapReturn` restores from the frame; what it drops first is no deck and no byte of memory. -/
theorem returnFromTrap : Obligations.ReturnFromTrap := by
  intro s n w r d'
  have hd : ∃ a, d' = a ∧ a.pcA = BitVec.ofNat 14 (getAt w 16 8) ∧ a.sup = (bits (getAt w 16 8) 33 1 == 1) ∧
      a.fork = (bits (getAt w 16 8) 32 1 == 1) ∧ a.nextA = r ∧ a.nextE = r ∧ a.wire = some r ∧ a.hold = false :=
    ⟨_, State.getDeck_setDeck _ _ _, rfl, rfl, rfl, rfl, rfl, rfl, rfl⟩
  obtain ⟨a, ha, hpc, hsup, hfork, hnA, hnE, hwire, hhold⟩ := hd
  rw [ha]
  exact ⟨hpc, hsup, hfork, hnA, hnE, hwire, hhold, rfl, fun m hm => getDeck_setDeck_other _ _ hm⟩

/-! ### Events -/

theorem preferred_of_none {s : State} {n : Nat} (t : Trap) (h : (s.getDeck n).interrupt (s.deferred n) = none) : s.preferred n t = t := by
  rw [State.preferred, h]

theorem preferred_of_some {s : State} {n : Nat} {t q : Trap} (h : (s.getDeck n).interrupt (s.deferred n) = some q) (ho : q.order < t.order)
    (hw : s.wfiKeeps n q = false) : s.preferred n t = q := by
  simp [State.preferred, h, ho, hw]

theorem mutualStall_takes {s : State} {n : Nat} (hm : s.mutuallyStalled n = true) (hw : (s.getDeck n).trapWait = none) :
    exec (.mutualStall n) s = .next (s.takeTrap n (s.preferred n ⟨0x0F, tinfoOf false 1 (s.getDeck n).pcE 2, 0, 6⟩)) :=
  congrArg Host.Outcome.next (if_pos (by rw [hm, hw]; rfl))

/-- Settles O32: each event under the condition at which it acts. -/
theorem trapEvents : Obligations.TrapEvents := by
  intro s n
  refine ⟨fun t hw hd => ?_, fun hw => ?_, fun hm hw hi => ?_, fun q hm hw hi ho hk => ?_, fun ht hc => ?_, fun ht hc => ?_⟩
  · refine congrArg Host.Outcome.next ?_
    rw [hw, hd]
    rfl
  · exact congrArg Host.Outcome.next (if_pos (Option.isSome_iff_ne_none.mpr hw))
  · rw [mutualStall_takes hm hw, preferred_of_none _ hi]
  · rw [mutualStall_takes hm hw, preferred_of_some hi ho hk]
  · refine ⟨_, congrArg Host.Outcome.next (if_pos (by rw [ht, hc]; simp)), State.getDeck_modDeck _ _ _, fun m hm => ?_, rfl⟩
    exact State.getDeck_modDeck_other s _ hm
  · refine ⟨_, congrArg Host.Outcome.next (if_pos (by rw [ht, hc]; simp)), State.getDeck_modDeck _ _ _, fun m hm => ?_, rfl⟩
    exact State.getDeck_modDeck_other s _ hm

/-! ### The frame -/

theorem getAt_low {a b o n k : Nat} (h : o + n ≤ k) : getAt (a + 256 ^ k * b) o n = getAt a o n := by
  obtain ⟨j, rfl⟩ : ∃ j, k = o + n + j := ⟨k - (o + n), by omega⟩
  have hpow : 256 ^ (o + n + j) * b = 256 ^ o * (256 ^ n * (256 ^ j * b)) := by
    rw [Nat.pow_add, Nat.pow_add, Nat.mul_assoc, Nat.mul_assoc]
  rw [getAt, getAt, hpow, Nat.add_mul_div_left _ _ (Nat.pow_pos (by decide)), Nat.add_mul_mod_self_left]

theorem getAt_high {a b o n k : Nat} (ha : a < 256 ^ k) : getAt (a + 256 ^ k * b) (k + o) n = getAt b o n := by
  rw [getAt, getAt, Nat.pow_add, ← Nat.div_div_eq_div_mul, Nat.add_mul_div_left _ _ (Nat.pow_pos (by decide)), Nat.div_eq_of_lt ha, Nat.zero_add]

theorem packBytes_lt (w : Nat) (l : List Nat) : packBytes w l < 256 ^ (w * l.length) := by
  induction l with
  | nil => simp [packBytes]
  | cons x l ih =>
    have hpos : 0 < 256 ^ w := Nat.pow_pos (by decide)
    have hx : x % 256 ^ w < 256 ^ w := Nat.mod_lt _ hpos
    rw [packBytes, List.length_cons, Nat.mul_succ, Nat.add_comm (w * l.length), Nat.pow_add]
    calc x % 256 ^ w + 256 ^ w * packBytes w l < 256 ^ w + 256 ^ w * packBytes w l := by omega
      _ = 256 ^ w * (packBytes w l + 1) := by rw [Nat.mul_succ, Nat.add_comm]
      _ ≤ 256 ^ w * 256 ^ (w * l.length) := Nat.mul_le_mul_left _ ih

/-- Entry i of packed values, by its byte offset. -/
theorem getAt_packBytes (w : Nat) (l : List Nat) : ∀ i (h : i < l.length), getAt (packBytes w l) (w * i) w = l[i] % 256 ^ w := by
  induction l with
  | nil => exact fun i h => absurd h (Nat.not_lt_zero i)
  | cons x l ih =>
    intro i h
    cases i with
    | zero => simp [packBytes, getAt, Nat.add_mul_mod_self_left]
    | succ i =>
      have hx : x % 256 ^ w < 256 ^ w := Nat.mod_lt _ (Nat.pow_pos (by decide))
      rw [packBytes, Nat.mul_succ, Nat.add_comm (w * i), getAt_high hx]
      exact ih i (by simpa using h)

/-- The scalar registers as the frame holds them. -/
def xBytes (d : Deck) : Nat := packBytes 8 ((List.range 64).map fun r => if r = 0 then 0 else (mget 0 d.x r).toNat)

theorem putAt_eq {k o : Nat} (v : Nat) (h : k ≤ o) : putAt o v = 256 ^ k * putAt (o - k) v := by
  rw [putAt, putAt, ← Nat.add_sub_cancel' h, Nat.pow_add, Nat.add_sub_cancel_left]
  exact Nat.mul_left_comm ..

/-- Apart from a multiple of 256^k the number is p. -/
def EndsIn (k p n : Nat) : Prop := ∃ r, n = p + 256 ^ k * r

theorem endsIn_refl (k p : Nat) : EndsIn k p p := ⟨0, by simp⟩

theorem endsIn_add {k p n o v : Nat} (h : EndsIn k p n) (ho : k ≤ o) : EndsIn k p (n + putAt o v) := by
  obtain ⟨r, rfl⟩ := h
  exact ⟨r + putAt (o - k) v, by rw [putAt_eq v ho, Nat.mul_add, Nat.add_assoc]⟩

/-- Above the scalar registers stand only pieces from byte 0x300 on. -/
theorem endsIn_fixedPart (d : Deck) (e : Extra) : EndsIn 0x300 (d.header e + putAt 0x100 (xBytes d)) (d.fixedPart e) := by
  unfold Deck.fixedPart
  iterate 17 refine endsIn_add ?_ (by decide)
  exact endsIn_refl _ _

/-- The image is its header, its scalar registers and what comes above byte 0x300. -/
theorem image_split (d : Deck) (e : Extra) : ∃ rest, (d.image e).1 = d.header e + 256 ^ 0x100 * (xBytes d + 256 ^ 0x200 * rest) := by
  have h : EndsIn 0x300 (d.header e + putAt 0x100 (xBytes d)) (d.image e).1 := by
    unfold Deck.image
    dsimp only
    iterate 4 refine endsIn_add ?_ (by unfold fixedBytes; omega)
    exact endsIn_fixedPart d e
  obtain ⟨r, hr⟩ := h
  refine ⟨r, ?_⟩
  rw [hr, putAt, show (0x300 : Nat) = 0x100 + 0x200 from rfl, Nat.pow_add, Nat.mul_assoc, Nat.add_assoc, Nat.mul_comm (xBytes d), ← Nat.mul_add]

theorem header_lt (d : Deck) (e : Extra) : d.header e < 256 ^ 0x100 := by
  refine Nat.lt_of_lt_of_le (packBytes_lt 8 _) (Nat.pow_le_pow_right (by decide) ?_)
  simp

/-- Word i of an image's header. -/
theorem getAt_image_header (d : Deck) (e : Extra) {o : Nat} (ho : o + 8 ≤ 0x100) : getAt (d.image e).1 o 8 = getAt (d.header e) o 8 := by
  obtain ⟨rest, h⟩ := image_split d e
  rw [h, getAt_low ho]

/-- Scalar register k as an image holds it. -/
theorem getAt_image_x (d : Deck) (e : Extra) {k : Nat} (hk : k < 64) :
    getAt (d.image e).1 (0x100 + 8 * k) 8 = if k = 0 then 0 else (mget 0 d.x k).toNat := by
  obtain ⟨rest, h⟩ := image_split d e
  rw [h, getAt_high (header_lt d e), getAt_low (by omega), xBytes, getAt_packBytes 8 _ k (by simpa using hk)]
  rw [List.getElem_map, List.getElem_range, Nat.mod_eq_of_lt]
  split
  · exact Nat.pow_pos (by decide)
  · exact (mget 0 d.x k).isLt

/-- Word i of the header, from the words it packs. -/
theorem getAt_header (d : Deck) (e : Extra) : let w := (d.image e).1
    getAt w 0 8 = d.wid.toNat ∧ (e.node < 2 ^ 64 → getAt w 8 8 = e.node) ∧ getAt w 40 8 = d.plive.toNat ∧
      getAt w 96 8 = d.tvec.toNat ∧ getAt w 104 8 = d.tcause.toNat ∧ getAt w 112 8 = d.tinfo.toNat ∧ getAt w 120 8 = e.addr.toNat := by
  intro w
  have word := fun i (hi : i < 16) => (getAt_image_header d e (o := 8 * i) (by omega)).trans (getAt_packBytes 8 _ i (by simpa using hi))
  have small : ∀ {n : Nat} (v : BitVec n), n ≤ 64 → v.toNat % 256 ^ 8 = v.toNat := fun {n} v hn =>
    Nat.mod_eq_of_lt (Nat.lt_of_lt_of_le v.isLt (Nat.pow_le_pow_right (by decide) hn))
  exact ⟨(word 0 (by decide)).trans (small d.wid (by decide)), fun h => (word 1 (by decide)).trans (Nat.mod_eq_of_lt h),
    (word 5 (by decide)).trans (small d.plive (by decide)), (word 12 (by decide)).trans (small d.tvec (by decide)),
    (word 13 (by decide)).trans (small d.tcause (by decide)), (word 14 (by decide)).trans (small d.tinfo (by decide)),
    (word 15 (by decide)).trans (small e.addr (by decide))⟩

/-- The fields of word 2: both addresses, fork mode and supervisor mode. -/
theorem getAt_header_modes (d : Deck) (e : Extra) : let m := getAt (d.image e).1 16 8
    m % 2 ^ 14 = d.pcA.toNat ∧ bits m 16 14 = d.pcE.toNat ∧ bits m 32 1 = (if d.fork then 1 else 0) ∧ bits m 33 1 = (if d.sup then 1 else 0) := by
  intro m
  have hm : m = (d.pcA.toNat + d.pcE.toNat * 2 ^ 16 + (if d.fork then 2 ^ 32 else 0) + (if d.sup then 2 ^ 33 else 0) +
      (if e.lease then 2 ^ 34 else 0) + (if e.lreq then 2 ^ 35 else 0)) % 256 ^ 8 :=
    (getAt_image_header d e (o := 8 * 2) (by decide)).trans (getAt_packBytes 8 _ 2 (by simp))
  have hA := d.pcA.isLt
  have hE := d.pcE.isLt
  rw [hm]
  simp only [bits]
  refine ⟨?_, ?_, ?_, ?_⟩ <;> cases d.fork <;> cases d.sup <;> cases e.lease <;> cases e.lreq <;>
    simp only [Bool.false_eq_true, if_true, if_false] <;> omega

theorem foldl_mset {α : Type} [DecidableEq α] (v : α) (f : Nat → α) (k : Nat) (l : List Nat) : ∀ m : Map α,
    mget v (l.foldl (fun m k => mset v m k (f k)) m) k = if k ∈ l then f k else mget v m k := by
  induction l with
  | nil => exact fun m => by simp
  | cons a l ih =>
    intro m
    rw [List.foldl_cons, ih]
    by_cases ha : k = a
    · subst ha
      simp [mget_mset_same]
    · simp [ha, mget_mset_other v m (f a) (Ne.symm ha)]

theorem mget_rebuild {α : Type} [DecidableEq α] (v : α) (f : Nat → α) {n k : Nat} (hk : k < n) : mget v (rebuild v n f) k = f k := by
  rw [rebuild, foldl_mset, if_pos (List.mem_range.mpr hk)]

/-- Settles O30: the header's words are packed in the order of R315, and a return reads the same words. -/
theorem frameHoldsContext : Obligations.FrameHoldsContext := by
  refine ⟨fun d e hn => ?_, fun d d0 e r seq => ?_⟩
  · intro w
    obtain ⟨hwid, hnode, hplive, htvec, htcause, htinfo, haddr⟩ := getAt_header d e
    obtain ⟨hA, hE, hfork, hsup⟩ := getAt_header_modes d e
    refine ⟨hwid, hnode hn, ?_, hE, hfork, hsup, hplive, htvec, htcause, htinfo, haddr⟩
    rw [← hA, bits, Nat.pow_zero, Nat.div_one]
  · intro d'
    obtain ⟨hwid, -, hplive, htvec, htcause, htinfo, -⟩ := getAt_header d e
    obtain ⟨hA, hE, hfork, hsup⟩ := getAt_header_modes d e
    have ofNat_toNat : ∀ {n : Nat} (v : BitVec n), BitVec.ofNat n v.toNat = v := fun v => by rw [BitVec.ofNat_toNat, BitVec.setWidth_eq]
    refine ⟨?_, ?_, ?_, ?_, ?_, ?_, ?_, ?_, ?_, fun q => ?_⟩
    · change BitVec.ofNat 64 (getAt (d.image e).1 0 8) = _
      rw [hwid, ofNat_toNat]
    · change BitVec.ofNat 14 (getAt (d.image e).1 16 8) = _
      rw [← ofNat_toNat d.pcA, ← hA]
      exact (BitVec.eq_of_toNat_eq (by simp))
    · change BitVec.ofNat 14 (bits (getAt (d.image e).1 16 8) 16 14) = _
      rw [hE, ofNat_toNat]
    · change (bits (getAt (d.image e).1 16 8) 32 1 == 1) = _
      rw [hfork]
      cases d.fork <;> rfl
    · change (bits (getAt (d.image e).1 16 8) 33 1 == 1) = _
      rw [hsup]
      cases d.sup <;> rfl
    · change BitVec.ofNat 14 (getAt (d.image e).1 96 8) = _
      rw [htvec, ofNat_toNat]
    · change BitVec.ofNat 8 (getAt (d.image e).1 104 8) = _
      rw [htcause, ofNat_toNat]
    · change tinfoField (getAt (d.image e).1 104 8 % 256) (BitVec.ofNat 64 (getAt (d.image e).1 112 8)) = _
      rw [htcause, htinfo, ofNat_toNat, Nat.mod_eq_of_lt d.tcause.isLt]
    · change BitVec.ofNat 32 (getAt (d.image e).1 40 8) = _
      rw [hplive, ofNat_toNat]
    · have hx : d'.x = rebuild 0 64 fun k => BitVec.ofNat 64 (getAt (d.image e).1 (0x100 + 8 * k) 8) := rfl
      rw [Deck.getX, Deck.getX, hx, mget_rebuild 0 _ q.isLt, getAt_image_x d e q.isLt]
      by_cases hq : q = 0
      · rw [if_pos hq, if_pos hq]
      · have hq' : q.toNat ≠ 0 := fun h => hq (BitVec.eq_of_toNat_eq h)
        rw [if_neg hq, if_neg hq, if_neg hq', ofNat_toNat]

end Sys2Proof.Laws.Traps

namespace Sys2Proof.Laws.Frames
open Sys2Proof.Machine

/-! SUPPORT. Decks written twice, and what messages leave unchanged. -/

/-! ### Decks written twice -/

theorem mput_mput {α : Type} (m : Map α) (k : Nat) (v w : α) : mput (mput m k v) k w = mput m k w := by
  induction m with
  | nil => simp [mput]
  | cons p m ih =>
    obtain ⟨a, x⟩ := p
    by_cases hlt : k < a
    · simp [mput, hlt]
    · by_cases heq : a = k
      · simp [mput, heq]
      · simp [mput, hlt, heq, ih]

theorem setDeck_setDeck (s : State) (n : Nat) (d e : Deck) : (s.setDeck n d).setDeck n e = s.setDeck n e :=
  congrArg (fun m => { s with decks := m }) (mput_mput s.decks n d e)

/-- A trap is taken alike after the deck has been written as it was. -/
theorem takeTrap_setDeck (s : State) (n : Nat) (t : Trap) : (s.setDeck n (s.getDeck n)).takeTrap n t = s.takeTrap n t := by
  unfold State.takeTrap
  rw [State.getDeck_setDeck]
  simp only [State.modDeck, State.getDeck_setDeck, setDeck_setDeck]
  rfl

theorem raise_setDk (s : State) (h : Hd) (cause detail : Nat) (addr : Word) : (s.setDk s.dk).raise h cause detail addr = s.raise h cause detail addr :=
  takeTrap_setDeck (s.modIssue fun i => { i with raised := some ⟨cause, tinfoOf false (rankOf h.slot) s.issue.pc detail, addr, 6⟩ }) s.dn _

theorem inst_setDk (s : State) : (s.setDk s.dk).inst = s.inst := by
  have h : (s.setDk s.dk).dk = s.dk := State.dk_setDk s s.dk
  unfold State.inst
  rw [h]
  rfl

theorem x_setDk (s : State) (r : BitVec 6) : (s.setDk s.dk).x r = s.x r :=
  congrArg (Deck.getX · r) (State.dk_setDk s s.dk)

/-! ### Messages -/

/-- A message under way changes no deck, core, `Inst`, die or memory byte before its event (R322). -/
theorem message_frame (s : State) (a b cap : Nat) (ev : Instr) :
    let t := s.message a b cap ev
    t.mem = s.mem ∧ t.decks = s.decks ∧ t.cores = s.cores ∧ t.insts = s.insts ∧ t.dies = s.dies ∧ t.clock = s.clock ∧ t.issue = s.issue := by
  unfold State.message State.messageOut State.carry State.path State.delay State.post
  dsimp only
  (repeat' split) <;> exact ⟨rfl, rfl, rfl, rfl, rfl, rfl, rfl⟩

/-- Two folds agree whose steps agree wherever an invariant of the first holds. -/
theorem foldl_congr_of_inv {α β : Type} (P : β → Prop) {f g : β → α → β} (l : List α) : ∀ b : β, P b → (∀ b a, P b → P (f b a)) →
    (∀ b a, P b → f b a = g b a) → l.foldl f b = l.foldl g b := by
  induction l with
  | nil => exact fun b _ _ _ => rfl
  | cons a l ih =>
    intro b hb hP hfg
    rw [List.foldl_cons, List.foldl_cons, ih _ (hP b a hb) hP hfg, hfg b a hb]

end Sys2Proof.Laws.Frames

namespace Sys2Proof.Laws.Spawning
open Sys2Proof.Machine
open Sys2Proof.Laws.Scalar Sys2Proof.Laws.Control Sys2Proof.Laws.Frames

/-! SUPPORT AND CLAIMS. `spawn`, `xfork` and `cancel` (spec 07 R174-R177). -/

/-! ### Status words -/

/-- A syllable without sources whose push has room acts (R52). -/
theorem operands_push {s : State} {h : Hd} {q : Nat} (act : State → List VReg → State) (hroom : s.rqRoomNow q = true) :
    s.operands h 0 [] (some q) (fun _ _ => none) act = act (s.setDk s.dk) [] :=
  State.operands_ready (qm := 0) (vs := []) (d := s.dk) act rfl (fun _ e => by cases e; exact State.room_setDk (ns := []) rfl hroom) rfl

theorem rq_pushStatus (s : State) (h : Hd) (w : Word) : (mget [] (s.pushStatus h w).dk.rq 5).length = (mget [] s.dk.rq 5).length + 1 := by
  have hdk : (s.pushStatus h w).dk = { s.dk with rq := mset [] s.dk.rq 5 (mget [] s.dk.rq 5 ++ [⟨s.seq, 0, tagI32, false, false⟩]) } :=
    State.dk_modDk s fun d => { d with rq := mset [] d.rq 5 (mget [] d.rq 5 ++ [⟨s.seq, 0, tagI32, false, false⟩]) }
  rw [hdk, mget_mset_same, List.length_append, List.length_singleton]

theorem xfork_some {s : State} {h : Hd} {b : XRR} {e : Ext} (r : s.Runs h [b.xa]) (hroom : s.rqRoomNow 5 = true)
    (hqm : bits b.m.toNat 13 2 = 0) (he : s.inst.ext (bits (s.x b.xa).toNat 0 4) = some e) :
    ∃ (u : State) (w : Word), exec (.xfork h b) s = .next (u.pushStatus h w) ∧
      u.shares = s.shares ++ [⟨2 ^ 31 + s.nextShare % 2 ^ 31, s.inst.ctx, e.base, e.len, [], 0, false⟩] ∧ u.nextShare = s.nextShare + 1 ∧
      u.dk = s.dk ∧ u.mem = s.mem := by
  change ∃ (u : State) (w : Word), execXfork h b s = _ ∧ _
  unfold execXfork
  rw [State.scalar_runs _ r]
  dsimp only
  rw [hqm, operands_push _ hroom]
  rw [inst_setDk, he]
  dsimp only
  have hdk : (s.setDk s.dk).dk = s.dk := State.dk_setDk s s.dk
  split
  · exact ⟨_, _, rfl, rfl, rfl, hdk, rfl⟩
  · exact ⟨_, _, rfl, rfl, rfl, hdk, rfl⟩

theorem spawn_live {s : State} {h : Hd} {b : XRR} {i : Nat} (r : s.Runs h [b.xa, b.xb, b.xd]) (hi : s.HasInst i) (hroom : s.rqRoomNow 5 = true)
    (hqm : bits b.m.toNat 13 2 = 0) (hz : bits (s.x b.xa).toNat 13 19 = 0)
    (hreach : s.reachable s.inst.ctx (s.queueAddr s.inst.ctx (bits (s.x b.xa).toNat 44 20)) 32 = true)
    (hlive : s.queueLive s.inst.ctx (bits (s.x b.xa).toNat 44 20) (bits (s.x b.xa).toNat 32 12) = true)
    (hstaged : s.stagedOn (s.cn / 8) < Config.stagingSets) :
    ∃ (u : State) (w : Word) (set : SpawnSet), exec (.spawn h b) s = .next (u.pushStatus h w) ∧ (u.getInst i).staged = (s.getInst i).staged ++ [set] ∧
      set.queue = bits (s.x b.xa).toNat 44 20 ∧ set.gen = bits (s.x b.xa).toNat 32 12 ∧ set.base = s.x b.xb ∧ u.dk = s.dk ∧ u.mem = s.mem := by
  have hdk : (s.setDk s.dk).dk = s.dk := State.dk_setDk s s.dk
  have hlive' : (s.setDk s.dk).queueLive s.inst.ctx (bits (s.x b.xa).toNat 44 20) (bits (s.x b.xa).toNat 32 12) = true := hlive
  have hmews : decide (Config.stagingSets ≤ (s.setDk s.dk).stagedOn ((s.setDk s.dk).cn / 8)) = false := decide_eq_false (Nat.not_le.mpr hstaged)
  have hi' : (s.setDk s.dk).dk.inst = some i := by rw [hdk]; exact hi
  change ∃ (u : State) (w : Word) (set : SpawnSet), execSpawn h b s = _ ∧ _
  unfold execSpawn
  dsimp only
  rw [State.scalar_runs _ r]
  rw [hreach, hqm, operands_push _ hroom]
  simp only [hz, hlive', hmews, hi', x_setDk, Bool.not_true, Bool.false_eq_true, if_false, beq_self_eq_true, Bool.and_true, Bool.and_false,
    Bool.false_and, if_true]
  exact ⟨_, _, _, rfl, congrArg Inst.staged (State.getInst_setInst (s.setDk s.dk) i _), rfl, rfl, rfl, hdk, rfl⟩

/-- Settles O33: room in rq5 lets `spawn` and `xfork` act; `cancel` sends its message to every die. -/
theorem spawning : Obligations.Spawning := by
  intro h b s i r hi hroom hqm
  have ra : s.Runs h [b.xa] := runs_of_subset r (by simp)
  have hinst : s.inst = s.getInst i := by rw [State.inst, hi]
  refine ⟨fun hz hreach hlive hstaged => ?_, fun e he => ?_, fun he => ?_, fun hg => ?_, fun hg hn => ?_⟩
  · obtain ⟨u, w, set, hexec, hset, hq, hg, hb, hdk, hmem⟩ := spawn_live r hi hroom hqm hz hreach hlive hstaged
    exact ⟨_, set, hexec, hset, hq, hg, hb, by rw [rq_pushStatus, hdk], hmem⟩
  · obtain ⟨u, w, hexec, hshares, hnext, hdk, hmem⟩ := xfork_some ra hroom hqm he
    exact ⟨_, hexec, hshares, hnext, by rw [rq_pushStatus, hdk], hmem⟩
  · refine (next_scalar _ ra).trans ?_
    rw [hqm, operands_push _ hroom]
    dsimp only
    rw [inst_setDk, he]
    exact congrArg Host.Outcome.next (raise_setDk s h 0x0B 0 0)
  · refine (next_scalar _ ra).trans ?_
    dsimp only
    rw [if_neg hg, hinst]
    refine congrArg Host.Outcome.next (foldl_congr_of_inv (fun t => t.insts = s.insts ∧ t.decks = s.decks ∧ t.issue = s.issue) _ _
      ⟨rfl, rfl, rfl⟩ (fun t d ht => ?_) fun t d ht => ?_)
    · obtain ⟨-, hd, -, hin, -, -, his⟩ := message_frame t (t.cn / 8) d 5000 (.cancelMessage d (groupKey (s.getInst i).ctx (bits (s.x b.xa).toNat 0 13)))
      exact ⟨hin.trans ht.1, hd.trans ht.2.1, his.trans ht.2.2⟩
    · obtain ⟨hin, hd, his⟩ := ht
      have hx : t.x b.xa = s.x b.xa := by rw [State.x, State.x, State.dk, State.dk, State.getDeck, State.getDeck, hd, his]
      rw [hx, State.getInst, State.getInst, hin]
  · refine (next_scalar _ ra).trans ?_
    dsimp only
    rw [if_pos hg, hn]
    rfl

end Sys2Proof.Laws.Spawning

namespace Sys2Proof.Laws.MemoryReads
open Sys2Proof.Machine

/-! SUPPORT AND CLAIMS. Reads of several bytes, byte by byte, and the write that performs in a row (spec 03). -/

/-! ### Reads byte by byte -/

/-- The condition of a choice may be put in other words. -/
theorem if_iff {α : Sort _} {p q : Prop} [Decidable p] [Decidable q] (h : p ↔ q) (a b : α) : (if p then a else b) = if q then a else b := by
  by_cases hp : p
  · rw [if_pos hp, if_pos (h.mp hp)]
  · rw [if_neg hp, if_neg fun hq => hp (h.mpr hq)]

/-- A read of n + k bytes is one of n and, above it, one of k. -/
theorem read_add (m : Memory) (a n k : Nat) : Memory.read m a (n + k) = Memory.read m a n + 256 ^ n * Memory.read m (a + n) k := by
  induction m with
  | nil => simp [Memory.read]
  | cons c m ih =>
    have hcell : (if a ≤ c.1 ∧ c.1 < a + (n + k) then c.2.toNat * 256 ^ (c.1 - a) else 0) =
        (if a ≤ c.1 ∧ c.1 < a + n then c.2.toNat * 256 ^ (c.1 - a) else 0) +
          256 ^ n * (if a + n ≤ c.1 ∧ c.1 < a + n + k then c.2.toNat * 256 ^ (c.1 - (a + n)) else 0) := by
      rcases Nat.lt_or_ge c.1 (a + n) with h | h
      · rw [if_neg (c := a + n ≤ c.1 ∧ _) (by omega), Nat.mul_zero, Nat.add_zero]
        exact if_iff (by omega) _ _
      · rw [if_neg (c := a ≤ c.1 ∧ c.1 < a + n) (by omega), Nat.zero_add]
        by_cases hc : a ≤ c.1 ∧ c.1 < a + (n + k)
        · rw [if_pos hc, if_pos (by omega), show c.1 - a = n + (c.1 - (a + n)) by omega, Nat.pow_add]
          exact Nat.mul_left_comm ..
        · rw [if_neg hc, if_neg (by omega), Nat.mul_zero]
    rw [Memory.read, Memory.read, Memory.read, ih, hcell, Nat.mul_add]
    omega

/-- In canonical memory a read of one byte is that byte. -/
theorem read_one {m : Memory} (h : m.wf = true) (a : Nat) : Memory.read m a 1 = (m.byte a).toNat := by
  obtain ⟨hsort, -⟩ := (Memory.wf_iff m).mp h
  clear h
  induction m with
  | nil => rfl
  | cons c m ih =>
    obtain ⟨hc, hm⟩ := List.pairwise_cons.mp hsort
    obtain ⟨x, v⟩ := c
    rw [Memory.read, Memory.byte, mget]
    by_cases hx : x = a
    · subst hx
      have hrest : Memory.read m x 1 = 0 := Memory.read_outside m x 1 fun q hq => .inr (hc q hq)
      simp [hrest]
    · rw [if_neg (by dsimp only; omega), Nat.zero_add, if_neg hx]
      exact ih hm

theorem read_lt {m : Memory} (h : m.wf = true) (a n : Nat) : Memory.read m a n < 256 ^ n := by
  induction n with
  | zero => rw [Memory.read_outside m a 0 fun c _ => by omega]; exact Nat.one_pos
  | succ n ih =>
    have hb : Memory.read m (a + n) 1 ≤ 255 := by
      rw [read_one h]
      exact Nat.le_of_lt_succ (m.byte (a + n)).isLt
    have hmul := Nat.mul_le_mul_left (256 ^ n) hb
    rw [read_add, Nat.pow_succ]
    omega

/-- Canonical memory: part of a read is the read of that part. -/
theorem read_part {m : Memory} (h : m.wf = true) (a : Nat) {n o k : Nat} (hk : o + k ≤ n) :
    Memory.read m a n / 256 ^ o % 256 ^ k = Memory.read m (a + o) k := by
  obtain ⟨j, rfl⟩ : ∃ j, n = o + (k + j) := ⟨n - o - k, by omega⟩
  rw [read_add, Nat.add_mul_div_left _ _ (Nat.pow_pos (by decide)), Nat.div_eq_of_lt (read_lt h a o), Nat.zero_add, read_add,
    Nat.add_mul_mod_self_left, Nat.mod_eq_of_lt (read_lt h (a + o) k)]

/-- Byte o of an image, as a number. -/
theorem image_byte (v : Image) (o : Nat) : v.extractLsb' (8 * o) 8 = BitVec.ofNat 8 (v.toNat / 256 ^ o) := by
  apply BitVec.eq_of_toNat_eq
  rw [BitVec.extractLsb'_toNat, BitVec.toNat_ofNat, Nat.shiftRight_eq_div_pow, Nat.pow_mul, show (2 : Nat) ^ 8 = 256 from rfl]

theorem pow_rowBytes : 256 ^ 512 = 2 ^ 4096 := by rw [show (256 : Nat) = 2 ^ 8 from rfl, ← Nat.pow_mul]

/-- Byte o of a row's image. -/
theorem rowImage_byte {s : State} (h : s.mem.wf = true) (c n : Nat) {o : Nat} (ho : o < 512) :
    (s.rowImage c n).extractLsb' (8 * o) 8 = s.mem.byte (storeBase c + 512 * n + o) := by
  have hpart := read_part h (storeBase c + 512 * n) (n := 512) (o := o) (k := 1) (by omega)
  rw [read_one h, Nat.pow_one] at hpart
  have hlt := read_lt h (storeBase c + 512 * n) 512
  rw [pow_rowBytes] at hlt
  apply BitVec.eq_of_toNat_eq
  rw [image_byte, State.rowImage, BitVec.toNat_ofNat, BitVec.toNat_ofNat, Nat.mod_eq_of_lt hlt]
  exact hpart

/-! ### The write that performs -/

/-- Byte o of a masked merge of images. -/
theorem merge_byte (mask : BitVec 512) (old data : Image) {o : Nat} (ho : o < 512) :
    ((old &&& ~~~byteBits mask) ||| (data &&& byteBits mask)).extractLsb' (8 * o) 8 =
      if mask.getLsbD o then data.extractLsb' (8 * o) 8 else old.extractLsb' (8 * o) 8 := by
  apply BitVec.eq_of_getLsbD_eq
  intro i hi
  have hk : 8 * o + i < 4096 := by omega
  have hb := byteBits_bit mask (8 * o + i) hk
  rw [show (8 * o + i) / 8 = o by omega] at hb
  cases hm : mask.getLsbD o <;>
    simp only [BitVec.getLsbD_extractLsb', BitVec.getLsbD_or, BitVec.getLsbD_and, BitVec.getLsbD_not, hb, hm, hi, hk, decide_true, Bool.true_and,
      Bool.not_true, Bool.not_false, Bool.and_true, Bool.and_false, Bool.or_false, Bool.false_or, Bool.false_eq_true, if_true, if_false]

/-- Byte o of a packed image: the row of a 6-bit format ends four bits early (R82). -/
theorem packRow_byte (t : Tag) (data : Image) {o : Nat} (ho : o < 512) :
    (packRow t data).extractLsb' (8 * o) 8 =
      if o = 511 ∧ (t = 0x04 ∨ t = 0x06) then data.extractLsb' (8 * o) 8 &&& 0x0F else data.extractLsb' (8 * o) 8 := by
  by_cases ht : t = 0x04 ∨ t = 0x06
  · have hbit : ∀ k, (BitVec.ofNat 4096 (2 ^ 4092 - 1)).getLsbD k = decide (k < 4092) := by
      intro k
      rw [BitVec.getLsbD_ofNat, Nat.testBit_two_pow_sub_one, ← Bool.decide_and]
      exact decide_eq_decide.2 (by omega)
    have hlow : ∀ i, i < 8 → (0x0F : BitVec 8).getLsbD i = decide (i < 4) := by decide
    rw [packRow, if_pos ht]
    apply BitVec.eq_of_getLsbD_eq
    intro i hi
    simp only [BitVec.getLsbD_extractLsb', BitVec.getLsbD_and, hi, decide_true, Bool.true_and, hbit]
    by_cases ho' : o = 511
    · subst ho'
      rw [if_pos ⟨rfl, ht⟩, BitVec.getLsbD_and, BitVec.getLsbD_extractLsb', decide_eq_true hi, Bool.true_and, hlow i hi]
      exact congrArg _ (decide_eq_decide.2 (by omega))
    · rw [if_neg (fun h => ho' h.1), BitVec.getLsbD_extractLsb', decide_eq_true hi, Bool.true_and, decide_eq_true (by omega), Bool.and_true]
  · rw [packRow, if_neg ht, if_neg fun h => ht h.2]

theorem performWrite_byte {s : State} (h : s.mem.wf = true) (c n : Nat) (mask : BitVec 512) (data : Image) {o : Nat} (ho : o < 512) :
    (s.performWrite c n mask data none).mem.byte (storeBase c + 512 * n + o) =
      if mask.getLsbD o then data.extractLsb' (8 * o) 8 else s.mem.byte (storeBase c + 512 * n + o) := by
  have hmem : (s.performWrite c n mask data none).mem =
      Memory.write s.mem (storeBase c + 512 * n) 512 ((s.rowImage c n &&& ~~~byteBits mask) ||| (data &&& byteBits mask)).toNat := by
    unfold State.performWrite State.performFrom
    dsimp only
    rw [State.mem_modCore]
    exact congrArg (fun m => Memory.write m _ 512 _) (State.mem_countErrors _ _ _)
  rw [hmem, Memory.byte_write_same _ _ _ _ _ ho, ← image_byte, merge_byte mask _ _ ho, rowImage_byte h c n ho]

theorem getCore_modCore_other (s : State) {c d : Nat} (f : Core → Core) (h : d ≠ c) : (s.modCore c f).getCore d = s.getCore d :=
  mget_mput_other _ _ _ h.symm

theorem getCore_countErrors (s : State) (die n c : Nat) : (s.countErrors die n).getCore c = s.getCore c := by
  unfold State.countErrors
  split <;> rfl

theorem decks_countErrors (s : State) (die n : Nat) : (s.countErrors die n).decks = s.decks := by
  unfold State.countErrors
  split <;> rfl

/-- A write without a tag: what the core that it performs in keeps of earlier bytes and of errors, and the row's state (R59, R61, R435). -/
theorem performFrom_core (s : State) (src c n : Nat) (mask : BitVec 512) (data : Image) :
    ∃ k : Core, k.rows = (s.getCore c).rows ∧ k.ticks = (s.getCore c).ticks ∧
      ((mask = wholeMask → (s.performFrom src c n mask data none).getCore c = k.wholeWrite n) ∧
       (mask ≠ wholeMask → ((s.performFrom src c n mask data none).getCore c).rows = k.rows)) := by
  unfold State.performFrom
  dsimp only
  rw [State.getCore_modCore]
  have hc : ∀ m d e, ({ s.countErrors d e with mem := m } : State).getCore c = s.getCore c := fun m d e => getCore_countErrors s d e c
  rw [hc]
  refine ⟨_, ?_, ?_, fun hm => if_pos hm, fun hm => ?_⟩
  · split <;> rfl
  · split <;> rfl
  · rw [if_neg hm]

theorem performFrom_frame (s : State) (src c n : Nat) (mask : BitVec 512) (data : Image) (tag : Option Tag) :
    (s.performFrom src c n mask data tag).decks = s.decks ∧ ∀ d, d ≠ c → (s.performFrom src c n mask data tag).getCore d = s.getCore d := by
  unfold State.performFrom
  dsimp only
  exact ⟨decks_countErrors _ _ _, fun d hd => (getCore_modCore_other _ _ hd).trans (getCore_countErrors _ _ _ _)⟩

theorem row_wholeWrite (k : Core) (n : Nat) : (k.wholeWrite n).row n = ⟨.valid, k.ticks, false⟩ :=
  mget_mset_same RowMeta.reset k.rows n ⟨.valid, k.ticks, false⟩

theorem row_wholeWrite_other (k : Core) {n r : Nat} (h : r ≠ n) : (k.wholeWrite n).row r = k.row r :=
  mget_mset_other RowMeta.reset k.rows ⟨.valid, k.ticks, false⟩ h.symm

/-- Settles O36: the performing write merges its masked bytes into the row; only `wholeWrite` touches the row's state. -/
theorem writePerforms : Obligations.WritePerforms := by
  intro s m row mask data hact t base
  have ht : t = s.performWrite m.core row mask (packRow ((s.getCore m.core).tile (row / 32)).tag data) none := by
    simp only [t, State.performMicro, hact]
    rfl
  obtain ⟨k, hrows, hticks, hwhole, hpart⟩ := performFrom_core s m.core m.core row mask (packRow ((s.getCore m.core).tile (row / 32)).tag data)
  obtain ⟨hdecks, hcores⟩ := performFrom_frame s m.core m.core row mask (packRow ((s.getCore m.core).tile (row / 32)).tag data) none
  have hrow : ∀ r, k.row r = (s.getCore m.core).row r := fun r => by rw [Core.row, Core.row, hrows]
  refine ⟨fun a ha => ?_, fun hwf o ho => ?_, fun hm => ?_, fun hm => ?_, fun r hr => ?_, ht ▸ hdecks, fun c hc => ht ▸ hcores c hc⟩
  · rw [ht, State.performWrite_other _ _ _ _ _ _ _ ha]
  · rw [ht, performWrite_byte hwf _ _ _ _ ho, packRow_byte _ _ ho]
  · have hcore : t.getCore m.core = k.wholeWrite row := ht ▸ hwhole hm
    have hr : (k.wholeWrite row).row row = ⟨.valid, (s.getCore m.core).ticks, false⟩ := by rw [row_wholeWrite, hticks]
    rw [hcore]
    refine ⟨hr, ?_⟩
    rw [Core.age, hr]
    simp [Core.wholeWrite, Core.setRow, hticks]
  · have hcore : (t.getCore m.core).rows = k.rows := ht ▸ hpart hm
    rw [Core.row, hcore, hrows]
    rfl
  · by_cases hm : mask = wholeMask
    · have hcore : t.getCore m.core = k.wholeWrite row := ht ▸ hwhole hm
      rw [hcore, row_wholeWrite_other k hr, hrow]
    · have hcore : (t.getCore m.core).rows = k.rows := ht ▸ hpart hm
      rw [Core.row, hcore, hrows]
      rfl

end Sys2Proof.Laws.MemoryReads

namespace Sys2Proof.Laws.Access
open Sys2Proof.Machine

/-! SUPPORT AND CLAIMS. Scalar loads and stores (spec 08 R185-R188, spec 21 R401). -/

section
variable {s : State} {h : Hd} {b : XI}

/-- A first issue reads its operand from the register. -/
theorem opA_first {r : BitVec 6} (ha : s.issue.anew = none) : s.opA r = s.x r := by rw [State.opA, ha]

theorem lds_outside (i : Instr) (k : Nat) (r : s.MayRecord h [b.xa]) (ho : ∀ a, addrOf (s.x b.xa + b.imm.signExtend 64) ≠ .store a) :
    s.lds i h b k = s.raise h 0x0B 0 (s.x b.xa + b.imm.signExtend 64) := by
  rw [State.lds, State.revocable_records _ r]
  dsimp only
  rw [opA_first r.2.1]
  split
  · rename_i a ha
    exact absurd ha (ho a)
  · rfl

theorem lds_barred (i : Instr) (k : Nat) {a : Nat} (r : s.MayRecord h [b.xa]) (ha : addrOf (s.x b.xa + b.imm.signExtend 64) = .store a)
    (hf : s.frameBarred (a / 16384) = true) : s.lds i h b k = s.raise h 0x11 0 (s.x b.xa + b.imm.signExtend 64) := by
  rw [State.lds, State.revocable_records _ r]
  dsimp only
  rw [opA_first r.2.1, ha]
  exact if_pos hf

theorem sts_outside (k : Nat) (r : s.Passed h [b.xa, b.xd]) (ho : ∀ a, addrOf (s.x b.xa + b.imm.signExtend 64) ≠ .store a) :
    s.sts h b k = s.raise h 0x0B 0 (s.x b.xa + b.imm.signExtend 64) := by
  rw [State.sts, State.irrevocable_passed _ r]
  dsimp only
  split
  · rename_i a ha
    exact absurd ha (ho a)
  · rfl

theorem sts_barred (k : Nat) {a : Nat} (r : s.Passed h [b.xa, b.xd]) (ha : addrOf (s.x b.xa + b.imm.signExtend 64) = .store a)
    (hf : s.frameBarred (a / 16384) = true) : s.sts h b k = s.raise h 0x11 0 (s.x b.xa + b.imm.signExtend 64) := by
  rw [State.sts, State.irrevocable_passed _ r]
  dsimp only
  rw [ha]
  exact if_pos hf

theorem sts_published (k : Nat) {a : Nat} (r : s.Passed h [b.xa, b.xd]) (ha : addrOf (s.x b.xa + b.imm.signExtend 64) = .store a)
    (hf : s.frameBarred (a / 16384) = false) (hp : (s.ck.tile (a / 16384)).published = true) :
    s.sts h b k = s.raise h 0x13 0 (s.x b.xa + b.imm.signExtend 64) := by
  rw [State.sts, State.irrevocable_passed _ r]
  dsimp only
  rw [ha]
  simp only [hf, hp, Bool.false_eq_true, if_false, if_true]

theorem sts_writes (k : Nat) {a : Nat} (r : s.Passed h [b.xa, b.xd]) (ha : addrOf (s.x b.xa + b.imm.signExtend 64) = .store a)
    (hf : s.frameBarred (a / 16384) = false) (hp : (s.ck.tile (a / 16384)).published = false) :
    s.sts h b k = s.access (s.clock + 6) s.cn s.dn false (deckPrio s.dn false)
      (.write (alignedAddr a k / 512) (byteRange (alignedAddr a k % 512) (2 ^ k)) ((s.x b.xd).setWidth 4096 <<< (8 * (alignedAddr a k % 512))) none) := by
  rw [State.sts, State.irrevocable_passed _ r]
  dsimp only
  rw [ha]
  simp only [hf, hp, Bool.false_eq_true, if_false]

theorem frameBarred_user {a : Nat} (ha : 4032 ≤ a) (hs : s.dk.sup = false) : s.frameBarred a = true := by
  simp [State.frameBarred, isFrameTile, ha, hs]

end

/-! ### The claims -/

/-- The four widths of a load are one form. -/
theorem exec_load {h : Hd} {b : XI} {i : Instr} (hi : i ∈ [Instr.ldsB h b, .ldsH h b, .ldsW h b, .ldsD h b]) :
    ∃ k, ∀ s, exec i s = .next (s.lds i h b k) := by
  simp only [List.mem_cons, List.not_mem_nil, or_false] at hi
  rcases hi with rfl | rfl | rfl | rfl
  · exact ⟨0, fun _ => rfl⟩
  · exact ⟨1, fun _ => rfl⟩
  · exact ⟨2, fun _ => rfl⟩
  · exact ⟨3, fun _ => rfl⟩

/-- The four widths of a store are one form. -/
theorem exec_store {h : Hd} {b : XI} {i : Instr} {k : Nat} (hi : (i, k) ∈ [(Instr.stsB h b, 0), (.stsH h b, 1), (.stsW h b, 2), (.stsD h b, 3)])
    (s : State) : exec i s = .next (s.sts h b k) := by
  simp only [List.mem_cons, List.not_mem_nil, or_false, Prod.mk.injEq] at hi
  rcases hi with ⟨rfl, rfl⟩ | ⟨rfl, rfl⟩ | ⟨rfl, rfl⟩ | ⟨rfl, rfl⟩ <;> rfl

/-- Settles O35: with its checks passed `sts` is one access. -/
theorem scalarStores : Obligations.ScalarStores := by
  intro h b s i k a hi r ha hf hp
  rw [exec_store hi, sts_writes k r ha hf hp]

/-- Settles O37: the checks come before anything else of a load or store. -/
theorem accessTraps : Obligations.AccessTraps := by
  intro h b s w
  refine ⟨fun i hi r => ?_, fun i hi r => ?_⟩
  · obtain ⟨k, hk⟩ := exec_load hi
    rw [hk]
    exact ⟨fun ho => by rw [lds_outside i k r ho], fun a ha hf hs => by rw [lds_barred i k r ha (frameBarred_user hf hs)]⟩
  · obtain ⟨k, hk⟩ : ∃ k, (i, k) ∈ [(Instr.stsB h b, 0), (.stsH h b, 1), (.stsW h b, 2), (.stsD h b, 3)] := by
      simp only [List.mem_cons, List.not_mem_nil, or_false] at hi
      rcases hi with rfl | rfl | rfl | rfl
      · exact ⟨0, by simp⟩
      · exact ⟨1, by simp⟩
      · exact ⟨2, by simp⟩
      · exact ⟨3, by simp⟩
    rw [exec_store hk]
    exact ⟨fun ho => by rw [sts_outside k r ho], fun a ha hf hs => by rw [sts_barred k r ha (frameBarred_user hf hs)],
      fun a ha hf hp => by rw [sts_published k r ha hf hp]⟩

/-- Memory out of its canonical form: byte 0 of core 0's store is listed twice, so a read adds up both and exceeds a byte. Row 0 is valid, and deck 0
has a load recorded. -/
def listedTwice : State :=
  { State.reset with
    mem := [(0, 200), (0, 100)], decks := [(0, { Deck.reset with revoc := [⟨0, false, 0, 0, 0, 0, [], 1, 0, 0, none, 0⟩] })],
    cores := [(0, { Core.reset with rows := [(0, ⟨.valid, 0, false⟩)] })] }

theorem latches_listedTwice : ((listedTwice.ldsSample 0 0 0 0 (2 ^ 0) 1).getDeck 0).latches = [⟨2, 0, 0, .x 1, BitVec.allOnes 128, 44, 0, 0⟩] := by
  decide +kernel

/-- Refutes O34: it does not ask for memory in canonical form. Where a byte is listed twice `Memory.read` adds up both entries, here 200 + 100, and
the load takes the low byte of the row's image, 44. -/
theorem not_scalarLoads : ¬ Obligations.ScalarLoads := by
  intro hloads
  obtain ⟨l, hl, -, -, hdata, -⟩ := hloads.2 listedTwice 0 0 0 0 0 1 (by decide) (by decide) rfl rfl rfl (by decide) (by decide) (by decide)
  rw [latches_listedTwice] at hl
  have hl' : [⟨2, 0, 0, .x 1, BitVec.allOnes 128, 44, 0, 0⟩] = [l] := hl
  rw [← List.singleton_inj.mp hl'] at hdata
  have hread : Memory.read listedTwice.mem (storeBase 0 + 0) (2 ^ 0) = 300 := by decide
  rw [hread] at hdata
  exact absurd hdata (by decide +kernel)

end Sys2Proof.Laws.Access

namespace Sys2Proof.Laws.QueueLoads
open Sys2Proof.Machine
open Sys2Proof.Laws.Access

/-! SUPPORT AND CLAIMS. Decoupled reads into operand queues, local and remote (spec 08 R189, R190). -/

/-! ### Entries reserved and rows read -/

theorem redone_first {s : State} (ha : s.issue.anew = none) : s.redone = 0 := by rw [State.redone, ha]

theorem opB_first {s : State} {r : BitVec 6} (ha : s.issue.anew = none) : s.opB r = s.x r := by rw [State.opB, ha]

/-- An operand queue after `reserve` and `addRevoc`: as many entries more as there are tags. -/
theorem oq_reserve (s : State) (q id : Nat) (tags : List Tag) : (mget [] (s.reserve q id tags).dk.oq q).length = (mget [] s.dk.oq q).length + tags.length := by
  rw [State.reserve, State.dk_modDk, mget_mset_same]
  simp

theorem dk_addRevoc (s : State) (i : Instr) (xa xb : Word) (ids : List Nat) (left key : Nat) :
    (s.addRevoc i xa xb ids left key).dk = { s.dk with revoc := s.dk.revoc ++
      [⟨s.seq, false, s.fetched i, s.issue.pc, xa, xb, ids, left, s.redone, key, none, 0⟩] } :=
  State.dk_modDk s fun d => { d with revoc := d.revoc ++
    [⟨s.seq, false, s.fetched i, s.issue.pc, xa, xb, ids, left, s.redone, key, none, 0⟩] }

/-- The accesses of an `ldq` are those of its rows, each a clock after the other, and nothing else changes. -/
theorem ldqRows_spec (q id n0 : Nat) (want : Option (BitVec 8)) (k : Nat) : ∀ (r : Nat) (s : State), let t := s.ldqRows q id n0 want r k
    t.mem = s.mem ∧ t.cores = s.cores ∧ t.dk = s.dk ∧ (∀ m ∈ s.micro, m ∈ t.micro) ∧
    ∀ j, j < k → ∃ m ∈ t.micro, m.at_ = s.clock + 2 + (r + j) ∧ m.core = s.cn ∧
      ∃ want addr, m.act = .ldqRead id (n0 + (r + j)) q (id + 1 + (r + j)) want addr := by
  induction k with
  | zero => exact fun r s => ⟨rfl, rfl, rfl, fun m hm => hm, fun j hj => absurd hj (Nat.not_lt_zero j)⟩
  | succ k ih =>
    intro r s t
    obtain ⟨hmem, hcores, hdk, hsub, hrows⟩ := ih (r + 1) (s.access (s.clock + 2 + r) s.cn s.dn false (deckPrio s.dn false)
      (.ldqRead id (n0 + r) q (id + 1 + r) (if r = 0 then want else none) (BitVec.ofNat 64 (512 * (n0 + r)))))
    refine ⟨hmem, hcores, hdk, fun m hm => hsub m (List.mem_append_left _ hm), fun j hj => ?_⟩
    cases j with
    | zero => exact ⟨_, hsub _ (List.mem_append_right _ (List.mem_singleton_self _)), rfl, rfl, _, _, rfl⟩
    | succ j =>
      rw [show r + (j + 1) = r + 1 + j by omega]
      exact hrows j (by omega)

/-! ### `ldq` -/

section
variable {s : State} {h : Hd} {b : XRR}

/-- What `ldq` does with a row range of the deck's own core that it may read. -/
theorem ldq_local {a : Nat} (r : s.MayRecord h [b.xa, b.xb]) (ha : addrOf (s.x b.xa + s.x b.xb) = .store a)
    (hroom : (mget [] s.dk.oq (bits b.m.toNat 0 3)).length + (bits b.m.toNat 3 3 + 1) ≤ 8) (hrows : a / 512 + (bits b.m.toNat 3 3 + 1) ≤ 131072)
    (hf : s.frameBarred ((a / 512 + (bits b.m.toNat 3 3 + 1) - 1) / 32) = false) :
    ∃ (u : State) (want : Option (BitVec 8)), exec (.ldq h b) s = .next (u.ldqRows (bits b.m.toNat 0 3) s.seq (a / 512) want 0 (bits b.m.toNat 3 3 + 1)) ∧
      (mget [] u.dk.oq (bits b.m.toNat 0 3)).length = (mget [] s.dk.oq (bits b.m.toNat 0 3)).length + (bits b.m.toNat 3 3 + 1) ∧
      u.mem = s.mem ∧ u.cores = s.cores ∧ u.clock = s.clock ∧ u.cn = s.cn := by
  change ∃ (u : State) (want : Option (BitVec 8)), execLdq h b s = _ ∧ _
  unfold execLdq
  rw [State.revocable_records _ r]
  dsimp only
  rw [opA_first r.2.1, opB_first r.2.1, redone_first r.2.1, ha]
  dsimp only
  simp only [Nat.sub_zero, Nat.add_zero]
  rw [if_neg (Nat.succ_ne_zero _), if_neg (by simpa using hroom), if_neg (by rw [hf]; decide),
    if_neg (by unfold Config.storeRows; omega)]
  refine ⟨_, _, rfl, ?_, rfl, rfl, rfl, rfl⟩
  change (mget [] (State.addRevoc (s.reserve _ _ _) _ _ _ _ _ _).dk.oq _).length = _
  rw [dk_addRevoc]
  exact (oq_reserve _ _ _ _).trans (by simp)

/-- What `ldq` does with a row range of another core. -/
theorem ldq_remote {c a : Nat} (r : s.MayRecord h [b.xa, b.xb]) (ha : addrOf (s.x b.xa + s.x b.xb) = .remote c a)
    (hroom : (mget [] s.dk.oq (bits b.m.toNat 0 3)).length + (bits b.m.toNat 3 3 + 1) ≤ 8) (hrows : a / 512 + (bits b.m.toNat 3 3 + 1) ≤ 131072)
    (hf : s.frameBarred ((a / 512 + (bits b.m.toNat 3 3 + 1) - 1) / 32) = false) :
    ∃ (u : State) (q : Remote), exec (.ldq h b) s = .next ((u.toCore s.cn c).2.carry [(u.toCore s.cn c).1] (u.toCore s.cn c).2.clock farOff (.remoteReadArrival q.id)) ∧
      (mget [] u.dk.oq (bits b.m.toNat 0 3)).length = (mget [] s.dk.oq (bits b.m.toNat 0 3)).length + (bits b.m.toNat 3 3 + 1) ∧
      u.remotes = s.remotes ++ [q] ∧ q.core = c ∧ q.row = a / 512 ∧ q.rows = bits b.m.toNat 3 3 + 1 ∧ q.issued = s.clock ∧
      u.mem = s.mem ∧ u.packets = s.packets ∧ u.clock = s.clock := by
  change ∃ (u : State) (q : Remote), execLdq h b s = _ ∧ _
  unfold execLdq
  rw [State.revocable_records _ r]
  dsimp only
  rw [opA_first r.2.1, opB_first r.2.1, redone_first r.2.1, ha]
  dsimp only
  simp only [Nat.sub_zero, Nat.add_zero]
  rw [if_neg (Nat.succ_ne_zero _), if_neg (by simpa using hroom), if_neg (by rw [hf]; decide), if_neg (by unfold Config.storeRows; omega)]
  generalize hu : State.addRevoc (s.reserve _ _ _) _ _ _ _ _ _ = u
  let q : Remote := ⟨s.seq, u.dn, s.seq, c, a / 512, bits b.m.toNat 3 3 + 1, bits b.m.toNat 0 3,
    (List.range (bits b.m.toNat 3 3 + 1)).map fun r => s.seq + 1 + r, u.clock,
    if bits b.m.toNat 6 1 = 1 ∧ True then some (BitVec.ofNat 8 (bits b.m.toNat 7 8)) else none,
    BitVec.ofNat 64 (BitVec.toNat (s.x b.xa + s.x b.xb) / 2 ^ 26 * 2 ^ 26), 0, []⟩
  have hcn : u.cn = s.cn := hu ▸ rfl
  have hck : u.clock = s.clock := hu ▸ rfl
  refine ⟨{ u with seq := u.seq + (bits b.m.toNat 3 3 + 1), remotes := u.remotes ++ [q] }, q, ?_, ?_, ?_, rfl, rfl, rfl, hck, ?_, ?_, hck⟩
  · rw [← hcn]
    rfl
  · change (mget [] u.dk.oq _).length = _
    rw [← hu, dk_addRevoc]
    exact (oq_reserve _ _ _ _).trans (by simp)
  · rw [← hu]
    rfl
  · rw [← hu]
    rfl
  · rw [← hu]
    rfl

theorem ldq_barred {a c : Nat} (r : s.MayRecord h [b.xa, b.xb])
    (ha : addrOf (s.x b.xa + s.x b.xb) = .remote c a ∨ addrOf (s.x b.xa + s.x b.xb) = .store a)
    (hroom : (mget [] s.dk.oq (bits b.m.toNat 0 3)).length + (bits b.m.toNat 3 3 + 1) ≤ 8)
    (hf : s.frameBarred ((a / 512 + (bits b.m.toNat 3 3 + 1) - 1) / 32) = true) :
    exec (.ldq h b) s = .next (s.raise h 0x11 0 (s.x b.xa + s.x b.xb)) := by
  change execLdq h b s = _
  unfold execLdq
  rw [State.revocable_records _ r]
  dsimp only
  rw [opA_first r.2.1, opB_first r.2.1, redone_first r.2.1]
  rcases ha with ha | ha
  all_goals
    rw [ha]
    dsimp only
    simp only [Nat.sub_zero, Nat.add_zero]
    rw [if_neg (Nat.succ_ne_zero _), if_neg (by simpa using hroom), if_pos hf]

end

/-! ### Traffic between cores -/

theorem toCore_frame (s : State) (c c' : Nat) : let t := (s.toCore c c').2
    t.mem = s.mem ∧ t.cores = s.cores ∧ t.decks = s.decks ∧ t.remotes = s.remotes ∧ t.packets = s.packets ∧ t.clock = s.clock ∧ t.issue = s.issue := by
  unfold State.toCore State.path
  dsimp only
  (repeat' split) <;> exact ⟨rfl, rfl, rfl, rfl, rfl, rfl, rfl⟩

/-- Between two cores the route has an output at least. -/
theorem toCore_ne_nil (s : State) {c c' : Nat} (h : c ≠ c') : (s.toCore c c').1 ≠ [] := by
  unfold State.toCore
  rw [if_neg h]
  simp

theorem carry_rest (s : State) (routes : List (List (Nat × Nat × Nat))) (floor stop : Nat) (ev : Instr) :
    let t := s.carry routes floor stop ev
    t.remotes = s.remotes ∧ t.issue = s.issue := by
  unfold State.carry State.delay State.post
  dsimp only
  split <;> exact ⟨rfl, rfl⟩

theorem carry_packet (s : State) {route : List (Nat × Nat × Nat)} (hr : route ≠ []) (floor stop : Nat) (ev : Instr) :
    ∃ p : Packet, (s.carry [route] floor stop ev).packets = s.packets ++ [p] ∧ p.ev = ev ∧ p.at_ = s.clock + 6 ∧ p.left = route := by
  obtain ⟨x, xs, rfl⟩ := List.exists_cons_of_ne_nil hr
  exact ⟨_, rfl, rfl, rfl, rfl⟩

/-! ### `ldqt` -/

section
variable {s : State} {h : Hd} {b : XRR} {e : LEntry}

/-- What `ldqt` reads, from its record and indices: its elements that lie in bounds. -/
def inBounds (e : LEntry) (w : Word) : List (Nat × Nat) := (ldqtElems e.record w).filterMap fun x => x.2.1.map fun a => (x.1, a)

theorem ldqt_barred (r : s.MayRecord h [b.xa, b.xb]) (he : s.dk.handle (s.x b.xa) = some e) (ha : e.arrived = true)
    (hroom : (mget [] s.dk.oq (bits b.m.toNat 0 3)).length < 8) (hk : recKind e.record = 0)
    (hf : (bankWords (tagBits (recFormat e.record)) (inBounds e (s.x b.xb))).any (fun k => s.frameBarred (k / 128)) = true) :
    exec (.ldqt h b) s = .next (s.raise h 0x11 0 0) := by
  change execLdqt h b s = _
  unfold execLdqt
  rw [State.revocable_records _ r]
  dsimp only
  rw [opA_first r.2.1, opB_first r.2.1, redone_first r.2.1, he]
  dsimp only
  rw [if_neg (by decide), if_neg (Nat.not_le.mpr hroom), ha, hk]
  unfold inBounds at hf
  simp only [hf, Bool.not_true, Bool.false_eq_true, if_false, BEq.rfl, Bool.and_true, if_true]

theorem ldqt_reads (r : s.MayRecord h [b.xa, b.xb]) (he : s.dk.handle (s.x b.xa) = some e) (ha : e.arrived = true)
    (hroom : (mget [] s.dk.oq (bits b.m.toNat 0 3)).length < 8) (hk : recKind e.record = 0)
    (hin : (recFaults e.record && (ldqtElems e.record (s.x b.xb)).any fun x => x.2.1.isNone) = false)
    (htag : (s.ck.tile (((8 * (recWord e.record 0 : Int) + recBits e.record (packedIndices (s.x b.xb) 0)) % 2 ^ 29).toNat / 8 / 16384)).tag.toNat = recFormat e.record)
    (hwhole : (ldqtElems e.record (s.x b.xb)).any (fun x => !x.2.2) = false)
    (hf : (bankWords (tagBits (recFormat e.record)) (inBounds e (s.x b.xb))).any (fun k => s.frameBarred (k / 128)) = false) :
    ∃ (t : State) (m : Micro), exec (.ldqt h b) s = .next t ∧
      (mget [] t.dk.oq (bits b.m.toNat 0 3)).length = (mget [] s.dk.oq (bits b.m.toNat 0 3)).length + 1 ∧
      t.micro = s.micro ++ [m] ∧ m.at_ = s.clock + 2 ∧ t.mem = s.mem ∧ t.cores = s.cores := by
  change ∃ (t : State) (m : Micro), execLdqt h b s = _ ∧ _
  unfold execLdqt
  rw [State.revocable_records _ r]
  dsimp only
  rw [opA_first r.2.1, opB_first r.2.1, redone_first r.2.1, he]
  dsimp only
  unfold inBounds at hf
  rw [if_neg (by decide), if_neg (Nat.not_le.mpr hroom), ha, hk]
  simp only [hf, hin, hwhole, htag, bne_self_eq_false, Bool.not_true, Bool.false_eq_true, if_false, Bool.and_false, Bool.or_false]
  refine ⟨_, _, rfl, ?_, rfl, rfl, rfl, rfl⟩
  change (mget [] (State.addRevoc (s.reserve _ _ _) _ _ _ _ _ _).dk.oq _).length = _
  rw [dk_addRevoc]
  exact oq_reserve _ _ _ _

end

/-- Settles O38: each load with its checks passed reserves its entries and schedules its reads; a frame tile is barred before. -/
theorem queueLoads : Obligations.QueueLoads := by
  intro h b s r w q rows
  refine ⟨fun a ha hroom hrows hf => ?_, fun c a ha hroom hrows hf => ?_, fun c a ha hroom hf => ldq_barred r ha hroom hf,
    fun e he ha hroom hk hf => ldqt_barred r he ha hroom hk hf, fun e he ha hroom hk hin htag hwhole hf => ldqt_reads r he ha hroom hk hin htag hwhole hf⟩
  · obtain ⟨u, want, hexec, hoq, humem, hucores, huclock, hucn⟩ := ldq_local r ha hroom hrows hf
    obtain ⟨hmem, hcores, hdk, -, hreads⟩ := ldqRows_spec q s.seq (a / 512) want rows 0 u
    refine ⟨_, hexec, by rw [hdk, hoq], fun j hj => ?_, hmem.trans humem, hcores.trans hucores⟩
    obtain ⟨m, hm, hat, hcore, want', addr, hact⟩ := hreads j hj
    rw [Nat.zero_add] at hat hact
    exact ⟨m, hm, huclock ▸ hat, hucn ▸ hcore, want', addr, hact⟩
  · obtain ⟨u, p, hexec, hoq, hremotes, hcore, hrow, hprows, hissued, humem, hupackets, huclock⟩ := ldq_remote r ha hroom hrows hf
    obtain ⟨hmem, -, hdecks, hrem, hpackets, hclock, hissue⟩ := toCore_frame u s.cn c
    obtain ⟨hcmem, hcdecks, -, -, -, -⟩ := State.carry_frame (u.toCore s.cn c).2 [(u.toCore s.cn c).1] (u.toCore s.cn c).2.clock farOff (.remoteReadArrival p.id)
    obtain ⟨hcrem, hcissue⟩ := carry_rest (u.toCore s.cn c).2 [(u.toCore s.cn c).1] (u.toCore s.cn c).2.clock farOff (.remoteReadArrival p.id)
    refine ⟨_, p, hexec, ?_, by rw [hcrem, hrem, hremotes], hcore, hrow, hprows, hissued, by rw [hcmem, hmem, humem], fun hne => ?_⟩
    · rw [← hoq]
      simp only [State.dk, State.getDeck, hcdecks, hcissue, hdecks, hissue]
      rfl
    · obtain ⟨pkt, hp, hev, hat, hleft⟩ := carry_packet (u.toCore s.cn c).2 (toCore_ne_nil u (Ne.symm hne)) (u.toCore s.cn c).2.clock farOff (.remoteReadArrival p.id)
      exact ⟨pkt, by rw [hp, hpackets, hupackets], hev, by rw [hat, hclock, huclock], hleft ▸ toCore_ne_nil u (Ne.symm hne)⟩

end Sys2Proof.Laws.QueueLoads


/-! Remote loads at the owning core and at the deck that asked (spec 08): O39. -/
namespace Sys2Proof.Laws.RemoteRows
open Sys2Proof Sys2Proof.Machine Sys2Proof.Laws Host

/-- The accesses that an arriving remote load schedules, one row after the other. -/
def rowReads (s : State) (q : Remote) (rs : List Nat) : State :=
  rs.foldl (fun s r => s.access (s.clock + r) q.core q.deck false remotePrio (.rmtRead q.id r)) s

theorem rowReads_frame (q : Remote) : ∀ (rs : List Nat) (s : State), (rowReads s q rs).mem = s.mem ∧ (rowReads s q rs).decks = s.decks ∧
    s.micro ⊆ (rowReads s q rs).micro
  | [], _ => ⟨rfl, rfl, fun _ h => h⟩
  | r :: rs, s => by
    obtain ⟨hmem, hdecks, hmicro⟩ := rowReads_frame q rs (s.access (s.clock + r) q.core q.deck false remotePrio (.rmtRead q.id r))
    exact ⟨hmem, hdecks, fun m h => hmicro (List.mem_append_left _ h)⟩

/-- Row r of an arriving remote load is read r clocks later, in the bank of the owning core. -/
theorem rowReads_read (q : Remote) {r : Nat} : ∀ (rs : List Nat) (s : State), r ∈ rs →
    ∃ m ∈ (rowReads s q rs).micro, m.at_ = s.clock + r ∧ m.core = q.core ∧ m.act = .rmtRead q.id r
  | [], _, h => absurd h List.not_mem_nil
  | x :: rs, s, h => by
    rcases List.mem_cons.1 h with rfl | h
    · exact ⟨_, (rowReads_frame q rs _).2.2 (List.mem_append_right _ (List.mem_singleton_self _)), rfl, rfl, rfl⟩
    · exact rowReads_read q rs (s.access (s.clock + x) q.core q.deck false remotePrio (.rmtRead q.id x)) h

/-- Data that arrive for the one waiting entry of a queue are put into it. -/
theorem arriveOq_one {s : State} {n q : Nat} {e : QEntry} (id : Nat) (img : Image) (tag : Tag) (hq : mget [] (s.getDeck n).oq q = [e]) (he : e.arrived = false) :
    mget [] ((s.arriveOq n q e.id id img tag false).getDeck n).oq q = [{ e with data := img, tag := tag, arrived := true, zeroed := false }] ∧
      (s.arriveOq n q e.id id img tag false).mem = s.mem := by
  unfold State.arriveOq
  simp [hq, he, settle]

theorem passCheck_oq (s : State) (n id : Nat) : ((s.passCheck n id).getDeck n).oq = (s.getDeck n).oq ∧ (s.passCheck n id).mem = s.mem := by
  unfold State.passCheck
  exact ⟨by rw [State.getDeck_modDeck], rfl⟩

/-- Settles O39: the arrival schedules one read a row, and a response with data fills the entry reserved for its row. -/
theorem remoteLoads : Obligations.RemoteLoads := by
  intro s q hs
  have hfind : s.remotes.find? (fun p => p.id == q.id) = some q := by simp [hs]
  refine ⟨?_, fun row img detail e hdata hoq hid he => ?_⟩
  · obtain ⟨hmem, hdecks, -⟩ := rowReads_frame q (List.range q.rows) s
    refine ⟨rowReads s q (List.range q.rows), ?_, hmem, hdecks, fun r hr => rowReads_read q _ s (List.mem_range.2 hr)⟩
    change execRemoteReadArrival q.id s = _
    unfold execRemoteReadArrival
    rw [hfind]
    rfl
  · change ∃ (t : State) (f : QEntry), execRemoteReadResponse q.id row s = _ ∧ _
    unfold execRemoteReadResponse
    rw [hfind]
    simp only [hdata, List.find?_cons, beq_self_eq_true, ← hid]
    generalize hr : ({ s with remotes := _ } : State) = r
    have hroq : mget [] (r.getDeck q.deck).oq q.q = [e] := by rw [← hr]; exact hoq
    have hrmem : r.mem = s.mem := by rw [← hr]
    obtain ⟨hfill, hmem⟩ := arriveOq_one q.seq img (((r.getDeck q.deck).entriesOf.find? fun (x : QEntry) => x.id == e.id).elim 0 (·.tag)) hroq he
    obtain ⟨hpass, hpmem⟩ := passCheck_oq (r.arriveOq q.deck q.q e.id q.seq img
      (((r.getDeck q.deck).entriesOf.find? fun (x : QEntry) => x.id == e.id).elim 0 (·.tag)) false) q.deck q.seq
    replace hpass := (congrArg (mget [] · q.q) hpass).trans hfill
    rw [hmem, hrmem] at hpmem
    simp only [show decide ((0 : Nat) = 1) = false from rfl]
    rw [if_neg (show ¬(0 : Nat) ≥ 2 by decide)]
    split
    · exact ⟨_, _, rfl, hpass, rfl, rfl, rfl, hpmem⟩
    · exact ⟨_, _, rfl, hpass, rfl, rfl, rfl, hpmem⟩

end Sys2Proof.Laws.RemoteRows


/-! Layout handles (spec 03, spec 08): O40. -/
namespace Sys2Proof.Laws.Handles
open Sys2Proof Sys2Proof.Machine Sys2Proof.Laws Sys2Proof.Laws.Scalar Sys2Proof.Laws.Access Sys2Proof.Laws.QueueLoads Host

/-- What a scalar result in flight leaves as it is. -/
theorem writeX_frame (s : State) (h : Hd) (lat : Nat) (r : BitVec 6) (v : Word) : let t := s.writeX h lat r v
    t.micro = s.micro ∧ t.cores = s.cores ∧ t.issue = s.issue ∧ t.clock = s.clock ∧ t.agenda = s.agenda := by
  by_cases hr : r = 0
  · subst hr
    exact ⟨rfl, rfl, rfl, rfl, rfl⟩
  · rw [State.writeX_pos s h lat v hr]
    exact ⟨rfl, rfl, rfl, rfl, rfl⟩

/-- `passCheck` changes nothing but the entries of the replay log. -/
theorem passCheck_lcache (s : State) (n id : Nat) : ((s.passCheck n id).getDeck n).lcache = (s.getDeck n).lcache := by
  rw [State.passCheck, State.getDeck_modDeck]

/-- What a deck has of its layout cache, and of what lands in its registers, once `hld` has recorded itself and stepped its entry. -/
theorem hld_enters (s : State) (h : Hd) (e : Nat) (gen : BitVec 6) (r : BitVec 6) (v : Word) : let t := (s.modDk fun d => { d with lcache := mset LEntry.zero d.lcache e ⟨gen, 0, false⟩ }).writeX h 1 r v
    mget LEntry.zero t.dk.lcache e = ⟨gen, 0, false⟩ ∧ (r ≠ 0 → ∃ l ∈ t.dk.latches, l.land = s.clock + 1 ∧ l.dest = .x r.toNat ∧ l.data = v.setWidth 4096) := by
  intro t
  generalize hu : (s.modDk fun d => { d with lcache := mset LEntry.zero d.lcache e ⟨gen, 0, false⟩ }) = u
  have hdk : u.dk = { s.dk with lcache := mset LEntry.zero s.dk.lcache e ⟨gen, 0, false⟩ } := hu ▸ State.dk_modDk s _
  have hclock : u.clock = s.clock := hu ▸ rfl
  by_cases hr : r = 0
  · refine ⟨?_, fun h => absurd hr h⟩
    simp [t, hr, State.writeX]
  · obtain ⟨l, hland, hdest, hdata, hdeck⟩ := writeX_latch u h 1 v hr
    have ht : t.dk = { u.dk with latches := u.dk.latches ++ [l] } := by
      obtain ⟨-, -, hissue, -, -⟩ := writeX_frame u h 1 r v
      rw [← hdeck]
      simp only [t, hu, State.dk, State.dn, hissue]
    refine ⟨by rw [ht, hdk]; exact mget_mset_same _ _ _ _, fun _ => ⟨l, ?_, by rw [hland, hclock], hdest, hdata⟩⟩
    rw [ht]
    exact List.mem_append_right _ (List.mem_singleton_self _)

theorem hld_store {h : Hd} {b : XI} {s : State} {a : Nat} (r : s.MayRecord h [b.xa]) (ha : addrOf (s.x b.xa) = .store a) (h8 : a % 8 = 0)
    (hend : a + 64 ≤ 2 ^ 26) (hf : s.frameBarred ((a + 63) / 16384) = false) :
    let e := bits b.imm.toNat 0 6
    let gen := (mget LEntry.zero s.dk.lcache e).gen + 1
    ∃ (u w : State), w = (u.modDk fun d => { d with lcache := mset LEntry.zero d.lcache e ⟨gen, 0, false⟩ }).writeX h 1 b.xd
        (BitVec.ofNat 64 (gen.toNat * 64 + e)) ∧
      exec (.hld h b) s = .next (w.access (s.clock + 2) s.cn s.dn false (deckPrio s.dn false) (.hldRead s.seq e gen.toNat a 0)) ∧
      w.micro = s.micro ∧ w.mem = s.mem ∧ u.clock = s.clock := by
  intro e gen
  change ∃ (u w : State), w = _ ∧ execHld h b s = _ ∧ _
  unfold execHld
  rw [State.revocable_records _ r]
  dsimp only
  rw [opA_first r.2.1, show s.isReplay = false by rw [State.isReplay, r.2.1]; rfl, ha]
  dsimp only
  rw [if_neg (by rw [hf]; decide), if_neg (by omega)]
  generalize hu : s.addRevoc _ _ _ _ _ _ = u
  simp only [Bool.false_eq_true, if_false, if_true]
  have hissue : u.issue = s.issue := hu ▸ rfl
  have hclock : u.clock = s.clock := hu ▸ rfl
  rw [if_neg (show ¬State.isReplay (State.modDk u _) = true by
    rw [show State.isReplay (State.modDk u _) = s.issue.anew.isSome from congrArg (·.anew.isSome) hissue, r.2.1]; decide)]
  generalize hw : State.writeX _ _ _ _ _ = w
  obtain ⟨hmicro', -, hissue', hclock', -⟩ := writeX_frame (u.modDk fun d => { d with lcache := mset LEntry.zero d.lcache e ⟨gen, 0, false⟩ }) h 1 b.xd
    (BitVec.ofNat 64 (gen.toNat * 64 + e))
  refine ⟨u, w, hw.symm, ?_, ?_, ?_, hclock⟩
  · have hc : w.clock = s.clock := (hw ▸ hclock').trans hclock
    have hi : w.issue = s.issue := (hw ▸ hissue').trans hissue
    rw [hc, State.cn, State.dn, hi]
    rfl
  · exact (hw ▸ hmicro').trans (hu ▸ rfl)
  · rw [← hw, State.mem_writeX, ← hu]
    rfl

/-- Settles O40: the entry that `hld` steps, the record that arrives for it, the address that `hidx` makes of one. -/
theorem handles : Obligations.Handles := by
  refine ⟨fun h b s a r ha h8 hend hf => ?_, fun s n e gen r hwait _ hwants hr hbad => ?_, fun h b s e r hh harr hk hw h8 => ?_⟩
  · intro e gen
    obtain ⟨u, w, hw, hexec, hmicro, hmem, hclock⟩ := hld_store r ha h8 hend hf
    obtain ⟨hentry, hlatch⟩ := hld_enters u h e gen b.xd (BitVec.ofNat 64 (gen.toNat * 64 + e))
    rw [← hw] at hentry hlatch
    refine ⟨_, ⟨s.clock + 2, s.cn, s.dn, false, deckPrio s.dn false, w.seq, .hldRead s.seq e gen.toNat a 0⟩, hexec, congrArg LEntry.gen hentry,
      congrArg LEntry.arrived hentry, ?_, rfl, rfl, hmem, fun hd => ?_⟩
    · rw [← hmicro]
      rfl
    · obtain ⟨l, hl, hland, hdest, hdata⟩ := hlatch hd
      refine ⟨l, hl, by rw [hland, hclock], hdest, hdata.trans ?_⟩
      have he : e < 2 ^ 6 := Nat.mod_lt _ (Nat.two_pow_pos 6)
      exact BitVec.setWidth_ofNat_of_le_of_lt (by decide) (by have := gen.isLt; omega)
  · change ∃ t : State, execHldRecordArrival n e gen s = _ ∧ _
    unfold execHldRecordArrival
    rw [hwait]
    dsimp only [List.find?_nil]
    rw [hr]
    dsimp only
    unfold State.recordIn
    rw [hr]
    dsimp only
    rw [hbad, hwants]
    simp only [Bool.false_eq_true, if_false, if_true]
    refine ⟨_, rfl, ?_, rfl⟩
    rw [passCheck_lcache, State.getDeck_modDeck]
    exact mget_mset_same _ _ _ _
  · change execHidx h b s = _
    unfold execHidx
    rw [State.irrevocable_passed _ r]
    dsimp only
    rw [hh]
    simp only [harr, hw, hk, h8, Bool.not_true, Bool.false_eq_true, if_false, if_true]

end Sys2Proof.Laws.Handles


/-! The slot directory (spec 03, spec 08 R193, R194): O41. -/
namespace Sys2Proof.Laws.Directory
open Sys2Proof Sys2Proof.Machine Sys2Proof.Laws Sys2Proof.Laws.Handles

/-- The core of the issuing deck after `modCk`. -/
theorem ck_modCk (s : State) (f : Core → Core) : (s.modCk f).ck = f s.ck := State.getCore_modCore s s.cn f

/-- A result in flight leaves the core. -/
theorem ck_writeX (s : State) (h : Hd) (lat : Nat) (r : BitVec 6) (v : Word) : (s.writeX h lat r v).ck = s.ck := by
  obtain ⟨-, hcores, hissue, -, -⟩ := writeX_frame s h lat r v
  simp only [State.ck, State.getCore, State.cn, hcores, hissue]

/-- Nor does it bring the deck out of fork mode. -/
theorem fork_writeX (s : State) (h : Hd) (lat : Nat) (r : BitVec 6) (v : Word) : (s.writeX h lat r v).dk.fork = s.dk.fork := by
  by_cases hr : r = 0
  · subst hr
    rfl
  · rw [State.writeX_pos _ h lat v hr]
    rw [State.result_dk]

/-- What lands in the deck does not depend on the cores. -/
theorem latches_writeX_modCk (s : State) (f : Core → Core) (h : Hd) (lat : Nat) (r : BitVec 6) (v : Word) :
    ((s.modCk f).writeX h lat r v).dk.latches = (s.writeX h lat r v).dk.latches := by
  by_cases hr : r = 0
  · subst hr
    rfl
  · rw [State.writeX_pos _ h lat v hr, State.writeX_pos _ h lat v hr]
    rfl

@[simp] theorem engine_setEngine (k : Core) (e : Nat) (x : Engine) : (k.setEngine e x).engine e = x := mget_mset_same _ _ _ _

/-- An engine after it has taken a command: the command is the last of its queue, with the next issue number. -/
theorem engine_enterEngine (s : State) (eng : Nat) (c : Cmd) : (s.enterEngine eng c).ck.engine eng =
    { s.ck.engine eng with
      queue := (s.ck.engine eng).queue ++ [{ c with num := (s.ck.engine eng).count + 1 }],
      headAt := if (s.ck.engine eng).queue.isEmpty then s.clock else (s.ck.engine eng).headAt, count := (s.ck.engine eng).count + 1 } := by
  rw [State.enterEngine, ck_modCk]
  exact engine_setEngine _ _ _

theorem way_mput (k : Core) (w : Nat) (x : Way) : ({ k with ways := mput k.ways w x } : Core).way w = x := mget_mput_same _ _ _ _

section Probe
variable {h : Hd} {b : XI} {s : State} {w : Nat} (r : s.Passed h [b.xa])
include r

theorem probe_barred (hw : s.ck.findWay s.inst.ctx (bits (s.x b.xa).toNat 14 43) = some w) (hf : s.frameBarred (dirBase s.ck + w) = true) :
    exec (.probe h b) s = .next (s.raise h 0x11 0 0) := by
  change execProbe h b s = _
  unfold execProbe
  rw [State.irrevocable_passed _ r]
  dsimp only
  rw [hw]
  dsimp only
  rw [if_pos hf]

theorem probe_hit (hw : s.ck.findWay s.inst.ctx (bits (s.x b.xa).toNat 14 43) = some w) (hst : (s.ck.way w).st = 2)
    (hf : s.frameBarred (dirBase s.ck + w) = false) :
    exec (.probe h b) s = .next (({ s with seq := s.seq + 1 }.modCk fun k => { k with ways := mput k.ways w { k.way w with used := s.seq + 1 } }).writeX h 2 b.xd
      (BitVec.ofNat 64 (dirBase s.ck + w))) := by
  change execProbe h b s = _
  unfold execProbe
  rw [State.irrevocable_passed _ r]
  dsimp only
  rw [hw]
  dsimp only
  rw [if_neg (by rw [hf]; decide), if_pos hst]

theorem probe_miss (hw : s.ck.findWay s.inst.ctx (bits (s.x b.xa).toNat 14 43) = none) (hsets : dirSets s.ck ≠ 0)
    (hv : s.ck.victimWay (bits (s.x b.xa).toNat 14 43) = some w) (hfull : s.ck.engineFull 1 = false) (hfork : s.dk.fork = false)
    (hf : s.frameBarred (dirBase s.ck + w) = false) :
    ∃ c : Cmd, c.way = some (w, bits (s.x b.xa).toNat 14 43, dirBase s.ck + w) ∧ c.count = 32 ∧
      exec (.probe h b) s = .next ((({ s with seq := s.seq + 1 }.modCk fun k =>
          { k with ways := mput k.ways w ⟨bits (s.x b.xa).toNat 14 43, s.inst.ctx, 1, 0, s.seq + 1⟩ }).enterEngine 1 c).writeX h 2 b.xd
          (BitVec.ofNat 64 (2 ^ 63 + (dirBase s.ck + w)))) := by
  change ∃ c : Cmd, _ ∧ _ ∧ execProbe h b s = _
  unfold execProbe
  rw [State.irrevocable_passed _ r]
  dsimp only
  rw [hw]
  dsimp only
  rw [if_neg hsets, hv]
  dsimp only
  rw [if_neg (by rw [hfull]; decide), if_neg (by rw [hf]; decide)]
  refine ⟨_, ?_, ?_, congrArg Host.Outcome.next (if_neg ?_)⟩
  · rfl
  · rfl
  · rw [fork_writeX]
    exact Bool.eq_false_iff.1 hfork

end Probe

/-- What `ppin` and `pfree` do with a block that is present. -/
theorem pinBy_found {h : Hd} {b : XRR} {s : State} {w : Nat} {up : Bool} (r : s.Passed h [b.xa])
    (hw : s.ck.findWay s.inst.ctx (bits (s.x b.xa).toNat 14 43) = some w) :
    s.pinBy h b up = if s.frameBarred (dirBase s.ck + w) then s.raise h 0x11 0 0 else s.access (s.clock + 1) s.cn s.dn (isEx h) 0 (.pin w up) := by
  rw [State.pinBy, State.irrevocable_passed _ r, hw]

/-- Settles O41: each case of a probe, the pins it schedules, and how a pin count steps. -/
theorem slotDirectory : Obligations.SlotDirectory := by
  refine ⟨fun h b s w r => ?_, fun h b s w r hw => ?_, fun k w up hst => ?_⟩
  · intro blk
    refine ⟨probe_barred r, fun hw hst hf => ?_, fun hw hsets hv hfull hfork hf => ?_⟩
    · refine ⟨_, probe_hit r hw hst hf, ?_, ?_, ?_, ?_⟩
      · rw [ck_writeX, ck_modCk, way_mput]
      · rw [ck_writeX, ck_modCk, way_mput]
        rfl
      · exact latches_writeX_modCk _ _ _ _ _ _
      · exact State.mem_writeX _ _ _ _ _
    · obtain ⟨c, hway, hcount, hexec⟩ := probe_miss r hw hsets hv hfull hfork hf
      refine ⟨_, { c with num := (s.ck.engine 1).count + 1 }, hexec, ?_, ?_, hway, hcount, ?_⟩
      · rw [ck_writeX, State.enterEngine, ck_modCk, ck_modCk]
        exact mget_mput_same _ _ _ _
      · rw [ck_writeX, engine_enterEngine, ck_modCk]
        rfl
      · rw [State.enterEngine, latches_writeX_modCk, latches_writeX_modCk]
  · change if _ then Host.Outcome.next (s.pinBy h b true) = _ ∧ Host.Outcome.next (s.pinBy h b false) = _ else Host.Outcome.next (s.pinBy h b true) = _ ∧ Host.Outcome.next (s.pinBy h b false) = _
    rw [pinBy_found r hw, pinBy_found r hw]
    split <;> exact ⟨rfl, rfl⟩
  · unfold Core.pinWay
    rw [if_neg hst, way_mput]

end Sys2Proof.Laws.Directory


/-! Tile configuration, release, marks, row status and constants (spec 08): O42. -/
namespace Sys2Proof.Laws.TileRequests
open Sys2Proof Sys2Proof.Machine Sys2Proof.Laws Sys2Proof.Laws.Handles Sys2Proof.Laws.Directory

/-! ### The instructions -/

theorem tileRequest_passed {h : Hd} {b : XRR} {s : State} (req : TileReq) (r : s.Passed h [b.xa, b.xb]) :
    s.tileRequest h b req = if !s.dk.sup && (tileRange (s.x b.xa) (s.x b.xb)).any isFrameTile then s.raise h 0x11 0 0
      else s.modCk fun k => { k with tileReqs := k.tileReqs ++ (tileRange (s.x b.xa) (s.x b.xb)).map fun t => (t, s.clock + 1, req) } := by
  rw [State.tileRequest, State.irrevocable_passed _ r]

/-- A list of tiles names a frame tile exactly when one of them is 4,032 or more. -/
theorem any_isFrameTile (ts : List Nat) : ts.any isFrameTile = true ↔ ∃ t ∈ ts, 4032 ≤ t := by
  simp [isFrameTile]

theorem mark_passed {h : Hd} {b : XRR} {s : State} (recv : Bool) (r : s.Passed h [b.xa]) (hf : s.frameBarred ((s.x b.xa).toNat % 4096) = false) :
    s.mark h b recv = s.post (s.clock + 1) (.tileMarkTakeEffect s.cn ((s.x b.xa).toNat % 4096) recv (s.earlierStores (isEx h))) := by
  have hbits : bits (s.x b.xa).toNat 0 12 = (s.x b.xa).toNat % 4096 := by simp [bits]
  rw [State.mark, State.irrevocable_passed _ r]
  dsimp only
  rw [hbits, if_neg (by rw [hf]; decide)]

theorem tage_runs {h : Hd} {b : XRR} {s : State} (r : s.Passed h [b.xa]) (hf : s.frameBarred ((s.x b.xa).toNat % 2 ^ 17 / 32) = false) :
    exec (.tage h b) s = .next (if b.m.getLsbD 0 then (s.writeX h 2 b.xd (s.rowStatus s.cn ((s.x b.xa).toNat % 2 ^ 17))).access (s.clock + 1) s.cn s.dn (isEx h) 0
        (.clearLost ((s.x b.xa).toNat % 2 ^ 17 / 32))
      else s.writeX h 2 b.xd (s.rowStatus s.cn ((s.x b.xa).toNat % 2 ^ 17))) := by
  have hbits : bits (s.x b.xa).toNat 0 17 = (s.x b.xa).toNat % 2 ^ 17 := by simp [bits]
  change execTage h b s = _
  unfold execTage
  rw [State.irrevocable_passed _ r]
  dsimp only
  rw [hbits, if_neg (by rw [hf]; decide)]
  obtain ⟨-, -, hissue, hclock, -⟩ := writeX_frame s h 2 b.xd (s.rowStatus s.cn ((s.x b.xa).toNat % 2 ^ 17))
  generalize s.writeX h 2 b.xd (s.rowStatus s.cn ((s.x b.xa).toNat % 2 ^ 17)) = w at hissue hclock ⊢
  rw [hclock, show w.cn = s.cn by rw [State.cn, hissue]; rfl, show w.dn = s.dn from congrArg (·.deck) hissue]

/-! ### Rows and tiles of a core -/

@[simp] theorem row_setRow (k : Core) (n : Nat) (r : RowMeta) : (k.setRow n r).row n = r := mget_mset_same _ _ _ _

theorem row_setRow_other (k : Core) {n m : Nat} (r : RowMeta) (h : n ≠ m) : (k.setRow n r).row m = k.row m := mget_mset_other _ _ _ h

@[simp] theorem tile_modTile (k : Core) (t : Nat) (f : Tile → Tile) : (k.modTile t f).tile t = f (k.tile t) := mget_mset_same _ _ _ _

theorem tile_modTile_other (k : Core) {t u : Nat} (f : Tile → Tile) (h : t ≠ u) : (k.modTile t f).tile u = k.tile u := mget_mset_other _ _ _ h

/-- A change of one tile that leaves its configuration leaves that of every tile. -/
theorem cfg_modTile (k : Core) (t u : Nat) (f : Tile → Tile) (h : ∀ x, (f x).cfg = x.cfg) : ((k.modTile t f).tile u).cfg = (k.tile u).cfg := by
  by_cases e : t = u
  · subst e
    rw [tile_modTile, h]
  · rw [tile_modTile_other k f e]

/-- Rows whose states are set to Released one after the other. -/
theorem released_rows (b j : Nat) : ∀ (js : List Nat) (k : Core), j ∈ js ∨ (k.row (b + j)).st = .released →
    ((js.foldl (fun (k : Core) i => k.setRow (b + i) { k.row (b + i) with st := .released }) k).row (b + j)).st = .released
  | [], _, h => h.resolve_left List.not_mem_nil
  | i :: js, k, h => by
    refine released_rows b j js _ ?_
    by_cases e : i = j
    · subst e
      exact .inr (congrArg RowMeta.st (row_setRow _ _ _))
    · rcases h with h | h
      · exact .inl ((List.mem_cons.1 h).resolve_left (Ne.symm e))
      · exact .inr (by rw [row_setRow_other _ _ (by omega)]; exact h)

theorem rows_release (k : Core) (t : Nat) : (k.release t).rows =
    ((List.range 32).foldl (fun (k : Core) j => k.setRow (32 * t + j) { k.row (32 * t + j) with st := .released }) k).rows := by
  unfold Core.release
  generalize List.foldl _ k _ = k'
  rfl

theorem release_row (k : Core) (t : Nat) {j : Nat} (h : j < 32) : ((k.release t).row (32 * t + j)).st = .released := by
  have hrows := released_rows (32 * t) j (List.range 32) k (.inl (List.mem_range.2 h))
  rw [Core.row] at hrows ⊢
  rw [rows_release]
  generalize List.foldl _ k _ = k' at hrows ⊢
  exact hrows

/-! ### A request that takes effect -/

/-- A tile is configured as g, and memory is m. -/
def Configured (core tile : Nat) (g : BitVec 8) (m : Memory) (s : State) : Prop := ((s.getCore core).tile tile).cfg = g ∧ s.mem = m

theorem configured_modCore {core tile : Nat} {g : BitVec 8} {m : Memory} {s : State} (c : Nat) (f : Core → Core) (hf : ∀ k, ((f k).tile tile).cfg = (k.tile tile).cfg)
    (h : Configured core tile g m s) : Configured core tile g m (s.modCore c f) := by
  obtain ⟨hcfg, hmem⟩ := h
  refine ⟨?_, hmem⟩
  by_cases e : c = core
  · subst e
    rw [State.getCore_modCore, hf, hcfg]
  · rw [MemoryReads.getCore_modCore_other _ _ (Ne.symm e), hcfg]

theorem tile_expire (k : Core) (n t : Nat) : (k.expire n).tile t = k.tile t := rfl

theorem tile_warn (k : Core) (n t : Nat) : (k.warn n).tile t = k.tile t := by
  unfold Core.warn
  dsimp only
  split <;> rfl

theorem configured_evalRow {core tile : Nat} {g : BitVec 8} {m : Memory} {s : State} (c n : Nat) (h : Configured core tile g m s) :
    Configured core tile g m (s.evalRow c n) := by
  unfold State.evalRow
  dsimp only
  split
  · exact configured_modCore c _ (fun k => congrArg Tile.cfg (tile_expire k n tile)) h
  split
  · exact configured_modCore c _ (fun k => congrArg Tile.cfg (tile_warn k n tile)) h
  · exact h

theorem configured_pushEvent {core tile : Nat} {g : BitVec 8} {m : Memory} {s : State} (c n : Nat) (missed : Bool) (h : Configured core tile g m s) :
    Configured core tile g m (s.pushEvent c n missed) := by
  have hlost : Configured core tile g m (s.modCore c fun k => k.modTile (n / 32) fun t => { t with lost := true }) :=
    configured_modCore c _ (fun k => cfg_modTile k _ _ _ fun _ => rfl) h
  unfold State.pushEvent
  dsimp only
  split
  · exact hlost
  · split
    · exact h
    · exact hlost

theorem configured_pushNotes {core tile : Nat} {g : BitVec 8} {m : Memory} {s : State} (c : Nat) (h : Configured core tile g m s) :
    Configured core tile g m (s.pushNotes c) := by
  unfold State.pushNotes
  refine List.foldlRecOn _ _ ?_ fun u hu x _ => configured_pushEvent c x.1 x.2 hu
  exact configured_modCore c _ (fun _ => rfl) h

/-- Settles O42: each instruction's request, and each request when it takes effect. -/
theorem tileInstructions : Obligations.TileInstructions := by
  refine ⟨fun h b s r => ?_, fun h b s r => ?_, fun s core tile recv stores hst hl => ?_, fun s core tile c rest hq => ?_,
    fun s core tile c deck inst g rest hq hc hl => ?_, fun h b s r => ?_⟩
  · have hts : tileRange (s.x b.xa) (s.x b.xb) = (List.range (min ((s.x b.xa).toNat % 4096 + (s.x b.xb).toNat) 4096 - (s.x b.xa).toNat % 4096)).map
        ((s.x b.xa).toNat % 4096 + ·) := by simp [tileRange, bits]
    intro lo ts
    change (_ → _ → Host.Outcome.next (s.tileRequest h b .rel) = _ ∧ Host.Outcome.next (s.tileRequest h b _) = _) ∧
      (_ → Host.Outcome.next (s.tileRequest h b .rel) = _ ∧ Host.Outcome.next (s.tileRequest h b _) = _)
    rw [tileRequest_passed _ r, tileRequest_passed _ r, hts]
    refine ⟨fun hsup hframe => ?_, fun hok => ?_⟩
    · have hany : (!s.dk.sup && ts.any isFrameTile) = true := by rw [hsup, (any_isFrameTile ts).2 hframe]; rfl
      rw [if_pos hany, if_pos hany]
      exact ⟨rfl, rfl⟩
    · have hany : ¬(!s.dk.sup && ts.any isFrameTile) = true := by
        rw [Bool.and_eq_true, any_isFrameTile]
        rintro ⟨hsup, t, ht, hle⟩
        rcases hok with hok | hok
        · simp [hok] at hsup
        · exact absurd (hok t ht) (by omega)
      rw [if_neg hany, if_neg hany]
      exact ⟨rfl, rfl⟩
  · intro n
    refine ⟨fun hf => ⟨fun hm => ?_, fun hm => ?_⟩, fun hf => ⟨?_, ?_⟩⟩
    · rw [tage_runs r hf, hm]
      rfl
    · rw [tage_runs r hf, if_pos hm]
    · exact congrArg Host.Outcome.next (mark_passed false r hf)
    · exact congrArg Host.Outcome.next (mark_passed true r hf)
  · refine ⟨_, congrArg Host.Outcome.next (if_neg (by simp [hst, hl])), rfl, ?_⟩
    rw [State.getCore_modCore, tile_modTile]
    cases recv <;> rfl
  · have hreq : (s.getCore core).tileReq tile = some (c, .rel) := by simp [Core.tileReq, hq]
    change ∃ t : State, execTrelTakeEffect core tile s = _ ∧ _
    unfold execTrelTakeEffect
    dsimp only
    rw [hreq]
    refine ⟨_, rfl, ?_, fun j hj => ?_, rfl⟩
    · rw [State.getCore_setCore, hq, dropReq, if_pos rfl]
    · rw [State.getCore_setCore]
      have hrow := release_row (s.getCore core) tile hj
      generalize (s.getCore core).release tile = k at hrow ⊢
      rw [Core.row] at hrow ⊢
      exact hrow
  · have hreq : (s.getCore core).tileReq tile = some (c, .cfg g deck inst) := by simp [Core.tileReq, hq]
    have hdue : (s.getCore core).cfgDue tile s.clock = true := by rw [Core.cfgDue, hreq]; simp [hc, hl]
    change ∃ t : State, execTcfgTakeEffect core tile s = _ ∧ _
    unfold execTcfgTakeEffect
    dsimp only
    rw [hreq]
    dsimp only
    rw [if_neg (by rw [hdue]; decide)]
    refine ⟨_, rfl, ?_⟩
    refine configured_modCore core _ (fun _ => rfl) (configured_pushNotes core ?_)
    refine List.foldlRecOn _ _ ?_ fun u hu j _ => configured_evalRow core (32 * tile + j) hu
    refine ⟨?_, rfl⟩
    rw [State.getCore_setCore]
    rw [Core.tile]
    exact congrArg Tile.cfg (mget_mset_same _ _ _ _)
  · change execLdk h b s = _
    unfold execLdk
    rw [State.irrevocable_passed _ r]

end Sys2Proof.Laws.TileRequests


/-! Engine commands (spec 05, spec 08 R200): O43. -/
namespace Sys2Proof.Laws.EngineCommands
open Sys2Proof Sys2Proof.Machine Sys2Proof.Laws Sys2Proof.Laws.Handles Sys2Proof.Laws.Directory

/-- The record of the layout handle that a job names; a job without one counts as having its record. -/
def recordOf (s : State) : Job → Option LEntry
  | .gather _ n _ => s.dk.handle (BitVec.ofNat 64 n)
  | _ => some LEntry.zero

/-- The record that an accepted command takes along. -/
def layoutOf (j : Job) (e : LEntry) : Option (BitVec 512) :=
  match j with
  | .gather .. => some e.record
  | _ => none

theorem recordOf_other (s : State) {j : Job} (h : ∀ d n i, j ≠ .gather d n i) : recordOf s j = some LEntry.zero := by
  cases j with
  | gather d n i => exact absurd rfl (h d n i)
  | _ => rfl

theorem recordOf_arrived (s : State) {j : Job} (h : ∀ d n i, j = .gather d n i → ∃ e, s.dk.handle (BitVec.ofNat 64 n) = some e ∧ e.arrived = true) :
    ∃ e, recordOf s j = some e ∧ e.arrived = true := by
  cases j with
  | gather d n i => exact h d n i rfl
  | _ => exact ⟨LEntry.zero, rfl, rfl⟩

/-- An enabled `ecmd`: nothing for no rows, then the queue and the record, the fields, the extent; an accepted command joins its queue. -/
theorem ecmd_runs {h : Hd} {b : EC} {s : State} (r : s.Passed h [b.xcmd, b.xcount]) {cmd : Cmd} {j : Job}
    (hcmd : s.newCmd h (s.x b.xcmd) (s.x b.xcount) = cmd) (hj : cmd.job b.eng.toNat s.ck = j) :
    exec (.ecmd h b) s = .next (
      if cmd.count = 0 then s
      else if s.ck.engineFull b.eng.toNat || (match recordOf s j with | some r => !r.arrived | none => false) then s.stalled
      else if cmd.badField b.eng.toNat j || (cmd.user && j.namesFrame s.cn (cmd.rows b.eng.toNat - 1)) then s.raise h 0x14 0 0
      else match s.badExtent j cmd.count, recordOf s j with
        | some a, _ => s.raise h 0x0B 0 a
        | none, none => s.raise h 0x0A 0 0
        | none, some r => s.enterEngine b.eng.toNat { cmd with layout := layoutOf j r }) := by
  subst hcmd hj
  change execEcmd h b s = _
  unfold execEcmd
  rw [State.irrevocable_passed _ r]
  unfold recordOf layoutOf
  rfl

/-- Settles O43: the cases of an enabled `ecmd`. -/
theorem engineCommands : Obligations.EngineCommands := by
  intro h b s r cmd j
  have hrun := ecmd_runs r (cmd := cmd) (j := j) rfl rfl
  refine ⟨fun h0 => ?_, fun h0 hrec hfull hbad hframe hext => ?_, fun h0 hfull => ?_, fun h0 hfull hother => ⟨fun hbad => ?_, fun a hbad hframe hext => ?_⟩⟩
  · rw [hrun, if_pos h0]
  · obtain ⟨e, he, harr⟩ := recordOf_arrived s hrec
    have hok : ¬(cmd.badField b.eng.toNat j || (cmd.user && j.namesFrame s.cn (cmd.rows b.eng.toNat - 1))) = true := by
      rcases hframe with hf | hf <;> simp [hbad, hf]
    rw [if_neg h0, he, if_neg (by simp [hfull, harr]), if_neg hok, hext] at hrun
    refine ⟨_, { cmd with
      layout := layoutOf j e, num := (s.ck.engine b.eng.toNat).count + 1 }, hrun, ?_, rfl, rfl, rfl, ?_, rfl, rfl⟩
    · rw [engine_enterEngine]
    · rw [engine_enterEngine]
  · rw [hrun, if_neg h0, if_pos (by rw [hfull]; rfl)]
  · have hbad' : (cmd.badField b.eng.toNat j || (cmd.user && j.namesFrame s.cn (cmd.rows b.eng.toNat - 1))) = true := by
      rcases hbad with hb | ⟨hu, hf⟩
      · simp [hb]
      · simp [hu, hf]
    rw [hrun, if_neg h0, recordOf_other s hother, if_neg (by simp [hfull, LEntry.zero]), if_pos hbad']
  · have hok : ¬(cmd.badField b.eng.toNat j || (cmd.user && j.namesFrame s.cn (cmd.rows b.eng.toNat - 1))) = true := by
      rcases hframe with hf | hf <;> simp [hbad, hf]
    rw [hrun, if_neg h0, recordOf_other s hother, if_neg (by simp [hfull, LEntry.zero]), if_neg hok, hext]

end Sys2Proof.Laws.EngineCommands


/-! The head of an engine's queue, and what leaves the queues of the engines as they are (spec 05, spec 08): O44. -/
namespace Sys2Proof.Laws.EngineQueues
open Sys2Proof Sys2Proof.Machine Sys2Proof.Laws Sys2Proof.Laws.Handles Sys2Proof.Laws.Directory Sys2Proof.Laws.MemoryReads

/-! ### Operations that leave every core -/

theorem cores_path (s : State) (g g' : Nat) : (s.path g g').2.cores = s.cores := by
  unfold State.path
  dsimp only
  split <;> rfl

theorem cores_toCore (s : State) (c c' : Nat) : (s.toCore c c').2.cores = s.cores := by
  unfold State.toCore
  split
  · rfl
  · exact cores_path _ _ _

theorem cores_trip (s : State) (core g : Nat) (back : Bool) : (s.trip core g back).2.cores = s.cores := by
  unfold State.trip
  dsimp only
  split
  · exact (cores_path _ _ _).trans (cores_path _ _ _)
  · exact cores_path _ _ _

theorem cores_trips (s : State) {α : Type} (one : State → α → List (Nat × Nat × Nat) × State) (ends : List α)
    (h : ∀ s e, (one s e).2.cores = s.cores) : (s.trips one ends).2.cores = s.cores := by
  unfold State.trips
  exact List.foldlRecOn (motive := fun q : List (List (Nat × Nat × Nat)) × State => q.2.cores = s.cores) ends _ rfl
    fun q hq e _ => (h q.2 e).trans hq

theorem cores_rowRoutes (s : State) (core : Nat) (c : Cmd) (j : Job) (r : Nat) : (s.rowRoutes core c j r).2.cores = s.cores := by
  unfold State.rowRoutes
  dsimp only
  split
  case h_1 => exact cores_trips s _ _ fun s d => cores_toCore s core d
  case h_2 => exact cores_trips s _ _ fun s d => cores_toCore s core d
  all_goals exact cores_trips s _ _ fun s g => cores_trip s core g _

theorem cores_askPage (s : State) (ctx page : Nat) : (s.askPage ctx page).cores = s.cores := by
  unfold State.askPage
  dsimp only
  split <;> rfl

theorem cores_askPool (s : State) (ctx size n : Nat) : (s.askPool ctx size n).cores = s.cores := by
  unfold State.askPool
  exact List.foldlRecOn (motive := fun t : State => t.cores = s.cores) _ _ rfl fun t ht k _ => (cores_askPage t ctx _).trans ht

theorem cores_countSymbol (s : State) (h : HbmPlace) : (s.countSymbol h).cores = s.cores := by
  unfold State.countSymbol
  dsimp only
  (repeat' split) <;> rfl

theorem cores_countSymbols (s : State) (f : Nat → Nat) (gs : List Nat) : (gs.foldl (fun s g => s.countSymbol (s.hbmPlace (f g))) s).cores = s.cores :=
  List.foldlRecOn (motive := fun t : State => t.cores = s.cores) _ _ rfl fun _ ht _ _ => (cores_countSymbol _ _).trans ht

theorem cores_correctAt (s : State) (a n : Nat) : (s.correctAt a n).cores = s.cores := by
  unfold State.correctAt
  split
  · exact cores_countSymbols (s.useBank a) (fun g => 64 * g - 2 ^ 41) _
  · rfl

theorem cores_store (s : State) (a n w : Nat) : (s.store a n w).cores = s.cores := by
  unfold State.store
  dsimp only
  split
  · rfl
  · exact cores_countSymbols _ (fun g => 64 * g - 2 ^ 41) _

theorem cores_newShadow (s : State) (node ctx i : Nat) (es : List Ext) (p src : Nat) : (s.newShadow node ctx i es p src).2.cores = s.cores := by
  unfold State.newShadow State.takePage
  dsimp only
  split <;> rfl

theorem cores_makeShadows (s : State) (node ctx v i : Nat) (es : List Ext) (ps : List Nat) : (s.makeShadows node ctx v i es ps).2.cores = s.cores := by
  unfold State.makeShadows
  refine List.foldlRecOn (motive := fun q : List PageCopy × State => q.2.cores = s.cores) _ _ rfl fun q hq p _ => ?_
  dsimp only
  split
  · exact hq
  · exact (cores_newShadow q.2 node ctx i es p ((q.2.resolvePage node ctx p v).getD 0)).trans hq

theorem cores_firstTouch (s : State) (c : Cmd) (j : Job) (ps : List Nat) : (s.firstTouch c j ps).2.cores = s.cores := by
  unfold State.firstTouch
  dsimp only
  split
  · split
    · rfl
    · exact cores_makeShadows ..
  · rfl

/-! ### The queue of one engine -/

/-- The queue of engine eng of a core. -/
def Waiting (core eng : Nat) (cs : List Cmd) (s : State) : Prop := ((s.getCore core).engine eng).queue = cs

section
variable {core eng : Nat} {cs : List Cmd} {s t : State}

theorem waiting_of_cores (h : t.cores = s.cores) (hw : Waiting core eng cs s) : Waiting core eng cs t := by
  rw [Waiting, State.getCore, h]
  exact hw

theorem waiting_ite {p : Prop} [Decidable p] (hs : Waiting core eng cs s) (ht : Waiting core eng cs t) : Waiting core eng cs (if p then s else t) := by
  split
  · exact hs
  · exact ht

theorem waiting_modCore (c : Nat) (f : Core → Core) (hf : ∀ k, ((f k).engine eng).queue = (k.engine eng).queue) (hw : Waiting core eng cs s) :
    Waiting core eng cs (s.modCore c f) := by
  by_cases e : c = core
  · subst e
    rw [Waiting, State.getCore_modCore, hf]
    exact hw
  · rw [Waiting, getCore_modCore_other _ _ (Ne.symm e)]
    exact hw

theorem queue_setEngine (k : Core) (e : Nat) (x : Engine) (h : x.queue = (k.engine e).queue) :
    ((k.setEngine e x).engine eng).queue = (k.engine eng).queue := by
  by_cases he : e = eng
  · subst he
    rw [engine_setEngine, h]
  · exact congrArg Engine.queue (mget_mset_other _ _ _ he)

theorem waiting_setRunning (c e : Nat) (r : Running) (hw : Waiting core eng cs s) : Waiting core eng cs (s.setRunning c e r) :=
  waiting_modCore c _ (fun k => queue_setEngine k e _ rfl) hw

theorem waiting_modRunning (c e : Nat) (f : Running → Running) (hw : Waiting core eng cs s) : Waiting core eng cs (s.modRunning c e f) := by
  unfold State.modRunning
  split
  · exact waiting_setRunning c e _ hw
  · exact hw

theorem waiting_walk (c ctx page : Nat) (hw : Waiting core eng cs s) : Waiting core eng cs (s.walk c ctx page) :=
  waiting_modCore c _ (fun _ => rfl) hw

theorem waiting_walkPages (c : Nat) (j : Job) (cmd : Cmd) (ps : List Nat) (hw : Waiting core eng cs s) : Waiting core eng cs (s.walkPages c j cmd ps) := by
  unfold State.walkPages
  split
  · exact List.foldlRecOn _ _ hw fun t ht p _ => waiting_walk _ _ p ht
  · exact hw

theorem waiting_stopDeck (n : Nat) (hw : Waiting core eng cs s) : Waiting core eng cs (s.stopDeck n) := by
  have hlease : Waiting core eng cs (s.dropLease n) := by
    have hcore := waiting_modCore (n / 4) (fun k : Core =>
      { k with leaseReq := k.leaseReq.filter (· != n % 4),
               leaseHolder := if k.leaseHolder = some (n % 4) then none else k.leaseHolder,
               arrayUsed := if k.leaseHolder = some (n % 4) then max k.arrayUsed s.clock else k.arrayUsed }) (fun _ => rfl) hw
    exact hcore
  exact hlease

theorem waiting_checkInst (i : Nat) (hw : Waiting core eng cs s) : Waiting core eng cs (s.checkInst i) := by
  unfold State.checkInst
  dsimp only
  split
  · refine List.foldlRecOn _ _ hw fun t ht n _ => ?_
    split
    · exact ht
    · split
      · exact waiting_stopDeck n ht
      · exact ht
  · exact hw

theorem waiting_copyPage (i : Nat) (c : PageCopy) (hw : Waiting core eng cs s) : Waiting core eng cs (s.copyPage i c) := by
  unfold State.copyPage
  dsimp only
  have hw₁ : Waiting core eng cs (if c.free = true then s else s.correctAt c.src pageBytes) := by
    split
    · exact hw
    · exact waiting_of_cores (cores_correctAt ..) hw
  generalize (if c.free = true then s else s.correctAt c.src pageBytes) = s₁ at hw₁ ⊢
  split
  · exact waiting_of_cores (cores_store ..) (by split <;> exact hw₁)
  · exact waiting_checkInst i (waiting_of_cores (cores_store ..) (by split <;> exact hw₁))

theorem waiting_touchShadows (c : Cmd) (j : Job) (ps : List Nat) (hw : Waiting core eng cs s) : Waiting core eng cs (s.touchShadows c j ps) := by
  unfold State.touchShadows
  exact List.foldlRecOn _ _ (waiting_of_cores (cores_firstTouch s c j ps) hw) fun t ht p _ => waiting_copyPage _ p ht

theorem waiting_postRow (c e r : Nat) (hw : Waiting core eng cs s) : Waiting core eng cs (s.postRow c e r) := by
  unfold State.postRow
  split
  · dsimp only
    refine waiting_of_cores (State.carry_frame _ _ _ _ _).2.2.1 (waiting_modRunning c e _ (waiting_of_cores (cores_rowRoutes ..) hw))
  · exact hw

theorem waiting_startRow (c e : Nat) (q : Running) (j : Job) (r : Nat) (hw : Waiting core eng cs s) : Waiting core eng cs (s.startRow c e q j r) := by
  unfold State.startRow
  have hpost := waiting_postRow (core := core) (eng := eng) (cs := cs) (s := s) c e r hw
  split
  case h_1 | h_2 => exact hw
  case h_3 | h_4 | h_5 | h_6 | h_7 =>
    split
    · exact hpost
    · exact hw
  case h_8 => exact waiting_postRow c e r (waiting_of_cores rfl hw)
  all_goals exact hpost

theorem waiting_standAt (c e p : Nat) (q : Running) (hw : Waiting core eng cs s) : Waiting core eng cs (s.standAt c e p q) :=
  waiting_setRunning c e _ (waiting_of_cores (cores_askPage ..) hw)

theorem waiting_launchRows (c e : Nat) (j : Job) : ∀ (rs : List Nat) (s : State) (q : Running), Waiting core eng cs s →
    Waiting core eng cs (s.launchRows c e j q rs)
  | [], _, _, hw => waiting_setRunning c e _ hw
  | r :: rs, s, q, hw => by
    unfold State.launchRows
    dsimp only
    split
    · exact waiting_setRunning c e _ hw
    · split
      · exact waiting_standAt c e _ _ hw
      · split
        · exact waiting_setRunning c e _ (waiting_of_cores (cores_askPool ..) hw)
        · exact waiting_launchRows c e j rs _ _ (waiting_startRow c e q j r (waiting_walkPages c j q.cmd _ (waiting_touchShadows q.cmd j _ hw)))

/-- The rows of a gather that are not passed over get under way one after the other. -/
theorem waiting_gatherRows (c e : Nat) (j : Job) (pass : State × Running → Nat → Bool) (rows : List Nat) (acc : State × Running)
    (hw : Waiting core eng cs acc.1) : Waiting core eng cs (rows.foldl (fun (acc : State × Running) r => if pass acc r then acc
      else (acc.1.startRow c e acc.2 j r, { acc.2 with todo := acc.2.todo.filter (· != r), launched := acc.2.launched ++ [r] })) acc).1 := by
  refine List.foldlRecOn (motive := fun acc : State × Running => Waiting core eng cs acc.1) _ _ hw fun acc hacc r _ => ?_
  split
  · exact hacc
  · exact waiting_startRow c e acc.2 j r hacc

theorem waiting_launchGather (c e : Nat) (j : Job) (q : Running) (hw : Waiting core eng cs s) : Waiting core eng cs (s.launchGather c e j q) := by
  unfold State.launchGather
  dsimp only
  generalize List.find? _ _ = stop
  cases stop with
  | none => exact waiting_setRunning c e _ (waiting_gatherRows c e j _ _ _ (waiting_walkPages c j q.cmd _ hw))
  | some p =>
    dsimp only
    split
    · refine waiting_setRunning c e _ (waiting_gatherRows c e j _ _ _ ?_)
      exact waiting_walkPages c j q.cmd _ hw
    · refine waiting_standAt c e p _ (waiting_gatherRows c e j _ _ _ ?_)
      exact waiting_walkPages c j q.cmd _ hw

theorem waiting_launch (c e : Nat) (hw : Waiting core eng cs s) : Waiting core eng cs (s.launch c e) := by
  unfold State.launch
  split
  · dsimp only
    split
    · exact waiting_launchGather c e _ _ hw
    · exact waiting_launchRows c e _ _ _ _ hw
  · exact hw

/-- A change of every listed core that leaves the queues of its engines. -/
theorem queue_mapCores (g : Nat × Core → Core) (hg : ∀ p, ((g p).engine eng).queue = (p.2.engine eng).queue) (c : Nat) : ∀ m : Map Core,
    ((mget Core.reset (m.map fun p => (p.1, g p)) c).engine eng).queue = ((mget Core.reset m c).engine eng).queue
  | [] => rfl
  | (a, k) :: m => by
    rw [List.map_cons, mget, mget]
    split
    · exact hg (a, k)
    · exact queue_mapCores g hg c m

theorem waiting_endCommand (c e : Nat) (hw : Waiting core eng cs s) : Waiting core eng cs (s.endCommand c e) := by
  unfold State.endCommand
  dsimp only
  split
  · exact hw
  · refine (queue_mapCores (fun p => { p.2 with pendBits := p.2.pendBits.filter fun g => g.2 != pendMark c e p.1 }) (fun _ => rfl) core _).trans ?_
    refine waiting_modCore c _ (fun k => ?_) hw
    have hend := queue_setEngine (eng := eng) (k.dropLocks e) e { k.engine e with cur := none, freeAt := s.clock } rfl
    split <;> exact hend

theorem waiting_settleFault (c e : Nat) (hw : Waiting core eng cs s) : Waiting core eng cs (s.settleFault c e) := by
  unfold State.settleFault
  have hset := fun q : Running => waiting_setRunning (core := core) (eng := eng) (cs := cs) (s := s) c e q hw
  split
  · exact hw
  · dsimp only
    split
    · exact hw
    · split
      · exact hw
      · split
        · exact hset _
        · split
          · exact hset _
          · split
            · exact waiting_setRunning c e _ (hset _)
            · split
              · exact waiting_endCommand c e (hset _)
              · exact waiting_endCommand c e (hset _)

/-- The reads that a leaving command schedules. -/
theorem waiting_reads (rs : List Nat) (f : State → Nat → State) (hf : ∀ s r, (f s r).cores = s.cores) (hw : Waiting core eng cs s) :
    Waiting core eng cs (rs.foldl f s) :=
  List.foldlRecOn _ _ hw fun t ht r _ => waiting_of_cores (hf t r) ht

end

/-! ### The head of the queue -/

/-- A head that may leave leaves. -/
theorem waiting_engineLeave {core eng : Nat} {s : State} {ev : Instr} {c : Cmd} {rest : List Cmd} (hq : ((s.getCore core).engine eng).queue = c :: rest)
    (hready : s.leaveReady core eng = true) (hev : s.headLeaves core eng = some ev) : Waiting core eng rest (s.engineLeave core eng ev) := by
  unfold State.engineLeave
  rw [if_neg (by simp [hready, hev]), hq]
  dsimp only
  have hset : ∀ (k : Core) (q : Running), Waiting core eng rest (s.setCore core (k.setEngine eng
      { k.engine eng with queue := rest, headAt := s.clock, cur := some q, acking := [] })) := fun k q => by
    rw [Waiting, State.getCore_setCore, engine_setEngine]
  refine waiting_ite ?_ ?_
  · refine waiting_modCore core _ (fun k => ?_) (hset _ _)
    exact queue_setEngine k eng _ rfl
  · refine waiting_settleFault core eng (waiting_launch core eng ?_)
    refine waiting_reads _ _ (fun t r => ?_) ?_
    case refine_2 => exact hset _ _
    split
    · rfl
    · split <;> rfl
    · split <;> rfl

theorem engine_acquire (k : Core) (rel : Map Nat) (e : Nat) : (k.acquire rel).engine e = k.engine e := by
  unfold Core.acquire
  split <;> rfl

theorem sem_acquire (k : Core) (rel : Map Nat) (n : Nat) : (k.acquire rel).sem n = k.sem n := by
  unfold Core.acquire
  split <;> rfl

theorem sem_setEngine (k : Core) (e : Nat) (x : Engine) (n : Nat) : (k.setEngine e x).sem n = k.sem n := rfl

/-- A wait that is taken is marked on the head of the queue, and a consuming one takes the target from its semaphore (R168). -/
theorem takeWait_core {core eng : Nat} {s : State} {c : Cmd} {rest : List Cmd} (hq : ((s.getCore core).engine eng).queue = c :: rest) :
    (((s.takeWait core eng).getCore core).engine eng).queue = { c with waited := true } :: rest ∧
      (((s.takeWait core eng).getCore core).sem (c.f 56 6)).value = if c.f 62 1 = 1 then ((s.getCore core).sem (c.f 56 6)).value - ((s.getCore core).sem (c.f 56 6)).target
        else ((s.getCore core).sem (c.f 56 6)).value := by
  rw [State.takeWait, State.getCore_modCore]
  dsimp only
  rw [hq]
  dsimp only
  rw [engine_acquire, sem_acquire, engine_setEngine, sem_setEngine]
  refine ⟨rfl, ?_⟩
  split
  · exact congrArg Sem.value (Waits.sem_setSem _ _ _)
  · rfl

/-- Settles O44: every event in which a command leaves is `engineLeave`, and the wait is `takeWait`. -/
theorem commandsLeave : Obligations.CommandsLeave := by
  refine ⟨fun core eng s ev c rest hmem hq hready hev => ?_, fun core eng s c rest hq => ?_⟩
  · have hleave := waiting_engineLeave hq hready hev
    refine ⟨s.engineLeave core eng ev, ?_, hleave⟩
    rcases hmem with h | ⟨rfl, rfl⟩ | ⟨rfl, h⟩
    · simp only [List.mem_cons, List.not_mem_nil, or_false] at h
      rcases h with rfl | rfl | rfl | rfl | rfl | rfl | rfl | rfl | rfl <;> rfl
    · rfl
    · simp only [List.mem_cons, List.not_mem_nil, or_false] at h
      rcases h with rfl | rfl | rfl | rfl | rfl | rfl | rfl <;> rfl
  · obtain ⟨hqueue, hvalue⟩ := takeWait_core hq
    exact ⟨hqueue, hvalue, rfl, rfl⟩

end Sys2Proof.Laws.EngineQueues


/-! Rows of a remote copy, resumed commands and held entries (spec 05, spec 08): O45. -/
namespace Sys2Proof.Laws.EngineRows
open Sys2Proof Sys2Proof.Machine Sys2Proof.Laws Sys2Proof.Laws.Handles Sys2Proof.Laws.Directory Sys2Proof.Laws.MemoryReads Sys2Proof.Laws.EngineQueues

/-- A row of a remote copy that comes in for another core schedules its write there. -/
theorem rowIn_remote (s : State) (core eng r : Nat) (q : Running) {c : Nat} (dst : Nat) (data : Option Image) (tag : Tag) (h : c ≠ core) :
    let t := s.rowIn core eng r q c dst data tag
    ∃ m, t.micro = s.micro ++ [m] ∧ m.at_ = s.clock ∧ m.core = c ∧ m.act = .engWrite core eng r dst data (some tag) ∧ t.mem = s.mem := by
  unfold State.rowIn
  dsimp only
  rw [if_neg h]
  split <;> exact ⟨_, rfl, rfl, rfl, rfl, rfl⟩

theorem perform_remote {s : State} {core eng r dstCore d src tag : Nat} {q : Running} {img : Image} (hq : s.running core eng = some q)
    (hl : q.launched = [r]) (hj : q.cmd.job eng (s.getCore core) = .remote dstCore d src) (hgot : q.got = [(r, img, 2 * tag)])
    (hrec : s.receivable q [(dstCore, d + r)] = true) (hway : s.rowUnderWay core eng r = false) (hpow : (s.getCore core).power.cur = 0) :
    exec (.engineRowPerform core eng r) s = .next (s.rowIn core eng r q dstCore (d + r) (some img) (BitVec.ofNat 5 tag)) := by
  change execEngineRowPerform core eng r s = _
  unfold execEngineRowPerform
  rw [hq]
  dsimp only
  rw [if_neg (by simp [hl, hway]), if_neg (by simp [hpow]), hj]
  have hblocks : s.rowBlocks core q.cmd (.remote dstCore d src) r = [] := rfl
  rw [hblocks, if_neg (by simp [State.mustQueue])]
  unfold State.performRow
  rw [hj]
  dsimp only
  have hdests : (Job.remote dstCore d src).dests core r = [(dstCore, d + r)] := rfl
  rw [hdests, hrec, if_neg (by decide), hgot]
  simp

theorem rq_pushRq (s : State) (n q : Nat) (data : Image) (tag : Tag) :
    mget [] ((s.pushRq n q data tag).getDeck n).rq q = mget [] (s.getDeck n).rq q ++ [⟨s.seq, data, tag, true, false⟩] := by
  have hdeck := State.getDeck_modDeck s n fun d => { d with rq := mset [] d.rq q (mget [] d.rq q ++ [⟨s.seq, data, tag, true, false⟩]) }
  exact (congrArg (fun d : Deck => mget [] d.rq q) hdeck).trans (mget_mset_same _ _ _ _)

theorem getCore_pushRq (s : State) (n q : Nat) (data : Image) (tag : Tag) (c : Nat) : (s.pushRq n q data tag).getCore c = s.getCore c := rfl

/-! ### The last row of a command performs -/

/-- Two states with the same memory and, core by core, the same states of rows. -/
def SameRows (s t : State) : Prop := t.mem = s.mem ∧ ∀ c, (t.getCore c).rows = (s.getCore c).rows

theorem sameRows_refl (s : State) : SameRows s s := ⟨rfl, fun _ => rfl⟩

theorem SameRows.trans {s t u : State} (h : SameRows s t) (h' : SameRows t u) : SameRows s u := by
  obtain ⟨hmem, hrows⟩ := h
  obtain ⟨hmem', hrows'⟩ := h'
  exact ⟨hmem'.trans hmem, fun c => (hrows' c).trans (hrows c)⟩

theorem sameRows_modCore (s : State) (c : Nat) (f : Core → Core) (hf : ∀ k, (f k).rows = k.rows) : SameRows s (s.modCore c f) := by
  refine ⟨rfl, fun d => ?_⟩
  by_cases e : d = c
  · subst e
    rw [State.getCore_modCore, hf]
  · rw [getCore_modCore_other _ _ e]

theorem sameRows_awaitAck (s : State) (core eng r sentAt : Nat) (c : Cmd) (j : Job) : SameRows s (s.awaitAck core eng r sentAt c j) := by
  unfold State.awaitAck
  split
  · exact sameRows_refl s
  · dsimp only
    split
    · refine SameRows.trans ?_ (sameRows_modCore _ core _ fun _ => rfl)
      have hcores := cores_path { s with free := s.free + 1 }
      have hmem := State.mem_path { s with free := s.free + 1 }
      exact ⟨hmem _ _, fun c => congrArg (fun m => (mget Core.reset m c).rows) (hcores _ _)⟩
    · exact SameRows.trans ⟨rfl, fun _ => rfl⟩ (sameRows_modCore _ core _ fun _ => rfl)

/-- The last row of a command is done: the engine is free, memory and the rows are as they were. -/
theorem rowDone_last {s : State} {core eng r : Nat} {q : Running} (hq : s.running core eng = some q) (hl : q.launched = [r]) (ht : q.todo = []) :
    SameRows s (s.rowDone core eng r) ∧ (((s.rowDone core eng r).getCore core).engine eng).cur = none := by
  unfold State.rowDone
  rw [hq]
  dsimp only
  rw [hl, ht]
  rw [if_pos (by simp)]
  refine ⟨SameRows.trans ?_ (sameRows_modCore _ core _ fun _ => rfl), ?_⟩
  · refine List.foldlRecOn (motive := fun t => SameRows s t) _ _ (sameRows_awaitAck ..) fun t ht d _ => ?_
    split
    · exact ht
    · exact ht.trans (sameRows_modCore _ _ _ fun _ => rfl)
  · rw [State.getCore_modCore, engine_setEngine]

/-! ### A write of a whole row that an engine performs -/

theorem performFrom_whole (s : State) (src c n : Nat) (data : Image) (tag : Option Tag) :
    (((s.performFrom src c n wholeMask data tag).getCore c).row n).st = .valid := by
  unfold State.performFrom
  dsimp only
  rw [State.getCore_modCore, if_pos rfl]
  have hrow := fun k : Core => congrArg RowMeta.st (row_wholeWrite k n)
  cases tag with
  | none => split <;> exact hrow _
  | some t =>
    dsimp only
    split
    · exact hrow _
    · exact hrow _

theorem performFrom_rest (s : State) (src c n : Nat) (mask : BitVec 512) (data : Image) (tag : Option Tag) :
    let t := s.performFrom src c n mask data tag
    t.mem = Memory.write s.mem (storeBase c + 512 * n) 512 ((s.rowImage c n &&& ~~~byteBits mask) ||| (data &&& byteBits mask)).toNat ∧
      t.micro = s.micro ∧ ∀ d, (t.getCore d).engines = (s.getCore d).engines := by
  unfold State.performFrom
  dsimp only
  refine ⟨congrArg (fun m => Memory.write m _ _ _) (State.mem_countErrors ..), ?_, fun d => ?_⟩
  · unfold State.countErrors
    split <;> rfl
  · by_cases e : d = c
    · subst e
      rw [State.getCore_modCore]
      have hcount := fun n => congrArg Core.engines (getCore_countErrors s (d / 8) n d)
      cases tag <;> (repeat' split) <;> exact hcount _
    · rw [getCore_modCore_other _ _ e]
      exact congrArg Core.engines (getCore_countErrors s (c / 8) _ d)

theorem performFrom_byte {s : State} (h : s.mem.wf = true) (src c n : Nat) (data : Image) (tag : Option Tag) {o : Nat} (ho : o < 512) :
    (s.performFrom src c n wholeMask data tag).mem.byte (storeBase c + 512 * n + o) = data.extractLsb' (8 * o) 8 := by
  have hbyte := performWrite_byte h c n wholeMask data ho
  rw [State.performWrite, (performFrom_rest s c c n wholeMask data none).1] at hbyte
  rw [(performFrom_rest s src c n wholeMask data tag).1]
  exact hbyte.trans (if_pos (by rw [show wholeMask = BitVec.allOnes 512 from rfl, BitVec.getLsbD_allOnes]; exact decide_eq_true ho))

theorem cur_modCore {s : State} {core eng : Nat} {q : Option Running} (c : Nat) (f : Core → Core) (hf : ∀ k, (f k).engines = k.engines)
    (h : s.running core eng = q) : (s.modCore c f).running core eng = q := by
  rw [State.running, Core.engine]
  by_cases e : core = c
  · subst e
    rw [State.getCore_modCore, hf]
    exact h
  · rw [getCore_modCore_other _ _ e]
    exact h

theorem putRow_data {s : State} {core eng : Nat} {q : Running} (hq : s.running core eng = some q) (c row : Nat) (img : Image) (tag : Tag) :
    ∃ (u : State) (p : Tag) (tg : Option Tag) (q' : Running), s.putRow core eng c row (some img) (some tag) = u.performFrom core c row wholeMask (packRow p img) tg ∧
      u.micro = s.micro ∧ u.mem = s.mem ∧ u.running core eng = some q' ∧ q'.launched = q.launched ∧ q'.todo = q.todo := by
  unfold State.putRow
  rw [hq]
  dsimp only
  refine ⟨_, _, _, { q with tagged := if q.tagged.contains (c * 4096 + row / 32) then q.tagged else q.tagged ++ [c * 4096 + row / 32] }, rfl, rfl, rfl, ?_, rfl, rfl⟩
  refine cur_modCore c _ (fun _ => rfl) ?_
  rw [State.running, State.setRunning, State.getCore_modCore, engine_setEngine]

/-- A whole row that performs as the last of its command: its bytes, its state, and the engine free. -/
theorem engWrite_last {s : State} {m : Micro} {core eng r dst : Nat} {q : Running} {img : Image} {tag : Tag} (hq : s.running core eng = some q)
    (hl : q.launched = [r]) (htodo : q.todo = []) (hmicro : s.micro = []) (hact : m.act = .engWrite core eng r dst (some img) (some tag)) :
    let t := s.performMicro m
    t = ((s.putRow core eng m.core dst (some img) (some tag)).rowDone core eng r) ∧ ((t.getCore m.core).row dst).st = .valid ∧
      ((t.getCore core).engine eng).cur = none ∧
      (s.mem.wf = true → ∀ o, o < 511 → t.mem.byte (storeBase m.core + 512 * dst + o) = img.extractLsb' (8 * o) 8) := by
  obtain ⟨u, p, tg, q', hput, humicro, humem, hrun, hl', htodo'⟩ := putRow_data hq m.core dst img tag
  obtain ⟨hmem, hpmicro, hengines⟩ := performFrom_rest u core m.core dst wholeMask (packRow p img) tg
  intro t
  have ht : t = (s.putRow core eng m.core dst (some img) (some tag)).rowDone core eng r := by
    simp only [t, State.performMicro, hact, State.engPerform]
    rw [hput, hpmicro, humicro, hmicro]
    rfl
  refine ⟨ht, ?_⟩
  rw [ht, hput]
  have hrun' : (u.performFrom core m.core dst wholeMask (packRow p img) tg).running core eng = some q' := by
    rw [State.running, Core.engine, hengines]
    exact hrun
  obtain ⟨⟨hdmem, hdrows⟩, hcur⟩ := rowDone_last hrun' (hl'.trans hl) (htodo'.trans htodo)
  refine ⟨?_, hcur, fun hwf o ho => ?_⟩
  · rw [Core.row, hdrows]
    exact performFrom_whole u core m.core dst (packRow p img) tg
  · rw [hdmem, performFrom_byte (humem ▸ hwf) core m.core dst (packRow p img) tg (by omega), packRow_byte p img (by omega), if_neg (by omega)]

/-- Settles O45: the row that comes in, the row that performs last, the command that goes on, the entry that enters. -/
theorem engineEvents : Obligations.EngineEvents := by
  refine ⟨fun s core eng r dstCore d src q img tag hq hl htodo hj hgot hrec hfault hne hway hpow => ?_, ?_, fun s core eng hres => ?_,
    fun s core eng x rest hheld hroom => ?_⟩
  · obtain ⟨m, hmicro, hat, hcore, hact, hmem⟩ := rowIn_remote s core eng r q (d + r) (some img) (BitVec.ofNat 5 tag) hne
    exact ⟨_, m, perform_remote hq hl hj hgot hrec hway hpow, hmicro, hat, hcore, hact, hmem⟩
  · intro s m core eng r dst q img tag hq hl htodo _ _ hmicro hact
    exact engWrite_last hq hl htodo hmicro hact
  · change execEngineCommandResume core eng s = _
    unfold execEngineCommandResume
    rw [if_neg (by simp [hres])]
  · change ∃ (t : State) (e : QEntry), execHeldQueueEntryEnter core eng s = _ ∧ _
    have hfind : ((s.getCore core).engine eng).held.find? (fun h => (s.getDeck h.deck).rqRoom h.q) = some x := by
      rw [hheld]
      exact List.find?_cons_of_pos (decide_eq_true hroom)
    unfold execHeldQueueEntryEnter
    dsimp only
    rw [hfind]
    dsimp only
    refine ⟨_, ⟨s.seq, x.data, x.tag, true, false⟩, rfl, ?_, ?_, rfl, rfl, rfl, rfl⟩
    · rw [getCore_pushRq, State.getCore_modCore, engine_setEngine, hheld]
      exact List.erase_cons_head x rest
    · exact rq_pushRq _ _ _ _ _

end Sys2Proof.Laws.EngineRows


/-! What scalar, predicate and vector instructions leave as it is (spec 07, spec 09): O18. -/
namespace Sys2Proof.Laws.VectorFrames
open Sys2Proof Sys2Proof.Machine Sys2Proof.Laws

/-! ### Results in flight -/

/-- From s to t only the issuing deck's queues, its generator, its results in flight and the stall marks of the issue may change; a new result lands later. -/
structure VectorFrame (s t : State) : Prop where
  device : s.SameDevice t
  others : s.OtherDecks t s.dn
  deck : { t.dk with latches := s.dk.latches, oq := s.dk.oq, rq := s.dk.rq, lfsr := s.dk.lfsr } = s.dk
  issue : t.issue = { s.issue with stall := t.issue.stall, waitOther := t.issue.waitOther }
  latches : ∃ new, t.dk.latches = s.dk.latches ++ new ∧ ∀ r ∈ new, s.clock < r.land

/-- Not even the queues and the generator change. -/
structure ScalarFrame (s t : State) : Prop where
  device : s.SameDevice t
  others : s.OtherDecks t s.dn
  deck : s.dk.OnlyResults t.dk
  issue : t.issue = { s.issue with stall := t.issue.stall }
  latches : ∃ new, t.dk.latches = s.dk.latches ++ new ∧ ∀ r ∈ new, s.clock < r.land

theorem SameDevice.trans {s t u : State} (h : s.SameDevice t) (h' : t.SameDevice u) : s.SameDevice u := by
  obtain ⟨a, b, c, d, e, f, g, i, j, k, l, m, n⟩ := h
  obtain ⟨a', b', c', d', e', f', g', i', j', k', l', m', n'⟩ := h'
  exact ⟨a'.trans a, b'.trans b, c'.trans c, d'.trans d, e'.trans e, f'.trans f, g'.trans g, i'.trans i, j'.trans j, k'.trans k, l'.trans l, m'.trans m,
    n'.trans n⟩

theorem latches_trans {s t u : State} (hc : t.clock = s.clock) (h : ∃ new, t.dk.latches = s.dk.latches ++ new ∧ ∀ r ∈ new, s.clock < r.land)
    (h' : ∃ new, u.dk.latches = t.dk.latches ++ new ∧ ∀ r ∈ new, t.clock < r.land) :
    ∃ new, u.dk.latches = s.dk.latches ++ new ∧ ∀ r ∈ new, s.clock < r.land := by
  obtain ⟨l, hl, hlate⟩ := h
  obtain ⟨l', hl', hlate'⟩ := h'
  refine ⟨l ++ l', by rw [hl', hl, List.append_assoc], fun r hr => ?_⟩
  rcases List.mem_append.1 hr with hr | hr
  · exact hlate r hr
  · exact hc ▸ hlate' r hr

section
variable {s t u : State}

theorem clock_eq (h : s.SameDevice t) : t.clock = s.clock := by
  obtain ⟨-, -, -, -, -, -, hclock, -⟩ := h
  exact hclock

theorem ScalarFrame.refl (s : State) : ScalarFrame s s :=
  ⟨⟨rfl, rfl, rfl, rfl, rfl, rfl, rfl, rfl, rfl, rfl, rfl, rfl, rfl⟩, fun _ _ => rfl, rfl, rfl, [], (List.append_nil _).symm, fun _ h => absurd h List.not_mem_nil⟩

theorem ScalarFrame.trans (h : ScalarFrame s t) (h' : ScalarFrame t u) : ScalarFrame s u := by
  have hdn : t.dn = s.dn := (congrArg Issue.deck h.issue :)
  refine ⟨SameDevice.trans h.device h'.device, fun m hm => (h'.others m (hdn ▸ hm)).trans (h.others m hm), ?_, ?_,
    latches_trans (clock_eq h.device) h.latches h'.latches⟩
  · exact (congrArg (fun d : Deck => { d with latches := s.dk.latches }) h'.deck).trans h.deck
  · exact h'.issue.trans (congrArg (fun i : Issue => { i with stall := u.issue.stall }) h.issue)

theorem VectorFrame.trans (h : VectorFrame s t) (h' : VectorFrame t u) : VectorFrame s u := by
  have hdn : t.dn = s.dn := (congrArg Issue.deck h.issue :)
  refine ⟨SameDevice.trans h.device h'.device, fun m hm => (h'.others m (hdn ▸ hm)).trans (h.others m hm), ?_, ?_,
    latches_trans (clock_eq h.device) h.latches h'.latches⟩
  · exact (congrArg (fun d : Deck => { d with latches := s.dk.latches, oq := s.dk.oq, rq := s.dk.rq, lfsr := s.dk.lfsr }) h'.deck).trans h.deck
  · exact h'.issue.trans (congrArg (fun i : Issue => { i with stall := u.issue.stall, waitOther := u.issue.waitOther }) h.issue)

theorem ScalarFrame.vector (h : ScalarFrame s t) : VectorFrame s t := by
  refine ⟨h.device, h.others, ?_, ?_, h.latches⟩
  · have hd := h.deck
    have hq : t.dk.oq = s.dk.oq ∧ t.dk.rq = s.dk.rq ∧ t.dk.lfsr = s.dk.lfsr := ⟨(congrArg Deck.oq hd :), (congrArg Deck.rq hd :), (congrArg Deck.lfsr hd :)⟩
    rw [← hq.1, ← hq.2.1, ← hq.2.2]
    exact hd
  · have hw : t.issue.waitOther = s.issue.waitOther := (congrArg Issue.waitOther h.issue :)
    rw [hw]
    exact h.issue

/-- A change of the issuing deck alone, in what a vector instruction may change. -/
theorem VectorFrame.of_modDk (f : Deck → Deck) (hf : { f s.dk with oq := s.dk.oq, rq := s.dk.rq, lfsr := s.dk.lfsr } = s.dk) : VectorFrame s (s.modDk f) := by
  have hdk : (s.modDk f).dk = f s.dk := State.dk_modDk s f
  refine ⟨⟨rfl, rfl, rfl, rfl, rfl, rfl, rfl, rfl, rfl, rfl, rfl, rfl, rfl⟩, fun m hm => mget_mput_other _ _ _ (Ne.symm hm), ?_, rfl, [], ?_,
    fun _ h => absurd h List.not_mem_nil⟩
  · rw [hdk]
    exact (congrArg (fun d : Deck => { d with latches := s.dk.latches }) hf :)
  · rw [hdk, List.append_nil]
    exact (congrArg Deck.latches hf :)

theorem addLatch_frame (s : State) (l : Latch) (hl : s.clock < l.land) : ScalarFrame s (s.addLatch s.dn l) := by
  have hdk : (s.addLatch s.dn l).dk = { s.dk with latches := s.dk.latches ++ [{ l with seq := s.seq }] } :=
    State.dk_modDk s fun d => { d with latches := d.latches ++ [{ l with seq := s.seq }] }
  refine ⟨⟨rfl, rfl, rfl, rfl, rfl, rfl, rfl, rfl, rfl, rfl, rfl, rfl, rfl⟩, fun m hm => mget_mput_other _ _ _ (Ne.symm hm), ?_, rfl,
    [{ l with seq := s.seq }], by rw [hdk], fun r hr => ?_⟩
  · rw [hdk]
  · rw [List.mem_singleton.1 hr]
    exact hl

theorem stalled_frame (s : State) : ScalarFrame s s.stalled :=
  ⟨⟨rfl, rfl, rfl, rfl, rfl, rfl, rfl, rfl, rfl, rfl, rfl, rfl, rfl⟩, fun _ _ => rfl, rfl, rfl, [], (List.append_nil _).symm, fun _ h => absurd h List.not_mem_nil⟩

theorem stalledOther_frame (s : State) : VectorFrame s s.stalledOther :=
  ⟨⟨rfl, rfl, rfl, rfl, rfl, rfl, rfl, rfl, rfl, rfl, rfl, rfl, rfl⟩, fun _ _ => rfl, rfl, rfl, [], (List.append_nil _).symm, fun _ h => absurd h List.not_mem_nil⟩

theorem result_frame (s : State) (h : Hd) {lat : Nat} (hl : 0 < lat) (dest : Dest) (mask : Pred) (data : Image) (tag : Tag) :
    ScalarFrame s (s.result h lat dest mask data tag) := addLatch_frame s _ (Nat.lt_add_of_pos_right hl)

theorem writeX_frame (s : State) (h : Hd) {lat : Nat} (hl : 0 < lat) (r : BitVec 6) (v : Word) : ScalarFrame s (s.writeX h lat r v) := by
  unfold State.writeX
  split
  · exact .refl s
  · exact result_frame s h hl _ _ _ _

theorem writeP_frame (s : State) (h : Hd) {lat : Nat} (hl : 0 < lat) (r : BitVec 5) (v : Pred) : ScalarFrame s (s.writeP h lat r v) := by
  unfold State.writeP
  split
  · exact .refl s
  · exact result_frame s h hl _ _ _ _

theorem scalar_frame (s : State) (h : Hd) (rs : List (BitVec 6)) (f : State → State) (hf : ScalarFrame s (f s)) : ScalarFrame s (s.scalar h rs f) := by
  unfold State.scalar
  split
  · split
    · exact stalled_frame s
    · exact hf
  · exact .refl s

end

/-! ### Scalar instructions -/

theorem alu_frame (s : State) (h : Hd) {lat : Nat} (hl : 0 < lat) (b : XRR) (f : Word → Word → Word) : ScalarFrame s (s.alu h lat b f) :=
  scalar_frame s h _ _ (writeX_frame s h hl _ _)

theorem aluImm_frame (s : State) (h : Hd) (b : XI) (f : Word → Word → Word) : ScalarFrame s (s.aluImm h b f) :=
  scalar_frame s h _ _ (writeX_frame s h Nat.one_pos _ _)

theorem compare_frame (s : State) (h : Hd) (pd pe : BitVec 5) (comb : Nat) (c : Bool) : ScalarFrame s (s.compare h pd pe comb c) :=
  (writeP_frame s h Nat.two_pos _ _).trans (writeP_frame _ h Nat.two_pos _ _)

theorem next_frame {P : State → State → Prop} {s t u : State} (hu : P s u) (h : Host.Outcome.next u = (Host.Outcome.next t : Out)) : P s t := by
  injection h with h
  exact h ▸ hu

/-! ### Traps -/

theorem issue_checkInst (s : State) (i : Nat) : (s.checkInst i).issue = s.issue := by
  unfold State.checkInst
  dsimp only
  split
  · refine List.foldlRecOn (motive := fun t : State => t.issue = s.issue) _ _ rfl fun t ht n _ => ?_
    (repeat' split) <;> exact ht
  · rfl

theorem issue_squashFrom (s : State) (n : Nat) (r : Option Revoc) : (s.squashFrom n r).1.issue = s.issue := by
  unfold State.squashFrom
  split <;> rfl

theorem issue_endCommand (s : State) (c e : Nat) : (s.endCommand c e).issue = s.issue := by
  unfold State.endCommand
  dsimp only
  split <;> rfl

theorem issue_engineTrapTaken (s : State) (n : Nat) (p : Option Pending) : (s.engineTrapTaken n p).issue = s.issue := by
  unfold State.engineTrapTaken State.engineFaultTaken
  split
  · dsimp only
    split
    · rfl
    · exact issue_endCommand _ _ _
  · rfl

theorem issue_ite {p : Prop} [Decidable p] {s t : State} {i : Issue} (hs : s.issue = i) (ht : t.issue = i) : (if p then s else t).issue = i := by
  split
  · exact hs
  · exact ht

theorem issue_startFrame (s : State) (n b : Nat) (rows : List Image) (opens : List OpenRow) : (s.startFrame n b rows opens).issue = s.issue := rfl

theorem issue_enterTrap (s : State) (n : Nat) : (s.enterTrap n).issue = s.issue := by
  unfold State.enterTrap
  dsimp only
  cases (s.getDeck n).trapWait with
  | none => rfl
  | some w =>
    refine issue_ite rfl ((issue_startFrame _ _ _ _ _).trans (issue_ite ((issue_engineTrapTaken _ _ _).trans ?_) ?_))
    · exact issue_squashFrom _ _ _
    · exact issue_squashFrom _ _ _

theorem issue_takeTrap (s : State) (n : Nat) (t : Trap) : (s.takeTrap n t).issue = s.issue := by
  unfold State.takeTrap
  dsimp only
  split
  · unfold State.checkDeck
    dsimp only
    split
    · exact issue_checkInst _ _
    · rfl
  · exact issue_enterTrap _ _

theorem raise_raised (s : State) (h : Hd) (cause detail : Nat) (addr : Word) : (s.raise h cause detail addr).issue.raised ≠ none := by
  rw [State.raise, State.raiseInfo]
  rw [issue_takeTrap]
  exact Option.some_ne_none _

/-! ### Vector forms -/

/-- A step that either raises a trap or keeps the frame of a vector instruction. -/
def Quiet (s t : State) : Prop := t.issue.raised = none → VectorFrame s t

theorem quiet_raise (s : State) (h : Hd) (cause detail : Nat) (addr : Word) : Quiet s (s.raise h cause detail addr) :=
  fun hr => absurd hr (raise_raised s h cause detail addr)

theorem quiet_ite {p : Prop} [Decidable p] {s t u : State} (ht : VectorFrame s t) (hu : Quiet s u) : Quiet s (if p then t else u) := by
  split
  · exact fun _ => ht
  · exact hu

theorem setDk_frame {s : State} {ns : List Nat} {vs : List VReg} {d : Deck} (h : s.dk.takeAll ns = .inr (vs, d)) : VectorFrame s (s.setDk d) := by
  refine VectorFrame.of_modDk (fun _ => d) ?_
  obtain ⟨hd, -⟩ := Deck.takeAll_queues h
  exact (congrArg (fun d : Deck => { d with oq := s.dk.oq, rq := s.dk.rq, lfsr := s.dk.lfsr }) hd :)

theorem queueFail_quiet (s : State) (h : Hd) (qm cause name : Nat) : Quiet s (s.queueFail h qm cause name) := by
  unfold State.queueFail
  split
  · split
    · exact fun _ => stalledOther_frame s
    · exact fun _ => (stalled_frame s).vector
  · split
    · exact fun _ => (result_frame s h Nat.one_pos _ _ _ _).vector
    · exact quiet_raise s h _ _ _

theorem operands_quiet (s : State) (h : Hd) (qm : Nat) (srcs : List Nat) (push : Option Nat) (check : Deck → List VReg → Option (Nat × Nat × Word))
    (act : State → List VReg → State) (hact : ∀ u vs, VectorFrame u (act u vs)) : Quiet s (s.operands h qm srcs push check act) := by
  unfold State.operands
  split
  case h_1 => exact queueFail_quiet s h _ _ _
  case h_2 vs d htake =>
    dsimp only
    split
    · exact queueFail_quiet s h _ _ _
    · split
      · exact quiet_raise s h _ _ _
      · have hframe := (setDk_frame htake).trans (hact (s.setDk d) vs)
        split
        · exact fun _ => hframe.trans (result_frame _ h Nat.one_pos _ _ _ _).vector
        · exact fun _ => hframe

theorem writeV_frame (s : State) (h : Hd) {lat : Nat} (hl : 0 < lat) (nd : Nat) (mask : Pred) (data : Image) (tag : Tag) :
    VectorFrame s (s.writeV h lat nd mask data tag) := by
  unfold State.writeV
  split
  · exact (result_frame s h hl _ _ _ _).vector
  next q _ =>
    refine VectorFrame.trans ?_ (result_frame _ h hl _ _ _ _).vector
    have hq := VectorFrame.of_modDk (s := s) (fun d => { d with rq := mset [] d.rq q (mget [] d.rq q ++ [⟨s.seq, 0, tag, false, false⟩]) }) rfl
    exact ⟨hq.device, hq.others, hq.deck, hq.issue, hq.latches⟩

theorem raiseFlags_frame (s : State) (h : Hd) {lat : Nat} (hl : 0 < lat) (f : BitVec 8) : VectorFrame s (s.raiseFlags h lat f) := by
  unfold State.raiseFlags
  split
  · exact (ScalarFrame.refl s).vector
  · exact (addLatch_frame s _ (Nat.lt_add_of_pos_right hl)).vector

theorem vector_quiet (s : State) (h : Hd) (qm : Nat) {lat : Nat} (hl : 0 < lat) (nd : Nat) (xs : List (BitVec 6)) (srcs : List Nat)
    (check : Deck → List VReg → Option (Nat × Nat × Word)) (f : State → Pred → List VReg → Image × Tag × BitVec 8) :
    Quiet s (s.vector h qm lat nd xs srcs check f) := by
  unfold State.vector
  dsimp only
  split
  · exact fun _ => (ScalarFrame.refl s).vector
  · split
    · exact fun _ => (stalled_frame s).vector
    · exact operands_quiet s h qm srcs _ check _ fun u vs => (writeV_frame u h hl _ _ _ _).trans (raiseFlags_frame _ h hl _)

theorem writePMask_frame (s : State) (h : Hd) {lat : Nat} (hl : 0 < lat) (r : BitVec 5) (mask v : Pred) : VectorFrame s (s.writePMask h lat r mask v) := by
  unfold State.writePMask
  split
  · exact (ScalarFrame.refl s).vector
  · exact (result_frame s h hl _ _ _ _).vector

/-! ### The instructions -/

theorem scalarPart (s t : State) (h : Hd) (b : XRR) (c : XI) (l : XL) (x : PCX) (y : PCI) (z : PCT) (n : NB) (i : Instr)
    (hi : i ∈ [Instr.add h b, .sub h b, .and h b, .or h b, .xor h b, .shl h b, .shr h b, .sra h b, .mul h b, .mulh h b, .mulhu h b, .min h b, .minu h b,
      .max h b, .maxu h b, .sel h b, .clz h b, .popc h b, .bext h b, .bins h b, .addi h c, .andi h c, .ori h c, .xori h c, .shli h c, .shri h c,
      .srai h c, .movi h l, .movhi h l, .cmp h x, .cmpi h y, .ptt h z, .nop h n]) (he : exec i s = .next t) : ScalarFrame s t := by
  simp only [List.mem_cons, List.not_mem_nil, or_false] at hi
  rcases hi with rfl | rfl | rfl | rfl | rfl | rfl | rfl | rfl | rfl | rfl | rfl | rfl | rfl | rfl | rfl | rfl | rfl | rfl | rfl | rfl | rfl | rfl |
    rfl | rfl | rfl | rfl | rfl | rfl | rfl | rfl | rfl | rfl | rfl
  iterate 19
    · exact next_frame (alu_frame s h (Nat.succ_pos _) b _) he
  · exact next_frame (scalar_frame s h _ _ (writeX_frame s h Nat.one_pos _ _)) he
  iterate 7
    · exact next_frame (aluImm_frame s h c _) he
  iterate 2
    · exact next_frame (scalar_frame s h _ _ (writeX_frame s h Nat.one_pos _ _)) he
  iterate 2
    · exact next_frame (scalar_frame s h _ _ (compare_frame s h _ _ _ _)) he
  · exact next_frame (scalar_frame s h _ _ (writeP_frame s h Nat.two_pos _ _)) he
  · exact next_frame (ScalarFrame.refl s) he

theorem vcmp_quiet (s : State) (h : Hd) (b : PCV) : ∃ u, exec (.vcmp h b) s = .next u ∧ Quiet s u := by
  refine ⟨_, rfl, ?_⟩
  refine quiet_ite (ScalarFrame.refl s).vector (operands_quiet s h 0 _ none _ _ fun u vs => ?_)
  exact ((writePMask_frame u h Nat.two_pos _ _ _).trans (writePMask_frame _ h Nat.two_pos _ _ _)).trans (raiseFlags_frame _ h Nat.two_pos _)

theorem vext_quiet (s : State) (h : Hd) (b : VRR) : ∃ u, exec (.vext h b) s = .next u ∧ Quiet s u := by
  refine ⟨_, rfl, ?_⟩
  exact quiet_ite (ScalarFrame.refl s).vector (operands_quiet s h _ _ none _ _ fun u vs => (writeX_frame u h Nat.two_pos _ _).vector)

theorem vins_quiet (s : State) (h : Hd) (b : VRR) : ∃ u, exec (.vins h b) s = .next u ∧ Quiet s u := by
  refine ⟨_, rfl, ?_⟩
  exact quiet_ite (ScalarFrame.refl s).vector (quiet_ite (stalled_frame s).vector fun _ => (result_frame s h Nat.two_pos _ _ _ _).vector)

/-- A stochastic conversion steps the generator (R92). -/
theorem lfsr_frame (s : State) (p : Prop) [Decidable p] : VectorFrame s (if p then s.modDk fun d => { d with lfsr := lfsrStep d.lfsr } else s) := by
  split
  · exact VectorFrame.of_modDk (fun d => { d with lfsr := lfsrStep d.lfsr }) rfl
  · exact (ScalarFrame.refl s).vector

theorem vcvt_quiet (s : State) (h : Hd) (b : VRR) : ∃ u, exec (.vcvt h b) s = .next u ∧ Quiet s u := by
  refine ⟨_, rfl, ?_⟩
  refine quiet_ite (ScalarFrame.refl s).vector (operands_quiet s h _ _ _ _ _ fun u vs => ?_)
  dsimp only
  split
  · exact writeV_frame u h (Nat.succ_pos 2) _ _ _ _
  · exact (lfsr_frame u _).trans ((writeV_frame _ h (Nat.succ_pos 2) _ _ _ _).trans (raiseFlags_frame _ h (Nat.succ_pos 2) _))

theorem vtopk_quiet (s : State) (h : Hd) (b : VRR) : ∃ u, exec (.vtopk h b) s = .next u ∧ Quiet s u := by
  refine ⟨_, rfl, ?_⟩
  refine quiet_ite (ScalarFrame.refl s).vector (operands_quiet s h _ _ none _ _ fun u vs => ?_)
  exact ((writeV_frame u h (Nat.succ_pos 4) _ _ _ _).trans (writeV_frame _ h (Nat.succ_pos 4) _ _ _ _)).trans (raiseFlags_frame _ h (Nat.succ_pos 4) _)

theorem quiet_of_exec {i : Instr} {s t : State} (hu : ∃ u, exec i s = .next u ∧ Quiet s u) (he : exec i s = .next t) : Quiet s t := by
  obtain ⟨u, hexec, hq⟩ := hu
  exact next_frame hq (hexec.symm.trans he)

/-- Arithmetic, compares, moves, reductions, estimates, conversions, ranking. -/
def elementForms (h : Hd) (b : VRR) (c : PCV) : List Instr :=
  [.vadd h b, .vsub h b, .vmul h b, .vfma h b, .vfms h b, .vfnma h b, .vmin h b, .vmax h b, .vabs h b, .vneg h b, .vabsd h b, .vcmp h c, .vsel h b,
    .vmov h b, .vbcast h b, .vext h b, .vins h b, .vperm h b, .vslide h b, .vrev h b, .vredsum h b, .vredmax h b, .vredmin h b, .vscan h b, .vrcpe h b,
    .vrsqe h b, .vexp2e h b, .vlog2e h b, .vcvt h b, .vcmpd h b, .vexpnd h b, .vtag h b, .vtopk h b]

/-- Bitwise operations, shifts, counts, integer multiply-adds and the mover of the X slot. -/
def bitForms (h : Hd) (b : VRR) : List Instr :=
  [.vand h b, .vor h b, .vxor h b, .vnot h b, .vshl h b, .vshr h b, .vsra h b, .vclz h b, .vpopc h b, .vidx h b, .vdot4 h b, .vmadi h b, .vpop h b]

theorem elementForms_quiet {s t : State} {h : Hd} {b : VRR} {c : PCV} {i : Instr} (hi : i ∈ elementForms h b c) (he : exec i s = .next t) : Quiet s t := by
  simp only [elementForms, List.mem_cons, List.not_mem_nil, or_false] at hi
  rcases hi with rfl | rfl | rfl | rfl | rfl | rfl | rfl | rfl | rfl | rfl | rfl | rfl | rfl | rfl | rfl | rfl | rfl | rfl | rfl | rfl | rfl | rfl |
    rfl | rfl | rfl | rfl | rfl | rfl | rfl | rfl | rfl | rfl | rfl
  iterate 11
    · exact next_frame (vector_quiet s h _ (Nat.succ_pos _) _ _ _ _ _) he
  · exact quiet_of_exec (vcmp_quiet s h c) he
  iterate 3
    · exact next_frame (vector_quiet s h _ (Nat.succ_pos _) _ _ _ _ _) he
  · exact quiet_of_exec (vext_quiet s h b) he
  · exact quiet_of_exec (vins_quiet s h b) he
  iterate 11
    · exact next_frame (vector_quiet s h _ (Nat.succ_pos _) _ _ _ _ _) he
  · exact quiet_of_exec (vcvt_quiet s h b) he
  iterate 3
    · exact next_frame (vector_quiet s h _ (Nat.succ_pos _) _ _ _ _ _) he
  · exact quiet_of_exec (vtopk_quiet s h b) he

theorem vshift_quiet (s : State) (h : Hd) (b : VRR) (kind : Nat) : Quiet s (s.vshift h b kind) := by
  unfold State.vshift
  exact vector_quiet s h b.q Nat.two_pos b.d [] _ _ _

theorem bitForms_quiet {s t : State} {h : Hd} {b : VRR} {i : Instr} (hi : i ∈ bitForms h b) (he : exec i s = .next t) : Quiet s t := by
  simp only [bitForms, List.mem_cons, List.not_mem_nil, or_false] at hi
  rcases hi with rfl | rfl | rfl | rfl | rfl | rfl | rfl | rfl | rfl | rfl | rfl | rfl | rfl
  iterate 4
    · exact next_frame (vector_quiet s h _ (Nat.succ_pos _) _ _ _ _ _) he
  · exact next_frame (vshift_quiet s h b 0) he
  · exact next_frame (vshift_quiet s h b 1) he
  · exact next_frame (vshift_quiet s h b 2) he
  iterate 6
    · exact next_frame (vector_quiet s h _ (Nat.succ_pos _) _ _ _ _ _) he

/-- Settles O18: the two frames, instruction by instruction. -/
theorem scalarAndVectorFrame : Obligations.ScalarAndVectorFrame := by
  refine ⟨fun s t h b c l x y z n i hi he => ?_, fun s t h b c i hi he hr => ?_⟩
  · obtain ⟨hdevice, hothers, hdeck, hissue, hlatches⟩ := scalarPart s t h b c l x y z n i hi he
    exact ⟨hdevice, hothers, hdeck, hissue, hlatches⟩
  · have hquiet : Quiet s t := by
      rcases List.mem_append.1 (show i ∈ elementForms h b c ++ bitForms h b from hi) with hi | hi
      · exact elementForms_quiet hi he
      · exact bitForms_quiet hi he
    obtain ⟨hdevice, hothers, hdeck, hissue, hlatches⟩ := hquiet hr
    exact ⟨hdevice, hothers, hdeck, hissue, hlatches⟩

end Sys2Proof.Laws.VectorFrames


/-! Source names, queue modes and tag checks of vector syllables (spec 03, spec 09, spec 21): O46. -/
namespace Sys2Proof.Laws.VectorOperands
open Sys2Proof Sys2Proof.Machine Sys2Proof.Laws

/-! ### One source name -/

section
variable {d : Deck} {n : Nat} {e : QEntry} {es : List QEntry}

theorem takeSrc_reg (h : n < 320) : d.takeSrc n = some (mget VReg.zero d.v n, d) := by rw [Deck.takeSrc, if_pos h]

theorem takeSrc_oq (h : 320 ≤ n) (h' : n < 336) (hq : mget [] d.oq (n % 8) = e :: es) (he : e.arrived = true) :
    d.takeSrc n = some (⟨e.data, e.tag⟩, if n < 328 then { d with oq := mset [] d.oq (n % 8) es } else d) := by
  rw [Deck.takeSrc, if_neg (by omega)]
  dsimp only
  rw [if_pos h', hq]
  exact if_pos he

theorem takeSrc_rq (h : 336 ≤ n) (hq : mget [] d.rq (n % 8) = e :: es) (he : e.arrived = true) :
    d.takeSrc n = some (⟨e.data, e.tag⟩, if n < 344 then { d with rq := mset [] d.rq (n % 8) es } else d) := by
  rw [Deck.takeSrc, if_neg (by omega)]
  dsimp only
  rw [if_neg (by omega), hq]
  exact if_pos he

theorem takeSrc_oq_none (h : 320 ≤ n) (h' : n < 336) (hq : ∀ e es, mget [] d.oq (n % 8) = e :: es → e.arrived = false) : d.takeSrc n = none := by
  rw [Deck.takeSrc, if_neg (by omega)]
  dsimp only
  rw [if_pos h']
  split
  next e es he => rw [hq e es he]; rfl
  next => rfl

theorem takeSrc_rq_none (h : 336 ≤ n) (hq : ∀ e es, mget [] d.rq (n % 8) = e :: es → e.arrived = false) : d.takeSrc n = none := by
  rw [Deck.takeSrc, if_neg (by omega)]
  dsimp only
  rw [if_neg (by omega)]
  split
  next e es he => rw [hq e es he]; rfl
  next => rfl

end

theorem takeAll_cons {d d' d'' : Deck} {n : Nat} {ns : List Nat} {v : VReg} {vs : List VReg} (h : d.takeSrc n = some (v, d'))
    (hs : d'.takeAll ns = .inr (vs, d'')) : d.takeAll (n :: ns) = .inr (v :: vs, d'') := by
  simp only [Deck.takeAll, h, hs]

theorem takeAll_none {d : Deck} {n : Nat} (ns : List Nat) (h : d.takeSrc n = none) : d.takeAll (n :: ns) = .inl n := by
  simp only [Deck.takeAll, h]

/-! ### A syllable that does not run -/

section
variable {h : Hd} {b : VRR} {s : State}

theorem waitsLds_nil (s : State) : s.waitsLds [] = false := by
  simp [State.waitsLds, Deck.waitsLds]

theorem vadd_operands (hg : s.dk.guard h ≠ 0) : ∃ act, exec (.vadd h b) s =
    .next (s.operands h b.q [b.a, b.b2] (pushOf b.d) (fun _ vs => checkTags tagA true vs) act) := by
  change ∃ act, Host.Outcome.next (s.vbin h b 2 opAdd b.rmo b.sat) = _
  unfold State.vbin State.vector
  dsimp only
  rw [if_neg hg, if_neg (by rw [waitsLds_nil]; decide)]
  exact ⟨_, rfl⟩

theorem queueFail_stall (cause name : Nat) : let t := s.queueFail h 0 cause name
    t.issue.stall = true ∧ t.decks = s.decks ∧ t.mem = s.mem := by
  unfold State.queueFail
  rw [if_pos rfl]
  split <;> exact ⟨rfl, rfl, rfl⟩

theorem operands_full {srcs : List Nat} {vs : List VReg} {d : Deck} {r : Nat} {check : Deck → List VReg → Option (Nat × Nat × Word)}
    {act : State → List VReg → State} (ht : s.dk.takeAll srcs = .inr (vs, d)) (hfull : 4 + s.issue.freeing.count r ≤ (mget [] d.rq r).length) (qm : Nat) :
    s.operands h qm srcs (some r) check act = s.queueFail h qm 0x05 (336 + r) := by
  have hroom : (s.setDk d).rqRoomNow r = false := by
    rw [State.rqRoomNow, State.dk_setDk]
    exact decide_eq_false (by change ¬_ < 4 + s.issue.freeing.count r; omega)
  rw [State.operands, ht]
  exact if_pos (by rw [Option.any_some, hroom]; rfl)

end

/-- Settles O46: name by name, and what each queue mode makes of a syllable that cannot run. -/
theorem vectorOperands : Obligations.VectorOperands := by
  refine ⟨fun d n ns => ?_, fun h b s n hn h320 => ⟨fun hg => ?_, fun hg ht => ?_, fun vs d r hg ht hd hr hfull => ?_, fun x y d hready => ?_⟩⟩
  · intro q head
    refine ⟨fun h vs d' hs => takeAll_cons (takeSrc_reg h) hs, fun e es h h' hq he vs d' hs => ?_, fun e es h h' hq he vs d' hs => ?_,
      fun e es h h' hq he vs d' hs => ?_, fun e es h hq he vs d' hs => ?_, fun h h' hq => takeAll_none ns (takeSrc_oq_none h h' hq),
      fun h hq => takeAll_none ns (takeSrc_rq_none h hq), rfl⟩
    · exact takeAll_cons ((takeSrc_oq h (by omega) hq he).trans (by rw [if_pos h'])) hs
    · exact takeAll_cons ((takeSrc_oq (by omega) h' hq he).trans (by rw [if_neg (by omega)])) hs
    · exact takeAll_cons ((takeSrc_rq h hq he).trans (by rw [if_pos h'])) hs
    · exact takeAll_cons ((takeSrc_rq (by omega) hq he).trans (by rw [if_neg (by omega)])) hs
  · refine ⟨?_, ?_, ?_⟩
    · exact congrArg Host.Outcome.next (State.vector_disabled _ hg)
    · exact congrArg Host.Outcome.next (State.vector_disabled _ hg)
    · exact congrArg Host.Outcome.next (if_pos hg)
  · obtain ⟨act, hexec⟩ := vadd_operands (b := b) hg
    rw [hexec, State.operands_empty act ht, popName]
    refine ⟨fun hq => ?_, fun hq => ?_, fun hq => ?_⟩
    · rw [hq]
      exact ⟨_, rfl, queueFail_stall _ _⟩
    · rw [hq]
      rfl
    · rw [hq]
      rfl
  · obtain ⟨act, hexec⟩ := vadd_operands (b := b) hg
    have hpush : pushOf b.d = some r := by rw [hd, pushOf, if_pos (by omega), Nat.add_sub_cancel_left]
    rw [hexec, hpush, operands_full ht hfull]
    refine ⟨fun hq => ?_, fun hq => ?_⟩
    · rw [hq]
      rfl
    · rw [hq, hd]
      rfl
  · obtain ⟨hg, ht, hroom⟩ := hready
    obtain ⟨act, hexec⟩ := vadd_operands (b := b) hg
    have hp := fun q hq => State.room_setDk ht (hroom q hq)
    refine ⟨fun hx => ?_, fun hx hne => ?_⟩
    · have hcheck : checkTags tagA true [x, y] = some (0x03, x.tag.toNat, 0) := by
        simp [checkTags, tagFault, List.zipIdx, hx]
      rw [hexec, State.operands_bad act ht hp hcheck]
    · have hcheck : checkTags tagA true [x, y] = some (0x03, y.tag.toNat + 32, 0) := by
        simp [checkTags, tagFault, List.zipIdx, hx, Ne.symm hne]
      rw [hexec, State.operands_bad act ht hp hcheck]

end Sys2Proof.Laws.VectorOperands


/-! Element-wise arithmetic (spec 09): O47. -/
namespace Sys2Proof.Laws.VectorArithmetic
open Sys2Proof Sys2Proof.Machine Sys2Proof.Laws Sys2Proof.Laws.VectorOperands

/-- Taking sources leaves the mode register. -/
theorem fmode_setDk {s : State} {ns : List Nat} {vs : List VReg} {d : Deck} (h : s.dk.takeAll ns = .inr (vs, d)) : (s.setDk d).dk.fmode = s.dk.fmode := by
  obtain ⟨hd, -⟩ := Deck.takeAll_queues h
  rw [State.dk_setDk]
  exact (congrArg Deck.fmode hd :)

/-- Operands of one accepted tag pass their check. -/
theorem checkTags_pass {ok : Nat → Bool} {vs : List VReg} {x : VReg} (h : ∀ v ∈ vs, v.tag = x.tag) (hx : ok x.tag.toNat = true) : checkTags ok true vs = none := by
  unfold checkTags
  cases vs with
  | nil => rfl
  | cons a vs =>
    have ha : a.tag = x.tag := h a List.mem_cons_self
    have hfind : ((a :: vs).zipIdx.find? fun v => !ok v.1.tag.toNat || (true && v.1.tag != a.tag)) = none := by
      refine List.find?_eq_none.2 fun v hv => ?_
      have hv : v.1 ∈ a :: vs := (List.mem_zipIdx' hv).2 ▸ List.getElem_mem _
      simp [h v.1 hv, ha, hx]
    rw [List.zipIdx_cons] at hfind ⊢
    rw [tagFault, hfind]
    rfl

section
variable {h : Hd} {b : VRR} {s : State} {x y z : VReg} {d : Deck}

/-- A vector instruction whose image is computed element by element. -/
theorem gives_elements {qm lat nd : Nat} {srcs : List Nat} {vs : List VReg} {check : Deck → List VReg → Option (Nat × Nat × Word)}
    {f : State → Pred → List VReg → Image × Tag × BitVec 8} {t : Nat} {tag : Tag} {g : Nat → Res} (r : s.Ready h srcs nd vs d)
    (hcheck : check s.dk vs = none) (hf : f (s.setDk d) (s.dk.guard h) vs = ((mapElems t (s.dk.guard h) g).1, tag, (mapElems t (s.dk.guard h) g).2)) :
    ∃ img fl, s.vector h qm lat nd [] srcs check f = s.gives h qm lat nd srcs d img tag fl ∧ ElementsAre t (s.dk.guard h) img fl g := by
  refine ⟨_, _, (State.vector_ready f r (waitsLds_nil s) hcheck).trans ?_, mapElems_are t (s.dk.guard h) g⟩
  rw [hf]

theorem vbin_elements (r : s.Ready h [b.a, b.b2] b.d [x, y] d) (htag : x.tag = y.tag) (hA : tagA x.tag.toNat = true) (lat : Nat) (o : BinOp) (rmo : Nat)
    (sat : Bool) : ∃ img fl, s.vbin h b lat o rmo sat = s.gives h b.q lat b.d [b.a, b.b2] d img x.tag fl ∧
      ElementsAre x.tag.toNat (s.dk.guard h) img fl fun e =>
        o.run x.tag.toNat (arithMode rmo s.dk.fmode) sat (elemAt x.tag.toNat x.data e) (elemAt x.tag.toNat y.data e) := by
  refine gives_elements r (checkTags_pass (x := x) (by simp [htag]) hA) ?_
  dsimp only
  rw [fmode_setDk r.2.1]
  rfl

theorem vun_elements (r : s.Ready h [b.a] b.d [x] d) (hA : tagA x.tag.toNat = true) (o : BinOp) : ∃ img fl, s.vun h b o = s.gives h b.q 2 b.d [b.a] d img x.tag fl ∧
      ElementsAre x.tag.toNat (s.dk.guard h) img fl fun e => o.run x.tag.toNat 0 b.sat (elemAt x.tag.toNat x.data e) 0 :=
  gives_elements r (checkTags_pass (x := x) (by simp) hA) rfl

theorem vtri_elements (r : s.Ready h [b.a, b.b2, b.d] b.d [x, y, z] d) (hy : x.tag = y.tag) (hz : x.tag = z.tag) {ok : Nat → Bool} (hok : ok x.tag.toNat = true)
    (f : Nat → Nat → Nat → Nat → Nat → Res) : ∃ img fl, s.vtri h b ok f = s.gives h b.q 4 b.d [b.a, b.b2, b.d] d img x.tag fl ∧
      ElementsAre x.tag.toNat (s.dk.guard h) img fl fun e => f x.tag.toNat (arithMode b.rmo s.dk.fmode) (elemAt x.tag.toNat x.data e)
        (elemAt x.tag.toNat y.data e) (elemAt x.tag.toNat z.data e) := by
  refine gives_elements r (checkTags_pass (x := x) (by simp [← hy, ← hz]) hok) ?_
  dsimp only
  rw [fmode_setDk r.2.1]
  rfl

theorem dotTags_pass (hx : x.tag = 0x0A ∨ x.tag = 0x0B) (hy : y.tag = 0x0A ∨ y.tag = 0x0B) (hz : z.tag = 8) : dotTags [x, y, z] = none := by
  rcases hx with hx | hx <;> rcases hy with hy | hy <;> simp [dotTags, opnd, tagFault, hx, hy, hz]

theorem dot_elements (r : s.Ready h [b.a, b.b2, b.d] b.d [x, y, z] d) (hx : x.tag = 0x0A ∨ x.tag = 0x0B) (hy : y.tag = 0x0A ∨ y.tag = 0x0B) (hz : z.tag = 8) :
    ∃ img fl, exec (.vdot4 h b) s = .next (s.gives h b.q 4 b.d [b.a, b.b2, b.d] d img 8 fl) ∧
      ElementsAre 8 (s.dk.guard h) img fl (dotLane x.tag.toNat y.tag.toNat b.sat x.data y.data z.data) := by
  obtain ⟨img, fl, hgives, helems⟩ := gives_elements (qm := b.q) (lat := 4) (check := fun _ vs => dotTags vs) (f := fun _ mask vs =>
    ((mapElems 8 mask (dotLane (opnd vs 0).tag.toNat (opnd vs 1).tag.toNat b.sat (opnd vs 0).data (opnd vs 1).data (opnd vs 2).data)).1, 8,
      (mapElems 8 mask (dotLane (opnd vs 0).tag.toNat (opnd vs 1).tag.toNat b.sat (opnd vs 0).data (opnd vs 1).data (opnd vs 2).data)).2)) r
    (dotTags_pass hx hy hz) rfl
  exact ⟨img, fl, congrArg Host.Outcome.next hgives, helems⟩

end

/-- Settles O47: form by form, each with its operation on values and on integers. -/
theorem vectorArithmetic : Obligations.VectorArithmetic := by
  intro h b s x d t mask rm fp val num
  refine ⟨fun y r htag hA i lat m sat f g hi => ?_, fun r hA i f g hi => ?_, fun y z r => ⟨fun hy hz hF i f hi => ?_, fun hy hz hN => ?_, fun hx hy hz => ?_⟩⟩
  · simp only [List.mem_cons, Prod.mk.injEq, List.not_mem_nil, or_false] at hi
    have hbin := vbin_elements r htag hA
    rcases hi with ⟨rfl, rfl, rfl, rfl, rfl, rfl⟩ | ⟨rfl, rfl, rfl, rfl, rfl, rfl⟩ | ⟨rfl, rfl, rfl, rfl, rfl, rfl⟩ | ⟨rfl, rfl, rfl, rfl, rfl, rfl⟩ |
      ⟨rfl, rfl, rfl, rfl, rfl, rfl⟩ | ⟨rfl, rfl, rfl, rfl, rfl, rfl⟩
    all_goals
      obtain ⟨img, fl, hgives, helems⟩ := hbin _ _ _ _
      exact ⟨img, fl, congrArg Host.Outcome.next hgives, helems⟩
  · simp only [List.mem_cons, Prod.mk.injEq, List.not_mem_nil, or_false] at hi
    have hun := vun_elements r hA
    rcases hi with ⟨rfl, rfl, rfl⟩ | ⟨rfl, rfl, rfl⟩
    all_goals
      obtain ⟨img, fl, hgives, helems⟩ := hun _
      exact ⟨img, fl, congrArg Host.Outcome.next hgives, helems⟩
  · simp only [List.mem_cons, Prod.mk.injEq, List.not_mem_nil, or_false] at hi
    have htri := vtri_elements r hy hz hF
    rcases hi with ⟨rfl, rfl⟩ | ⟨rfl, rfl⟩ | ⟨rfl, rfl⟩
    all_goals
      obtain ⟨img, fl, hgives, helems⟩ := htri _
      exact ⟨img, fl, congrArg Host.Outcome.next hgives, helems⟩
  · obtain ⟨img, fl, hgives, helems⟩ := vtri_elements r hy hz hN fun t _ => madElem t b.sat
    exact ⟨img, fl, congrArg Host.Outcome.next hgives, helems⟩
  · exact dot_elements r hx hy hz

end Sys2Proof.Laws.VectorArithmetic


/-! Moves, constants, lane moves, selects and bitwise operations (spec 09): O48. -/
namespace Sys2Proof.Laws.VectorMoves
open Sys2Proof Sys2Proof.Machine Sys2Proof.Laws Sys2Proof.Laws.VectorOperands Sys2Proof.Laws.VectorArithmetic

/-! ### Fields, lanes and elements -/

theorem bits_lt (n lo w : Nat) : bits n lo w < 2 ^ w := Nat.mod_lt _ (Nat.two_pow_pos w)

/-- A field of a field. -/
theorem bits_bits (n a : Nat) {m b k : Nat} (h : b + k ≤ m) : bits (bits n a m) b k = bits n (a + b) k := by
  obtain ⟨j, rfl⟩ : ∃ j, m = b + (k + j) := ⟨m - b - k, by omega⟩
  unfold bits
  rw [Nat.pow_add 2 b, Nat.mod_mul_right_div_self, Nat.div_div_eq_div_mul, ← Nat.pow_add, Nat.pow_add 2 k, Nat.mod_mul_right_mod]

theorem bits_mod (n : Nat) {m b k : Nat} (h : b + k ≤ m) : bits (n % 2 ^ m) b k = bits n b k := by
  simpa [bits] using bits_bits n 0 h

/-- Lane l of an image made lane by lane. -/
theorem lane_lanes (f : Nat → Nat) {l : Nat} (h : l < 128) : bits (lanes f).toNat (32 * l) 32 = f l % 2 ^ 32 := by
  have helem := buildImage_elem (w := 32) (n := 128) (fun _ => true) (fun l => (f l, 0)) (by decide) h
  exact helem.trans (if_pos rfl)

theorem lane_lanes_of_lt {f : Nat → Nat} {l : Nat} (h : l < 128) (hf : f l < 2 ^ 32) : bits (lanes f).toNat (32 * l) 32 = f l := by
  rw [lane_lanes f h, Nat.mod_eq_of_lt hf]

/-- Two images agree in a lane when their bits do. -/
theorem lane_ext {v w : Image} {l : Nat} (h : ∀ j, j < 32 → v.getLsbD (32 * l + j) = w.getLsbD (32 * l + j)) :
    bits v.toNat (32 * l) 32 = bits w.toNat (32 * l) 32 := by
  apply Nat.eq_of_testBit_eq
  intro j
  by_cases hj : j < 32
  · rw [← testBit_field _ 32 l j hj, ← testBit_field _ 32 l j hj]
    exact h j hj
  · rw [Nat.testBit_lt_two_pow (Nat.lt_of_lt_of_le (bits_lt _ _ _) (Nat.pow_le_pow_right (by decide) (by omega))),
      Nat.testBit_lt_two_pow (Nat.lt_of_lt_of_le (bits_lt _ _ _) (Nat.pow_le_pow_right (by decide) (by omega)))]

theorem lane_merge (m : Pred) (old new : Image) {l : Nat} (h : l < 128) :
    bits (mergeLanes m old new).toNat (32 * l) 32 = if m.getLsbD l then bits new.toNat (32 * l) 32 else bits old.toNat (32 * l) 32 := by
  have hbit : ∀ j, j < 32 → (mergeLanes m old new).getLsbD (32 * l + j) = if m.getLsbD l then new.getLsbD (32 * l + j) else old.getLsbD (32 * l + j) := by
    intro j hj
    rw [mergeLanes_bit m old new _ (by omega), show (32 * l + j) / 32 = l by omega]
  split
  next hm => exact lane_ext fun j hj => by rw [hbit j hj, if_pos hm]
  next hm => exact lane_ext fun j hj => by rw [hbit j hj, if_neg hm]

/-- The fields of a lane with its elements in reverse order. -/
theorem bits_reversed (k : Nat) (f : Nat → Nat) (hf : ∀ i, f i < 2 ^ k) : ∀ (q p : Nat), p < q →
    bits ((List.range q).foldl (fun acc i => acc * 2 ^ k + f i) 0) (k * p) k = f (q - 1 - p)
  | q + 1, 0, _ => by
    rw [List.range_succ, List.foldl_append, List.foldl_cons, List.foldl_nil, bits, Nat.mul_zero, Nat.pow_zero, Nat.div_one, Nat.mul_add_mod_self_right,
      Nat.mod_eq_of_lt (hf q)]
    rfl
  | q + 1, p + 1, h => by
    have ih := bits_reversed k f hf q p (by omega)
    rw [List.range_succ, List.foldl_append, List.foldl_cons, List.foldl_nil, bits, Nat.mul_add, Nat.mul_one, Nat.add_comm (k * p), Nat.pow_add, ← Nat.div_div_eq_div_mul,
      Nat.mul_comm _ (2 ^ k), Nat.mul_add_div (Nat.two_pow_pos k), Nat.div_eq_of_lt (hf q), Nat.add_zero]
    exact ih.trans (by rw [show q + 1 - 1 - (p + 1) = q - 1 - p by omega])

theorem elem_inside {q w p : Nat} (hq : q * w = 32) (hp : p < q) : w * p + w ≤ 32 := by
  calc w * p + w = w * (p + 1) := (Nat.mul_succ w p).symm
    _ ≤ w * q := Nat.mul_le_mul_left _ hp
    _ = 32 := by rw [Nat.mul_comm, hq]

/-- Element e of a format whose elements fill lanes evenly, by its lane. -/
theorem elemAt_lane {t q : Nat} (hq : q * tagBits t = 32) (img : Image) {l p : Nat} (hp : p < q) :
    elemAt t img (q * l + p) = bits (bits img.toNat (32 * l) 32) (tagBits t * p) (tagBits t) := by
  rw [bits_bits _ _ (elem_inside hq hp), elemAt, ← hq]
  rw [Nat.mul_add, ← Nat.mul_assoc, Nat.mul_comm (tagBits t) q]

/-- The formats other than T6 and T6C fill the lanes evenly. -/
theorem even_format {t : Nat} (h4 : t ≠ 4) (h6 : t ≠ 6) : ∃ q, q * tagBits t = 32 ∧ tagElems t = 128 * q := by
  have hw : tagBits t = 32 ∨ tagBits t = 16 ∨ tagBits t = 8 ∨ tagBits t = 4 := by
    unfold tagBits
    split <;> simp_all
  unfold tagElems
  rcases hw with hw | hw | hw | hw <;> rw [hw]
  · exact ⟨1, rfl, rfl⟩
  · exact ⟨2, rfl, rfl⟩
  · exact ⟨4, rfl, rfl⟩
  · exact ⟨8, rfl, rfl⟩

/-! ### Instructions -/

section
variable {h : Hd} {b : VRR} {s : State} {d : Deck}

/-- A vector instruction whose image is known. -/
theorem gives_image {qm lat nd : Nat} {xs : List (BitVec 6)} {srcs : List Nat} {vs : List VReg} {check : Deck → List VReg → Option (Nat × Nat × Word)}
    {f : State → Pred → List VReg → Image × Tag × BitVec 8} {img : Image} {tag : Tag} (r : s.Ready h srcs nd vs d) (hx : s.waitsLds xs = false)
    (hcheck : check s.dk vs = none) (hf : f (s.setDk d) (s.dk.guard h) vs = (img, tag, 0)) :
    Host.Outcome.next (s.vector h qm lat nd xs srcs check f) = (Host.Outcome.next (s.gives h qm lat nd srcs d img tag 0) : Out) := by
  rw [State.vector_ready f r hx hcheck, hf]

theorem getP_setDk {ns : List Nat} {vs : List VReg} (h : s.dk.takeAll ns = .inr (vs, d)) (r : BitVec 5) : (s.setDk d).dk.getP r = s.dk.getP r := by
  obtain ⟨hd, -⟩ := Deck.takeAll_queues h
  rw [State.dk_setDk]
  exact (congrArg (fun d : Deck => d.getP r) hd :)

/-! ### Lane moves of one operand -/

section
variable {x : VReg} (r : s.Ready h [b.a] b.d [x] d) (hF : isF x.tag.toNat = true)
include r hF

theorem vmoveLanes_gives (f : State → VReg → Nat → Nat) : Host.Outcome.next (s.vmoveLanes h b f) =
    (Host.Outcome.next (s.gives h b.q 2 b.d [b.a] d (lanes (f (s.setDk d) x)) x.tag 0) : Out) :=
  gives_image r (waitsLds_nil s) (checkTags_pass (ok := tagAny) (x := x) (by simp) hF) rfl

theorem vslide_moves : ∃ img, exec (.vslide h b) s = .next (s.gives h b.q 2 b.d [b.a] d img x.tag 0) ∧ ∀ l, l < 128 → bits img.toNat (32 * l) 32 =
    let k : Int := if b.b2 % 256 < 128 then b.b2 % 256 else (b.b2 % 256 : Int) - 256
    if b.m.getLsbD 0 then bits x.data.toNat (32 * ((l + k) % 128).toNat) 32
      else if 0 ≤ l + k ∧ l + k ≤ 127 then bits x.data.toNat (32 * (l + k).toNat) 32 else 0 := by
  have hk : (b.nb.setWidth 8).toInt = if b.b2 % 256 < 128 then (b.b2 % 256 : Int) else (b.b2 % 256 : Int) - 256 := by
    rw [BitVec.toInt_eq_toNat_cond, BitVec.toNat_setWidth, VRR.b2]
    have hmod : b.nb.toNat % 2 ^ 8 = b.nb.toNat % 256 := rfl
    split <;> split <;> omega
  refine ⟨_, vmoveLanes_gives r hF _, fun l hl => ?_⟩
  rw [lane_lanes_of_lt hl, hk]
  · rfl
  · split
    · exact bits_lt _ _ _
    · dsimp only
      split
      · exact bits_lt _ _ _
      · exact Nat.two_pow_pos 32

theorem vrev_lanes (hm : b.m.getLsbD 0 = false) : ∃ img, exec (.vrev h b) s = .next (s.gives h b.q 2 b.d [b.a] d img x.tag 0) ∧
    ∀ l, l < 128 → bits img.toNat (32 * l) 32 = bits x.data.toNat (32 * (127 - l)) 32 := by
  refine ⟨_, gives_image r (waitsLds_nil s) (checkTags_pass (x := x) (by simp) (by rw [hF, hm]; rfl)) rfl, fun l hl => ?_⟩
  rw [lane_lanes _ hl, hm]
  exact Nat.mod_eq_of_lt (bits_lt _ _ _)

theorem vrev_elements (hm : b.m.getLsbD 0 = true) (h4 : x.tag ≠ 4) (h6 : x.tag ≠ 6) :
    ∃ img, exec (.vrev h b) s = .next (s.gives h b.q 2 b.d [b.a] d img x.tag 0) ∧
      ∀ e, e < tagElems x.tag.toNat → elemAt x.tag.toNat img e = elemAt x.tag.toNat x.data (tagElems x.tag.toNat - 1 - e) := by
  have h4' : x.tag.toNat ≠ 4 := fun e => h4 (BitVec.eq_of_toNat_eq e)
  have h6' : x.tag.toNat ≠ 6 := fun e => h6 (BitVec.eq_of_toNat_eq e)
  refine ⟨_, gives_image r (waitsLds_nil s) (checkTags_pass (x := x) (by simp) (by rw [hF]; simp [h4', h6'])) rfl, fun e he => ?_⟩
  obtain ⟨q, hq, hn⟩ := even_format h4' h6'
  rw [hn] at he ⊢
  have hq0 : 0 < q := Nat.pos_of_ne_zero fun e => by simp [e] at hq
  have hp : e % q < q := Nat.mod_lt _ hq0
  have hl : e / q < 128 := Nat.div_lt_of_lt_mul (by rwa [Nat.mul_comm])
  have hrow : 128 * q - 1 - e = q * (127 - e / q) + (q - 1 - e % q) := by
    have hdiv := Nat.div_add_mod e q
    have hmul : q * (127 - e / q) = q * 127 - q * (e / q) := Nat.mul_sub _ _ _
    have hle : q * (e / q) ≤ q * 127 := Nat.mul_le_mul_left _ (by omega)
    omega
  have hdiv : q = 32 / tagBits x.tag.toNat := by
    rw [← hq, Nat.mul_div_cancel _ (Nat.pos_of_ne_zero fun e => by simp [e] at hq)]
  rw [hrow, elemAt_lane hq _ (by omega : q - 1 - e % q < q)]
  conv => lhs; rw [← Nat.div_add_mod e q]
  rw [elemAt_lane hq _ hp, lane_lanes _ hl, if_pos hm, bits_mod _ (elem_inside hq hp)]
  unfold revLane
  dsimp only
  rw [show 32 / tagBits (opnd [x] 0).tag.toNat = q from hdiv.symm]
  exact bits_reversed (tagBits x.tag.toNat) _ (fun i => bits_lt _ _ _) q (e % q) hp

theorem vexpnd_moves : ∃ img, exec (.vexpnd h b) s = .next (s.gives h b.q 2 b.d [b.a] d img x.tag 0) ∧ ∀ l, l < 128 → bits img.toNat (32 * l) 32 =
    if (s.dk.getP (BitVec.ofNat 5 b.m.toNat)).getLsbD l then
      bits x.data.toNat (32 * ((List.range l).filter fun m => (s.dk.getP (BitVec.ofNat 5 b.m.toNat)).getLsbD m).length) 32 else 0 := by
  refine ⟨_, vmoveLanes_gives r hF _, fun l hl => ?_⟩
  have hpn : (s.setDk d).pn b = s.dk.getP (BitVec.ofNat 5 b.m.toNat) := getP_setDk r.2.1 _
  rw [lane_lanes_of_lt hl, hpn, rankBelow, List.countP_eq_length_filter]
  · rfl
  · split
    · exact bits_lt _ _ _
    · exact Nat.two_pow_pos 32

end

/-! ### Two operands, constants, single lanes -/

theorem vsel_moves {x y : VReg} (r : s.Ready h [b.a, b.b2] b.d [x, y] d) (htag : x.tag = y.tag) (hF : isF x.tag.toNat = true) :
    ∃ img, exec (.vsel h b) s = .next (s.gives h b.q 2 b.d [b.a, b.b2] d img x.tag 0) ∧ ∀ l, l < 128 → bits img.toNat (32 * l) 32 =
      if (s.dk.getP (BitVec.ofNat 5 b.m.toNat)).getLsbD l then bits x.data.toNat (32 * l) 32 else bits y.data.toNat (32 * l) 32 := by
  refine ⟨_, gives_image r (waitsLds_nil s) (checkTags_pass (ok := tagAny) (x := x) (by simp [htag]) hF) rfl, fun l hl => ?_⟩
  have hpn : (s.setDk d).pn b = s.dk.getP (BitVec.ofNat 5 b.m.toNat) := getP_setDk r.2.1 _
  rw [hpn]
  exact lane_merge _ _ _ hl

theorem vperm_moves {x y : VReg} (r : s.Ready h [b.a, b.b2] b.d [x, y] d) (hF : isF x.tag.toNat = true) (hy : y.tag = 8) :
    ∃ img, exec (.vperm h b) s = .next (s.gives h b.q 2 b.d [b.a, b.b2] d img x.tag 0) ∧ ∀ l, l < 128 → bits img.toNat (32 * l) 32 =
      bits x.data.toNat (32 * (bits y.data.toNat (32 * l) 32 % 128)) 32 := by
  have hcheck : permTags [x, y] = none := by simp [permTags, tagFault, tagAny, opnd, hF, hy]
  refine ⟨_, gives_image r (waitsLds_nil s) hcheck rfl, fun l hl => ?_⟩
  exact lane_lanes_of_lt hl (bits_lt _ _ _)

theorem vbits_gives {x y : VReg} (r : s.Ready h [b.a, b.b2] b.d [x, y] d) (htag : x.tag = y.tag) (hA : tagA x.tag.toNat = true) (f : Image → Image → Image) :
    Host.Outcome.next (s.vbits h b f) = (Host.Outcome.next (s.gives h b.q 2 b.d [b.a, b.b2] d (f x.data y.data) x.tag 0) : Out) :=
  gives_image r (waitsLds_nil s) (checkTags_pass (ok := tagA) (x := x) (by simp [htag]) hA) rfl

/-- An image with the same code for every element, or one that counts up. -/
theorem elemAt_build (t : Nat) (f : Nat → Nat) {e : Nat} (he : e < tagElems t) :
    elemAt t (buildImage (tagBits t) (tagElems t) (fun _ => true) fun e => (f e, 0)).1 e = f e % 2 ^ tagBits t :=
  (buildImage_elem (fun _ => true) (fun e => (f e, 0)) (tagBits_elems t) he).trans (if_pos rfl)

theorem vext_runs {x : VReg} {l : Nat} (hl : l = b.b2 % 128) (hg : (s.dk.guard h).getLsbD l = true) (ht : s.dk.takeAll [b.a] = .inr ([x], d)) :
    exec (.vext h b) s = .next (((s.setDk d).writeX h 2 (b.nd.setWidth 6) (BitVec.ofNat 64 (bits x.data.toNat (32 * l) 32))).ran h b.q (isQueueName b.a)) := by
  subst hl
  change execVext h b s = _
  unfold execVext
  dsimp only
  rw [if_neg (by rw [hg]; decide), State.operands_ready _ ht (fun q hq => absurd hq (Option.some_ne_none q).symm) rfl]
  simp only [List.any_cons, List.any_nil, Bool.or_false, Option.isSome_none, Bool.false_or]
  rfl

theorem vins_runs {l : Nat} (hl : l = b.b2 % 128) (hg : (s.dk.guard h).getLsbD l = true) (hw : s.waitsLds [b.na.setWidth 6] = false) :
    ∃ m : Pred, (∀ k, k < 128 → m.getLsbD k = decide (k = l)) ∧ ∃ img : Image,
      exec (.vins h b) s = .next (s.result h 2 (.v b.d) m img keepTag) ∧ bits img.toNat (32 * l) 32 = (s.x (b.na.setWidth 6)).toNat % 2 ^ 32 := by
  subst hl
  refine ⟨((1 <<< (b.b2 % 128) : Nat) : Pred), fun k hk => ?_, ((s.x (xField b.na)).setWidth 32).setWidth 4096 <<< (32 * (b.b2 % 128)), ?_, ?_⟩
  · have hone : ((1 <<< (b.b2 % 128) : Nat) : Pred).getLsbD k = decide (b.b2 % 128 = k) := by
      rw [Nat.one_shiftLeft]
      exact (BitVec.getLsbD_ofNat 128 _ k).trans (by rw [decide_eq_true hk, Nat.testBit_two_pow, Bool.true_and])
    rw [hone]
    exact decide_eq_decide.2 eq_comm
  · change execVins h b s = _
    unfold execVins
    dsimp only
    rw [if_neg (by rw [hg]; decide), if_neg (by rw [xField, hw]; decide)]
  · have hlt : b.b2 % 128 < 128 := Nat.mod_lt _ (by decide)
    have hword : (s.x (xField b.na)).toNat % 2 ^ 32 < 2 ^ 32 := Nat.mod_lt _ (by decide)
    rw [BitVec.toNat_shiftLeft, BitVec.toNat_setWidth, BitVec.toNat_setWidth, Nat.shiftLeft_eq, Nat.mod_eq_of_lt (a := _ % 2 ^ 32) (Nat.lt_trans hword (Nat.pow_lt_pow_right (m := 32) (n := 4096) (by decide) (by decide))),
      bits_mod _ (by omega), bits, Nat.mul_div_cancel _ (Nat.two_pow_pos _), Nat.mod_mod]
    rfl

end

/-- Settles O48: form by form. -/
theorem vectorMoves : Obligations.VectorMoves := by
  intro h b s x d lane pn moves
  refine ⟨fun r hF => ?_, fun y r => ⟨vsel_moves r, vperm_moves r, fun htag hA => ⟨vbits_gives r htag hA _, vbits_gives r htag hA _, vbits_gives r htag hA _⟩⟩,
    fun r hw _ => ?_, fun l hl => ⟨fun hg => ?_, fun hg => ⟨vext_runs hl hg, vins_runs hl hg⟩⟩⟩
  · have hpass := checkTags_pass (ok := tagAny) (vs := [x]) (x := x) (by simp) hF
    exact ⟨gives_image r (waitsLds_nil s) hpass rfl, gives_image r (waitsLds_nil s) hpass rfl, gives_image r (waitsLds_nil s) hpass rfl,
      fun hA => gives_image r (waitsLds_nil s) (checkTags_pass (ok := tagA) (x := x) (by simp) hA) rfl, vslide_moves r hF, vrev_lanes r hF, vrev_elements r hF,
      vexpnd_moves r hF⟩
  · intro w t i k hi
    have hx : (s.setDk s.dk).x (xField b.na) = s.x (b.na.setWidth 6) := Frames.x_setDk s _
    simp only [List.mem_cons, Prod.mk.injEq, List.not_mem_nil, or_false] at hi
    rcases hi with ⟨rfl, rfl⟩ | ⟨rfl, rfl⟩
    · refine ⟨_, gives_image r hw rfl rfl, fun e he => ?_⟩
      rw [elemAt_build t _ he, hx, Nat.zero_mul]
      rfl
    · refine ⟨_, gives_image r hw rfl rfl, fun e he => ?_⟩
      rw [elemAt_build t _ he, hx, Nat.one_mul]
  · subst hl
    exact ⟨congrArg Host.Outcome.next (if_pos (by rw [hg]; rfl)), congrArg Host.Outcome.next (if_pos (by rw [hg]; rfl))⟩

end Sys2Proof.Laws.VectorMoves


/-! Vector compares, shifts and counts (spec 09): O49. -/
namespace Sys2Proof.Laws.VectorCompares
open Sys2Proof Sys2Proof.Machine Sys2Proof.Laws Sys2Proof.Laws.VectorOperands Sys2Proof.Laws.VectorArithmetic Sys2Proof.Laws.VectorMoves Sys2Proof.Laws.Scalar

/-! ### One relation of two elements -/

/-- The relations of `vcond` on values (R223). -/
def valRelation (k : Nat) (u v : Val) : Bool := match k with
  | 0 => decide (u.cmp v = some .eq) | 1 => decide (u.cmp v ≠ some .eq) | 2 => decide (u.cmp v = some .lt)
  | 3 => decide (u.cmp v = some .gt ∨ u.cmp v = some .eq) | 4 => decide (u.cmp v = some .lt ∨ u.cmp v = some .eq) | 5 => decide (u.cmp v = some .gt)
  | 6 => u.isNaN || v.isNaN | _ => !(u.isNaN || v.isNaN)

/-- The flags that they raise. -/
def valFlags (k : Nat) (u v : Val) : BitVec 8 := if 2 ≤ k ∧ k ≤ 5 ∧ (u.isNaN || v.isNaN) = true then fNV else u.snan ||| v.snan

/-- The relations on integers. -/
def intRelation (k : Nat) (u v : Int) : Bool := match k with
  | 0 => decide (u = v) | 1 => decide (u ≠ v) | 2 => decide (u < v) | 3 => decide (v ≤ u) | 4 => decide (u ≤ v) | 5 => decide (v < u)
  | 6 => false | _ => true

theorem condElem_float {t : Nat} (ht : isFTag t = true) (k a b : Nat) :
    condElem t k a b = (valRelation k (fval t a) (fval t b), valFlags k (fval t a) (fval t b)) := by
  unfold condElem valRelation valFlags
  rw [if_pos ht]
  dsimp only
  refine Prod.ext ?_ rfl
  generalize (fval t a).cmp (fval t b) = o
  rcases k with _ | _ | _ | _ | _ | _ | _ | k <;> rcases o with _ | _ | _ | _ <;> rfl

theorem condElem_int {t : Nat} (ht : isFTag t = false) (k a b : Nat) : condElem t k a b = (intRelation k (intOf t a) (intOf t b), 0) := by
  unfold condElem intRelation
  rw [if_neg (by rw [ht]; decide)]
  refine Prod.ext ?_ rfl
  rcases k with _ | _ | _ | _ | _ | _ | _ | k
  case succ.zero => exact decide_not.symm
  all_goals rfl

theorem not_isFTag {t : Nat} (h : isNTag t = true) : isFTag t = false := by
  simp only [isNTag, isN, isFTag, decide_eq_true_eq, decide_eq_false_iff_not] at h ⊢
  omega

/-- A relation of a NaN that is not about NaNs does not hold, and nv is raised. -/
theorem valRelation_nan {k : Nat} {u v : Val} (h2 : 2 ≤ k) (h5 : k ≤ 5) (h : u.isNaN = true ∨ v.isNaN = true) :
    valRelation k u v = false ∧ (valFlags k u v).getLsbD 4 = true := by
  have hnan : (u.isNaN || v.isNaN) = true := by rcases h with h | h <;> simp [h]
  have hcmp : u.cmp v = none := by
    rcases h with h | h
    · cases u <;> simp_all [Val.isNaN, Val.cmp]
    · cases u <;> cases v <;> simp_all [Val.isNaN, Val.cmp]
  refine ⟨?_, ?_⟩
  · obtain rfl | rfl | rfl | rfl : k = 2 ∨ k = 3 ∨ k = 4 ∨ k = 5 := by omega
    all_goals simp [valRelation, hcmp]
  · rw [valFlags, if_pos ⟨h2, h5, hnan⟩]
    rfl

/-! ### One lane -/

/-- The elements of lane l. -/
def laneElems (t l : Nat) : List Nat := (List.range (32 / tagBits t)).map fun k => 32 / tagBits t * l + k

theorem condLane_bit (t c : Nat) (a b : Image) (l : Nat) : (condLane t c a b l).1 =
    if c = 1 ∨ c = 6 then (laneElems t l).any fun e => (condElem t c (elemAt t a e) (elemAt t b e)).1
    else (laneElems t l).all fun e => (condElem t c (elemAt t a e) (elemAt t b e)).1 := by
  unfold condLane laneElems
  dsimp only
  rw [List.any_map, List.all_map, List.any_map, List.all_map]
  rfl

theorem foldl_or (k : Nat) : ∀ (rs : List (Bool × BitVec 8)) (f : BitVec 8), (rs.foldl (fun f r => f ||| r.2) f).getLsbD k = true ↔
    f.getLsbD k = true ∨ ∃ r ∈ rs, r.2.getLsbD k = true
  | [], f => by simp
  | r :: rs, f => by
    rw [List.foldl_cons, foldl_or k rs, BitVec.getLsbD_or, Bool.or_eq_true]
    simp only [List.mem_cons, exists_eq_or_imp, or_assoc]

theorem condLane_flags (t c : Nat) (a b : Image) (l k : Nat) : (condLane t c a b l).2.getLsbD k = true ↔
    ∃ e ∈ laneElems t l, (condElem t c (elemAt t a e) (elemAt t b e)).2.getLsbD k = true := by
  unfold condLane laneElems
  dsimp only
  rw [foldl_or]
  constructor
  · rintro (h0 | ⟨r, hr, hk⟩)
    · exact absurd h0 (by simp)
    · obtain ⟨i, hi, rfl⟩ := List.mem_map.1 hr
      exact ⟨_, List.mem_map.2 ⟨i, hi, rfl⟩, hk⟩
  · rintro ⟨e, he, hk⟩
    obtain ⟨i, hi, rfl⟩ := List.mem_map.1 he
    exact .inr ⟨_, List.mem_map.2 ⟨i, hi, rfl⟩, hk⟩

/-- In a format that fills the lanes evenly the elements of lane l are those that it governs. -/
theorem mem_laneElems {t q : Nat} (hq : q * tagBits t = 32) {l e : Nat} : e ∈ laneElems t l ↔ laneOf t e = l := by
  have hw : 0 < tagBits t := Nat.pos_of_ne_zero fun e => by simp [e] at hq
  have hq0 : 0 < q := Nat.pos_of_ne_zero fun e => by simp [e] at hq
  have hlane : laneOf t e = e / q := by rw [laneOf, ← hq, Nat.mul_comm q, Nat.mul_div_mul_left _ _ hw]
  have hdiv : 32 / tagBits t = q := by rw [← hq, Nat.mul_div_cancel _ hw]
  rw [hlane, laneElems, hdiv]
  simp only [List.mem_map, List.mem_range]
  constructor
  · rintro ⟨k, hk, rfl⟩
    rw [Nat.mul_add_div hq0, Nat.div_eq_of_lt hk, Nat.add_zero]
  · rintro rfl
    exact ⟨e % q, Nat.mod_lt _ hq0, Nat.div_add_mod e q⟩

/-! ### Compares -/

/-- A predicate that no lane raises a flag for raises none. -/
theorem laneTest_silent {mask : Pred} {f : Nat → Bool × BitVec 8} (hf : ∀ l k, (f l).2.getLsbD k = false) : (laneTest mask f).2 = 0 := by
  apply BitVec.eq_of_getLsbD_eq
  intro k hk
  change (laneTest mask f).2.getLsbD k = (0#8).getLsbD k
  rw [BitVec.getLsbD_zero]
  refine Bool.eq_false_iff.2 fun hbit => ?_
  obtain ⟨l, -, -, hl⟩ := (laneTest_flags mask f k).1 hbit
  rw [hf l k] at hl
  exact Bool.false_ne_true hl

section
variable {h : Hd} {s : State} {d : Deck} {x y : VReg}

/-- A vector instruction whose image and flags are known. -/
theorem gives_next {qm lat nd : Nat} {srcs : List Nat} {vs : List VReg} {check : Deck → List VReg → Option (Nat × Nat × Word)}
    {f : State → Pred → List VReg → Image × Tag × BitVec 8} {img : Image} {tag : Tag} {fl : BitVec 8} (r : s.Ready h srcs nd vs d)
    (hcheck : check s.dk vs = none) (hf : f (s.setDk d) (s.dk.guard h) vs = (img, tag, fl)) :
    Host.Outcome.next (s.vector h qm lat nd [] srcs check f) = (Host.Outcome.next (s.gives h qm lat nd srcs d img tag fl) : Out) := by
  rw [State.vector_ready f r (waitsLds_nil s) hcheck, hf]

theorem vcmp_runs {c : PCV} (hm : s.dk.guard h ≠ 0) (ht : s.dk.takeAll [c.na.toNat, c.nb.toNat] = .inr ([x, y], d)) (htag : x.tag = y.tag)
    (hA : tagA x.tag.toNat = true) :
    let r := laneTest (s.dk.guard h) (condLane x.tag.toNat c.cond.toNat x.data y.data)
    let into := combine c.comb.toNat (s.dk.getP c.pd) (s.dk.getP c.pe) r.1
    exec (.vcmp h c) s = .next ((((s.setDk d).writePMask h 2 c.pd (s.dk.guard h) into.1).writePMask h 2 c.pe (s.dk.guard h) into.2).raiseFlags h 2 r.2) := by
  intro r into
  change execVcmp h c s = _
  unfold execVcmp
  dsimp only
  rw [if_neg hm, State.operands_ready _ ht (fun q hq => absurd hq (Option.some_ne_none q).symm) (checkTags_pass (x := x) (by simp [htag]) hA)]
  rw [getP_setDk ht, getP_setDk ht]
  rfl

theorem vcmpd_elements {b : VRR} (r : s.Ready h [b.a, b.b2] b.d [x, y] d) (htag : x.tag = y.tag) (hA : tagA x.tag.toNat = true) :
    ∃ img fl, exec (.vcmpd h b) s = .next (s.gives h b.q 2 b.d [b.a, b.b2] d img (condTag x.tag.toNat) fl) ∧
      ElementsAre x.tag.toNat (s.dk.guard h) img fl fun e =>
        let c := condElem x.tag.toNat (bits b.m.toNat 0 3) (elemAt x.tag.toNat x.data e) (elemAt x.tag.toNat y.data e)
        (if c.1 then 2 ^ tagBits x.tag.toNat - 1 else 0, c.2) := by
  refine ⟨_, _, gives_next r (checkTags_pass (ok := tagA) (x := x) (by simp [htag]) hA) rfl, mapElems_are _ _ _⟩

theorem vcount_elements {b : VRR} (r : s.Ready h [b.a] b.d [x] d) (hN : isNTag x.tag.toNat = true) (f : Nat → Nat → Res) :
    ∃ img fl, Host.Outcome.next (s.vcount h b f) = (Host.Outcome.next (s.gives h b.q 2 b.d [b.a] d img x.tag fl) : Out) ∧
      ElementsAre x.tag.toNat (s.dk.guard h) img fl fun e => f x.tag.toNat (elemAt x.tag.toNat x.data e) :=
  ⟨_, _, gives_next r (checkTags_pass (ok := isNTag) (x := x) (by simp) hN) rfl, mapElems_are _ _ _⟩

theorem vshift_elements {b : VRR} (r : s.Ready h [b.a, b.b2] b.d [x, y] d) (htag : x.tag = y.tag) (hN : isNTag x.tag.toNat = true)
    (hi : b.m.getLsbD 0 = false) (kind : Nat) : ∃ img fl, Host.Outcome.next (s.vshift h b kind) = (Host.Outcome.next (s.gives h b.q 2 b.d [b.a, b.b2] d img x.tag fl) : Out) ∧
      ElementsAre x.tag.toNat (s.dk.guard h) img fl fun e =>
        shiftElem kind x.tag.toNat (elemAt x.tag.toNat x.data e) (elemAt x.tag.toNat y.data e % tagBits x.tag.toNat) := by
  unfold State.vshift
  rw [hi]
  exact ⟨_, _, gives_next r (checkTags_pass (ok := isNTag) (x := x) (by simp [htag]) hN) rfl, mapElems_are _ _ _⟩

theorem vshift_immediate {b : VRR} (r : s.Ready h [b.a] b.d [x] d) (hN : isNTag x.tag.toNat = true)
    (hi : b.m.getLsbD 0 = true) (kind : Nat) : ∃ img fl, Host.Outcome.next (s.vshift h b kind) = (Host.Outcome.next (s.gives h b.q 2 b.d [b.a] d img x.tag fl) : Out) ∧
      ElementsAre x.tag.toNat (s.dk.guard h) img fl fun e => shiftElem kind x.tag.toNat (elemAt x.tag.toNat x.data e) (b.b2 % tagBits x.tag.toNat) := by
  unfold State.vshift
  rw [hi]
  exact ⟨_, _, gives_next r (checkTags_pass (ok := isNTag) (x := x) (by simp) hN) rfl, mapElems_are _ _ _⟩

end

/-- On integers no relation but that of unequal elements asks for one element: the relation 6 never holds. -/
theorem intLane_eq {t q : Nat} (hq : q * tagBits t = 32) (c l : Nat) (num : VReg → Nat → Int) (x y : VReg) :
    (if c = 1 ∨ c = 6 then (laneElems t l).any fun e => intRelation c (num x e) (num y e) else (laneElems t l).all fun e => intRelation c (num x e) (num y e)) =
      if c = 1 then (laneElems t l).any fun e => intRelation 1 (num x e) (num y e) else (laneElems t l).all fun e => intRelation c (num x e) (num y e) := by
  by_cases h1 : c = 1
  · rw [if_pos (Or.inl h1), if_pos h1, h1]
  · rw [if_neg h1]
    split
    next h6 =>
      obtain rfl : c = 6 := h6.resolve_left h1
      have hq0 : 0 < q := Nat.pos_of_ne_zero fun e => by simp [e] at hq
      have hfirst : q * l ∈ laneElems t l := by
        rw [mem_laneElems hq, laneOf, ← hq, Nat.mul_comm q (tagBits t),
          Nat.mul_div_mul_left _ _ (Nat.pos_of_ne_zero fun e => by simp [e] at hq), Nat.mul_div_cancel_left _ hq0]
      have hall : (laneElems t l).all (fun e => intRelation 6 (num x e) (num y e)) = false :=
        Bool.eq_false_iff.2 fun hall => Bool.false_ne_true (List.all_eq_true.1 hall _ hfirst)
      rw [hall]
      exact List.any_eq_false.2 fun _ _ => Bool.false_ne_true
    next => rfl

theorem condTag_eq (t : Nat) : condTag t = if tagBits t = 32 then 8 else if tagBits t = 16 then 9 else 0x0A := by
  unfold condTag
  split
  next e => rw [if_pos e]
  next e => rw [if_neg (by rw [e]; decide), if_pos e]
  next e e' => rw [if_neg e, if_neg e']

/-- Elements as computed by one function are as computed by another with the same codes and flags. -/
theorem elementsAre_congr {t : Nat} {mask : Pred} {img : Image} {fl : BitVec 8} {f g : Nat → Res} (h : ElementsAre t mask img fl f)
    (hc : ∀ e, (f e).1 % 2 ^ tagBits t = (g e).1 % 2 ^ tagBits t) (hf : ∀ e, (f e).2 = (g e).2) : ElementsAre t mask img fl g := by
  obtain ⟨hcodes, hflags⟩ := h
  refine ⟨fun e he hon => (hcodes e he hon).trans (hc e), fun k hk => ?_⟩
  simp only [← hf]
  exact hflags k hk

theorem even_tag {t : Nat} (hA : tagA t = true) : ∃ q, q * tagBits t = 32 ∧ tagElems t = 128 * q := by
  simp only [tagA, isFTag, isNTag, isN, Bool.or_eq_true, decide_eq_true_eq] at hA
  exact even_format (by omega) (by omega)

/-- The lane of an element of the image. -/
theorem elem_lane {t q : Nat} (hq : q * tagBits t = 32) (hn : tagElems t = 128 * q) (e : Nat) : laneOf t e < 128 ↔ e < tagElems t := by
  have hw : 0 < tagBits t := Nat.pos_of_ne_zero fun e => by simp [e] at hq
  have hq0 : 0 < q := Nat.pos_of_ne_zero fun e => by simp [e] at hq
  rw [laneOf, ← hq, Nat.mul_comm q, Nat.mul_div_mul_left _ _ hw, hn, Nat.div_lt_iff_lt_mul hq0]

/-! ### Counts -/

theorem clzElem_bounds {t a : Nat} (ha : a < 2 ^ tagBits t) : (clzElem t a).1 ≤ tagBits t ∧ a < 2 ^ (tagBits t - (clzElem t a).1) ∧
    (a ≠ 0 → 2 ^ (tagBits t - 1 - (clzElem t a).1) ≤ a ∧ (clzElem t a).1 < tagBits t) := by
  unfold clzElem
  dsimp only
  split
  next h0 => subst h0; simp
  next h0 =>
    have hlog : Nat.log2 a < tagBits t := (Nat.log2_lt h0).2 ha
    refine ⟨by omega, ?_, fun _ => ⟨?_, by omega⟩⟩
    · rw [show tagBits t - (tagBits t - 1 - Nat.log2 a) = Nat.log2 a + 1 by omega]
      exact Nat.lt_log2_self
    · rw [show tagBits t - 1 - (tagBits t - 1 - Nat.log2 a) = Nat.log2 a by omega]
      exact Nat.log2_self_le h0

theorem popElem_count (t a : Nat) : (popElem t a).1 = ((List.range (tagBits t)).filter fun k => a.testBit k).length := by
  rw [popElem, List.countP_eq_length_filter]
  refine congrArg (fun p => ((List.range (tagBits t)).filter p).length) (funext fun k => ?_)
  rw [Nat.testBit_eq_decide_div_mod_eq, bits, Nat.pow_one]
  rfl

/-- Settles O49: compares to predicates and to masks, shifts, counts. -/
theorem vectorComparesAndShifts : Obligations.VectorComparesAndShifts := by
  intro h b c s x y d t mask num holds val relates flags
  refine ⟨fun hm ht htag hA => ?_, fun r htag hA => ⟨?_, fun hN hi => ?_⟩, fun r hN => ⟨fun hi => ?_, ?_, ?_⟩⟩
  · intro into
    obtain ⟨q, hq, hn⟩ := even_tag hA
    refine ⟨(laneTest mask (condLane t c.cond.toNat x.data y.data)).1, (laneTest mask (condLane t c.cond.toNat x.data y.data)).2, ?_, ?_, ?_, ?_⟩
    · rw [vcmp_runs hm ht htag hA, combine_eq]
    · refine fun hF => ⟨fun l hl hl' => ?_, fun k _ => ?_⟩
      · rw [laneTest_bit _ _ _ hl, hl', Bool.true_and, condLane_bit]
        simp only [condElem_float hF]
        rfl
      · rw [laneTest_flags]
        simp only [condLane_flags, condElem_float hF, mem_laneElems hq]
        constructor
        · rintro ⟨l, hl, hl', e, rfl, hbit⟩
          exact ⟨e, (elem_lane hq hn e).1 hl, hl', hbit⟩
        · rintro ⟨e, he, he', hbit⟩
          exact ⟨laneOf t e, (elem_lane hq hn e).2 he, he', e, rfl, hbit⟩
    · refine fun hN => ⟨laneTest_silent fun l k => Bool.eq_false_iff.2 fun hbit => ?_, fun l hl hl' => ?_⟩
      · obtain ⟨e, -, he⟩ := (condLane_flags _ _ _ _ _ _).1 hbit
        rw [condElem_int (not_isFTag hN)] at he
        simp at he
      · rw [laneTest_bit _ _ _ hl, hl', Bool.true_and, condLane_bit]
        simp only [condElem_int (not_isFTag hN)]
        exact intLane_eq hq c.cond.toNat l num x y
    · refine fun hF h2 h5 l e hl hl' hel hnan => ?_
      obtain ⟨hrel, hflag⟩ := valRelation_nan (u := fval t (elemAt t x.data e)) (v := fval t (elemAt t y.data e)) h2 h5 hnan
      have hmem : e ∈ laneElems t l := (mem_laneElems hq).2 hel
      refine ⟨?_, ?_⟩
      · rw [laneTest_bit _ _ _ hl, hl', Bool.true_and, condLane_bit, if_neg (by omega)]
        refine Bool.eq_false_iff.2 fun hall => ?_
        have hone := List.all_eq_true.1 hall e hmem
        rw [condElem_float hF, hrel] at hone
        exact Bool.false_ne_true hone
      · rw [laneTest_flags]
        exact ⟨l, hl, hl', (condLane_flags _ _ _ _ _ _).2 ⟨e, hmem, by rw [condElem_float hF]; exact hflag⟩⟩
  · obtain ⟨img, fl, hexec, helems⟩ := vcmpd_elements r htag hA
    refine ⟨img, fl, by rw [hexec, condTag_eq], fun hN => ?_, fun hF => ?_⟩
    · refine elementsAre_congr helems (fun e => ?_) fun e => ?_
      · rw [condElem_int (not_isFTag hN)]
        rfl
      · rw [condElem_int (not_isFTag hN)]
    · refine elementsAre_congr helems (fun e => ?_) fun e => ?_
      · rw [condElem_float hF]
        rfl
      · rw [condElem_float hF]
        rfl
  · intro by_ i f hmem
    simp only [List.mem_cons, Prod.mk.injEq, List.not_mem_nil, or_false] at hmem
    rcases hmem with ⟨rfl, rfl⟩ | ⟨rfl, rfl⟩ | ⟨rfl, rfl⟩
    · obtain ⟨img, fl, hexec, helems⟩ := vshift_elements r htag hN hi 0
      exact ⟨img, fl, hexec, elementsAre_congr helems (fun _ => Nat.mod_mod _ _) fun _ => rfl⟩
    · obtain ⟨img, fl, hexec, helems⟩ := vshift_elements r htag hN hi 1
      exact ⟨img, fl, hexec, helems⟩
    · obtain ⟨img, fl, hexec, helems⟩ := vshift_elements r htag hN hi 2
      exact ⟨img, fl, hexec, helems⟩
  · intro i f hmem
    simp only [List.mem_cons, Prod.mk.injEq, List.not_mem_nil, or_false] at hmem
    rcases hmem with ⟨rfl, rfl⟩ | ⟨rfl, rfl⟩ | ⟨rfl, rfl⟩
    · obtain ⟨img, fl, hexec, helems⟩ := vshift_immediate r hN hi 0
      exact ⟨img, fl, hexec, elementsAre_congr helems (fun _ => Nat.mod_mod _ _) fun _ => rfl⟩
    · obtain ⟨img, fl, hexec, helems⟩ := vshift_immediate r hN hi 1
      exact ⟨img, fl, hexec, helems⟩
    · obtain ⟨img, fl, hexec, helems⟩ := vshift_immediate r hN hi 2
      exact ⟨img, fl, hexec, helems⟩
  · obtain ⟨img, fl, hexec, helems⟩ := vcount_elements r hN clzElem
    refine ⟨img, fl, fun e => (clzElem t (elemAt t x.data e)).1, hexec, elementsAre_congr helems (fun _ => rfl) fun _ => rfl, fun e => ?_⟩
    exact clzElem_bounds (bits_lt _ _ _)
  · obtain ⟨img, fl, hexec, helems⟩ := vcount_elements r hN popElem
    refine ⟨img, fl, hexec, elementsAre_congr helems (fun e => ?_) fun _ => rfl⟩
    rw [popElem_count]

end Sys2Proof.Laws.VectorCompares


/-! Reductions, scans and estimates (spec 04 R107, R108; spec 09 R230-R232). -/
namespace Sys2Proof.Laws.VectorFolds
open Sys2Proof Sys2Proof.Machine Sys2Proof.Laws Sys2Proof.Laws.VectorOperands Sys2Proof.Laws.VectorArithmetic Sys2Proof.Laws.VectorMoves
  Sys2Proof.Laws.VectorCompares

/-! ### Integer combinations -/

/-- One step of an integer combination. -/
def intOp : Fold → Int → Int → Int
  | .sum => (· + ·)
  | .max => max
  | .min => min

/-- What an integer combination of nothing gives. -/
def intUnit (t : Nat) : Fold → Int
  | .sum => 0
  | .max => intMin t
  | .min => intMax t

theorem ints_eq (k : Fold) (t : Nat) (zs : List Int) : k.ints t zs = zs.foldl (intOp k) (intUnit t k) := by cases k <;> rfl

theorem ints_concat (k : Fold) (t : Nat) (zs : List Int) (z : Int) : k.ints t (zs ++ [z]) = intOp k (k.ints t zs) z := by
  rw [ints_eq, ints_eq, List.foldl_append]
  rfl

theorem intOp_assoc (k : Fold) (a b c : Int) : intOp k (intOp k a b) c = intOp k a (intOp k b c) := by
  cases k with
  | sum => exact Int.add_assoc a b c
  | max => exact Int.max_assoc a b c
  | min => exact Int.min_assoc a b c

theorem intOp_unit (k : Fold) (t : Nat) : intOp k (intUnit t k) (intUnit t k) = intUnit t k := by
  cases k with
  | sum => rfl
  | max => exact Int.max_self _
  | min => exact Int.min_self _

/-- Lists are built from the left too: scans grow at their end. -/
theorem concat_induction {α : Type} {motive : List α → Prop} (nil : motive []) (append_singleton : ∀ l a, motive l → motive (l ++ [a])) (l : List α) :
    motive l := by
  have hrev : ∀ r : List α, motive r.reverse := fun r => by
    induction r with
    | nil => exact nil
    | cons a r ih => rw [List.reverse_cons]; exact append_singleton _ a ih
  exact List.reverse_reverse l ▸ hrev l.reverse

/-- A combination counts once: combining it with nothing gives it again. -/
theorem ints_again (k : Fold) (t : Nat) (zs : List Int) : k.ints t [k.ints t zs] = k.ints t zs := by
  rw [ints_eq k t [_], List.foldl_cons, List.foldl_nil]
  induction zs using concat_induction with
  | nil => rw [ints_eq]; exact intOp_unit k t
  | append_singleton zs z ih => rw [ints_concat, ← intOp_assoc, ih]

/-- The enabled integers of an image, in order. -/
theorem intElems_values (t : Nat) (mask : Pred) (img : Image) :
    (intElems t mask img).map (·.2) = ((List.range (tagElems t)).filter fun e => mask.getLsbD (laneOf t e)).map fun e => intOf t (elemAt t img e) := by
  rw [intElems, List.map_map]
  rfl

/-! ### Integer scans -/

/-- One element of an integer scan: the prefixes so far, and their combination. -/
def scanStep (k : Fold) (t : Nat) (sat : Bool) (acc : List Res × List Int) (z : Option Int) : List Res × List Int :=
  let seen := match z with | some z => [k.ints t (acc.2 ++ [z])] | none => acc.2
  (acc.1 ++ [(intCode t sat (k.ints t seen), 0)], seen)

/-- After some elements an integer scan holds the combination of those enabled, element by element. -/
theorem scan_spec (k : Fold) (t : Nat) (sat : Bool) (zs : List (Option Int)) : let r := zs.foldl (scanStep k t sat) ([], [])
    r.1.length = zs.length ∧ k.ints t r.2 = k.ints t (zs.filterMap id) ∧
      ∀ e, e < zs.length → r.1.getD e (0, 0) = (intCode t sat (k.ints t ((zs.take (e + 1)).filterMap id)), 0) := by
  induction zs using concat_induction with
  | nil => exact ⟨rfl, rfl, fun e he => absurd he (Nat.not_lt_zero e)⟩
  | append_singleton zs z ih =>
    obtain ⟨hlen, hseen, hres⟩ := ih
    rw [List.foldl_append, List.foldl_cons, List.foldl_nil]
    generalize zs.foldl (scanStep k t sat) ([], []) = r at hlen hseen hres
    have hnew : k.ints t (scanStep k t sat r z).2 = k.ints t ((zs ++ [z]).filterMap id) := by
      rw [List.filterMap_append]
      cases z with
      | none => simpa [scanStep] using hseen
      | some z =>
        change k.ints t [k.ints t (r.2 ++ [z])] = k.ints t (zs.filterMap id ++ [z])
        rw [ints_again, ints_concat, ints_concat, hseen]
    refine ⟨by simp [scanStep, hlen], hnew, fun e he => ?_⟩
    rw [List.length_append, List.length_singleton] at he
    by_cases h : e < zs.length
    · rw [List.take_append_of_le_length (by omega), ← hres e h]
      rw [List.getD_eq_getElem?_getD, List.getD_eq_getElem?_getD]
      exact congrArg (Option.getD · (0, 0)) (List.getElem?_append_left (by omega))
    · obtain rfl : e = zs.length := by omega
      rw [show (zs ++ [z]).take (zs.length + 1) = zs ++ [z] from List.take_of_length_le (by simp), ← hnew, ← hlen]
      simp [scanStep]

theorem filter_range (n : Nat) {e : Nat} (h : e < n) (p : Nat → Bool) : ((List.range n).filter p).filter (fun m => decide (m ≤ e)) = (List.range (e + 1)).filter p := by
  obtain ⟨j, rfl⟩ : ∃ j, n = (e + 1) + j := ⟨n - (e + 1), by omega⟩
  rw [List.filter_filter, List.range_add, List.filter_append]
  have hlow : (List.range (e + 1)).filter (fun m => decide (m ≤ e) && p m) = (List.range (e + 1)).filter p := by
    refine List.filter_congr fun m hm => ?_
    rw [decide_eq_true (by have := List.mem_range.1 hm; omega), Bool.true_and]
  have hhigh : ((List.range j).map (e + 1 + ·)).filter (fun m => decide (m ≤ e) && p m) = [] := by
    refine List.filter_eq_nil_iff.2 fun m hm => ?_
    obtain ⟨i, -, rfl⟩ := List.mem_map.1 hm
    rw [decide_eq_false (by omega), Bool.false_and]
    exact Bool.false_ne_true
  rw [hlow, hhigh, List.append_nil]

theorem filterMap_take {p : Nat → Bool} {f : Nat → Int} (n : Nat) {e : Nat} (h : e < n) :
    ((((List.range n).map fun e => if p e then some (f e) else none).take (e + 1)).filterMap id) = ((List.range (e + 1)).filter p).map f := by
  rw [← List.map_take, List.take_range, Nat.min_eq_left (by omega), List.filterMap_map]
  induction List.range (e + 1) with
  | nil => rfl
  | cons a l ih => by_cases hp : p a = true <;> simp [hp, ← ih]

/-- The prefixes of an image of integers. -/
theorem prefixes_int (k : Fold) {t : Nat} (ht : isFTag t = false) (rm : Nat) (sat : Bool) (mask : Pred) (img : Image) {e : Nat} (he : e < tagElems t) :
    (prefixes k t rm sat mask img).getD e (0, 0) = (intCode t sat (k.ints t
      ((((List.range (tagElems t)).filter fun m => mask.getLsbD (laneOf t m)).filter fun m => decide (m ≤ e)).map fun m => intOf t (elemAt t img m))), 0) := by
  rw [filter_range _ he, ← filterMap_take _ he]
  unfold prefixes
  rw [if_neg (by rw [ht]; decide)]
  obtain ⟨-, -, hres⟩ := scan_spec k t sat ((List.range (tagElems t)).map fun e => if mask.getLsbD (laneOf t e) then some (intOf t (elemAt t img e)) else none)
  exact hres e (by simpa using he)

/-! ### Floating-point scans -/

section
variable (op : Res → Res → Res)

/-- One level of the tree of R108. -/
def scanLevel (vs : List Res) (j : Nat) : List Res := vs.take (2 ^ j) ++ List.zipWith op vs (vs.drop (2 ^ j))

theorem scanLevel_length {vs : List Res} {m j : Nat} (h : vs.length = 2 ^ m) (hj : j ≤ m) : (scanLevel op vs j).length = 2 ^ m := by
  have hle : 2 ^ j ≤ 2 ^ m := Nat.pow_le_pow_right (by decide) hj
  simp only [scanLevel, List.length_append, List.length_take, List.length_zipWith, List.length_drop, h]
  rw [Nat.min_eq_left hle, Nat.min_eq_right (Nat.sub_le _ _)]
  omega

/-- The tree doubles its distance until it reaches the length. -/
theorem scanTree_levels : ∀ (i n j m : Nat) (vs : List Res), vs.length = 2 ^ m → j + i = m → i ≤ n →
    scanTree op n (2 ^ j) vs = (List.range' j i).foldl (scanLevel op) vs
  | 0, n, j, m, vs, hlen, hj, hn => by
    obtain rfl : j = m := by omega
    cases n with
    | zero => rfl
    | succ n => rw [scanTree, if_pos (by omega)]; rfl
  | i + 1, n, j, m, vs, hlen, hj, hn => by
    obtain ⟨n, rfl⟩ : ∃ k, n = k + 1 := ⟨n - 1, by omega⟩
    have hlt : 2 ^ j < 2 ^ m := Nat.pow_lt_pow_right (by decide) (by omega)
    rw [scanTree, if_neg (by omega), List.range'_succ, List.foldl_cons, ← scanTree_levels i n (j + 1) m (scanLevel op vs j)
      (scanLevel_length op hlen (by omega)) (by omega) (by omega), Nat.pow_succ, Nat.mul_comm 2]
    rfl

end

theorem prefixes_float (k : Fold) {t : Nat} (ht : isFTag t = true) (rm : Nat) (sat : Bool) (mask : Pred) (img : Image) :
    prefixes k t rm sat mask img = (List.range (Nat.log2 (tagElems t))).foldl (scanLevel (k.combine t rm)) (foldElems k t mask img) := by
  have hsize : ∃ m, m ≤ 10 ∧ tagElems t = 2 ^ m := by
    have h2 : t ≤ 2 := by simpa [isFTag] using ht
    obtain rfl | rfl | rfl : t = 0 ∨ t = 1 ∨ t = 2 := by omega
    · exact ⟨7, by decide, rfl⟩
    · exact ⟨8, by decide, rfl⟩
    · exact ⟨8, by decide, rfl⟩
  obtain ⟨m, hm, hsize⟩ := hsize
  unfold prefixes
  rw [if_pos ht, hsize, Nat.log2_two_pow, List.range_eq_range']
  exact scanTree_levels _ m 10 0 m _ (by simp [foldElems, hsize]) (by omega) hm

/-! ### The instructions -/

section
variable {h : Hd} {b : VRR} {s : State} {d : Deck} {x : VReg} (r : s.Ready h [b.a] b.d [x] d)
include r

theorem vreduce_gives (hA : tagA x.tag.toNat = true) (k : Fold) (rmo : Nat) (sat : Bool) :
    let c := reduce k x.tag.toNat (arithMode rmo s.dk.fmode) sat (s.dk.guard h) x.data
    Host.Outcome.next (s.vreduce h b k rmo sat) =
      (Host.Outcome.next (s.gives h b.q 5 b.d [b.a] d (mapElems x.tag.toNat (s.dk.guard h) fun _ => (c.1, 0)).1 x.tag c.2) : Out) := by
  refine gives_next r (checkTags_pass (ok := tagA) (x := x) (by simp) hA) ?_
  dsimp only
  rw [fmode_setDk r.2.1]
  rfl

theorem vscan_elements (hA : tagA x.tag.toNat = true) : ∃ img fl, exec (.vscan h b) s = .next (s.gives h b.q 5 b.d [b.a] d img x.tag fl) ∧
    ElementsAre x.tag.toNat (s.dk.guard h) img fl fun e =>
      (prefixes (scanKind b) x.tag.toNat (bits s.dk.fmode.toNat 3 2) (b.m.getLsbD 2) (s.dk.guard h) x.data).getD e (0, 0) := by
  refine ⟨_, _, gives_next r (checkTags_pass (ok := tagA) (x := x) (by simp) hA) ?_, mapElems_are _ _ _⟩
  dsimp only
  rw [fmode_setDk r.2.1]
  rfl

theorem vestimate_elements (h0 : x.tag.toNat = 0) (k : Est) : ∃ img fl, Host.Outcome.next (s.vestimate h b k) =
    (Host.Outcome.next (s.gives h b.q 6 b.d [b.a] d img x.tag fl) : Out) ∧ ElementsAre 0 (s.dk.guard h) img fl fun e => estimate k (elemAt 0 x.data e) :=
  ⟨_, _, gives_next r (checkTags_pass (ok := (· == 0)) (x := x) (by simp) (by rw [h0]; rfl)) rfl, mapElems_are _ _ _⟩

end

end Sys2Proof.Laws.VectorFolds


/-! # Top-k selection (R237)

`rankLanes` sorts the lanes of a group: a NaN first, then by value, and a lane before the later ones of the same value. -/

namespace Sys2Proof.Laws.VectorRanking
open Sys2Proof Sys2Proof.Machine Sys2Proof.Laws
open Sys2Proof.Laws.VectorMoves Sys2Proof.Laws.VectorCompares Sys2Proof.Laws.VectorArithmetic

/-! ### The order of values -/

/-- The class of a value in the order of `vtopk`: below everything −∞, then the finite values, then +∞, then the NaNs. -/
def rankClass : Val → Int
  | .nan _ => 2
  | .inf s => if s then -1 else 1
  | .fin .. => 0

/-- The exponent of a finite value. -/
def gridOf : Val → Int
  | .fin _ _ e => e
  | _ => 0

/-- A finite value in units of `2 ^ g`. -/
def unitsAt (g : Int) : Val → Int
  | .fin s m e => signedMant s m e g
  | _ => 0

theorem signedMant_refine (s : Bool) (m : Nat) {e f g : Int} (hgf : g ≤ f) (hfe : f ≤ e) :
    signedMant s m e g = signedMant s m e f * 2 ^ (f - g).toNat := by
  have hexp : (e - g).toNat = (e - f).toNat + (f - g).toNat := by omega
  unfold signedMant
  dsimp only
  rw [hexp, Int.pow_add, ← Int.mul_assoc]
  cases s
  · rfl
  · exact (Int.neg_mul _ _).symm

/-- Two finite values compare on every grid below both as they do on the finer of their own. -/
theorem compare_units (s t : Bool) (m n : Nat) {e f g : Int} (he : g ≤ e) (hf : g ≤ f) :
    signedMant s m e (min e f) < signedMant t n f (min e f) ↔ signedMant s m e g < signedMant t n f g := by
  have hg : g ≤ min e f := by omega
  have hpos : (0 : Int) < 2 ^ (min e f - g).toNat := Int.pow_pos (by decide)
  rw [signedMant_refine s m hg (by omega), signedMant_refine t n hg (by omega)]
  exact (Int.mul_lt_mul_right hpos).symm

/-- One value ranks above another when its class is higher, or both are finite and it is greater. -/
theorem ranksAbove_iff (a b : Val) {g : Int} (ha : g ≤ gridOf a) (hb : g ≤ gridOf b) :
    ranksAbove a b = true ↔ rankClass b < rankClass a ∨ (rankClass b = rankClass a ∧ unitsAt g b < unitsAt g a) := by
  cases a <;> cases b
  case fin.fin s m e t n f =>
    have hcmp : ranksAbove (.fin s m e) (.fin t n f) = true ↔ signedMant t n f (min f e) < signedMant s m e (min f e) := by
      rw [← Int.compare_eq_lt]
      simp [ranksAbove, Val.isNaN, Val.lt, Val.cmp]
    rw [hcmp, compare_units t s n m (e := f) (f := e) hb ha]
    simp [rankClass, unitsAt]
  case inf.inf s t => cases s <;> cases t <;> simp [ranksAbove, Val.isNaN, Val.lt, Val.cmp, rankClass, unitsAt]
  case inf.fin s _ _ _ => cases s <;> simp [ranksAbove, Val.isNaN, Val.lt, Val.cmp, rankClass]
  case fin.inf _ _ _ s => cases s <;> simp [ranksAbove, Val.isNaN, Val.lt, Val.cmp, rankClass]
  case nan.inf q s => cases s <;> simp [ranksAbove, Val.isNaN, rankClass]
  case inf.nan s q => cases s <;> simp [ranksAbove, Val.isNaN, rankClass]
  all_goals simp [ranksAbove, Val.isNaN, rankClass, unitsAt]

theorem above_irrefl (a : Val) : ¬ ranksAbove a a = true := by
  rw [ranksAbove_iff a a (Int.le_refl _) (Int.le_refl _)]
  omega

theorem above_asymm {a b : Val} (h : ranksAbove a b = true) : ¬ ranksAbove b a = true := by
  have ha : min (gridOf a) (gridOf b) ≤ gridOf a := by omega
  have hb : min (gridOf a) (gridOf b) ≤ gridOf b := by omega
  rw [ranksAbove_iff a b ha hb] at h
  rw [ranksAbove_iff b a hb ha]
  omega

/-- Ranking no higher is transitive, on a grid below all three values. -/
theorem not_above_trans {a b c : Val} (hab : ¬ ranksAbove a b = true) (hbc : ¬ ranksAbove b c = true) : ¬ ranksAbove a c = true := by
  obtain ⟨g, ha, hb, hc⟩ : ∃ g, g ≤ gridOf a ∧ g ≤ gridOf b ∧ g ≤ gridOf c :=
    ⟨min (gridOf a) (min (gridOf b) (gridOf c)), by omega, by omega, by omega⟩
  rw [ranksAbove_iff a b ha hb] at hab
  rw [ranksAbove_iff b c hb hc] at hbc
  rw [ranksAbove_iff a c ha hc]
  omega

/-! ### The ranking of lanes -/

section
variable (key : Nat → Val)

/-- Lane `a` stands before lane `b`. -/
def standsBefore (a b : Nat) : Prop := ranksAbove (key a) (key b) = true ∨ (¬ ranksAbove (key b) (key a) = true ∧ a < b)

theorem before_irrefl (a : Nat) : ¬ standsBefore key a a := by
  rintro (h | ⟨-, h⟩)
  · exact above_irrefl _ h
  · exact Nat.lt_irrefl a h

theorem before_asymm {a b : Nat} (h : standsBefore key a b) : ¬ standsBefore key b a := by
  rintro (h' | ⟨h', hb⟩) <;> obtain h | ⟨h, ha⟩ := h
  · exact above_asymm h h'
  · exact h h'
  · exact h' h
  · omega

/-- A lane that stands behind another does not rank above it. -/
theorem standsBefore.not_above {a b : Nat} (h : standsBefore key a b) : ¬ ranksAbove (key b) (key a) = true := by
  obtain h | ⟨h, -⟩ := h
  · exact above_asymm h
  · exact h

theorem rankLanes_perm : ∀ ls, (rankLanes key ls).Perm ls
  | [] => List.Perm.refl _
  | l :: ls => by
    rw [rankLanes]
    rw [List.append_assoc, List.singleton_append]
    refine List.perm_middle.trans (List.Perm.cons l ?_)
    rw [List.takeWhile_append_dropWhile]
    exact rankLanes_perm ls

theorem of_mem_takeWhile {p : Nat → Bool} : ∀ {r : List Nat} {m : Nat}, m ∈ r.takeWhile p → p m = true
  | [], _, hm => absurd hm List.not_mem_nil
  | a :: r, m, hm => by
    rw [List.takeWhile_cons] at hm
    split at hm
    next hp =>
      obtain rfl | hm := List.mem_cons.1 hm
      · exact hp
      · exact of_mem_takeWhile hm
    next => exact absurd hm List.not_mem_nil

/-- What a lane does not pass in a ranking of later lanes stands behind it. -/
theorem before_dropWhile {l : Nat} : ∀ r : List Nat, r.Pairwise (standsBefore key) → (∀ m ∈ r, l < m) →
    ∀ m ∈ r.dropWhile (fun m => ranksAbove (key m) (key l)), standsBefore key l m
  | [], _, _, m, hm => absurd hm List.not_mem_nil
  | a :: r, hr, hl, m, hm => by
    obtain ⟨ha, hr⟩ := List.pairwise_cons.1 hr
    rw [List.dropWhile_cons] at hm
    split at hm
    next => exact before_dropWhile r hr (fun m hm => hl m (List.mem_cons_of_mem a hm)) m hm
    next hp =>
      refine .inr ⟨?_, hl m hm⟩
      obtain rfl | hm := List.mem_cons.1 hm
      · exact hp
      · exact not_above_trans ((ha m hm).not_above key) hp

/-- The lanes come out in their order, when they come in in ascending order. -/
theorem rankLanes_sorted : ∀ ls : List Nat, ls.Pairwise (· < ·) → (rankLanes key ls).Pairwise (standsBefore key)
  | [], _ => List.Pairwise.nil
  | l :: ls, h => by
    obtain ⟨hl, hls⟩ := List.pairwise_cons.1 h
    have hr := rankLanes_sorted ls hls
    have hin : ∀ m ∈ rankLanes key ls, l < m := fun m hm => hl m ((rankLanes_perm key ls).mem_iff.1 hm)
    rw [rankLanes]
    generalize rankLanes key ls = r at hr hin
    have hdrop := before_dropWhile key r hr hin
    have hsplit := hr
    rw [← List.takeWhile_append_dropWhile (p := fun m => ranksAbove (key m) (key l)) (l := r), List.pairwise_append] at hsplit
    obtain ⟨htake, hrest, hcross⟩ := hsplit
    rw [List.append_assoc, List.singleton_append, List.pairwise_append]
    refine ⟨htake, List.pairwise_cons.2 ⟨hdrop, hrest⟩, fun m hm n hn => ?_⟩
    obtain rfl | hn := List.mem_cons.1 hn
    · exact .inl (of_mem_takeWhile hm)
    · exact hcross m hm n hn

/-- The place of a lane in a ranking counts the lanes before it. -/
theorem count_before {p : Nat → Bool} {a : Nat} (hb : ∀ m, p m = true ↔ standsBefore key m a) : ∀ {L : List Nat} {i : Nat},
    L.Pairwise (standsBefore key) → L[i]? = some a → (L.filter p).length = i
  | [], i, _, hi => by simp at hi
  | m :: L, 0, hp, hi => by
    obtain ⟨hm, -⟩ := List.pairwise_cons.1 hp
    obtain rfl : m = a := by simpa using hi
    have hnone : (m :: L).filter p = [] := List.filter_eq_nil_iff.2 fun n hn hpn => by
      obtain rfl | hn := List.mem_cons.1 hn
      · exact before_irrefl key n ((hb n).1 hpn)
      · exact before_asymm key (hm n hn) ((hb n).1 hpn)
    rw [hnone]
    rfl
  | m :: L, i + 1, hp, hi => by
    obtain ⟨hm, hL⟩ := List.pairwise_cons.1 hp
    have ha : L[i]? = some a := by simpa using hi
    rw [List.filter_cons_of_pos ((hb m).2 (hm a (List.mem_of_getElem? ha))), List.length_cons, count_before hb hL ha]

end

/-! ### The instruction -/

section
variable {t k : Nat} {mag : Bool} {img : Image}

/-- The lanes of a group, all enabled, in their order. -/
abbrev ranking (t : Nat) (mag : Bool) (img : Image) (g : Nat) : List Nat := rankLanes (fun m => topVal t mag (laneAt img (g + m))) (List.range 8)

theorem ranking_length (t : Nat) (mag : Bool) (img : Image) (g : Nat) : (ranking t mag img g).length = 8 :=
  (rankLanes_perm _ _).length_eq.trans List.length_range

theorem topLane_beyond {mask : Pred} {l : Nat} (h : k ≤ l % 8) : topLane t k mag mask img l = (0, 0xFFFFFFFF) := by
  rw [topLane, List.getElem?_eq_none (Nat.le_trans (List.length_take_le _ _) (by omega))]

theorem topLane_ranked {l : Nat} (hl : l < 128) (hk : l % 8 < k) (h4 : l % 8 < 4) :
    ∃ m, m < 8 ∧ (ranking t mag img (l / 8 * 8))[l % 8]? = some m ∧
      topLane t k mag (BitVec.allOnes 128) img l =
        (if t = 0 then (enter 0 (laneAt img (l / 8 * 8 + m))).1 else laneAt img (l / 8 * 8 + m), m) := by
  have hlen := ranking_length t mag img (l / 8 * 8)
  have hget := List.getElem?_eq_getElem (l := ranking t mag img (l / 8 * 8)) (i := l % 8) (by omega)
  refine ⟨_, ?_, hget, ?_⟩
  · exact List.mem_range.1 ((rankLanes_perm _ _).mem_iff.1 (List.getElem_mem _))
  · have hall : (List.range 8).filter (fun m => (BitVec.allOnes 128).getLsbD (l / 8 * 8 + m)) = List.range 8 :=
      List.filter_eq_self.2 fun m hm => by
        rw [BitVec.getLsbD_allOnes]
        exact decide_eq_true (by have := List.mem_range.1 hm; omega)
    rw [topLane, hall, List.getElem?_take_of_lt (by omega), hget]

/-- A ranked lane has as many lanes before it as its place says. -/
theorem ranking_count {g i a : Nat} (hi : (ranking t mag img g)[i]? = some a) {p : Nat → Bool}
    (hp : ∀ m, p m = true ↔ standsBefore (fun m => topVal t mag (laneAt img (g + m))) m a) : ((List.range 8).filter p).length = i := by
  rw [← ((rankLanes_perm _ _).filter p).length_eq]
  exact count_before _ hp (rankLanes_sorted _ _ List.pairwise_lt_range) hi

end

section
variable {h : Hd} {b : VRR} {s : State} {x : VReg} {d : Deck}

theorem vtopk_runs (hm : s.dk.guard h ≠ 0) (ht : s.dk.takeAll [b.a] = .inr ([x], d)) (htag : x.tag.toNat = 0 ∨ x.tag.toNat = 8) :
    ∃ fl, exec (.vtopk h b) s = .next (((((s.setDk d).writeV h 5 b.d (s.dk.guard h)
        (lanes fun l => (topLane x.tag.toNat (bits b.m.toNat 0 2 + 1) (b.m.getLsbD 2) (s.dk.guard h) x.data l).1) x.tag).writeV h 5 (b.d + 1) (s.dk.guard h)
        (lanes fun l => (topLane x.tag.toNat (bits b.m.toNat 0 2 + 1) (b.m.getLsbD 2) (s.dk.guard h) x.data l).2) 8).raiseFlags h 5 fl).ran h b.q (isQueueName b.a)) := by
  change ∃ fl, execVtopk h b s = _
  unfold execVtopk
  dsimp only
  rw [if_neg hm, State.operands_ready _ ht (fun q hq => absurd hq (Option.some_ne_none q).symm)
    (checkTags_pass (ok := fun t => t == 0 || t == 8) (x := x) (by simp) (by simpa using htag))]
  refine ⟨(laneTest (s.dk.guard h) fun l => (false, if x.tag.toNat = 0 then (enter 0 (laneAt x.data l)).2 else 0)).2, ?_⟩
  rw [Option.isSome_none, Bool.false_or, List.any_cons, List.any_nil, Bool.or_false]
  rfl

end

end Sys2Proof.Laws.VectorRanking


/-! # Conversions, the X-slot data movers, and O50 (spec 09) -/

namespace Sys2Proof.Laws.VectorConversions
open Sys2Proof Sys2Proof.Machine Sys2Proof.Laws
open Sys2Proof.Laws.Frames Sys2Proof.Laws.VectorMoves Sys2Proof.Laws.VectorCompares Sys2Proof.Laws.VectorArithmetic Sys2Proof.Laws.VectorRanking Sys2Proof.Laws.VectorFolds

section
variable {h : Hd} {b : VRR} {s : State} {x : VReg} {d : Deck}

/-! ### Conversions -/

/-- The tags that `vcvt` takes. -/
abbrev tagCvt (t : Nat) : Bool := isF t && t != 0x0C

theorem vcvt_same (r : s.Ready h [b.a] b.d [x] d) (hF : tagCvt x.tag.toNat = true) (hfmt : x.tag.toNat = b.b2 % 32) :
    exec (.vcvt h b) s = .next (s.gives h b.q 3 b.d [b.a] d x.data x.tag 0) := by
  change execVcvt h b s = _
  unfold execVcvt
  dsimp only
  rw [if_neg r.1, State.operands_ready _ r.2.1 (fun q e => State.room_setDk r.2.1 (r.2.2 q e)) (checkTags_pass (ok := tagCvt) (x := x) (by simp) hF)]
  change Host.Outcome.next (State.ran (if x.tag.toNat = b.b2 % 32 then _ else _) _ _ _) = _
  rw [if_pos hfmt]
  rfl

theorem lfsr_setDk (d : Deck) : (s.setDk d).modDk (fun d => { d with lfsr := lfsrStep d.lfsr }) = s.setDk { d with lfsr := lfsrStep d.lfsr } := by
  change (s.setDeck s.issue.deck d).modDeck s.issue.deck _ = s.setDeck s.issue.deck _
  rw [State.modDeck, setDeck_setDeck, State.getDeck_setDeck]

/-- The generator steps once for the syllable when it draws. -/
theorem drawn_setDk (c : Bool) (d : Deck) :
    (if c = true then (s.setDk d).modDk (fun d => { d with lfsr := lfsrStep d.lfsr }) else s.setDk d) =
      s.setDk (if c = true then { d with lfsr := lfsrStep d.lfsr } else d) := by
  cases c
  · rfl
  · exact lfsr_setDk d

/-- A part of the wider image lies within it. -/
theorem part_inside (p es ed : Nat) (he : 0 < es) (hd : 0 < ed) :
    (if es < ed then p % (max es ed / min es ed) * min es ed else 0) + min es ed ≤ ed := by
  split
  next hlt =>
    have hmax : max es ed = ed := Nat.max_eq_right (Nat.le_of_lt hlt)
    have hmin : min es ed = es := Nat.min_eq_left (Nat.le_of_lt hlt)
    rw [hmax, hmin, ← Nat.succ_mul]
    exact Nat.le_trans (Nat.mul_le_mul_right es (Nat.mod_lt p (Nat.div_pos (Nat.le_of_lt hlt) he))) (Nat.div_mul_le_self ed es)
  next => omega

theorem convCount_pos (t : Nat) : 0 < convCount t := by
  unfold convCount tagElems
  split
  · decide
  · split <;> decide

theorem convCount_fits (t : Nat) : tagBits t * convCount t ≤ 4096 := by
  unfold convCount
  split
  next h6 => rw [h6]; decide
  next => exact tagBits_elems t

theorem convert_setDk (ht : s.dk.takeAll [b.a] = .inr ([x], d)) (fmt rm e t code : Nat) :
    convert (s.setDk d).dk fmt rm e (convSource (s.setDk d).dk t code) = convert s.dk fmt rm e (convSource s.dk t code) := by
  obtain ⟨hd, -⟩ := Deck.takeAll_queues ht
  rw [State.dk_setDk]
  exact (congrArg (fun d : Deck => convert d fmt rm e (convSource d t code)) hd :)

theorem vcvt_elements (r : s.Ready h [b.a] b.d [x] d) (hF : tagCvt x.tag.toNat = true) {fmt : Nat} (hb : fmt = b.b2 % 32) (hfmt : x.tag.toNat ≠ fmt) :
    let t := x.tag.toNat
    let mask := s.dk.guard h
    let rm := if t = 7 ∧ fmt = 0 then 0 else convMode (bits b.b2 5 3) s.dk.fmode
    let n := min (convCount t) (convCount fmt)
    let p := bits b.m.toNat 0 2 % (max (convCount t) (convCount fmt) / n)
    let into := if convCount t < convCount fmt then p * n else 0
    let from_ := if convCount t < convCount fmt then 0 else p * n
    let drawn := if draws t fmt rm then { d with lfsr := lfsrStep d.lfsr } else d
    ∃ img fl, exec (.vcvt h b) s = .next ((((s.setDk drawn).writeV h 3 b.d (mask &&& laneRange fmt into n) img (BitVec.ofNat 5 fmt)).raiseFlags h 3 fl).ran h b.q
        ((pushOf b.d).isSome || isQueueName b.a)) ∧
      ∀ e, e < n → elemOn fmt mask (into + e) = true →
        elemAt fmt img (into + e) = (convert s.dk fmt rm (into + e) (convSource s.dk t (elemAt t x.data (from_ + e)))).1 % 2 ^ tagBits fmt := by
  intro t mask rm n p into from_ drawn
  have hinto : into + n ≤ convCount fmt := part_inside _ _ _ (convCount_pos t) (convCount_pos fmt)
  let r' := buildImage (tagBits fmt) (convCount fmt) (fun e => decide (into ≤ e ∧ e < into + n) && elemOn fmt mask e)
    fun e => convert s.dk fmt rm e (convSource s.dk t (elemAt t x.data (from_ + (e - into))))
  refine ⟨r'.1, r'.2, ?_, fun e he hon => ?_⟩
  · change execVcvt h b s = _
    unfold execVcvt
    dsimp only
    rw [if_neg r.1, State.operands_ready _ r.2.1 (fun q e => State.room_setDk r.2.1 (r.2.2 q e)) (checkTags_pass (ok := tagCvt) (x := x) (by simp) hF), ← hb]
    change Host.Outcome.next (State.ran (if x.tag.toNat = fmt then _ else _) _ _ _) = _
    rw [if_neg hfmt, fmode_setDk r.2.1]
    simp only [convert_setDk r.2.1, drawn_setDk]
    rw [List.any_cons, List.any_nil, Bool.or_false]
    rfl
  · have helem := buildImage_elem (fun e => decide (into ≤ e ∧ e < into + n) && elemOn fmt mask e)
      (fun e => convert s.dk fmt rm e (convSource s.dk t (elemAt t x.data (from_ + (e - into))))) (convCount_fits fmt) (e := into + e) (by omega)
    refine helem.trans ?_
    rw [if_pos (by rw [hon, Bool.and_true]; exact decide_eq_true (by omega)), Nat.add_sub_cancel_left]

/-! ### The row store and the head of a result queue -/

theorem laneBytes_bit (m : Pred) {k : Nat} (h : k < 512) : (laneBytes m).getLsbD k = m.getLsbD (k / 4) := by
  have hl : k / 4 < 128 := by omega
  unfold laneBytes
  split
  next hm => rw [hm, wholeMask, BitVec.getLsbD_allOnes, BitVec.getLsbD_allOnes, decide_eq_true h, decide_eq_true hl]
  next =>
    have hlt := mask_lt 4 15 (by decide) m.toNat.testBit (List.range 128)
    have hf := mask_fold 4 15 (by decide) m.toNat.testBit (List.range 128) (k / 4) (by simpa using hl)
    rw [List.getElem_range] at hf
    rw [BitVec.getLsbD, BitVec.toNat_ofNat]
    refine (congrArg (fun n : Nat => n.testBit k) (Nat.mod_eq_of_lt (Nat.lt_of_lt_of_le hlt (Nat.pow_le_pow_right (by decide) (Nat.le_of_eq (congrArg (4 * ·) List.length_range)))))).trans ?_
    have hk : k = 4 * (k / 4) + k % 4 := by omega
    have h4 : k % 4 < 4 := Nat.mod_lt _ (by decide)
    conv => lhs; rw [hk, testBit_field _ 4 _ _ h4, hf]
    split
    next hm => rw [BitVec.getLsbD, hm, show 15 = 2 ^ 4 - 1 from rfl, Nat.testBit_two_pow_sub_one, decide_eq_true h4]
    next hm => rw [BitVec.getLsbD, Nat.zero_testBit, Bool.eq_false_iff.2 hm]

theorem vst_runs {a : Nat} (hm : s.dk.guard h ≠ 0) (hw : s.waitsLds [xField b.na, xField b.nb] = false) (ht : s.dk.takeAll [b.d] = .inr ([x], d))
    (hF : isF x.tag.toNat = true) (ha : addrOf (s.x (xField b.na) + s.x (xField b.nb)) = .store a) (hbar : s.frameBarred (a / 16384) = false)
    (hpub : (s.ck.tile (a / 16384)).published = false) :
    exec (.vst h b) s =
      .next (((s.setDk d).access (s.clock + 6) s.cn s.dn true (deckPrio s.dn true) (.write (a / 512) (laneBytes (s.dk.guard h)) x.data (some x.tag))).ran h b.q
        (isQueueName b.d)) := by
  have hstall : s.wouldStall b.q [b.d] = false := by rw [State.wouldStall, ht, Bool.and_false]
  have htag : storeTag [x] = none := by simp [storeTag, tagFault, tagAny, hF]
  change execVst h b s = _
  unfold execVst
  dsimp only
  rw [if_neg hm, if_neg (by rw [hw, hstall]; decide), ha]
  dsimp only
  rw [if_neg (by rw [hbar]; decide), State.operands_ready _ ht (fun q hq => absurd hq (Option.some_ne_none q).symm)
    (by rw [htag, if_neg (by rw [hpub]; decide)]; rfl), List.any_cons, List.any_nil, Bool.or_false]
  rfl

theorem mvq_runs {c : XRR} (hr : s.Runs h []) (ht : s.dk.takeAll [mvqName c] = .inr ([x], d)) :
    exec (.mvq h c) s = .next (((s.setDk d).writeX h 2 c.xd (BitVec.ofNat 64 x.data.toNat)).ran h (bits c.m.toNat 13 2) true) := by
  have hq : isQueueName (mvqName c) = true := decide_eq_true (by unfold mvqName; split <;> omega)
  change execMvq h c s = _
  rw [execMvq, State.scalar_runs _ hr, State.operands_ready _ ht (fun q hq => absurd hq (Option.some_ne_none q).symm) rfl, List.any_cons, hq]
  rfl

end

end Sys2Proof.Laws.VectorConversions


/-! # O50, assembled (spec 04, 09) -/

namespace Sys2Proof.Laws.VectorReductions
open Sys2Proof Sys2Proof.Machine Sys2Proof.Laws
open Sys2Proof.Laws.VectorMoves Sys2Proof.Laws.VectorCompares Sys2Proof.Laws.VectorRanking Sys2Proof.Laws.VectorFolds Sys2Proof.Laws.VectorConversions

theorem not_isFTag_of_isNTag {t : Nat} (h : isNTag t = true) : isFTag t = false := by
  refine Bool.eq_false_iff.2 fun hf => ?_
  simp only [isNTag, isN, isFTag, Bool.and_eq_true, decide_eq_true_eq] at h hf
  omega

section
variable {h : Hd} {b : VRR} {s : State} {x : VReg} {d : Deck}

theorem vreduce_elements (r : s.Ready h [b.a] b.d [x] d) (hA : tagA x.tag.toNat = true) (k : Fold) (rmo : Nat) (sat : Bool) :
    let t := x.tag.toNat
    let mask := s.dk.guard h
    ∃ img fl code, Host.Outcome.next (s.vreduce h b k rmo sat) = (Host.Outcome.next (s.gives h b.q 5 b.d [b.a] d img x.tag fl) : Out) ∧
      (∀ e, e < tagElems t → elemOn t mask e = true → elemAt t img e = code) ∧
      (isNTag t = true → code = intCode t sat (k.ints t (((List.range (tagElems t)).filter fun e => mask.getLsbD (laneOf t e)).map
        fun e => intOf t (elemAt t x.data e))) % 2 ^ tagBits t ∧ fl = 0) ∧
      (isFTag t = true → code = (reduce k t (arithMode rmo s.dk.fmode) sat mask x.data).1 % 2 ^ tagBits t) := by
  intro t mask
  refine ⟨_, _, _, vreduce_gives r hA k rmo sat, fun e he hon => (mapElems_are t mask _).1 e he hon, fun hN => ?_, fun _ => rfl⟩
  have hred : reduce k t (arithMode rmo s.dk.fmode) sat mask x.data = (intCode t sat (k.ints t ((intElems t mask x.data).map (·.2))), 0) :=
    if_neg (by rw [not_isFTag_of_isNTag hN]; decide)
  rw [← intElems_values]
  exact ⟨congrArg (fun c : Res => c.1 % 2 ^ tagBits t) hred, congrArg Prod.snd hred⟩

/-- What `vscan` computes of integers. -/
theorem vscan_ints (b : VRR) (t : Nat) (zs : List Int) : (scanKind b).ints t zs =
    (match bits b.m.toNat 0 2 with | 0 => zs.foldl (· + ·) 0 | 1 => zs.foldl max (intMin t) | _ => zs.foldl min (intMax t)) := by
  unfold scanKind
  generalize bits b.m.toNat 0 2 = n
  obtain _ | _ | n := n <;> rfl

/-! ### Top-k selection -/

/-- The order in which `vtopk` ranks, in the words of the statement. -/
theorem above_iff (u v : Val) : (!v.isNaN && (u.isNaN || decide (v.cmp u = some .lt))) = ranksAbove u v := by
  have hlt : v.lt u = decide (v.cmp u = some .lt) := Bool.eq_iff_iff.2 (beq_iff_eq.trans decide_eq_true_iff.symm)
  rw [ranksAbove, hlt]
  cases v.isNaN <;> rfl

/-- A lane stands before another when it ranks above it, or is the lower of two that do not. -/
theorem before_above (key : Nat → Val) (m a : Nat) :
    ((!(key a).isNaN && ((key m).isNaN || decide ((key a).cmp (key m) = some .lt))) ||
      (!(!(key m).isNaN && ((key a).isNaN || decide ((key m).cmp (key a) = some .lt))) && decide (m < a))) = true ↔ standsBefore key m a := by
  rw [above_iff, above_iff, Bool.or_eq_true, Bool.and_eq_true, Bool.not_eq_true', decide_eq_true_eq, ← Bool.not_eq_true, standsBefore]

theorem above_ofInt (z w : Int) : ranksAbove (Val.ofInt w) (Val.ofInt z) = true ↔ z < w := by
  have hunits : ∀ z : Int, unitsAt 0 (Val.ofInt z) = z := fun z => by
    change (if decide (z < 0) = true then -((z.natAbs : Int) * 2 ^ 0) else (z.natAbs : Int) * 2 ^ 0) = z
    rw [Int.pow_zero, Int.mul_one]
    by_cases hz : z < 0
    · rw [if_pos (decide_eq_true hz)]
      omega
    · rw [if_neg (by rwa [decide_eq_true_eq])]
      omega
  rw [ranksAbove_iff (Val.ofInt w) (Val.ofInt z) (Int.le_refl 0) (Int.le_refl 0), hunits, hunits]
  have hclass : rankClass (Val.ofInt z) = rankClass (Val.ofInt w) := rfl
  omega

/-- The order of integers. -/
theorem before_ofInt (z : Nat → Int) (m a : Nat) : standsBefore (fun m => Val.ofInt (z m)) m a ↔ z a < z m ∨ (z m = z a ∧ m < a) := by
  rw [standsBefore, above_ofInt, above_ofInt]
  omega

theorem laneAt_lt (img : Image) (l : Nat) : laneAt img l < 2 ^ 32 := bits_lt _ _ _

theorem enter_lt {a : Nat} (h : a < 2 ^ 32) : (enter 0 a).1 < 2 ^ 32 := by
  have hnan : canonNaN (ffmtOf 0) < 2 ^ 32 := by decide
  unfold enter
  dsimp only
  split
  · exact hnan
  · exact h

theorem lane_beyond {t k : Nat} {mag : Bool} {mask : Pred} {img : Image} {l : Nat} (hl : l < 128) (h : k ≤ l % 8) :
    bits (lanes fun l => (topLane t k mag mask img l).1).toNat (32 * l) 32 = 0 ∧
      bits (lanes fun l => (topLane t k mag mask img l).2).toNat (32 * l) 32 = 0xFFFFFFFF := by
  rw [lane_lanes _ hl, lane_lanes _ hl, topLane_beyond h]
  exact ⟨rfl, rfl⟩

/-- A lane of the two results of a ranking of enabled lanes: the value and the number of the lane that stands in its place. -/
theorem lane_ranked {t k : Nat} {mag : Bool} {img : Image} {l : Nat} (hl : l < 128) (hk : l % 8 < k) (h4 : l % 8 < 4) :
    ∃ m, m < 8 ∧ (ranking t mag img (l / 8 * 8))[l % 8]? = some m ∧
      bits (lanes fun l => (topLane t k mag (BitVec.allOnes 128) img l).1).toNat (32 * l) 32 =
        (if t = 0 then (enter 0 (laneAt img (l / 8 * 8 + m))).1 else laneAt img (l / 8 * 8 + m)) ∧
      bits (lanes fun l => (topLane t k mag (BitVec.allOnes 128) img l).2).toNat (32 * l) 32 = m := by
  obtain ⟨m, hm, hget, htop⟩ := topLane_ranked (t := t) (k := k) (mag := mag) (img := img) hl hk h4
  refine ⟨m, hm, hget, ?_, ?_⟩
  · rw [lane_lanes _ hl, htop]
    refine Nat.mod_eq_of_lt ?_
    dsimp only
    split
    · exact enter_lt (laneAt_lt _ _)
    · exact laneAt_lt _ _
  · rw [lane_lanes _ hl, htop]
    exact Nat.mod_eq_of_lt (by omega)

/-- The key of a lane in the words of the statement. -/
abbrev laneKey (t : Nat) (mag : Bool) (img : Image) (m : Nat) : Val :=
  let v := if t = 0 then decIEEE fp32 (laneAt img m) else Val.ofInt (intOf t (elemAt t img m))
  if mag then v.abs else v

theorem topVal_key {t : Nat} (ht : t = 0 ∨ t = 8) (mag : Bool) (img : Image) (m : Nat) : topVal t mag (laneAt img m) = laneKey t mag img m := by
  obtain rfl | rfl := ht <;> rfl

theorem vtopk_lanes (hm : s.dk.guard h ≠ 0) (ht : s.dk.takeAll [b.a] = .inr ([x], d)) (h8 : x.tag.toNat = 0 ∨ x.tag.toNat = 8) :
    let t := x.tag.toNat
    let mask := s.dk.guard h
    ∃ v i fl, exec (.vtopk h b) s = .next (((((s.setDk d).writeV h 5 b.d mask v x.tag).writeV h 5 (b.d + 1) mask i 8).raiseFlags h 5 fl).ran h b.q (isQueueName b.a)) ∧
      (∀ l, l < 128 → bits b.m.toNat 0 2 + 1 ≤ l % 8 → bits v.toNat (32 * l) 32 = 0 ∧ bits i.toNat (32 * l) 32 = 0xFFFFFFFF) ∧
      (mask = BitVec.allOnes 128 → ∀ l, l < 128 → l % 8 < bits b.m.toNat 0 2 + 1 → l % 8 < 4 →
        let m := bits i.toNat (32 * l) 32
        m < 8 ∧ (ranking t (b.m.getLsbD 2) x.data (l / 8 * 8))[l % 8]? = some m ∧
          bits v.toNat (32 * l) 32 = if t = 0 then (enter 0 (laneAt x.data (l / 8 * 8 + m))).1 else laneAt x.data (l / 8 * 8 + m)) := by
  intro t mask
  obtain ⟨fl, hrun⟩ := vtopk_runs (b := b) hm ht h8
  refine ⟨_, _, fl, hrun, fun l hl hk => lane_beyond hl hk, fun hall l hl hk h4 => ?_⟩
  obtain ⟨m, hm, hget, hv, hi⟩ := lane_ranked (t := t) (mag := b.m.getLsbD 2) (img := x.data) hl hk h4
  rw [show s.dk.guard h = _ from hall]
  dsimp only
  rw [hi]
  exact ⟨hm, hget, hv⟩

/-- As many lanes of the group as its place says stand before a ranked lane, in the words of the statement. -/
theorem ranked_count {t i a g : Nat} (ht : t = 0 ∨ t = 8) {mag : Bool} {img : Image} (hi : (ranking t mag img g)[i]? = some a) {p : Nat → Bool}
    (hp : ∀ m, p m = true ↔ standsBefore (fun m => laneKey t mag img (g + m)) m a) : ((List.range 8).filter p).length = i := by
  refine ranking_count hi fun m => ?_
  simp only [topVal_key ht]
  exact hp m

end

/-- Settles O50: integer scans by the lanes they fold, floating-point scans by the levels of R108's tree, and rankings by counting the lanes before one. -/
theorem vectorReductionsAndConversions : Obligations.VectorReductionsAndConversions := by
  unfold Obligations.VectorReductionsAndConversions
  intro h b c s x d
  dsimp only
  refine ⟨fun r hA i k sat f hmem => ?_, fun r hA => ?_, fun r h0 i k hmem => ?_, fun r hF hne => ⟨fun hfmt => ?_, fun hfmt _ => ?_⟩, fun hm ht h8 => ?_, ?_, ?_⟩
  · simp only [List.mem_cons, Prod.mk.injEq, List.not_mem_nil, or_false] at hmem
    obtain ⟨rfl, rfl, rfl, rfl⟩ | ⟨rfl, rfl, rfl, rfl⟩ | ⟨rfl, rfl, rfl, rfl⟩ := hmem
    · exact vreduce_elements r hA .sum b.rmo b.sat
    · exact vreduce_elements r hA .max 1 false
    · exact vreduce_elements r hA .min 1 false
  · obtain ⟨img, fl, hrun, hel⟩ := vscan_elements r hA
    refine ⟨img, fl, hrun, fun hN e he hon => ?_, fun hF => ?_⟩
    · refine (hel.1 e he hon).trans ?_
      dsimp only
      rw [prefixes_int _ (not_isFTag_of_isNTag hN) _ _ _ _ he]
      exact congrArg (fun z => intCode x.tag.toNat (b.m.getLsbD 2) z % 2 ^ tagBits x.tag.toNat) (vscan_ints b _ _)
    · rw [prefixes_float _ hF] at hel
      exact hel
  · simp only [List.mem_cons, Prod.mk.injEq, List.not_mem_nil, or_false] at hmem
    obtain ⟨rfl, rfl⟩ | ⟨rfl, rfl⟩ | ⟨rfl, rfl⟩ | ⟨rfl, rfl⟩ := hmem
    · exact vestimate_elements r h0 .rcp
    · exact vestimate_elements r h0 .rsq
    · exact vestimate_elements r h0 .exp2
    · exact vestimate_elements r h0 .log2
  · exact vcvt_same r (by simp [tagCvt, hF, hne]) hfmt
  · have hel := vcvt_elements r (by simp [tagCvt, hF, hne]) rfl hfmt
    simpa only [convMode, draws, lfsrStep, Bool.and_eq_true, beq_iff_eq, bne_iff_ne, ne_eq, hfmt, not_false_eq_true, and_true] using hel
  · obtain ⟨v, i, fl, hrun, hbeyond, hranked⟩ := vtopk_lanes (b := b) hm ht h8
    refine ⟨v, i, fl, hrun, hbeyond, fun ht8 hmag hall l hl hk h4 => ?_, fun hall l hl hk h4 => ?_⟩
    · obtain ⟨hlt, hget, hv⟩ := hranked hall l hl hk h4
      refine ⟨hlt, by rw [hv, if_neg (by rw [ht8]; decide)]; rfl, ranked_count h8 hget fun m => ?_⟩
      rw [hmag, ht8, decide_eq_true_eq]
      exact (before_ofInt (fun m => intOf 8 (elemAt 8 x.data (l / 8 * 8 + m))) m _).symm
    · obtain ⟨hlt, hget, hv⟩ := hranked hall l hl hk h4
      refine ⟨hlt, ?_, ranked_count h8 hget fun m =>
        before_above (fun m => laneKey x.tag.toNat (b.m.getLsbD 2) x.data (l / 8 * 8 + m)) m _⟩
      rw [hv]
      by_cases h0 : x.tag.toNat = 0
      · rw [if_pos h0]
        simp only [h0, true_and]
        unfold enter
        dsimp only
        split <;> rename_i hn
        · exact (if_pos hn).symm
        · exact (if_neg hn).symm
      · rw [if_neg h0, if_neg fun hn => h0 hn.1]
        rfl
  · exact fun a hm hw ht hF ha hbar hpub => ⟨_, fun k hk => laneBytes_bit _ hk, vst_runs hm hw ht hF ha hbar hpub⟩
  · exact fun hr ht => mvq_runs hr ht

end Sys2Proof.Laws.VectorReductions


/-! # The cells of the array's accumulators (spec 04, R101-R105): O52 -/

namespace Sys2Proof.Laws.AccumulatorCells
open Sys2Proof Sys2Proof.Machine Sys2Proof.Laws

/-! ### Adding to a cell -/

theorem addCell_sum (cell : BitVec 128) (p : Int) (nan : Bool) :
    (addCell cell p nan).setWidth 112 = BitVec.ofInt 112 ((cell.setWidth 112).toInt + p) := by
  apply BitVec.eq_of_toNat_eq
  have hlt := (BitVec.ofInt 112 ((cell.setWidth 112).toInt + p)).isLt
  rw [BitVec.toNat_setWidth, addCell, BitVec.toNat_ofNat]
  split <;> omega

theorem addCell_overflow (cell : BitVec 128) (p : Int) (nan : Bool) : let z := (cell.setWidth 112).toInt + p
    (addCell cell p nan).getLsbD 112 = (nan || cell.getLsbD 112 || decide (z < -(2 ^ 111) ∨ 2 ^ 111 ≤ z)) := by
  intro z
  have hlt := (BitVec.ofInt 112 z).isLt
  rw [addCell, BitVec.getLsbD, BitVec.toNat_ofNat, Nat.testBit_mod_two_pow, Nat.testBit_eq_decide_div_mod_eq, decide_eq_true (by decide), Bool.true_and]
  change decide (((BitVec.ofInt 112 z).toNat + if _ = true then 2 ^ 112 else 0) / 2 ^ 112 % 2 = 1) = _
  cases nan || cell.getLsbD 112 || decide (z < -(2 ^ 111) ∨ 2 ^ 111 ≤ z)
  · rw [if_neg (by decide)]
    exact decide_eq_false (by omega)
  · rw [if_pos rfl]
    exact decide_eq_true (by omega)

/-- A sum in range is held exactly. -/
theorem addCell_exact {cell : BitVec 128} {p : Int} (h : cell.getLsbD 112 = false) (hlow : -2 ^ 111 ≤ (cell.setWidth 112).toInt + p)
    (hhigh : (cell.setWidth 112).toInt + p < 2 ^ 111) :
    (addCell cell p false).getLsbD 112 = false ∧ ((addCell cell p false).setWidth 112).toInt = (cell.setWidth 112).toInt + p := by
  constructor
  · rw [addCell_overflow, h]
    exact decide_eq_false (by omega)
  · rw [addCell_sum, BitVec.toInt_ofInt]
    exact Int.bmod_eq_of_le (by omega) (by omega)

theorem foldl_addCell (ps : List Int) (cell : BitVec 128) (h : cell.getLsbD 112 = false)
    (hr : ∀ k, k ≤ ps.length → -2 ^ 111 ≤ (cell.setWidth 112).toInt + (ps.take k).sum ∧ (cell.setWidth 112).toInt + (ps.take k).sum < 2 ^ 111) :
    (ps.foldl (fun c p => addCell c p false) cell).getLsbD 112 = false ∧
      ((ps.foldl (fun c p => addCell c p false) cell).setWidth 112).toInt = (cell.setWidth 112).toInt + ps.sum := by
  induction ps generalizing cell with
  | nil => exact ⟨h, by rw [List.foldl_nil, List.sum_nil, Int.add_zero]⟩
  | cons p ps ih =>
    have h1 := hr 1 (by rw [List.length_cons]; omega)
    rw [List.take_succ_cons, List.take_zero, List.sum_singleton] at h1
    obtain ⟨hbit, hsum⟩ := addCell_exact h h1.1 h1.2
    obtain ⟨hbit', hsum'⟩ := ih (addCell cell p false) hbit fun k hk => by
      have hk1 := hr (k + 1) (by rw [List.length_cons]; omega)
      rw [List.take_succ_cons, List.sum_cons, ← Int.add_assoc, ← hsum] at hk1
      exact hk1
    exact ⟨hbit', by rw [List.foldl_cons, hsum', hsum, List.sum_cons, Int.add_assoc]⟩

/-! ### Reading a cell out -/

/-- The code of a normal FP32 number: its sign, and its significand and exponent. -/
def normalCode (s : Bool) (m n : Nat) : Nat := (if s then 2 ^ 31 else 0) + (n * 2 ^ 23 + m)

/-- One rounding to a normal FP32 number. -/
theorem rnd_fp32 (rm u : Nat) (s : Bool) {mag : Nat} {e : Int} {lo rem k : Nat} (hmag : mag ≠ 0) (hgrid : toGrid mag e (Nat.log2 mag + e - 23) = (lo, rem, k))
    (hlow : -126 ≤ (Nat.log2 mag : Int) + e) (hhigh : (Nat.log2 mag : Int) + e ≤ 126) (hlo : lo < 2 ^ 24) :
    (rndIEEE fp32 rm u (.fin s mag e)).1 =
      normalCode s (lo + if roundsUp rm u s lo rem k then 1 else 0) ((Nat.log2 mag : Int) + e + 126).toNat := by
  have hbias : (1 : Int) - fp32.bias = -126 := rfl
  have hmb : (fp32.mb : Int) = 23 := rfl
  rw [rndIEEE]
  dsimp only
  rw [if_neg hmag, hbias, hmb, Int.max_eq_left hlow, hgrid]
  dsimp only
  rw [if_neg (Int.not_lt.2 hlow), Int.sub_neg]
  have hn : lo + (if roundsUp rm u s lo rem k then 1 else 0) ≤ 2 ^ 24 := by split <;> omega
  rw [if_neg (by
    change ¬ (2 ^ 8 - 1) * 2 ^ 23 ≤ (((Nat.log2 mag : Int) + e + 126).toNat * 2 ^ 23 + (lo + if roundsUp rm u s lo rem k then 1 else 0))
    generalize (lo + if roundsUp rm u s lo rem k then 1 else 0) = n at hn
    omega)]
  rfl

/-- A significand in any scale rounds to its own code. -/
theorem rnd_normal (rm u : Nat) (s : Bool) {m n : Nat} (k : Nat) (hm : 2 ^ 23 ≤ m) (hm' : m < 2 ^ 24) (hn : n ≤ 252) :
    (rndIEEE fp32 rm u (.fin s (m * 2 ^ k) (n - 149 - k))).1 = normalCode s m n := by
  have hk : 0 < 2 ^ k := Nat.two_pow_pos k
  have hmag : m * 2 ^ k ≠ 0 := Nat.mul_ne_zero (by omega) (Nat.ne_of_gt hk)
  have hlog : Nat.log2 (m * 2 ^ k) = 23 + k := by
    rw [Nat.log2_eq_iff hmag, Nat.pow_succ, Nat.pow_add, Nat.mul_right_comm]
    exact ⟨Nat.mul_le_mul_right _ hm, Nat.mul_lt_mul_of_pos_right hm' hk⟩
  have hg : (((m * 2 ^ k).log2 : Nat) : Int) + (n - 149 - k) - 23 = n - 149 := by rw [hlog]; omega
  have hgrid : ∃ k', toGrid (m * 2 ^ k) (n - 149 - k) (n - 149) = (m, 0, k') := by
    unfold toGrid
    split
    next hle =>
      obtain rfl : k = 0 := by omega
      exact ⟨0, by simp⟩
    next =>
      have hsub : ((n : Int) - 149 - (n - 149 - k)).toNat = k := by omega
      dsimp only
      rw [hsub, Nat.mul_div_cancel _ hk, Nat.mul_mod_left]
      exact ⟨k, rfl⟩
  obtain ⟨k', hgrid⟩ := hgrid
  have hno : roundsUp rm u s m 0 k' = false := by
    unfold roundsUp
    exact if_pos rfl
  rw [rnd_fp32 rm u s hmag (by rw [hg]; exact hgrid) (by omega) (by omega) hm', hno, if_neg (by decide)]
  congr 1
  omega

/-- The code of a normal number is read back as that number. -/
theorem dec_normal (s : Bool) {m n : Nat} (hm : 2 ^ 23 ≤ m) (hm' : m < 2 ^ 24) (hn : n ≤ 252) :
    decIEEE fp32 (normalCode s m n) = .fin s m (n - 149) := by
  have hsign : (bits (normalCode s m n) 31 1 == 1) = s := by
    cases s
    · exact beq_false_of_ne (by simp only [normalCode, bits, Bool.false_eq_true, if_false]; omega)
    · exact beq_iff_eq.2 (by simp only [normalCode, bits, if_true]; omega)
  have hex : bits (normalCode s m n) 23 8 = n + 1 := by
    cases s <;> simp only [normalCode, bits, Bool.false_eq_true, if_false, if_true] <;> omega
  have hfr : bits (normalCode s m n) 0 23 = m - 2 ^ 23 := by
    cases s <;> simp only [normalCode, bits, Bool.false_eq_true, if_false, if_true] <;> omega
  unfold decIEEE
  change (if bits (normalCode s m n) 23 8 = 2 ^ 8 - 1 then _ else if bits (normalCode s m n) 23 8 = 0 then _ else
    Val.fin (bits (normalCode s m n) 31 1 == 1) (bits (normalCode s m n) 0 23 + 2 ^ 23) ((bits (normalCode s m n) 23 8 : Nat) - 127 - 23)) = _
  rw [if_neg (by omega), if_neg (by omega), hsign, hex, hfr, Nat.sub_add_cancel hm]
  congr 1
  omega

/-! ### A cell -/

/-- What the rounding of a cell's sum keeps: 24 bits of it. -/
theorem toGrid_bounds {mag : Nat} {e : Int} (h : mag ≠ 0) :
    2 ^ 23 ≤ (toGrid mag e (Nat.log2 mag + e - 23)).1 ∧ (toGrid mag e (Nat.log2 mag + e - 23)).1 < 2 ^ 24 := by
  obtain ⟨hlow, hhigh⟩ := (Nat.log2_eq_iff h (k := Nat.log2 mag)).1 rfl
  generalize Nat.log2 mag = L at *
  unfold toGrid
  split
  next hle =>
    obtain ⟨k, hk⟩ : ∃ k, 23 = L + k := ⟨23 - L, by omega⟩
    have hsub : (e - (L + e - 23)).toNat = k := by omega
    rw [hsub, show (24 : Nat) = L + 1 + k by omega, hk, Nat.pow_add, Nat.pow_add]
    exact ⟨Nat.mul_le_mul_right _ hlow, Nat.mul_lt_mul_of_pos_right hhigh (Nat.two_pow_pos _)⟩
  next hle =>
    obtain ⟨k, hk⟩ : ∃ k, L = 23 + k := ⟨L - 23, by omega⟩
    have hsub : ((L : Int) + e - 23 - e).toNat = k := by omega
    rw [hk] at hlow hhigh
    dsimp only
    rw [hsub, Nat.le_div_iff_mul_le (Nat.two_pow_pos _), Nat.div_lt_iff_lt_mul (Nat.two_pow_pos _), ← Nat.pow_add, ← Nat.pow_add, show 24 + k = 23 + k + 1 by omega]
    exact ⟨hlow, hhigh⟩

/-- A sum of a cell rounds to 0 or to a normal number. -/
theorem rnd_cell (z : Int) (hz : z.natAbs ≤ 2 ^ 111) (h : z ≠ 0) : ∃ m n, 2 ^ 23 ≤ m ∧ m < 2 ^ 24 ∧ n ≤ 252 ∧
    (rndIEEE fp32 0 0 (.fin (decide (z < 0)) z.natAbs (-40))).1 = normalCode (decide (z < 0)) m n := by
  have hmag : z.natAbs ≠ 0 := Int.natAbs_ne_zero.2 h
  have hlog : Nat.log2 z.natAbs ≤ 111 := by
    rw [← Nat.lt_succ_iff, Nat.log2_lt hmag]
    exact Nat.lt_of_le_of_lt hz (by decide)
  obtain ⟨hlow, hhigh⟩ := toGrid_bounds (e := -40) hmag
  generalize hr : toGrid z.natAbs (-40) (Nat.log2 z.natAbs + -40 - 23) = r at hlow hhigh
  obtain ⟨lo, rem, k⟩ := r
  rw [rnd_fp32 0 0 _ hmag hr (by omega) (by omega) hhigh]
  generalize Nat.log2 z.natAbs = L at *
  by_cases hup : roundsUp 0 0 (decide (z < 0)) lo rem k = true ∧ lo = 2 ^ 24 - 1
  · refine ⟨2 ^ 23, ((L : Int) + -40 + 126).toNat + 1, Nat.le_refl _, by decide, by omega, ?_⟩
    rw [if_pos hup.1, hup.2, normalCode, normalCode]
    omega
  · refine ⟨_, _, ?_, ?_, ?_, rfl⟩
    · dsimp only at hlow; omega
    · dsimp only at hhigh
      split
      next hu =>
        have hne : lo ≠ 2 ^ 24 - 1 := fun h => hup ⟨hu, h⟩
        omega
      next => exact hhigh
    · omega

/-- What is left of a readout after the first rounding, with a scale of 1: the code as it is. -/
theorem readOut_normal (cv : Curve) (lfsr : BitVec 32) (rm e : Nat) (s : Bool) {m n : Nat} (hm : 2 ^ 23 ≤ m) (hm' : m < 2 ^ 24) (hn : n ≤ 252) :
    (convertWith cv 0 lfsr 0 rm e (decIEEE fp32 (rndIEEE fp32 0 0 ((decIEEE fp32 (normalCode s m n)).mul (decIEEE fp32 0x3F800000)).1).1)).1 =
      normalCode s m n := by
  have hone : decIEEE fp32 0x3F800000 = .fin false (2 ^ 23) (-23) := by decide
  have hmul : (decIEEE fp32 (normalCode s m n)).mul (decIEEE fp32 0x3F800000) = (.fin s (m * 2 ^ 23) (n - 149 - (23 : Nat)), 0) := by
    rw [hone, dec_normal s hm hm' hn, Val.mul, Bool.bne_false]
    rfl
  rw [hmul, rnd_normal 0 0 s 23 hm hm' hn, dec_normal s hm hm' hn, convertWith]
  have hexact := rnd_normal rm (mix lfsr.toNat e) s 0 hm hm' hn
  rw [Nat.pow_zero, Nat.mul_one, show ((n : Int) - 149 - (0 : Nat)) = n - 149 from Int.sub_zero _] at hexact
  exact hexact

theorem cell_sum {q : ReadOut} {cell : BitVec 128} (e : Nat) (hseq : q.seqn = false) (hfmt : q.fmt = 0) (hms : q.ms = 0x3F800000)
    (h : cell.getLsbD 112 = false) : let z := (cell.setWidth 112).toInt
    (q.cell cell e).1 = (rndIEEE fp32 0 0 (.fin (decide (z < 0)) z.natAbs (-40))).1 := by
  intro z
  have hz : z.natAbs ≤ 2 ^ 111 := by
    have hlow := BitVec.le_toInt (cell.setWidth 112)
    have hhigh := BitVec.toInt_lt (x := cell.setWidth 112)
    omega
  rw [ReadOut.cell, hseq, h, hfmt, hms]
  change (convertWith q.cv 0 q.lfsr 0 q.rm (128 * q.j + e) (decIEEE fp32 (rndIEEE fp32 0 0
    ((decIEEE fp32 (rndIEEE fp32 0 0 (.fin (decide (z < 0)) z.natAbs (-40))).1).mul (decIEEE fp32 0x3F800000)).1).1)).1 = _
  by_cases h0 : z = 0
  · rw [h0]
    rfl
  · obtain ⟨m, n, hm, hm', hn, hcode⟩ := rnd_cell z hz h0
    rw [hcode]
    exact readOut_normal q.cv q.lfsr q.rm _ _ hm hm' hn

theorem cell_overflowed {q : ReadOut} {cell : BitVec 128} (e : Nat) (hseq : q.seqn = false) (hfmt : q.fmt = 0) (h : cell.getLsbD 112 = true) :
    (q.cell cell e).1 = 0x7FC00000 ∧ (q.cell cell e).2.getLsbD 4 = true := by
  have hnan : decIEEE fp32 (canonNaN fp32) = .nan false := by decide
  have hmul : ∃ fl, (Val.nan false).mul (decIEEE fp32 q.ms.toNat) = (.nan false, fl) := by
    cases decIEEE fp32 q.ms.toNat <;> exact ⟨_, rfl⟩
  obtain ⟨fl, hmul⟩ := hmul
  rw [ReadOut.cell, hseq, h, hfmt, if_neg (by decide), if_pos rfl]
  dsimp only
  rw [hnan, hmul]
  dsimp only
  rw [show rndIEEE fp32 0 0 (.nan false) = (canonNaN fp32, 0) from rfl]
  dsimp only
  rw [hnan]
  refine ⟨rfl, ?_⟩
  rw [BitVec.getLsbD_or, BitVec.getLsbD_or, BitVec.getLsbD_or]
  rfl

/-- Settles O52: a cell holds its sum modulo 2^112, and the roundings that follow the first find a normal FP32 number, which they leave as it is. -/
theorem accumulatorCells : Obligations.AccumulatorCells := by
  unfold Obligations.AccumulatorCells
  refine ⟨fun cell p nan => ⟨?_, ?_⟩, fun ps hps => ?_, fun q cell e hseq hfmt hms _ => ⟨cell_overflowed e hseq hfmt, cell_sum e hseq hfmt hms⟩⟩
  · rw [addCell_overflow, Bool.or_eq_true, Bool.or_eq_true, decide_eq_true_eq, or_assoc]
  · rw [addCell_sum, BitVec.toInt_ofInt]
    exact Int.emod_eq_zero_of_dvd (Int.dvd_bmod_sub_self)
  · obtain ⟨hbit, hsum⟩ := foldl_addCell ps 0 (by decide) (by simpa using hps)
    exact ⟨hbit, by rw [hsum]; simp⟩

end Sys2Proof.Laws.AccumulatorCells


/-! # The matrix instructions (spec 10): O51 -/

namespace Sys2Proof.Laws.MatrixCommands
open Sys2Proof Sys2Proof.Machine Sys2Proof.Laws Sys2Proof.Laws.Directory Sys2Proof.Laws.MemoryReads Sys2Proof.Laws.VectorMoves

/-! ### Rows scheduled one after another -/

/-- A fold whose every step schedules one access, which depends on its element and its number. -/
theorem foldl_schedules {α : Type} {s : State} {f : State → α → State} (m : α → Nat → Micro)
    (hf : ∀ M n a, f { s with micro := M, seq := n } a = { s with micro := M ++ [m a n], seq := n + 1 }) (l : List α) (M : List Micro) (n : Nat) :
    ∃ ms n', l.foldl f { s with micro := M, seq := n } = { s with micro := M ++ ms, seq := n' } ∧ ms.length = l.length ∧ ∀ a ∈ l, ∃ k, m a k ∈ ms := by
  induction l generalizing M n with
  | nil => exact ⟨[], n, by rw [List.append_nil]; rfl, rfl, fun a ha => absurd ha List.not_mem_nil⟩
  | cons a l ih =>
    obtain ⟨ms, n', hfold, hlen, hmem⟩ := ih (M ++ [m a n]) (n + 1)
    refine ⟨m a n :: ms, n', ?_, by rw [List.length_cons, hlen, List.length_cons], fun x hx => ?_⟩
    · rw [List.foldl_cons, hf, hfold, List.append_assoc, List.singleton_append]
    · obtain rfl | hx := List.mem_cons.1 hx
      · exact ⟨n, List.mem_cons_self⟩
      · obtain ⟨k, hk⟩ := hmem x hx
        exact ⟨k, List.mem_cons_of_mem _ hk⟩

section
variable {h : Hd} {b : XRR} {s : State}

theorem holdsLease_of_granted {rs : List (BitVec 6)} {p : Nat} (g : s.Granted h rs p) : s.holdsLease = true := by
  obtain ⟨-, hl, -⟩ := g
  exact beq_iff_eq.2 hl

theorem matrixChecks_pass {frame chain : Bool} {w : Word} {f : State → State} (hframe : (frame && !s.dk.sup) = false) (hl : s.holdsLease = true)
    (hchain : chain = false) : s.matrixChecks h frame chain none w f = f s := by
  unfold State.matrixChecks
  rw [hframe, hl, hchain]
  rfl

theorem matrixChecks_chain {addr : Option (Nat × Word)} {w : Word} {f : State → State} (hl : s.holdsLease = true) :
    s.matrixChecks h false true addr w f = s.raise h 0x0E 0 0 := by
  unfold State.matrixChecks
  rw [hl]
  rfl

/-! ### Chains and leases -/

theorem mbeg_granted (g : s.Granted h [] 0) (hc : s.dk.chain = none) :
    exec (.mbeg h b) s = .next (s.modDk fun d => { d with chain := some ⟨0, none⟩ }) := by
  change execMbeg h b s = _
  rw [execMbeg, State.matrix_granted _ g rfl rfl rfl, matrixChecks_pass rfl (holdsLease_of_granted g) (by rw [hc]; rfl)]

theorem mbeg_open (g : s.Granted h [] 0) (hc : s.dk.chain ≠ none) : exec (.mbeg h b) s = .next (s.raise h 0x0E 0 0) := by
  change execMbeg h b s = _
  rw [execMbeg, State.matrix_granted _ g rfl rfl rfl, Option.isSome_iff_ne_none.2 hc, matrixChecks_chain (holdsLease_of_granted g)]

theorem mend_closed (g : s.Granted h [] 0) (hc : s.dk.chain = none) : exec (.mend h b) s = .next (s.raise h 0x0E 0 0) := by
  change execMend h b s = _
  rw [execMend, State.matrix_granted _ g rfl rfl rfl, hc, Option.isNone_none, matrixChecks_chain (holdsLease_of_granted g)]

theorem mend_granted (g : s.Granted h [] 0) (hc : s.dk.chain ≠ none) :
    exec (.mend h b) s = .next ((s.modDk fun d => { d with chain := none }).modCk fun k =>
      if k.leaseReq.isEmpty then k else { k with leaseHolder := none, leaseReq := k.leaseReq ++ [s.dn % 4] }) := by
  change execMend h b s = _
  rw [execMend, State.matrix_granted _ g rfl rfl rfl, matrixChecks_pass rfl (holdsLease_of_granted g)
    (by rw [Option.isNone_eq_false_iff, Option.isSome_iff_ne_none]; exact hc)]

theorem matrix_unleased {none_ busy : State → Bool} {port : State → Nat} {chain : State → Bool} {w : Word} {f : State → State → State}
    (r : s.Runs h []) (hl : s.ck.leaseHolder ≠ some (s.dn % 4)) (hq : s.dn % 4 ∉ s.ck.leaseReq) (hn : none_ s = false) :
    (s.matrix h [] none_ port busy fun s => s.matrixChecks h false (chain s) none w (f s)) = s.raise h 0x0D 0 0 := by
  have hlease : s.holdsLease = false := beq_eq_false_iff_ne.2 hl
  have hreq : s.ck.leaseReq.contains (s.dn % 4) = false := by simpa using hq
  rw [State.matrix, State.scalar_runs _ r, if_neg (by rw [hn]; decide), hlease, hreq, Bool.false_and,
    if_neg Bool.false_ne_true, if_neg (by decide)]
  unfold State.matrixChecks
  rw [hlease]
  rfl

/-! ### Clearing -/

theorem matrix_counts {rs : List (BitVec 6)} {r : BitVec 6} {port : State → Nat} {busy : State → Bool} (f : State → State) (g : s.Granted h rs (port s))
    (hpos : 0 < s.count r) (hbusy : busy s = false) : s.matrix h rs (fun s => s.count r == 0) port busy f = f s :=
  State.matrix_granted _ g (beq_eq_false_iff_ne.2 (by omega)) rfl hbusy

/-- What joining a chain leaves of it. -/
theorem chain_chainAdd {d : Deck} {c : Chain} (hc : d.chain = some c) (kind : Option Bool) :
    (d.chainAdd kind).chain = some ⟨c.cmds + 1, match c.kind with | some k => some k | none => kind⟩ := by
  rw [Deck.chainAdd, hc]
  rfl

theorem chainBars_none {d : Deck} {c : Chain} (hc : d.chain = some c) (hlt : c.cmds < 256) : d.chainBars none = false := by
  rw [Deck.chainBars, hc]
  dsimp only
  rw [decide_eq_false (by omega)]
  rfl

/-- A command that has joined the chain and taken its port. -/
theorem joined_facts (s : State) (f : Deck → Deck) (g : Core → Core) : let u := (s.modDk f).modCk g
    u.dk = f s.dk ∧ u.ck = g s.ck ∧ u.micro = s.micro ∧ u.mem = s.mem ∧ u.clock = s.clock ∧ u.cn = s.cn :=
  ⟨State.dk_modDk s f, ck_modCk (s.modDk f) g, rfl, rfl, rfl, rfl⟩

theorem mclr_granted {c : Chain} (g : s.Granted h [b.xa, b.xb] s.ck.gantryFree) (hc : s.dk.chain = some c) (hlt : c.cmds < 256)
    (hpos : 0 < s.count b.xb) (hmax : s.count b.xb ≤ 32)
    (hrows : bits (s.x b.xa).toNat 0 10 + s.count b.xb ≤ 49152 / kindCols (bits b.m.toNat 0 2)) :
    exec (.mclr h b) s = .next ((List.range (s.count b.xb)).foldl
      (fun u i => u.access (u.clock + 20 + i) u.cn u.dn true (deckPrio u.dn true) (.clrRow (bits (s.x b.xa).toNat 0 10 + i) (kindCols (bits b.m.toNat 0 2))))
      ((s.modDk fun d => d.chainAdd none).modCk fun k => { k with gantryFree := s.clock + s.count b.xb })) := by
  change execMclr h b s = _
  unfold execMclr
  dsimp only
  rw [matrix_counts _ g hpos rfl, matrixChecks_pass rfl (holdsLease_of_granted g)
    (by rw [chainBars_none hc hlt, decide_eq_false (by omega), decide_eq_false (by omega)]; rfl)]

theorem mclr_rows {c : Chain} (g : s.Granted h [b.xa, b.xb] s.ck.gantryFree) (hc : s.dk.chain = some c) (hlt : c.cmds < 256)
    (hpos : 0 < s.count b.xb) (hmax : s.count b.xb ≤ 32)
    (hrows : bits (s.x b.xa).toNat 0 10 + s.count b.xb ≤ 49152 / kindCols (bits b.m.toNat 0 2)) :
    ∃ t, exec (.mclr h b) s = .next t ∧ t.dk.chain = some ⟨c.cmds + 1, c.kind⟩ ∧ t.ck.gantryFree = s.clock + s.count b.xb ∧ t.mem = s.mem ∧
      t.micro.length = s.micro.length + s.count b.xb ∧ ∀ i, i < s.count b.xb → ∃ q ∈ t.micro, q.at_ = s.clock + 20 + i ∧ q.core = s.cn ∧
        q.act = .clrRow (bits (s.x b.xa).toNat 0 10 + i) (kindCols (bits b.m.toNat 0 2)) := by
  obtain ⟨hdk, hck, hmicro, hmem, hclock, hcn⟩ :=
    joined_facts s (fun d => d.chainAdd none) (fun k => { k with gantryFree := s.clock + s.count b.xb })
  have hrun := mclr_granted g hc hlt hpos hmax hrows
  generalize (s.modDk fun d => d.chainAdd none).modCk (fun k => { k with gantryFree := s.clock + s.count b.xb }) = u at *
  obtain ⟨ms, n, hfold, hlen, hms⟩ := foldl_schedules (s := u)
    (f := fun u i => u.access (u.clock + 20 + i) u.cn u.dn true (deckPrio u.dn true) (.clrRow (bits (s.x b.xa).toNat 0 10 + i) (kindCols (bits b.m.toNat 0 2))))
    (fun i n => ⟨u.clock + 20 + i, u.cn, u.dn, true, deckPrio u.dn true, n, .clrRow (bits (s.x b.xa).toNat 0 10 + i) (kindCols (bits b.m.toNat 0 2))⟩)
    (fun M n a => rfl) (List.range (s.count b.xb)) u.micro u.seq
  refine ⟨_, hrun.trans (congrArg _ hfold), ?_, ?_, hmem, ?_, fun i hi => ?_⟩
  · refine (congrArg Deck.chain hdk).trans ((chain_chainAdd hc none).trans ?_)
    cases c.kind <;> rfl
  · exact congrArg Core.gantryFree hck
  · change (u.micro ++ ms).length = _
    rw [List.length_append, hlen, List.length_range, hmicro]
  · obtain ⟨k, hk⟩ := hms i (List.mem_range.2 hi)
    exact ⟨_, List.mem_append_right _ hk, by rw [hclock], hcn, rfl⟩

/-! ### Loading a slot -/

theorem localAddr_store {w : Word} {a : Nat} (h : addrOf w = .store a) : localAddr w = some a := by
  rw [localAddr, h]

/-- A row below the frame tiles lies in none of them. -/
theorem not_isFrameTile {t : Nat} (h : t < 4032) : isFrameTile t = false := decide_eq_false (by omega)

/-- The scale operand of a matrix instruction is barred only where its field is set and names a frame tile. -/
theorem scale_free {c : Prop} [Decidable c] {t : Nat} (h : c → t < 4032) : (if c then some t else none).any isFrameTile = false := by
  split
  next hc => exact not_isFrameTile (h hc)
  next => rfl

theorem mldb_granted {c : Chain} {a : Nat} (g : s.Granted h [b.xd, b.xa, b.xb] s.ck.loadFree) (hread : s.slotRead s.cn (bits b.m.toNat 0 4) = false)
    (hc : s.dk.chain = some c) (hlt : c.cmds < 256) (hpos : 0 < s.count b.xd) (hmax : s.count b.xd ≤ modeCols (bits b.m.toNat 4 5))
    (ha : addrOf (s.x b.xa) = .store a) (hrows : a / 512 + loadRows (bits b.m.toNat 4 5) (s.count b.xd) ≤ 131072)
    (hsup : s.dk.sup = true ∨ (a / 512 + loadRows (bits b.m.toNat 4 5) (s.count b.xd) ≤ 129024 ∧
      (bits b.m.toNat 9 1 = 1 → bits (s.x b.xb).toNat 0 12 < 4032))) :
    ∃ t q l, exec (.mldb h b) s = .next t ∧ t.dk.chain = some ⟨c.cmds + 1, c.kind⟩ ∧ t.micro = s.micro ++ [q] ∧ q.at_ = s.clock + 2 ∧
      q.act = .mldbRead l ∧ l.slot = bits b.m.toNat 0 4 ∧ l.fmt = bits b.m.toNat 4 5 ∧ l.n = s.count b.xd ∧ l.row = a / 512 ∧
      l.doneAt = s.clock + loadRows (bits b.m.toNat 4 5) (s.count b.xd) + 4 ∧ t.ck.loadFree = l.doneAt ∧ t.mem = s.mem := by
  change ∃ t q l, execMldb h b s = .next t ∧ _
  unfold execMldb
  dsimp only
  have hstore : decide (Config.storeRows < a / 512 + loadRows (bits b.m.toNat 4 5) (s.count b.xd)) = false :=
    decide_eq_false (by change ¬ 131072 < _; omega)
  rw [matrix_counts _ g hpos hread, localAddr_store ha, Option.getD_some, hstore, Option.isNone_some, Bool.or_false, if_neg Bool.false_ne_true]
  rw [matrixChecks_pass ?_ (holdsLease_of_granted g) (by rw [chainBars_none hc hlt, decide_eq_false (by omega)]; rfl)]
  · refine ⟨_, _, _, rfl, ?_, rfl, rfl, rfl, rfl, rfl, rfl, rfl, rfl, ?_, rfl⟩
    · refine (congrArg Deck.chain (State.dk_modDk { s with seq := s.seq + 1 } fun d => d.chainAdd none)).trans ((chain_chainAdd hc none).trans ?_)
      cases c.kind <;> rfl
    · exact congrArg Core.loadFree (ck_modCk (State.modDk { s with seq := s.seq + 1 } fun d => d.chainAdd none)
        fun k => { k with loadFree := s.clock + loadRows (bits b.m.toNat 4 5) (s.count b.xd) + 4 })
  · obtain hsup | ⟨hfree, hscale⟩ := hsup
    · rw [hsup, Bool.not_true, Bool.and_false]
    · rw [scale_free hscale, not_isFrameTile (by omega)]
      rfl

/-! ### Streaming rows -/

/-- What a row of an `mma` skips. -/
def rowSkipped (s : State) (m : Nat) (srcs : List Nat) : Bool := decide (bits m 4 1 = 1) && s.ck.skipped (srcs.headD 0 / 32)

theorem chainBars_kind {d : Deck} {c : Chain} {t : Bool} (hc : d.chain = some c) (hlt : c.cmds < 256) (hk : c.kind = none ∨ c.kind = some t) :
    d.chainBars (some t) = false := by
  rw [Deck.chainBars, hc]
  dsimp only
  rw [decide_eq_false (by omega)]
  obtain hk | hk := hk
  · rw [hk]; rfl
  · rw [hk]
    exact bne_self_eq_false t

/-- The rows that an `mma` streams, and those of them that it reads. -/
abbrev allRows (tap : Bool) (row n : Nat) : List (Nat × List Nat) := (List.range n).map fun i => (i, aRows tap row i)
abbrev readRows (s : State) (m : Nat) (tap : Bool) (row n : Nat) : List (Nat × List Nat) := (allRows tap row n).filter fun p => !rowSkipped s m p.2

theorem todo_readRows (s : State) (m : Nat) (tap : Bool) (row n : Nat) :
    (if bits m 4 1 = 1 then (allRows tap row n).filter (fun p => !(s.ck.skipped (p.2.headD 0 / 32))) else allRows tap row n) = readRows s m tap row n := by
  unfold readRows
  split
  next h => simp [rowSkipped, h]
  next h => rw [List.filter_eq_self.2]; intro p _; simp [rowSkipped, h]

theorem skippedRows (s : State) (m : Nat) (tap : Bool) (row n : Nat) :
    ((allRows tap row n).filter fun p => !(readRows s m tap row n).contains p) = (allRows tap row n).filter fun p => rowSkipped s m p.2 := by
  refine List.filter_congr fun p hp => ?_
  cases hs : rowSkipped s m p.2 <;> simp [readRows, hs, hp, -List.mem_map]

/-- What an `mma` schedules: a row for each that it skips, and the read of the first that it reads. -/
def streams (g : Gantry) (prio : Nat) (skips : List (Nat × List Nat)) (u : State) : State :=
  let v := skips.foldl (fun v p => v.access (g.at_ + 20 + p.1) v.cn v.dn true prio (.mmaRow { g with todo := [] } p.1 p.2 none)) u
  match g.todo with
  | [] => v
  | (i, _) :: _ => v.access (v.clock + 2 + i) v.cn v.dn true prio (.mmaRead g)

theorem streams_facts (g : Gantry) (prio : Nat) (skips : List (Nat × List Nat)) (u : State) : ∃ ms n,
    streams g prio skips u = { u with micro := u.micro ++ ms, seq := n } ∧
      (∀ p ∈ skips, ∃ q ∈ ms, q.at_ = g.at_ + 20 + p.1 ∧ q.act = .mmaRow { g with todo := [] } p.1 p.2 none) ∧
      ∀ i srcs rest, g.todo = (i, srcs) :: rest → ∃ q ∈ ms, q.at_ = u.clock + 2 + i ∧ q.act = .mmaRead g := by
  obtain ⟨ms, n, hfold, -, hms⟩ := foldl_schedules (s := u)
    (f := fun v (p : Nat × List Nat) => v.access (g.at_ + 20 + p.1) v.cn v.dn true prio (.mmaRow { g with todo := [] } p.1 p.2 none))
    (fun p n => ⟨g.at_ + 20 + p.1, u.cn, u.dn, true, prio, n, .mmaRow { g with todo := [] } p.1 p.2 none⟩) (fun M n a => rfl) skips u.micro u.seq
  have hskip : ∀ p ∈ skips, ∃ q ∈ ms, q.at_ = g.at_ + 20 + p.1 ∧ q.act = .mmaRow { g with todo := [] } p.1 p.2 none := fun p hp => by
    obtain ⟨k, hk⟩ := hms p hp
    exact ⟨_, hk, rfl, rfl⟩
  have hstreams : streams g prio skips u = match g.todo with
      | [] => { u with micro := u.micro ++ ms, seq := n }
      | (i, _) :: _ => State.access { u with micro := u.micro ++ ms, seq := n } (u.clock + 2 + i) u.cn u.dn true prio (.mmaRead g) := by
    unfold streams
    rw [show skips.foldl _ u = _ from hfold]
    rfl
  rw [hstreams]
  cases g.todo with
  | nil => exact ⟨ms, n, rfl, hskip, fun i srcs rest h => nomatch h⟩
  | cons p rest =>
    refine ⟨ms ++ [⟨u.clock + 2 + p.1, u.cn, u.dn, true, prio, n, .mmaRead g⟩], n + 1, ?_, fun p hp => ?_, fun i srcs rest h => ?_⟩
    · rw [← List.append_assoc]
      rfl
    · obtain ⟨q, hq, hrow⟩ := hskip p hp
      exact ⟨q, List.mem_append_left _ hq, hrow⟩
    · obtain ⟨rfl, -⟩ := List.cons.inj h
      exact ⟨_, List.mem_append_right _ List.mem_cons_self, rfl, rfl⟩

theorem any_rows {tap : Bool} {row n : Nat} {p : Nat → Bool} (hp : ∀ i, i < n → ∀ r ∈ aRows tap row i, p r = false) :
    ((allRows tap row n).any fun q => q.2.any p) = false := by
  refine List.any_eq_false.2 fun q hq => ?_
  obtain ⟨i, hi, rfl⟩ := List.mem_map.1 hq
  refine Bool.not_eq_true _ ▸ List.any_eq_false.2 fun r hr => ?_
  rw [hp i (List.mem_range.1 hi) r hr]
  decide

theorem mma_granted {c : Chain} {a : Nat} {tap : Bool} (g : s.Granted h [b.xd, b.xa, b.xb] s.ck.gantryFree)
    (hload : s.slotLoads s.cn (bits b.m.toNat 0 4) = false) (hc : s.dk.chain = some c) (hlt : c.cmds < 256)
    (htap : isTapered (s.ck.slot (bits b.m.toNat 0 4)).mode = tap) (hkind : c.kind = none ∨ c.kind = some tap)
    (hscale : tap = true ∨ bits b.m.toNat 5 1 = 0) (hpos : 0 < s.count b.xb) (hmax : s.count b.xb ≤ 32)
    (hrows : bits (s.x b.xd).toNat 0 10 + s.count b.xb ≤ 49152 / modeCols (s.ck.slot (bits b.m.toNat 0 4)).mode)
    (ha : addrOf (s.x b.xa) = .store a)
    (hin : ∀ i, i < s.count b.xb → ∀ r ∈ aRows tap (a / 512) i, r < 131072 ∧ s.frameBarred (r / 32) = false)
    (hsup : s.dk.sup = true ∨ (bits b.m.toNat 5 1 = 1 → bits (s.x b.xd).toNat 16 12 < 4032)) :
    ∃ gantry : Gantry, gantry.at_ = s.clock ∧ gantry.slot = bits b.m.toNat 0 4 ∧ gantry.acc0 = bits (s.x b.xd).toNat 0 10 ∧
      gantry.todo = readRows s b.m.toNat tap (a / 512) (s.count b.xb) ∧
      exec (.mma h b) s = .next (streams gantry (deckPrio s.dn true) ((allRows tap (a / 512) (s.count b.xb)).filter fun p => rowSkipped s b.m.toNat p.2)
        { ((s.modDk fun d => { d.chainAdd (some tap) with ckPend := d.ckPend + s.count b.xb }).modCk fun k => { k with gantryFree := s.clock + s.count b.xb })
          with seq := s.seq + 1 }) := by
  change ∃ gantry : Gantry, _ ∧ _ ∧ _ ∧ _ ∧ execMma h b s = _
  unfold execMma
  dsimp only
  have hstore : ((allRows tap (a / 512) (s.count b.xb)).any fun p => p.2.any fun r => decide (Config.storeRows ≤ r)) = false := by
    refine any_rows fun i hi r hr => decide_eq_false ?_
    have hlt := (hin i hi r hr).1
    change ¬ 131072 ≤ r
    omega
  have hframe : ((((allRows tap (a / 512) (s.count b.xb)).any fun p => p.2.any fun r => isFrameTile (r / 32)) ||
      (if bits b.m.toNat 5 1 = 1 then some (bits (s.x b.xd).toNat 16 12) else none).any isFrameTile) && !s.dk.sup) = false := by
    obtain hs | hfree := hsup
    · rw [hs, Bool.not_true, Bool.and_false]
    · cases hs : s.dk.sup with
      | true => exact Bool.and_false _
      | false =>
        rw [any_rows fun i hi r hr => ?_, scale_free hfree]
        · rfl
        · have hbar := (hin i hi r hr).2
          rw [State.frameBarred, hs, Bool.not_false, Bool.and_true] at hbar
          exact hbar
  have hscaled : ((if bits b.m.toNat 5 1 = 1 then some (bits (s.x b.xd).toNat 16 12) else none).isSome && !tap) = false := by
    obtain ht | h0 := hscale
    · rw [ht, Bool.not_true, Bool.and_false]
    · rw [if_neg (by omega)]
      rfl
  rw [matrix_counts _ g hpos hload, localAddr_store ha, Option.getD_some, htap, Nat.min_eq_left hmax, Option.isNone_some, Bool.false_or, hstore,
    if_neg Bool.false_ne_true, Option.isSome_some, Bool.true_and, matrixChecks_pass hframe (holdsLease_of_granted g)
    (by rw [chainBars_kind hc hlt hkind, hscaled, decide_eq_false (by omega), decide_eq_false (by omega)]; rfl),
    todo_readRows, skippedRows]
  exact ⟨⟨s.dn, s.dk.inst, s.seq, s.clock, bits b.m.toNat 0 4, bits (s.x b.xd).toNat 0 10, a / 512, readRows s b.m.toNat tap (a / 512) (s.count b.xb),
    if bits b.m.toNat 5 1 = 1 then some (bits (s.x b.xd).toNat 16 12) else none, none,
    if bits b.m.toNat 6 1 = 1 then some (BitVec.ofNat 8 (bits b.m.toNat 7 8)) else none, [], s.issue.pc, s.dk.curve, false, 0⟩, rfl, rfl, rfl, rfl, rfl⟩

theorem readRows_map (s : State) (m : Nat) (tap : Bool) (row n : Nat) :
    readRows s m tap row n = ((List.range n).filter fun i => !rowSkipped s m (aRows tap row i)).map fun i => (i, aRows tap row i) := by
  rw [readRows, allRows, List.filter_map]
  rfl

/-- The first row read of an `mma` is the first that it does not skip. -/
theorem readRows_first {m : Nat} {tap : Bool} {row n i : Nat} (hi : i < n) (hs : rowSkipped s m (aRows tap row i) = false)
    (hk : ∀ k, k < i → rowSkipped s m (aRows tap row k) = true) : ∃ rest, readRows s m tap row n = (i, aRows tap row i) :: rest := by
  obtain ⟨r, rfl⟩ : ∃ r, n = i + (r + 1) := ⟨n - i - 1, by omega⟩
  have hnone : (List.range i).filter (fun i => !rowSkipped s m (aRows tap row i)) = [] :=
    List.filter_eq_nil_iff.2 fun k hk' => by rw [hk k (List.mem_range.1 hk')]; decide
  refine ⟨((List.range' (i + 1) r).filter fun i => !rowSkipped s m (aRows tap row i)).map fun i => (i, aRows tap row i), ?_⟩
  rw [readRows_map, List.range_eq_range', ← List.range'_append_1, ← List.range_eq_range', List.filter_append, hnone, Nat.zero_add, List.range'_succ,
    List.nil_append, List.filter_cons_of_pos (by rw [hs]; rfl)]
  rfl

/-! ### Reading out -/

/-- What `mrd` makes a deck hold while its rows are read out. -/
def drawnFor (s : State) (rm : Nat) : State := if rm = 4 then s.modDk fun d => { d with lfsr := lfsrStep d.lfsr } else s

theorem drawnFor_facts (s : State) (rm : Nat) : (drawnFor s rm).cores = s.cores ∧ (drawnFor s rm).issue = s.issue ∧ (drawnFor s rm).micro = s.micro ∧
    (drawnFor s rm).mem = s.mem ∧ (drawnFor s rm).clock = s.clock := by
  unfold drawnFor
  split <;> exact ⟨rfl, rfl, rfl, rfl, rfl⟩

/-- The rows that `mrd` reads out. -/
abbrev outRows (s : State) (m n0 n : Nat) : List Nat := (List.range n).filter fun j => !(decide (bits m 12 1 = 1) && s.ck.skipped ((n0 + j) / 32))

theorem mrd_granted {n0 : Nat} (g : s.Granted h [b.xd, b.xa, b.xb] s.ck.readFree)
    (hone : bits b.m.toNat 13 2 = 2 → bits (s.x b.xa).toNat 16 1 = 0)
    (hspoil : s.ck.spoiled s.clock (kindCols (bits b.m.toNat 13 2)) (bits (s.x b.xa).toNat 0 10) (min (s.count b.xb) 32) = false)
    (hpos : 0 < s.count b.xb) (hmax : s.count b.xb ≤ 32)
    (hrows : bits (s.x b.xa).toNat 0 10 + s.count b.xb ≤ 49152 / kindCols (bits b.m.toNat 13 2))
    (hreg : bits b.m.toNat 11 1 = 1 → bits (s.x b.xd).toNat 0 9 + s.count b.xb ≤ 320)
    (hstore : bits b.m.toNat 11 1 ≠ 1 → ∃ a, addrOf (s.x b.xd) = .store a ∧ a / 512 + s.count b.xb ≤ 131072 ∧
      s.frameBarred ((a / 512 + s.count b.xb - 1) / 32) = false ∧ ∀ j, j < s.count b.xb → (s.ck.tile ((a / 512 + j) / 32)).published = false)
    (hn0 : (localAddr (s.x b.xd)).getD 0 / 512 = n0) :
    ∃ f : State → Nat → State, ∃ m : Nat → Nat → Micro, ∃ u : State,
      exec (.mrd h b) s = .next ((outRows s b.m.toNat n0 (s.count b.xb)).foldl f u) ∧ (∀ M n a, f { u with micro := M, seq := n } a = { u with micro := M ++ [m a n], seq := n + 1 }) ∧
      u.ck.readFree = s.clock + s.count b.xb ∧ u.micro = s.micro ∧ u.mem = s.mem ∧
      ∀ j n, (m j n).at_ = s.clock + j ∧ ∃ q, (m j n).act = .mrdRow q ∧ q.accRow = bits (s.x b.xa).toNat 0 10 + j ∧
          q.toReg = decide (bits b.m.toNat 11 1 = 1) ∧ q.dst = (if bits b.m.toNat 11 1 = 1 then bits (s.x b.xd).toNat 0 9 + j else n0 + j) ∧
          q.fmt = bits b.m.toNat 0 5 ∧ q.width = kindCols (bits b.m.toNat 13 2) := by
  have hframe : (!decide (bits b.m.toNat 11 1 = 1) && (localAddr (s.x b.xd)).isSome && isFrameTile ((n0 + s.count b.xb - 1) / 32) && !s.dk.sup) = false := by
    by_cases ht : bits b.m.toNat 11 1 = 1
    · rw [decide_eq_true ht]
      rfl
    · obtain ⟨a, ha, -, hbar, -⟩ := hstore ht
      rw [localAddr_store ha, Option.getD_some] at hn0
      rw [← hn0, Bool.and_assoc]
      exact (congrArg _ hbar).trans (Bool.and_false _)
  have hchain : (decide (32 < s.count b.xb) || decide (49152 / kindCols (bits b.m.toNat 13 2) < bits (s.x b.xa).toNat 0 10 + s.count b.xb) ||
      (bits b.m.toNat 13 2 == 2 && bits (s.x b.xa).toNat 16 1 == 1) ||
      (decide (bits b.m.toNat 11 1 = 1) && decide (319 < bits (s.x b.xd).toNat 0 9 + s.count b.xb - 1))) = false := by
    have hkind : (bits b.m.toNat 13 2 == 2 && bits (s.x b.xa).toNat 16 1 == 1) = false := by
      by_cases h2 : bits b.m.toNat 13 2 = 2
      · rw [hone h2]
        exact Bool.and_false _
      · rw [beq_false_of_ne h2]
        rfl
    have hreg' : (decide (bits b.m.toNat 11 1 = 1) && decide (319 < bits (s.x b.xd).toNat 0 9 + s.count b.xb - 1)) = false := by
      by_cases ht : bits b.m.toNat 11 1 = 1
      · have hlast := hreg ht
        have hin : decide (319 < bits (s.x b.xd).toNat 0 9 + s.count b.xb - 1) = false := decide_eq_false (by omega)
        rw [hin, Bool.and_false]
      · rw [decide_eq_false ht, Bool.false_and]
    rw [decide_eq_false (by omega), decide_eq_false (by omega), hkind, hreg']
    rfl
  have hbad : (!decide (bits b.m.toNat 11 1 = 1) && ((localAddr (s.x b.xd)).isNone || decide (Config.storeRows ≤ n0 + s.count b.xb - 1))) = false := by
    by_cases ht : bits b.m.toNat 11 1 = 1
    · rw [decide_eq_true ht]
      rfl
    · obtain ⟨a, ha, hlast, -, -⟩ := hstore ht
      rw [localAddr_store ha, Option.getD_some] at hn0
      have hin : decide (Config.storeRows ≤ a / 512 + s.count b.xb - 1) = false := decide_eq_false (by change ¬ 131072 ≤ _; omega)
      rw [localAddr_store ha, ← hn0, hin]
      exact Bool.and_false _
  have hpub : (!decide (bits b.m.toNat 11 1 = 1) && !false && (List.range (s.count b.xb)).any fun j => (s.ck.tile ((n0 + j) / 32)).published) = false := by
    by_cases ht : bits b.m.toNat 11 1 = 1
    · rw [decide_eq_true ht]
      rfl
    · obtain ⟨a, ha, -, -, hfree⟩ := hstore ht
      rw [localAddr_store ha, Option.getD_some] at hn0
      have hnone : ((List.range (s.count b.xb)).any fun j => (s.ck.tile ((n0 + j) / 32)).published) = false :=
        List.any_eq_false.2 fun j hj => by
          rw [← hn0, hfree j (List.mem_range.1 hj)]
          decide
      rw [hnone]
      exact Bool.and_false _
  change ∃ f m u, execMrd h b s = _ ∧ _
  unfold execMrd
  dsimp only
  rw [matrix_counts _ g hpos hspoil, Nat.min_eq_left hmax, hn0, hbad, hpub, if_neg Bool.false_ne_true, if_neg Bool.false_ne_true,
    matrixChecks_pass hframe (holdsLease_of_granted g) hchain]
  let rm := convMode (bits b.m.toNat 5 3) s.dk.fmode
  let v := drawnFor (s.modCk fun k => { k with readFree := s.clock + s.count b.xb }) rm
  let u := { v with seq := v.seq + 1 }
  let js := outRows s b.m.toNat n0 (s.count b.xb)
  let q : Nat → ReadOut := fun j => ⟨u.dn, u.dk.inst, u.clock, bits (s.x b.xa).toNat 0 10 + j, kindCols (bits b.m.toNat 13 2),
    128 * bits (s.x b.xa).toNat 16 1, bits b.m.toNat 13 2 == 2, bits b.m.toNat 0 5, rm, mget 0x3F800000 u.dk.ms (bits b.m.toNat 8 3), s.dk.lfsr, u.dk.curve, j,
    decide (bits b.m.toNat 11 1 = 1), if bits b.m.toNat 11 1 = 1 then bits (s.x b.xd).toNat 0 9 + j else n0 + j,
    js.all (fun i => decide (j ≤ i) || (n0 + i) / 32 != (n0 + j) / 32), v.seq, decide (s.count b.xb = 32 ∧ n0 % 32 = 0)⟩
  obtain ⟨hcores, hissue, hmicro, hmem, hclock⟩ := drawnFor_facts (s.modCk fun k => { k with readFree := s.clock + s.count b.xb }) rm
  refine ⟨_, fun j n => ⟨u.clock + j, u.cn, u.dn, true, deckPrio u.dn true, n, .mrdRow (q j)⟩, u, rfl, fun M n a => rfl, ?_, hmicro, hmem,
    fun j n => ⟨congrArg (· + j) hclock, _, rfl, rfl, rfl, rfl, rfl, rfl⟩⟩
  have hck : u.ck = (s.modCk fun k => { k with readFree := s.clock + s.count b.xb }).ck := by
    rw [State.ck, State.ck, State.getCore, State.getCore, State.cn, State.cn, show u.cores = _ from hcores, show u.issue = _ from hissue]
  rw [hck, ck_modCk]

/-! ### Replays -/

theorem spoiledReads_none (hmicro : s.micro = []) (c r width : Nat) (p : Nat → Bool) (since : Nat) : s.spoiledReads c r width p since = s := by
  rw [State.spoiledReads, hmicro]
  rfl

theorem checksumReplay_next {core : Nat} {r : Replay} (hr : (s.getCore core).replays = [r]) (hperf : r.perf = none) (hmicro : s.micro = [])
    (hclear : (s.getCore core).clearedSince r.g.num (r.g.acc0 + r.i) (modeCols ((s.getCore core).slot r.g.slot).mode) = false) :
    ∃ t, exec (.checksumReplay core) s = .next t ∧
      (t.getCore core).replays = [{ r with perf := some (max s.clock (s.getCore core).gantryFree + 20) }] ∧ t.mem = s.mem := by
  change ∃ t, execChecksumReplay core s = .next t ∧ _
  have hwait : (s.getCore core).replays.filter (fun r => r.perf.isNone) = [r] := by
    rw [hr, List.filter_cons_of_pos (by rw [hperf]; rfl)]
    rfl
  unfold execChecksumReplay
  dsimp only
  rw [hwait, List.foldl_cons, List.foldl_nil, hclear, hmicro, List.any_nil, Bool.or_false, if_neg Bool.false_ne_true, spoiledReads_none]
  case hmicro => exact hmicro
  refine ⟨_, rfl, ?_, rfl⟩
  refine (congrArg Core.replays (State.getCore_modCore s core fun k => { k with
    gantryFree := max s.clock (s.getCore core).gantryFree + 1
    replays := k.replays.map fun q => if q.g.num == r.g.num && q.i == r.i then { q with perf := some (max s.clock (s.getCore core).gantryFree + 20) } else q })).trans ?_
  dsimp only
  rw [hr, List.map_cons, List.map_nil, beq_self_eq_true, beq_self_eq_true]
  rfl

end

theorem bit_zero {n i : Nat} (h : bits n i 1 ≠ 1) : bits n i 1 = 0 := by
  have hlt := bits_lt n i 1
  omega

/-- Settles O51: each instruction passes its checks by name, and the rows of `mclr`, `mma` and `mrd` are one fold of accesses. -/
theorem matrixCommands : Obligations.MatrixCommands := by
  unfold Obligations.MatrixCommands
  intro h b s
  dsimp only
  refine ⟨mbeg_granted, fun g hc => ?_, fun r hl hq => ⟨?_, ?_⟩, fun g => ⟨mbeg_open g, mend_closed g⟩, ?_, ?_, ?_, ?_, ?_, ?_, ?_, ?_, ?_⟩
  · obtain ⟨hdk, hck, -, hmem, -⟩ := joined_facts s (fun d => { d with chain := none })
      fun k => if k.leaseReq.isEmpty then k else { k with leaseHolder := none, leaseReq := k.leaseReq ++ [s.dn % 4] }
    refine ⟨_, mend_granted g hc, congrArg Deck.chain hdk, hmem, fun hq => ?_, fun hq => ?_⟩
    · rw [hck, hq]
      exact g.2.1
    · rw [hck, if_neg (by rw [List.isEmpty_iff]; exact hq)]
      exact ⟨rfl, List.mem_append_right _ List.mem_cons_self⟩
  · exact congrArg Host.Outcome.next (matrix_unleased (chain := fun s => s.dk.chain.isSome) (f := fun _ s => s.modDk fun d => { d with chain := some ⟨0, none⟩ }) r hl hq rfl)
  · exact congrArg Host.Outcome.next (matrix_unleased (chain := fun s => s.dk.chain.isNone) (f := fun _ s => (s.modDk fun d => { d with chain := none }).modCk fun k =>
      if k.leaseReq.isEmpty then k else { k with leaseHolder := none, leaseReq := k.leaseReq ++ [s.dn % 4] }) r hl hq rfl)
  · exact fun c g hc hlt hpos hmax hrows => mclr_rows g hc hlt hpos hmax hrows
  · exact fun c a g hread hc hlt hpos hmax ha hrows hsup => mldb_granted g hread hc hlt hpos hmax ha hrows hsup
  · intro c a g hload hc hlt hkind hscale hpos hmax hrows ha hin hsup
    obtain ⟨gantry, hat, hslot, hacc, htodo, hrun⟩ := mma_granted g hload hc hlt rfl hkind hscale hpos hmax hrows ha hin hsup
    have hfacts := joined_facts s (fun d => { d.chainAdd (some (isTapered (s.ck.slot (bits b.m.toNat 0 4)).mode)) with ckPend := d.ckPend + s.count b.xb })
      fun k => { k with gantryFree := s.clock + s.count b.xb }
    generalize isTapered (s.ck.slot (bits b.m.toNat 0 4)).mode = tap at *
    obtain ⟨hdk, hck, hmicro, hmem, hclock, -⟩ := hfacts
    generalize (s.modDk fun d => { d.chainAdd (some tap) with ckPend := d.ckPend + s.count b.xb }).modCk
      (fun k => { k with gantryFree := s.clock + s.count b.xb }) = u at *
    obtain ⟨ms, n, hstreams, hskip, hfirst⟩ := streams_facts gantry (deckPrio s.dn true)
      ((allRows tap (a / 512) (s.count b.xb)).filter fun p => rowSkipped s b.m.toNat p.2) { u with seq := s.seq + 1 }
    rw [hstreams] at hrun
    refine ⟨_, hrun, ?_, congrArg Deck.ckPend hdk, congrArg Core.gantryFree hck, hmem, fun i hi hs => ?_, fun i hi hs hk => ?_⟩
    · refine (congrArg Deck.chain hdk).trans ((chain_chainAdd hc (some tap)).trans ?_)
      obtain hk | hk := hkind <;> rw [hk]
    · obtain ⟨q, hq, hrow, hact⟩ := hskip (i, aRows tap (a / 512) i) (List.mem_filter.2 ⟨List.mem_map.2 ⟨i, List.mem_range.2 hi, rfl⟩, hs⟩)
      exact ⟨q, List.mem_append_right _ hq, _, by rw [hrow, hat], hact⟩
    · obtain ⟨rest, hread⟩ := readRows_first hi hs hk
      obtain ⟨q, hq, hrow, hact⟩ := hfirst _ _ _ (htodo.trans hread)
      exact ⟨q, List.mem_append_right _ hq, gantry, by rw [hrow, hclock], hact, hslot, hacc, by rw [htodo, readRows_map]; rfl⟩
  · intro a g hm12 hone hspoil hpos hmax hrows hreg hstore
    obtain ⟨f, m, u, hrun, hf, hfree, hmicro, hmem, hm⟩ := mrd_granted g hone hspoil hpos hmax hrows hreg (fun ht => ⟨a, hstore (bit_zero ht)⟩) rfl
    obtain ⟨ms, n, hfold, hlen, hms⟩ := foldl_schedules m hf (outRows s b.m.toNat ((localAddr (s.x b.xd)).getD 0 / 512) (s.count b.xb)) u.micro u.seq
    have hall : outRows s b.m.toNat ((localAddr (s.x b.xd)).getD 0 / 512) (s.count b.xb) = List.range (s.count b.xb) :=
      List.filter_eq_self.2 fun j _ => by rw [hm12]; rfl
    rw [hall] at hlen hms
    refine ⟨_, hrun.trans (congrArg _ hfold), hfree, ?_, hmem, fun j hj => ?_⟩
    · change (u.micro ++ ms).length = _
      rw [List.length_append, hlen, List.length_range, hmicro]
      rfl
    · obtain ⟨k, hk⟩ := hms j (List.mem_range.2 hj)
      obtain ⟨hat, q, hact, hacc, hto, hdst, hfmt, hwidth⟩ := hm j k
      refine ⟨_, List.mem_append_right _ hk, q, hat, hact, hacc, hto, ?_, hfmt, hwidth⟩
      rw [hdst]
      by_cases ht : bits b.m.toNat 11 1 = 1
      · rw [if_pos ht, if_pos ht]
      · rw [if_neg ht, if_neg ht, localAddr_store (hstore (bit_zero ht)).1, Option.getD_some]
  · intro a g hm12 hm11 hone hspoil hpos hmax hrows ha hlast hbar hfree
    obtain ⟨f, m, u, hrun, hf, hport, hmicro, hmem, -⟩ := mrd_granted (n0 := a / 512) g hone hspoil hpos hmax hrows (fun ht => absurd ht (by omega))
      (fun _ => ⟨a, ha, hlast, hbar, hfree⟩) (by rw [localAddr_store ha, Option.getD_some])
    obtain ⟨ms, n, hfold, hlen, -⟩ := foldl_schedules m hf (outRows s b.m.toNat (a / 512) (s.count b.xb)) u.micro u.seq
    refine ⟨_, hrun.trans (congrArg _ hfold), hport, hmem, ?_⟩
    change (u.micro ++ ms).length = _
    rw [List.length_append, hlen, hmicro]
    refine congrArg (fun l : List Nat => s.micro.length + l.length) (List.filter_congr fun j _ => ?_)
    rw [hm12]
    rfl
  · exact fun r => congrArg Host.Outcome.next (State.scalar_runs _ r)
  · refine fun r => ⟨fun hb => ?_, fun hb => ?_⟩
    · change execMck h b s = _
      rw [execMck, State.scalar_runs _ r, hb]
      rfl
    · change execMck h b s = _
      rw [execMck, State.scalar_runs _ r, hb]
      rfl
  · exact fun core hgate => congrArg Host.Outcome.next (if_pos hgate)
  · exact fun core r hr hperf hmicro hclear => checksumReplay_next hr hperf hmicro hclear

end Sys2Proof.Laws.MatrixCommands


/-! # The Trestle (spec 11): O53 -/

namespace Sys2Proof.Laws.Trestle
open Sys2Proof Sys2Proof.Machine Sys2Proof.Laws Sys2Proof.Laws.VectorArithmetic Sys2Proof.Laws.VectorMoves

/-! ### Nodes -/

/-- A node is its operation on its two children. -/
theorem nodeAt_children (d : Deck) (w tbase : Nat) {n : Nat} (hn : n < 7) :
    d.nodeAt w tbase n = d.nodeOf tbase n (bits w (2 * n) 2) (d.childOf w tbase n 0) (d.childOf w tbase n 1) := by
  obtain rfl | rfl | rfl | rfl | rfl | rfl | rfl : n = 0 ∨ n = 1 ∨ n = 2 ∨ n = 3 ∨ n = 4 ∨ n = 5 ∨ n = 6 := by omega
  all_goals rfl

theorem node_values (d : Deck) (w tbase : Nat) {n : Nat} (hn : n < 7) :
    let l := d.childOf w tbase n 0
    let r := d.childOf w tbase n 1
    let v := d.nodeAt w tbase n
    let rnd := fun (z : Val) => BitVec.ofNat 32 (tCode d.tmode d.tscale.toNat z).1
    (bits w (2 * n) 2 = 0 → v.code = rnd (l.val.add false r.val).1) ∧ (bits w (2 * n) 2 = 1 → v.code = rnd (l.val.mul r.val).1) ∧
    (bits w (2 * n) 2 = 2 → v.code = rnd (((d.weight tbase n 0).mul l.val).1.add false ((d.weight tbase n 1).mul r.val).1).1) ∧
    (bits w (2 * n) 2 = 3 → v = l) := by
  intro l r v rnd
  have hv : v = d.nodeOf tbase n (bits w (2 * n) 2) l r := nodeAt_children d w tbase hn
  refine ⟨fun hop => ?_, fun hop => ?_, fun hop => ?_, fun hop => ?_⟩ <;> rw [hv, hop]
  · rfl
  · rfl
  · rfl
  · unfold Deck.nodeOf
    exact if_pos rfl

section
variable {h : Hd} {s : State}

/-! ### Trees up -/

/-- The shape word and the root of the tree of a `tup` or `tdn`. -/
abbrev shapeWord (s : State) (b : TRS) : Nat := (mget 0 s.dk.shapes b.shape.toNat).toNat
abbrev root (s : State) (b : TRS) : Node := s.dk.nodeAt (shapeWord s b) b.tbase.toNat 0

/-- The state in which a `tup` has taken its tree and written its root. -/
abbrev treeUp (s : State) (h : Hd) (b : TRS) : State :=
  let c := treeCost (shapeWord s b) b.tbase.toNat false
  ((s.setDk (s.dk.takeTree s.clock c)).writeT h (6 + c) (.t b.t.toNat) 1 ((root s b).code.setWidth 4096) 0).raiseFlags h (6 + c) (root s b).flags

theorem tup_beyond {b : TRS} (r : s.Runs h []) (hfree : s.dk.treeFree s.clock = true) (hcopy : b.copy = 0) {reg : Nat}
    (hb : treeBeyond (shapeWord s b) b.tbase.toNat false = some reg) : exec (.tup h b) s = .next (s.raise h 0x12 reg 0) := by
  change execTup h b s = _
  rw [execTup, State.scalar_runs _ r]
  dsimp only
  rw [hcopy, hfree, hb]
  rfl

theorem tup_runs {b : TRS} (r : s.Runs h []) (hfree : s.dk.treeFree s.clock = true) (hcopy : b.copy = 0)
    (hb : treeBeyond (shapeWord s b) b.tbase.toNat false = none) : exec (.tup h b) s = .next (treeUp s h b) := by
  change execTup h b s = _
  rw [execTup, State.scalar_runs _ r]
  dsimp only
  rw [hcopy, hfree, hb]
  rfl

theorem tup_copies {b : TRS} (r : s.Runs h []) (hfree : s.dk.treeFree s.clock = true) (hcopy : b.copy = 1)
    (hb : treeBeyond (shapeWord s b) b.tbase.toNat false = none) (hroom : s.rqRoomNow 7 = true) :
    let t := (treeUp s h b).pushResult h (6 + treeCost (shapeWord s b) b.tbase.toNat false) 7 1 ((root s b).code.setWidth 4096) (tTag s.dk.tmode)
    exec (.tup h b) s = .next (if b.qm.toNat = 1 then t.writeP30 h false else t) := by
  intro t
  change execTup h b s = _
  rw [execTup, State.scalar_runs _ r]
  dsimp only
  rw [hcopy, hfree, hroom, hb]
  rfl

/-! ### What results in flight leave -/

/-- A deck that differs from d in results in flight only, more of them. -/
abbrev MoreLatches (d e : Deck) : Prop := ∃ ls, e = { d with latches := d.latches ++ ls }

theorem addLatch_dk (s : State) (l : Latch) : (s.addLatch s.dn l).dk = { s.dk with latches := s.dk.latches ++ [{ l with seq := s.seq }] } :=
  State.dk_modDk s fun d => { d with latches := d.latches ++ [{ l with seq := s.seq }] }

theorem MoreLatches.trans {d e f : Deck} (h : MoreLatches d e) (h' : MoreLatches e f) : MoreLatches d f := by
  obtain ⟨ls, rfl⟩ := h
  obtain ⟨ms, rfl⟩ := h'
  exact ⟨ls ++ ms, by rw [← List.append_assoc]⟩

theorem raiseFlags_latches (s : State) (h : Hd) (lat : Nat) (f : BitVec 8) : MoreLatches s.dk (s.raiseFlags h lat f).dk ∧ (s.raiseFlags h lat f).mem = s.mem := by
  unfold State.raiseFlags
  split
  · exact ⟨⟨[], by rw [List.append_nil]⟩, rfl⟩
  · exact ⟨⟨_, addLatch_dk s _⟩, rfl⟩

theorem raiseFlags_clock (s : State) (h : Hd) (lat : Nat) (f : BitVec 8) : (s.raiseFlags h lat f).clock = s.clock := by
  unfold State.raiseFlags
  split <;> rfl

theorem MoreLatches.mem {d e : Deck} (h : MoreLatches d e) {l : Latch} (hl : l ∈ d.latches) : l ∈ e.latches := by
  obtain ⟨ls, rfl⟩ := h
  exact List.mem_append_left ls hl

theorem result_latches (s : State) (h : Hd) (lat : Nat) (dest : Dest) (mask : Pred) (data : Image) (tag : Tag) :
    MoreLatches s.dk (s.result h lat dest mask data tag).dk ∧ (s.result h lat dest mask data tag).mem = s.mem :=
  ⟨⟨_, addLatch_dk s _⟩, rfl⟩

/-- A t-register written is one result more in flight. -/
theorem writeT_latches (s : State) (h : Hd) (lat : Nat) (dest : Dest) (mask : Pred) (data : Image) (f : BitVec 8) :
    MoreLatches s.dk (s.writeT h lat dest mask data f).dk ∧ (s.writeT h lat dest mask data f).mem = s.mem ∧
      ∃ r ∈ (s.writeT h lat dest mask data f).dk.latches, r.land = s.clock + lat ∧ r.dest = dest ∧ r.data = data := by
  have hdk := addLatch_dk s { land := s.clock + lat, rank := rankOf h.slot, seq := 0, dest := dest, mask := mask, data := data, tag := 0, flags := f }
  exact ⟨⟨_, hdk⟩, rfl, ⟨s.clock + lat, rankOf h.slot, s.seq, dest, mask, data, 0, f⟩,
    (congrArg Deck.latches hdk).symm ▸ List.mem_append_right _ List.mem_cons_self, rfl, rfl, rfl⟩

/-- A tree that goes up leaves the deck with its entry taken and the root in flight. -/
theorem treeUp_deck (s : State) (h : Hd) (b : TRS) : let c := treeCost (shapeWord s b) b.tbase.toNat false
    (treeUp s h b).mem = s.mem ∧ MoreLatches (s.dk.takeTree s.clock c) (treeUp s h b).dk ∧
    ∃ r ∈ (treeUp s h b).dk.latches, r.land = s.clock + 6 + c ∧ r.dest = .t b.t.toNat ∧ r.data = (root s b).code.setWidth 4096 := by
  intro c
  obtain ⟨hdk, hmem, r, hr, hland, hdest⟩ :=
    writeT_latches (s.setDk (s.dk.takeTree s.clock c)) h (6 + c) (.t b.t.toNat) 1 ((root s b).code.setWidth 4096) 0
  rw [State.dk_setDk] at hdk
  obtain ⟨hmore, hmem'⟩ := raiseFlags_latches ((s.setDk (s.dk.takeTree s.clock c)).writeT h (6 + c) (.t b.t.toNat) 1 ((root s b).code.setWidth 4096) 0)
    h (6 + c) (root s b).flags
  exact ⟨hmem'.trans hmem, hdk.trans hmore, r, hmore.mem hr, hland.trans (Nat.add_assoc s.clock 6 c).symm, hdest⟩

theorem pushResult_deck (s : State) (h : Hd) (lat q : Nat) (mask : Pred) (data : Image) (tag : Tag) :
    (s.pushResult h lat q mask data tag).mem = s.mem ∧
    ∃ e, MoreLatches { s.dk with rq := mset [] s.dk.rq q (mget [] s.dk.rq q ++ [e]) } (s.pushResult h lat q mask data tag).dk := by
  refine ⟨rfl, ⟨s.seq, 0, tag, false, false⟩, ?_⟩
  obtain ⟨hmore, -⟩ := result_latches
    { s.modDk (fun d => { d with rq := mset [] d.rq q (mget [] d.rq q ++ [⟨s.seq, 0, tag, false, false⟩]) }) with seq := s.seq + 1 }
    h lat (.rq q s.seq) (BitVec.allOnes 128) (data &&& laneBits mask) tag
  have hu := State.dk_modDk s fun d => { d with rq := mset [] d.rq q (mget [] d.rq q ++ [⟨s.seq, 0, tag, false, false⟩]) }
  exact hu ▸ hmore

theorem tup_copied {b : TRS} (r : s.Runs h []) (hfree : s.dk.treeFree s.clock = true) (hcopy : b.copy = 1)
    (hb : treeBeyond (shapeWord s b) b.tbase.toNat false = none) (hroom : s.rqRoomNow 7 = true) :
    ∃ t, exec (.tup h b) s = .next t ∧ (mget [] t.dk.rq 7).length = (mget [] s.dk.rq 7).length + 1 ∧ t.dk.treeCount = s.dk.treeCount + 1 ∧ t.mem = s.mem ∧
      ∃ r ∈ t.dk.latches, r.land = s.clock + 6 + treeCost (shapeWord s b) b.tbase.toNat false ∧ r.dest = .t b.t.toNat ∧
        r.data = (root s b).code.setWidth 4096 := by
  obtain ⟨hmem, hup, l, hl, hland⟩ := treeUp_deck s h b
  let c := treeCost (shapeWord s b) b.tbase.toNat false
  obtain ⟨hmem', e, hpush⟩ := pushResult_deck (treeUp s h b) h (6 + c) 7 1 ((root s b).code.setWidth 4096) (tTag s.dk.tmode)
  have hrun := tup_copies r hfree hcopy hb hroom
  dsimp only at hrun
  generalize (treeUp s h b).pushResult h (6 + c) 7 1 ((root s b).code.setWidth 4096) (tTag s.dk.tmode) = t at *
  generalize treeUp s h b = u at *
  have hp30 : ∃ t', (if b.qm.toNat = 1 then t.writeP30 h false else t) = t' ∧ MoreLatches t.dk t'.dk ∧ t'.mem = t.mem := by
    split
    · obtain ⟨hmore, hm⟩ := result_latches t h 1 (.p 30) (BitVec.allOnes 128) 0 0
      exact ⟨_, rfl, hmore, hm⟩
    · exact ⟨t, rfl, ⟨[], by rw [List.append_nil]⟩, rfl⟩
  obtain ⟨t', ht', hmore, hm⟩ := hp30
  obtain ⟨ls, hls⟩ := hpush.trans hmore
  obtain ⟨ms, hms⟩ := hup
  refine ⟨t', hrun.trans (congrArg _ ht'), ?_, ?_, hm.trans (hmem'.trans hmem), l, (hpush.trans hmore).mem hl, hland⟩
  · rw [hls, hms]
    dsimp only
    rw [mget_mset_same, List.length_append]
    rfl
  · rw [hls, hms]
    rfl

/-! ### Trees down -/

/-- The shares of a `tdn`, one after another, at the adjoints of the leaves of a list. -/
theorem shares_land {h : Hd} {lat : Nat} (dest : Nat → Dest) (f : Nat → BitVec 8) (l : List Nat) (s : State) :
    let t := l.foldl (fun s i => s.writeT h lat (dest i) 1 0 (f i)) s
    MoreLatches s.dk t.dk ∧ t.mem = s.mem ∧ ∀ i ∈ l, ∃ r ∈ t.dk.latches, r.land = s.clock + lat ∧ r.dest = dest i := by
  induction l generalizing s with
  | nil => exact ⟨⟨[], by rw [List.append_nil]; rfl⟩, rfl, fun i hi => absurd hi List.not_mem_nil⟩
  | cons a l ih =>
    obtain ⟨hdk, hmem, r, hr, hland, hdest, -⟩ := writeT_latches s h lat (dest a) 1 0 (f a)
    obtain ⟨hmore, hmem', hall⟩ := ih (s.writeT h lat (dest a) 1 0 (f a))
    refine ⟨hdk.trans hmore, hmem'.trans hmem, fun i hi => ?_⟩
    obtain rfl | hi := List.mem_cons.1 hi
    · exact ⟨r, hmore.mem hr, hland, hdest⟩
    · exact hall i hi

theorem tdn_runs {b : TRS} (r : s.Runs h []) (hfree : s.dk.treeFree s.clock = true) (hb : treeBeyond (shapeWord s b) b.tbase.toNat true = none) :
    let c := treeCost (shapeWord s b) b.tbase.toNat true
    ∃ t, exec (.tdn h b) s = .next t ∧ t.mem = s.mem ∧ t.dk.treeCount = s.dk.treeCount + 1 ∧
      ∀ i ∈ liveLeaves (shapeWord s b), ∃ r ∈ t.dk.latches, r.land = s.clock + (6 + c) ∧
        r.dest = .tAdj (b.tbase.toNat + shapeOff (shapeWord s b) i + 256) s.dk.tmode
          (s.dk.share (shapeWord s b) b.tbase.toNat i (tVal s.dk.tmode 0 (mget 0 s.dk.t b.t.toNat))).1 := by
  intro c
  obtain ⟨hmore, hmem⟩ := raiseFlags_latches (s.setDk (s.dk.takeTree s.clock c)) h (6 + c) (root s b).flags
  obtain ⟨hmore', hmem', hall⟩ := shares_land (h := h) (lat := 6 + c)
    (fun i => .tAdj (b.tbase.toNat + shapeOff (shapeWord s b) i + 256) s.dk.tmode
      (s.dk.share (shapeWord s b) b.tbase.toNat i (tVal s.dk.tmode 0 (mget 0 s.dk.t b.t.toNat))).1)
    (fun i => (s.dk.share (shapeWord s b) b.tbase.toNat i (tVal s.dk.tmode 0 (mget 0 s.dk.t b.t.toNat))).2) (liveLeaves (shapeWord s b))
    ((s.setDk (s.dk.takeTree s.clock c)).raiseFlags h (6 + c) (root s b).flags)
  rw [State.dk_setDk] at hmore
  refine ⟨_, ?_, hmem'.trans hmem, ?_, fun i hi => ?_⟩
  · change execTdn h b s = _
    rw [execTdn, State.scalar_runs _ r]
    dsimp only
    rw [hfree, hb]
    rfl
  · obtain ⟨ls, hls⟩ := hmore.trans hmore'
    exact congrArg Deck.treeCount hls
  · obtain ⟨l, hl, hland, hdest⟩ := hall i hi
    exact ⟨l, hl, hland.trans (congrArg (· + (6 + c)) (raiseFlags_clock _ h _ _)), hdest⟩

/-! ### Lanes -/

theorem tld_runs {b : TRL} {x : VReg} {d : Deck} (hin : b.t.toNat + b.n.toNat + 1 ≤ 512) (hm : s.dk.guard h &&& lanesBelow (b.n.toNat + 1) ≠ 0)
    (ht : s.dk.takeAll [b.vn.toNat] = .inr ([x], d)) (htag : x.tag = tTag s.dk.tmode) :
    exec (.tld h b) s = .next (((s.setDk d).writeT h 2 (.t b.t.toNat) (s.dk.guard h &&& lanesBelow (b.n.toNat + 1)) x.data 0).ran h b.qm.toNat
      (isQueueName b.vn.toNat)) := by
  change execTld h b s = _
  unfold execTld
  dsimp only
  rw [if_neg hm, State.operands_ready _ ht (fun q hq => absurd hq (Option.some_ne_none q).symm)
    ((if_neg (not_not_intro htag)).trans (if_neg (by omega))), List.any_cons, List.any_nil, Bool.or_false]
  rfl

theorem tst_runs {b : TRL} (hin : b.t.toNat + b.n.toNat + 1 ≤ 512) (hm : s.dk.guard h &&& lanesBelow (b.n.toNat + 1) ≠ 0)
    (hroom : ∀ q, pushOf b.vn.toNat = some q → s.rqRoomNow q = true) :
    exec (.tst h b) s = .next (((s.setDk s.dk).writeV h 2 b.vn.toNat (s.dk.guard h &&& lanesBelow (b.n.toNat + 1))
      (lanes fun l => if l < b.n.toNat + 1 then (mget 0 s.dk.t (b.t.toNat + l)).toNat else 0) (tTag s.dk.tmode)).ran h b.qm.toNat
        (pushOf b.vn.toNat).isSome) := by
  have ht : s.dk.takeAll [] = .inr ([], s.dk) := rfl
  change execTst h b s = _
  unfold execTst
  dsimp only
  rw [if_neg hm, State.operands_ready _ ht (fun q hq => State.room_setDk ht (hroom q hq)) (if_neg (by omega)), List.any_nil, Bool.or_false, State.dk_setDk]

end

/-- Settles O53: a tree is its results in flight over the deck that took it, and a node is its operation on its children. -/
theorem trestleInstructions : Obligations.TrestleInstructions := by
  unfold Obligations.TrestleInstructions
  refine ⟨fun h b s r hfree => ⟨tup_runs r hfree, tup_copied r hfree, fun _ hcopy hb => tup_beyond r hfree hcopy hb, tdn_runs r hfree⟩, fun h b s hin => ⟨fun hm => ?_,
    fun x d hm ht htag => tld_runs hin hm ht (htag.trans ?_), fun hm hroom => ?_⟩, fun h b s r => ?_,
    fun h b s r => ?_, fun d w tbase n hn => node_values d w tbase hn⟩
  · exact ⟨congrArg Host.Outcome.next (if_pos hm), congrArg Host.Outcome.next (if_pos hm)⟩
  · rfl
  · refine ⟨_, tst_runs hin hm hroom, fun l hl => ?_⟩
    have hlt := (mget 0 s.dk.t (b.t.toNat + l)).isLt
    have hn := b.n.isLt
    rw [lane_lanes_of_lt (by omega) (by rw [if_pos (by omega)]; exact hlt), if_pos (by omega)]
  · refine ⟨_, congrArg Host.Outcome.next (State.scalar_runs _ r), fun k hk => ?_⟩
    rw [BitVec.getLsbD_and, Bool.and_comm]
    congr 1
    rw [show (0x3FFFFFFFFFFFFFFF : Word) = BitVec.ofNat 64 (2 ^ 62 - 1) from rfl, BitVec.getLsbD_ofNat, Nat.testBit_two_pow_sub_one, decide_eq_true hk, Bool.true_and]
  · refine congrArg Host.Outcome.next ((State.scalar_runs _ r).trans ?_)
    rw [BitVec.ofNat_toNat]
    rfl

end Sys2Proof.Laws.Trestle


/-! # The Causeway (spec 12): O54 -/

namespace Sys2Proof.Laws.Causeway
open Sys2Proof Sys2Proof.Machine Sys2Proof.Laws Sys2Proof.Laws.TileRequests

/-! ### One bit for each index -/

/-- Powers of two above `a` make a multiple of `2 ^ (a + 1)`. -/
theorem dvd_sum_powers {a : Nat} : ∀ {is : List Nat}, (∀ i ∈ is, a < i) → 2 ^ (a + 1) ∣ (is.map (2 ^ ·)).sum
  | [], _ => Nat.dvd_zero _
  | i :: is, h => by
    rw [List.map_cons, List.sum_cons]
    exact Nat.dvd_add (Nat.pow_dvd_pow 2 (h i List.mem_cons_self)) (dvd_sum_powers fun j hj => h j (List.mem_cons_of_mem i hj))

/-- A sum of powers of two in ascending order has their bits. -/
theorem sum_powers_bit (i : Nat) : ∀ {is : List Nat}, is.Pairwise (· < ·) → ((is.map (2 ^ ·)).sum.testBit i = true ↔ i ∈ is)
  | [], _ => by
    rw [List.map_nil, List.sum_nil, Nat.zero_testBit]
    exact iff_of_false Bool.false_ne_true List.not_mem_nil
  | a :: is, h => by
    obtain ⟨ha, his⟩ := List.pairwise_cons.1 h
    obtain ⟨q, hq⟩ := dvd_sum_powers ha
    have ih := sum_powers_bit i his
    have hor : 2 ^ a + 2 ^ (a + 1) * q = 2 ^ (a + 1) * q ||| 2 ^ a := by
      rw [Nat.add_comm]
      exact Nat.two_pow_add_eq_or_of_lt (Nat.pow_lt_pow_right (by decide) (Nat.lt_succ_self a)) q
    rw [hq] at ih
    rw [List.map_cons, List.sum_cons, hq, hor, Nat.testBit_or, Bool.or_eq_true, ih, Nat.testBit_two_pow, decide_eq_true_eq, List.mem_cons]
    exact ⟨fun hi => hi.symm.imp_left Eq.symm, fun hi => hi.symm.imp_right Eq.symm⟩

theorem indexBits_bit {is : List Nat} (h : is.Pairwise (· < ·)) {i : Nat} (hi : i < 1024) : (indexBits is).getLsbD i = is.contains i := by
  rw [indexBits, BitVec.getLsbD_ofNat, decide_eq_true hi, Bool.true_and, Bool.eq_iff_iff, List.contains_iff_mem]
  exact sum_powers_bit i h

section
variable {h : Hd} {b : XRR} {s : State}

/-! ### Settings -/

theorem cthr_theta (r : s.Runs h [b.xa, b.xb]) (hm : b.m.getLsbD 0 = true) :
    exec (.cthr h b) s = .next (s.blockAt h 1 (.blockTheta (bits (s.x b.xa).toNat 0 4) (thetaOf ((s.x b.xb).setWidth 32)))) := by
  change execCthr h b s = _
  rw [execCthr, State.scalar_runs _ r]
  dsimp only
  rw [if_pos hm]

theorem cthr_config (r : s.Runs h [b.xa, b.xb]) (hm : b.m.getLsbD 0 = false) (hd : badDescriptor (s.x b.xa).toNat = false) :
    exec (.cthr h b) s = .next (s.blockAt h 1 (.blockCfg (bits (s.x b.xa).toNat 0 4) (some (s.x b.xa, thetaOf ((s.x b.xb).setWidth 32))))) := by
  change execCthr h b s = _
  rw [execCthr, State.scalar_runs _ r]
  dsimp only
  rw [hm, hd, if_neg Bool.false_ne_true, if_neg Bool.false_ne_true]

theorem cthr_bad (r : s.Runs h [b.xa, b.xb]) (hm : b.m.getLsbD 0 = false) (hd : badDescriptor (s.x b.xa).toNat = true) :
    exec (.cthr h b) s = .next (s.raise h 0x14 0 0) := by
  change execCthr h b s = _
  rw [execCthr, State.scalar_runs _ r]
  dsimp only
  rw [hm, hd, if_neg Bool.false_ne_true, if_pos rfl]

theorem badDescriptor_iff (d : Nat) : badDescriptor d = true ↔
    bits d 38 26 ≠ 0 ∨ 4096 < bits d 4 12 + bits d 28 10 + 1 ∨ 4096 < bits d 16 12 + bits d 28 10 + 1 := by
  unfold badDescriptor
  dsimp only
  rw [Bool.or_eq_true, Bool.or_eq_true, bne_iff_ne, decide_eq_true_eq, decide_eq_true_eq, or_assoc, Nat.add_assoc, Nat.add_assoc]

/-! ### The skip test and the block -/

theorem cskip_none (r : s.Runs h [b.xa]) (hn : mfind s.ck.blocks (bits (s.x b.xa).toNat 0 4) = none) : exec (.cskip h b) s = .next (s.writeX h 4 b.xd 0) := by
  change execCskip h b s = _
  rw [execCskip, State.scalar_runs _ r]
  dsimp only
  rw [Core.block, hn]

theorem cmap_none (r : s.Runs h [b.xa]) (hn : mfind s.ck.blocks (bits (s.x b.xa).toNat 0 4) = none) : exec (.cmap h b) s = .next (s.writeX h 2 b.xd 0) := by
  change execCmap h b s = _
  rw [execCmap, State.scalar_runs _ r]
  dsimp only
  rw [Core.block, hn]

theorem csig_none (r : s.Runs h [b.xa]) (hn : mfind s.ck.blocks (bits (s.x b.xa).toNat 0 4) = none) :
    exec (.csig h b) s = .next (s.writeX h 2 b.xd Sig.none_.word) := by
  change execCsig h b s = _
  rw [execCsig, State.scalar_runs _ r]
  dsimp only
  rw [Core.block, hn]

section
variable {x : Block} (hx : mfind s.ck.blocks (bits (s.x b.xa).toNat 0 4) = some x)
include hx

theorem cskip_busy (r : s.Runs h [b.xa]) (hbusy : s.ck.busyBlock s.clock (bits (s.x b.xa).toNat 0 4) none = true) : exec (.cskip h b) s = .next s.stalled := by
  change execCskip h b s = _
  rw [execCskip, State.scalar_runs _ r]
  dsimp only
  rw [Core.block, hx]
  dsimp only
  rw [if_pos hbusy]

theorem cskip_tests (r : s.Runs h [b.xa]) (hbusy : s.ck.busyBlock s.clock (bits (s.x b.xa).toNat 0 4) none = false) :
    let t := s.ck.skipTest x
    exec (.cskip h b) s = .next ((s.writeX h 4 b.xd (BitVec.ofNat 64 (t.1.length * 2 ^ 32 + t.2.2.length * 2 ^ 16 + t.2.1.length))).access
      (s.clock + 4) s.cn s.dn (isEx h) 0 (.blockDecide (bits (s.x b.xa).toNat 0 4) x.num (indexBits t.2.1) (indexBits t.2.2) (x.cur.filter fun p => p.2.valid))) := by
  intro t
  change execCskip h b s = _
  rw [execCskip, State.scalar_runs _ r]
  dsimp only
  rw [Core.block, hx]
  dsimp only
  obtain ⟨-, -, hissue, hclock, -⟩ := Handles.writeX_frame s h 4 b.xd (BitVec.ofNat 64 (t.1.length * 2 ^ 32 + t.2.2.length * 2 ^ 16 + t.2.1.length))
  rw [hbusy, if_neg Bool.false_ne_true, State.blockAt, State.cn, State.dn, hclock, hissue]
  rfl

theorem cmap_reads (r : s.Runs h [b.xa]) : exec (.cmap h b) s =
    .next (s.writeX h 2 b.xd (BitVec.ofNat 64 ((if b.m.getLsbD 0 then x.forced else x.skip).toNat / 2 ^ (64 * bits (s.x b.xa).toNat 4 4)))) := by
  change execCmap h b s = _
  rw [execCmap, State.scalar_runs _ r]
  dsimp only
  rw [Core.block, hx]
  dsimp only
  rw [BitVec.extractLsb', Nat.shiftRight_eq_div_pow]

theorem csig_beyond (r : s.Runs h [b.xa]) (hi : bits x.desc.toNat 28 10 < bits (s.x b.xa).toNat 4 10) :
    exec (.csig h b) s = .next (s.writeX h 2 b.xd Sig.none_.word) := by
  change execCsig h b s = _
  rw [execCsig, State.scalar_runs _ r]
  dsimp only
  rw [Core.block, hx]
  exact congrArg Host.Outcome.next (if_pos hi)

theorem csig_previous (r : s.Runs h [b.xa]) (hi : bits (s.x b.xa).toNat 4 10 ≤ bits x.desc.toNat 28 10) (hm : b.m.getLsbD 0 = true) :
    exec (.csig h b) s = .next (s.writeX h 2 b.xd (x.sigP (bits (s.x b.xa).toNat 4 10)).word) := by
  change execCsig h b s = _
  rw [execCsig, State.scalar_runs _ r]
  dsimp only
  rw [Core.block, hx]
  exact congrArg Host.Outcome.next ((if_neg (Nat.not_le.2 (Nat.lt_succ_of_le hi))).trans (if_pos hm))

theorem csig_current (r : s.Runs h [b.xa]) (hi : bits (s.x b.xa).toNat 4 10 ≤ bits x.desc.toNat 28 10) (hm : b.m.getLsbD 0 = false) :
    exec (.csig h b) s = .next (if s.ck.busyBlock s.clock (bits (s.x b.xa).toNat 0 4) (some (bits (s.x b.xa).toNat 4 10)) then s.stalled
      else s.writeX h 2 b.xd (x.sig (bits (s.x b.xa).toNat 4 10)).word) := by
  change execCsig h b s = _
  rw [execCsig, State.scalar_runs _ r]
  dsimp only
  rw [Core.block, hx]
  exact congrArg Host.Outcome.next ((if_neg (Nat.not_le.2 (Nat.lt_succ_of_le hi))).trans (if_neg (by rw [hm]; decide)))

end

theorem sig_word (x : Sig) : x.word = if x.valid then BitVec.ofNat 64 (x.a.toNat * 2 ^ 32 + x.s.toNat) else 0x7FC000007FC00000 := by
  unfold Sig.word
  split
  · apply BitVec.eq_of_toNat_eq
    have ha := x.a.isLt
    have hs := x.s.isLt
    rw [BitVec.toNat_append, BitVec.toNat_ofNat, Nat.shiftLeft_eq, Nat.mul_comm, ← Nat.two_pow_add_eq_or_of_lt hs, Nat.mod_eq_of_lt (by omega)]
  · rfl

/-- The indices a test covers come in their order. -/
theorem skipTest_ascending (k : Core) (x : Block) : (k.skipTest x).2.1.Pairwise (· < ·) ∧ (k.skipTest x).2.2.Pairwise (· < ·) :=
  ⟨((List.pairwise_lt_range.filter _).filter _).filter _, ((List.pairwise_lt_range.filter _).filter _).filter _⟩

/-! ### Service -/

theorem service_starts {core : Nat} {p : PendTile} {x : Block} (hs : (s.getCore core).service = none) (hp : (s.getCore core).nextService s.clock = some p)
    (hx : mfind (s.getCore core).blocks p.block = some x) :
    ∃ t v q, exec (.causewayService core) s = .next t ∧ (t.getCore core).service = some v ∧ v.block = p.block ∧ v.idx = p.idx ∧ v.start = s.clock ∧
      v.tile = bits x.desc.toNat 4 12 + p.idx ∧ ((t.getCore core).tile v.tile).locks = ((s.getCore core).tile v.tile).locks ++ [3] ∧
      t.micro = s.micro ++ [q] ∧ q.at_ = s.clock ∧ q.act = .cwRead (32 * v.tile) ∧ t.mem = s.mem ∧ t.decks = s.decks := by
  let v : Service := ⟨p.block, x.num, p.idx, x.input p.idx, s.clock, ((s.getCore core).tile (x.input p.idx)).tag, 0, 0, 0, true, none⟩
  let k := { s.getCore core with service := some v }.modTile (x.input p.idx) fun x => { x with locks := x.locks ++ [3] }
  have hk : (s.setCore core k).getCore core = k := State.getCore_setCore s core k
  have hlocks : (k.tile v.tile).locks = ((s.getCore core).tile v.tile).locks ++ [3] :=
    congrArg Tile.locks (tile_modTile { s.getCore core with service := some v } _ _)
  refine ⟨(s.setCore core k).access s.clock core 0 false causewayPrio (.cwRead (32 * x.input p.idx)), v, _, ?_, congrArg Core.service hk, rfl, rfl, rfl, rfl,
    (congrArg (fun k : Core => (k.tile v.tile).locks) hk).trans hlocks, rfl, rfl, rfl, rfl, rfl⟩
  change execCausewayService core s = _
  unfold execCausewayService
  dsimp only
  rw [hs, hp]
  dsimp only
  rw [Core.block, hx]

end

/-- Settles O54: each instruction by what stands in its block; the bit maps of a decision hold one bit for each index of an ascending list. -/
theorem causewayInstructions : Obligations.CausewayInstructions := by
  unfold Obligations.CausewayInstructions
  refine ⟨fun h b s r => ⟨cthr_theta r, fun hm h38 hin hout => cthr_config r hm ?_, fun hm hd => cthr_bad r hm ((badDescriptor_iff _).2 hd)⟩,
    fun h b s r => ⟨congrArg Host.Outcome.next (State.scalar_runs _ r), fun hn => ⟨cskip_none r hn, cmap_none r hn, csig_none r hn⟩,
      fun x hx => ⟨cskip_busy hx r, fun hbusy => ?_, fun g hg => ?_, fun i hi => ⟨fun hle hm => ?_, fun hle hm hbusy => ?_, fun hle hm hbusy => ?_, fun hlt => ?_⟩⟩⟩,
    fun s core p x hs hp hx => service_starts hs hp hx⟩
  · refine Bool.eq_false_iff.2 fun hd => ?_
    have hbad := (badDescriptor_iff _).1 hd
    omega
  · obtain ⟨hskip, hforced⟩ := skipTest_ascending s.ck x
    exact ⟨_, _, cskip_tests hx r hbusy, fun i hi => ⟨indexBits_bit hskip hi, indexBits_bit hforced hi⟩⟩
  · rw [hg]
    exact cmap_reads hx r
  · subst hi
    rw [csig_previous hx r hle hm, sig_word]
    rfl
  · subst hi
    rw [csig_current hx r hle hm, if_neg (by rw [hbusy]; decide), sig_word]
    rfl
  · subst hi
    rw [csig_current hx r hle hm, if_pos hbusy]
  · subst hi
    exact csig_beyond hx r hlt

end Sys2Proof.Laws.Causeway


/-! # Row lifetimes (spec 03, 22): O55 -/

namespace Sys2Proof.Laws.Lifetimes
open Sys2Proof Sys2Proof.Machine Sys2Proof.Laws Sys2Proof.Laws.TileRequests Sys2Proof.Laws.MemoryReads

/-- An event that is inserted stands in the agenda. -/
theorem mem_insertEvent (t : Nat) (i : Instr) : ∀ es, (t, i) ∈ insertEvent t i es
  | [] => List.mem_cons_self
  | e :: es => by
    rw [insertEvent]
    split
    · exact List.mem_cons_self
    · exact List.mem_cons_of_mem e (mem_insertEvent t i es)

/-! ### Ticks -/

theorem age_tick {k : Core} {n : Nat} (hb : (k.row n).base ≤ k.ticks) (ha : k.age n < 0xFFFF) (x : Nat) :
    Core.age { k with ticks := k.ticks + 1, sensor := x } n = k.age n + 1 := by
  have hrow : Core.row { k with ticks := k.ticks + 1, sensor := x } n = k.row n := rfl
  rw [Core.age] at ha
  rw [Core.age, Core.age, hrow]
  change min 0xFFFF (k.ticks + 1 - (k.row n).base) = _
  omega

/-- What a tick makes of its core. -/
abbrev ticked (s : State) (core : Nat) : State :=
  s.modCore core fun k => { k with ticks := k.ticks + 1, sensor := Config.freeSensor core (s.clock / Config.tickClocks) }

theorem ageTick_next (s : State) (core : Nat) : exec (.ageTick core) s = .next ((ticked s core).postNext
    ((((ticked s core).getCore core).rows.flatMap fun r => (ticked s core).rowEvents core r.1 (((ticked s core).getCore core).age r.1)) ++
      [.refreshRequestEnter core])) := rfl

theorem rowEvents_expiry {s : State} {c n a : Nat} (h : s.pastLimit c n a = true) : s.rowEvents c n a = [.rowLimitExpiry c n] := if_pos h

theorem ageTick_events (s : State) (core : Nat) : ∃ t, exec (.ageTick core) s = .next t ∧ t.mem = s.mem ∧ t.decks = s.decks ∧
    (∀ n, ((s.getCore core).row n).base ≤ (s.getCore core).ticks → (s.getCore core).age n < 0xFFFF → (t.getCore core).age n = (s.getCore core).age n + 1) ∧
    (s.clock, Instr.refreshRequestEnter core) ∈ t.agenda ∧
    ∀ n r, (n, r) ∈ (s.getCore core).rows → t.pastLimit core n ((t.getCore core).age n) = true → (s.clock, Instr.rowLimitExpiry core n) ∈ t.agenda := by
  have hcore : (ticked s core).getCore core = _ := State.getCore_modCore s core _
  refine ⟨_, ageTick_next s core, rfl, rfl, fun n hb ha => ?_, ?_, fun n r hr hpast => ?_⟩
  · exact (congrArg (fun k : Core => k.age n) hcore).trans (age_tick hb ha _)
  · exact List.mem_append_left _ (List.mem_map.2 ⟨_, List.mem_append_right _ List.mem_cons_self, rfl⟩)
  · refine List.mem_append_left _ (List.mem_map.2 ⟨_, List.mem_append_left _ (List.mem_flatMap.2 ⟨(n, r), ?_, ?_⟩), rfl⟩)
    · exact (congrArg Core.rows hcore) ▸ hr
    · have hev : (ticked s core).rowEvents core n (((ticked s core).getCore core).age n) = [.rowLimitExpiry core n] := rowEvents_expiry hpast
      exact hev ▸ List.mem_cons_self

/-! ### Warn points, limits and requests -/

section
variable {s : State} {core row : Nat}

theorem warn_row (k : Core) (row : Nat) :
    (k.classOf (row / 32) = 7 ∨ bits (k.tile (row / 32)).cfg.toNat 2 2 = 1 → ((k.warn row).row row).st = .queued ∧ (k.warn row).offered = k.offered ++ [row]) ∧
    (k.classOf (row / 32) ≠ 7 → bits (k.tile (row / 32)).cfg.toNat 2 2 ≠ 1 → ((k.warn row).row row).st = .warned ∧
      (k.warn row).notes = if bits (k.tile (row / 32)).cfg.toNat 2 2 = 2 then k.notes ++ [(row, false)] else k.notes) := by
  refine ⟨fun h => ?_, fun hc hp => ?_⟩
  · have hw : k.warn row = { k.setRow row { k.row row with st := .queued } with offered := k.offered ++ [row] } := if_pos h
    rw [hw]
    exact ⟨congrArg RowMeta.st (row_setRow k row { k.row row with st := .queued }), rfl⟩
  · have hw : k.warn row = { k.setRow row { k.row row with st := .warned } with
        notes := if bits (k.tile (row / 32)).cfg.toNat 2 2 = 2 then k.notes ++ [(row, false)] else k.notes } := if_neg (not_or.2 ⟨hc, hp⟩)
    rw [hw]
    exact ⟨congrArg RowMeta.st (row_setRow k row { k.row row with st := .warned }), rfl⟩

theorem rowWarnPoint_next (h : s.pastWarn core row ((s.getCore core).age row) = true) :
    exec (.rowWarnPoint core row) s = .next (s.modCore core fun k => k.warn row) := congrArg Host.Outcome.next (if_pos h)

theorem rowLimitExpiry_next (h : s.pastLimit core row ((s.getCore core).age row) = true) :
    exec (.rowLimitExpiry core row) s = .next (s.modCore core fun k => k.expire row) := congrArg Host.Outcome.next (if_pos h)

theorem expire_row (k : Core) (row : Nat) : ((k.expire row).row row).st = .invalid ∧ row ∉ (k.expire row).refreshQ ∧ row ∉ (k.expire row).offered :=
  ⟨congrArg RowMeta.st (row_setRow (k.dropWay row) row { k.row row with st := .invalid }), by simp [Core.expire], by simp [Core.expire]⟩

theorem refreshRequestEnter_next (hn : (s.getCore core).notes = []) :
    ∃ t, exec (.refreshRequestEnter core) s = .next t ∧ t.mem = s.mem ∧
      t.getCore core = Core.enterRequests { s.getCore core with notes := [] } (s.getCore core).offered := by
  have hpush : s.pushNotes core = s.modCore core fun k => { k with notes := [] } := by
    rw [State.pushNotes, hn]
    rfl
  refine ⟨_, rfl, ?_, ?_⟩ <;> rw [hpush]
  · rfl
  · rw [State.getCore_modCore, State.getCore_modCore]

theorem enterRequests_one {k : Core} (hoff : k.offered = [row]) (hroom : k.refreshQ.length < 32) :
    (k.enterRequests [row]).refreshQ = k.refreshQ ++ [row] ∧ (k.enterRequests [row]).offered = [] := by
  have htake : [row].take (32 - k.refreshQ.length) = [row] := List.take_of_length_le (by rw [List.length_singleton]; omega)
  have henter : k.enterRequests [row] = { k with
      refreshQ := k.refreshQ ++ [row].take (32 - k.refreshQ.length)
      offered := k.offered.filter fun n => !([row].take (32 - k.refreshQ.length)).contains n } := rfl
  rw [henter, htake, hoff]
  exact ⟨rfl, by simp⟩

theorem enterRequests_full {k : Core} (hfull : k.refreshQ.length = 32) (ns : List Nat) :
    (k.enterRequests ns).refreshQ = k.refreshQ ∧ (k.enterRequests ns).offered = k.offered := by
  unfold Core.enterRequests
  dsimp only
  rw [hfull, Nat.sub_self, List.take_zero, List.append_nil]
  exact ⟨rfl, List.filter_eq_self.2 fun n _ => rfl⟩

theorem l7RefreshOverdue_next (hst : ((s.getCore core).row row).st = .queued) (hover : ((s.getCore core).row row).overdue = false)
    (hclass : (s.getCore core).classOf (row / 32) = 7) (hlim : s.rowLimit core row ≤ (s.getCore core).age row)
    (hidle : ∀ d, d < 4 → (s.getDeck (4 * core + d)).inst = none) :
    exec (.l7RefreshOverdue core row) s =
      .next ((s.modCore core fun k => k.setRow row { (s.getCore core).row row with overdue := true }).logError 0x08 core 0 0 (BitVec.ofNat 64 row)) := by
  have hnone : ((List.range 4).filterMap fun d => (s.getDeck (4 * core + d)).inst) = [] :=
    List.filterMap_eq_nil_iff.2 fun d hd => hidle d (List.mem_range.1 hd)
  change execL7RefreshOverdue core row s = _
  unfold execL7RefreshOverdue
  dsimp only
  rw [if_pos ⟨hst, by rw [hover]; rfl, hclass, hlim⟩]
  change Host.Outcome.next (if ((List.range 4).filterMap fun d => (s.getDeck (4 * core + d)).inst).eraseDups.isEmpty = true then _ else _) = _
  rw [hnone]
  rfl

/-! ### Refreshes -/

/-- What the start of a refresh makes of its core. -/
def refreshStarted (k : Core) (row clock : Nat) : Core :=
  { k.setRow row { k.row row with st := .refreshing } with refreshQ := k.refreshQ.filter (· != row), refreshing := k.refreshing ++ [(row, clock)] }

theorem row_refreshStarted (k : Core) (row clock : Nat) : ((refreshStarted k row clock).row row).st = .refreshing :=
  congrArg RowMeta.st (row_setRow k row { k.row row with st := .refreshing })

theorem refreshStarted_queue (k : Core) (row clock : Nat) : row ∉ (refreshStarted k row clock).refreshQ := by simp [refreshStarted]

theorem refreshStart_next (h : (s.getCore core).nextRefresh s.clock = some row) :
    exec (.refreshStart core) s =
      .next ((s.setCore core (refreshStarted (s.getCore core) row s.clock)).post (s.clock + 3) (.refreshWriteback core row)) := by
  change execRefreshStart core s = _
  unfold execRefreshStart
  dsimp only
  rw [h]
  rfl

theorem mem_countErrors (s : State) (die n : Nat) : (s.countErrors die n).mem = s.mem := by
  unfold State.countErrors
  split <;> rfl

theorem refreshWriteback_next (hst : ((s.getCore core).row row).st = .refreshing) (hbad : (s.getCore core).badIn row 0 7 = false) :
    exec (.refreshWriteback core row) s = .next ((s.correct core row 0 7).setCore core
      { (s.getCore core).setRow row ⟨.valid, (s.getCore core).ticks, false⟩ with weak := (s.getCore core).weak.filter fun g => g / 8 != row }) := by
  change execRefreshWriteback core row s = _
  unfold execRefreshWriteback
  dsimp only
  rw [if_neg (not_not_intro hst), hbad, if_neg Bool.false_ne_true]

end

/-! ### Bands and limits -/

/-- What a re-evaluation of rows leaves: memory, decks, the temperature table, and the band of a core. -/
def RowsOnly (core : Nat) (s t : State) : Prop :=
  (t.mem = s.mem ∧ t.decks = s.decks ∧ t.tempTable = s.tempTable ∧ t.tempPending = s.tempPending) ∧
    (t.getCore core).band = (s.getCore core).band ∧ (t.getCore core).reevalEnd = (s.getCore core).reevalEnd

theorem RowsOnly.refl (core : Nat) (s : State) : RowsOnly core s s := ⟨⟨rfl, rfl, rfl, rfl⟩, rfl, rfl⟩

theorem RowsOnly.trans {core : Nat} {s t u : State} (h : RowsOnly core s t) (h' : RowsOnly core t u) : RowsOnly core s u := by
  obtain ⟨⟨hm, hd, ht, hp⟩, hb, he⟩ := h
  obtain ⟨⟨hm', hd', ht', hp'⟩, hb', he'⟩ := h'
  exact ⟨⟨hm'.trans hm, hd'.trans hd, ht'.trans ht, hp'.trans hp⟩, hb'.trans hb, he'.trans he⟩

theorem rowsOnly_modCore (s : State) (core : Nat) {f : Core → Core} (hf : ∀ k, (f k).band = k.band ∧ (f k).reevalEnd = k.reevalEnd) :
    RowsOnly core s (s.modCore core f) := by
  refine ⟨⟨rfl, rfl, rfl, rfl⟩, ?_⟩
  rw [State.getCore_modCore]
  exact hf _

theorem warn_band (k : Core) (n : Nat) : (k.warn n).band = k.band ∧ (k.warn n).reevalEnd = k.reevalEnd := by
  unfold Core.warn
  dsimp only
  split <;> exact ⟨rfl, rfl⟩

theorem evalRow_rows (s : State) (core n : Nat) : RowsOnly core s (s.evalRow core n) := by
  unfold State.evalRow
  dsimp only
  split
  · exact rowsOnly_modCore s core fun k => ⟨rfl, rfl⟩
  split
  · exact rowsOnly_modCore s core fun k => warn_band k n
  · exact .refl core s

theorem reevaluate_rows (s : State) (core : Nat) : RowsOnly core (s.modCore core fun k => { k with reevalEnd := s.clock + 64 }) (s.reevaluate core) :=
  List.foldlRecOn (motive := RowsOnly core _) _ _ (.refl core _) fun _ h n _ => h.trans (evalRow_rows _ core n)

section
variable {s : State} {core : Nat}

theorem bandStepHotter_next (hb : (s.getCore core).band < 7) (ht : 40 + 10 * ((s.getCore core).band + 1) ≤ (s.getCore core).sensor) :
    ∃ t, exec (.bandStepHotter core) s = .next t ∧ (t.getCore core).band = (s.getCore core).band + 1 ∧ (t.getCore core).reevalEnd = s.clock + 64 ∧
      t.mem = s.mem := by
  have hhot : (s.getCore core).hotter = true := by
    rw [Core.hotter, bandFloor, if_neg (Nat.succ_ne_zero _)]
    exact decide_eq_true ⟨hb, ht⟩
  obtain ⟨⟨hmem, -⟩, hband, hend⟩ := reevaluate_rows (s.modCore core fun k => { k with band := k.band + 1 }) core
  rw [State.getCore_modCore] at hband hend
  refine ⟨_, congrArg Host.Outcome.next (if_pos hhot), ?_, hend, hmem⟩
  exact hband.trans (congrArg Core.band (State.getCore_modCore s core fun k => { k with band := k.band + 1 }))

theorem bandStepCooler_next (hb : 0 < (s.getCore core).band) (ht : (s.getCore core).sensor + 3 ≤ 40 + 10 * (s.getCore core).band) :
    ∃ t, exec (.bandStepCooler core) s = .next t ∧ (t.getCore core).band = (s.getCore core).band - 1 ∧ t.mem = s.mem := by
  have hcool : (s.getCore core).cooler = true := by
    rw [Core.cooler, bandFloor, if_neg (by omega)]
    exact decide_eq_true ⟨hb, ht⟩
  exact ⟨_, congrArg Host.Outcome.next (if_pos hcool), congrArg Core.band (State.getCore_modCore s core fun k => { k with band := k.band - 1 }), rfl⟩

theorem mfind_mput (m : Map α) (k : Nat) (v : α) : mfind (mput m k v) k = some v := by
  induction m with
  | nil => exact if_pos rfl
  | cons p m ih =>
    obtain ⟨a, x⟩ := p
    rw [mput]
    split
    · exact if_pos rfl
    split
    · exact if_pos rfl
    next hne => rw [mfind, if_neg hne, ih]

theorem reevaluations_leave (cs : List (Nat × Core)) (s : State) : let t := cs.foldl (fun s p => s.reevaluate p.1) s
    t.mem = s.mem ∧ t.decks = s.decks ∧ t.tempTable = s.tempTable ∧ t.tempPending = s.tempPending := by
  refine List.foldlRecOn (motive := fun t : State => t.mem = s.mem ∧ t.decks = s.decks ∧ t.tempTable = s.tempTable ∧ t.tempPending = s.tempPending) _ _
    ⟨rfl, rfl, rfl, rfl⟩ fun u ⟨hm, hd, ht, hp⟩ p _ => ?_
  obtain ⟨⟨hm', hd', ht', hp'⟩, -⟩ := reevaluate_rows u p.1
  exact ⟨hm'.trans hm, hd'.trans hd, ht'.trans ht, hp'.trans hp⟩

theorem tempTableApply_next {e : Nat} {v : BitVec 16} (h : s.tempPending = [(e, v)]) : ∃ t, exec .tempTableApply s = .next t ∧ t.tempPending = [] ∧
    mfind t.tempTable e = some v ∧ t.mem = s.mem ∧ t.decks = s.decks := by
  change ∃ t, execTempTableApply s = .next t ∧ _
  unfold execTempTableApply
  dsimp only
  rw [h, List.foldl_cons, List.foldl_nil]
  split
  · obtain ⟨hm, hd, ht, hp⟩ := reevaluations_leave (State.cores { s with tempTable := mput s.tempTable e v, tempPending := [] } |>.filter fun p => p.2.power.cur != 2)
      { s with tempTable := mput s.tempTable e v, tempPending := [] }
    exact ⟨_, rfl, hp, ht ▸ mfind_mput s.tempTable e v, hm, hd⟩
  · exact ⟨_, rfl, rfl, mfind_mput s.tempTable e v, rfl, rfl⟩

end

/-- Settles O55: each event by what it makes of its row, its core or the table; a re-evaluation leaves all but rows, requests and notes. -/
theorem rowLifetimes : Obligations.RowLifetimes := by
  unfold Obligations.RowLifetimes
  refine ⟨ageTick_events, fun s core row => ⟨fun hw => ?_, fun hl => ?_, fun hst hover hclass hlim hidle => ?_, fun hn hoff hroom => ?_, fun hn hfull => ?_, fun hnext => ?_,
    fun hst hbad => ?_⟩, fun s core => ⟨bandStepHotter_next, bandStepCooler_next⟩, fun s e v h => tempTableApply_next h⟩
  · refine ⟨_, rowWarnPoint_next hw, rfl, ?_⟩
    rw [State.getCore_modCore]
    exact warn_row _ row
  · refine ⟨_, rowLimitExpiry_next hl, rfl, ?_⟩
    rw [State.getCore_modCore]
    exact expire_row _ row
  · refine ⟨_, _, l7RefreshOverdue_next hst hover hclass hlim hidle, ?_, rfl, rfl, rfl, rfl, rfl⟩
    exact (congrArg (fun k : Core => k.row row) (State.getCore_modCore s core fun k => k.setRow row { (s.getCore core).row row with overdue := true })).trans
      (row_setRow _ row _)
  · obtain ⟨t, hrun, hmem, hcore⟩ := refreshRequestEnter_next hn
    rw [hoff] at hcore
    obtain ⟨hq, ho⟩ := enterRequests_one (k := { s.getCore core with notes := [] }) hoff hroom
    exact ⟨t, hrun, hcore ▸ hq, hcore ▸ ho, hmem⟩
  · obtain ⟨t, hrun, -, hcore⟩ := refreshRequestEnter_next hn
    obtain ⟨hq, ho⟩ := enterRequests_full (k := { s.getCore core with notes := [] }) hfull (s.getCore core).offered
    exact ⟨t, hrun, hcore ▸ hq, hcore ▸ ho⟩
  · refine ⟨_, refreshStart_next hnext, ?_, ?_, mem_insertEvent _ _ _, rfl⟩
    · exact (congrArg (fun k : Core => (k.row row).st) (State.getCore_setCore s core _)).trans (row_refreshStarted _ row s.clock)
    · have hq := congrArg Core.refreshQ (State.getCore_setCore s core (refreshStarted (s.getCore core) row s.clock))
      exact fun hmem => refreshStarted_queue (s.getCore core) row s.clock (hq ▸ hmem)
  · refine ⟨_, refreshWriteback_next hst hbad, ?_, ?_, mem_countErrors _ _ _⟩
    · rw [State.getCore_setCore]
      exact congrArg RowMeta.st (row_setRow (s.getCore core) row ⟨.valid, (s.getCore core).ticks, false⟩)
    · have hrow := row_setRow (s.getCore core) row ⟨.valid, (s.getCore core).ticks, false⟩
      rw [State.getCore_setCore, Core.age]
      change min 0xFFFF ((s.getCore core).ticks - (((s.getCore core).setRow row ⟨.valid, (s.getCore core).ticks, false⟩).row row).base) = 0
      rw [hrow, Nat.sub_self]
      rfl

end Sys2Proof.Laws.Lifetimes


/-! # Transfer phases (spec 14): squares, schedules, rows sent and contributions -/

namespace Sys2Proof.Laws.Transfers
open Sys2Proof Sys2Proof.Machine Sys2Proof.Laws Sys2Proof.Laws.VectorArithmetic

/-! ### What a phase leaves -/

/-- The parts of the state that folds over cores and decks leave. -/
def SamePhase (s t : State) : Prop := t.insts = s.insts ∧ t.mem = s.mem ∧ t.partials = s.partials ∧ t.xrows = s.xrows ∧ t.clock = s.clock

theorem SamePhase.refl (s : State) : SamePhase s s := ⟨rfl, rfl, rfl, rfl, rfl⟩

theorem SamePhase.trans {s t u : State} (h : SamePhase s t) (h' : SamePhase t u) : SamePhase s u := by
  obtain ⟨hi, hm, hp, hx, hc⟩ := h
  obtain ⟨hi', hm', hp', hx', hc'⟩ := h'
  exact ⟨hi'.trans hi, hm'.trans hm, hp'.trans hp, hx'.trans hx, hc'.trans hc⟩

theorem samePhase_foldl {α : Type} (f : State → α → State) (hf : ∀ s a, SamePhase s (f s a)) (l : List α) (s : State) : SamePhase s (l.foldl f s) :=
  List.foldlRecOn (motive := SamePhase s) _ _ (.refl s) fun _ h a _ => h.trans (hf _ a)

/-- A key whose entries have all gone reads as nothing. -/
theorem mget_filter_gone {α : Type} (d : α) (m : Map α) (k : Nat) (p : Nat → Bool) (hp : p k = false) : mget d (m.filter fun q => p q.1) k = d := by
  induction m with
  | nil => rfl
  | cons q m ih =>
    rw [List.filter_cons]
    split
    next hq =>
      obtain ⟨a, x⟩ := q
      have hne : a ≠ k := fun h => by
        have hq' : p a = true := hq
        rw [h, hp] at hq'
        cases hq'
      rw [mget, if_neg hne, ih]
    next => exact ih

theorem endPhase_facts (s : State) (i : Nat) : let t := s.endPhase i
    t.getInst i = { s.getInst i with xfer := none } ∧ t.mem = s.mem ∧ t.partials = s.partials ∧ t.clock = s.clock ∧ t.decks = s.decks ∧
      ∀ r ∈ t.xrows, r.inst ≠ i := by
  intro t
  let u := (s.getInst i).coresOf.foldl (fun s c => s.modCore c fun k => { k with sched := [] }) (s.setInst i { s.getInst i with xfer := none })
  obtain ⟨hinsts, hmem, hpart, -, hclock⟩ := samePhase_foldl (fun s c => s.modCore c fun k => { k with sched := [] }) (fun s c => ⟨rfl, rfl, rfl, rfl, rfl⟩)
    (s.getInst i).coresOf (s.setInst i { s.getInst i with xfer := none })
  have hdecks : u.decks = s.decks := List.foldlRecOn (motive := fun t : State => t.decks = s.decks) _ _ rfl fun _ h _ _ => h
  refine ⟨?_, hmem, hpart, hclock, hdecks, fun r hr => ?_⟩
  · exact (congrArg (fun m => mget Inst.absent m i) hinsts).trans (mget_mput_same _ _ _ _)
  · have hp := (List.mem_filter.1 hr).2
    exact bne_iff_ne.1 hp

/-- The `Inst` as a Square leaves it. -/
def squared (x : Inst) (clock len : Nat) : Inst :=
  { x with squareAt := some clock, xfer := if x.kind = 2 ∧ len > 0 then some ⟨clock, len⟩ else none, contribs := [], sentParts := [], peerParts := [] }

/-- A Square whose earlier phase has ended, before the cores and decks of its gang go on. -/
def squareStart (u : State) (i len : Nat) : State :=
  { u.setInst i (squared (u.getInst i) u.clock len) with
    partials := u.partials.filter fun p => !((u.getInst i).coresOf.map coreRouter).contains (p.1 / 4096) }

theorem squareComplete_next (s : State) (i : Nat) : ∃ t, exec (.squareComplete i) s = .next t ∧ (t.getInst i).squareAt = some s.clock ∧ (t.getInst i).contribs = [] ∧
    (∀ c ∈ (s.getInst i).coresOf, ∀ r, r < 4096 → mget 0 t.partials (coreRouter c * 4096 + r) = 0) ∧ t.mem = s.mem ∧
      ((s.getInst i).kind ≠ 2 → (t.getInst i).xfer = none) := by
  obtain ⟨hinst, hmem, hpart, hclock, -, -⟩ := endPhase_facts s i
  change ∃ t, execSquareComplete i s = .next t ∧ _
  unfold execSquareComplete
  dsimp only
  generalize s.endPhase i = u at *
  have hcores : (u.getInst i).coresOf = (s.getInst i).coresOf := by rw [hinst]; rfl
  have hkind : (u.getInst i).kind = (s.getInst i).kind := by rw [hinst]
  generalize hlive : ((u.getInst i).decks.filter fun n => !(u.getDeck n).halted) = live
  generalize hlen : live.foldl (fun m n => max m ((u.getDeck n).atSq.getD 0)) 0 = len
  obtain ⟨hinsts, hm, hp, -⟩ := (samePhase_foldl (fun s c => s.modCore c Core.phaseBoundary) (fun s c => .refl _) (u.getInst i).coresOf
    (squareStart u i len)).trans (SamePhase.trans (t := (((u.getInst i).coresOf.foldl (fun s c => s.modCore c Core.phaseBoundary)
      (squareStart u i len)).forgetVersions)) ⟨rfl, rfl, rfl, rfl, rfl⟩ (samePhase_foldl (fun s n => s.rearm n) (fun s n => .refl _) live _))
  have hsq : mget Inst.absent (squareStart u i len).insts i = squared (u.getInst i) u.clock len := mget_mput_same _ _ _ _
  refine ⟨_, rfl, ?_, ?_, fun c hc r hr => ?_, hm.trans hmem, fun hk => ?_⟩
  · exact (congrArg (fun m => (mget Inst.absent m i).squareAt) hinsts).trans ((congrArg Inst.squareAt hsq).trans (congrArg some hclock))
  · exact (congrArg (fun m => (mget Inst.absent m i).contribs) hinsts).trans (congrArg Inst.contribs hsq)
  · refine (congrArg (fun m => mget 0 m (coreRouter c * 4096 + r)) hp).trans ?_
    refine mget_filter_gone 0 u.partials _ (fun k => !((u.getInst i).coresOf.map coreRouter).contains (k / 4096)) ?_
    rw [show (coreRouter c * 4096 + r) / 4096 = coreRouter c by omega, Bool.not_eq_false', List.contains_iff_mem, hcores]
    exact List.mem_map.2 ⟨c, hc, rfl⟩
  · refine (congrArg (fun m => (mget Inst.absent m i).xfer) hinsts).trans ((congrArg Inst.xfer hsq).trans (if_neg fun h => hk ?_))
    exact hkind.symm.trans h.1

theorem transferPhaseEnd_next (s : State) (i : Nat) : ∃ t, exec (.transferPhaseEnd i) s = .next t ∧ (t.getInst i).xfer = none ∧ t.mem = s.mem ∧ t.decks = s.decks ∧
    ∀ r ∈ t.xrows, r.inst ≠ i := by
  obtain ⟨hinst, hmem, -, -, hdecks, hrows⟩ := endPhase_facts s i
  exact ⟨_, rfl, congrArg Inst.xfer hinst, hmem, hdecks, hrows⟩

/-! ### Schedules and rows sent -/

section
variable {h : Hd} {s : State}

theorem xsel_runs {b : XFS} {now : Int} (r : s.Passed h []) (hnow : s.phaseCycle = some now) : exec (.xsel h b) s = .next (s.modCk fun k => { k with
    sched := k.sched ++ [⟨portRouter s.cn b.outp.toNat, b.outp.toNat, b.inp.toNat, max b.cycle.toNat (now + 1).toNat, s.dn⟩] }) := by
  change execXsel h b s = _
  unfold execXsel
  rw [State.irrevocable_passed _ r, hnow]

theorem xsel_outside {b : XFS} (r : s.Passed h []) (hnow : s.phaseCycle = none) : exec (.xsel h b) s = .next (s.raise h 0x06 0 0) := by
  change execXsel h b s = _
  unfold execXsel
  rw [State.irrevocable_passed _ r, hnow]

theorem xmit_register {b : XFM} {v : VReg} {d : Deck} {now : Int} (hk : b.kind = 0) (r : s.Passed h []) (ht : s.dk.takeAll [b.src.toNat] = .inr ([v], d))
    (hnow : s.phaseCycle = some now) (hle : now ≤ (b.cycle.toNat : Int)) :
    exec (.xmit h b) s = .next { ((s.setDk d).sendFlits s.seq b.port.toNat b.cycle.toNat) with
      xrows := s.xrows ++ [⟨s.seq, (s.setDk d).dk.inst.getD 0, v.data, v.tag, b.src.toNat, true, s.dn, []⟩], seq := s.seq + 1 } := by
  change execXmit h b s = _
  unfold execXmit
  rw [if_pos hk, State.irrevocable_passed _ r, State.operands_ready _ ht (fun q hq => absurd hq (Option.some_ne_none q).symm)
    (by rw [hnow]; exact if_neg (by omega))]
  rfl

theorem operands_fault {qm : Nat} {srcs : List Nat} {vs : List VReg} {d : Deck} {check : Deck → List VReg → Option (Nat × Nat × Word)}
    {act : State → List VReg → State} {cause detail : Nat} {w : Word} (ht : s.dk.takeAll srcs = .inr (vs, d)) (hc : check s.dk vs = some (cause, detail, w)) :
    s.operands h qm srcs none check act = s.raise h cause detail w := by
  rw [State.operands, ht]
  dsimp only
  rw [hc]
  rfl

theorem xmit_register_late {b : XFM} {v : VReg} {d : Deck} {now : Int} (hk : b.kind = 0) (r : s.Passed h [])
    (ht : s.dk.takeAll [b.src.toNat] = .inr ([v], d)) (hnow : s.phaseCycle = some now) (hlt : (b.cycle.toNat : Int) < now) :
    exec (.xmit h b) s = .next (s.raise h 0x06 0 0) := by
  change execXmit h b s = _
  unfold execXmit
  rw [if_pos hk, State.irrevocable_passed _ r, operands_fault ht (by rw [hnow]; exact if_pos hlt)]

theorem xmit_store {b : XFM} {a : Nat} {now : Int} (hk : b.kind = 1) (r : s.Passed h [BitVec.ofNat 6 (b.src.toNat / 8 % 64)])
    (ha : addrOf (s.x (BitVec.ofNat 6 (b.src.toNat / 8 % 64))) = .store a) (hbar : s.frameBarred (a / 16384) = false) (hnow : s.phaseCycle = some now) :
    exec (.xmit h b) s = .next (if now + 2 > (b.cycle.toNat : Int) then s.raise h 0x06 0 0
      else State.access { (s.sendFlits s.seq b.port.toNat b.cycle.toNat) with
        xrows := s.xrows ++ [⟨s.seq, s.dk.inst.getD 0, 0, 0, a / 512, false, s.dn, []⟩], seq := s.seq + 1 } (s.clock + 2) s.cn s.dn false
          (deckPrio s.dn false) (.xmitRead s.seq (a / 512))) := by
  change execXmit h b s = _
  unfold execXmit
  dsimp only
  rw [if_neg (by rw [hk]; decide)]
  change Host.Outcome.next (s.irrevocable h [BitVec.ofNat 6 (b.src.toNat / 8 % 64)] _) = _
  rw [State.irrevocable_passed _ r]
  change Host.Outcome.next (match addrOf (s.x (BitVec.ofNat 6 (b.src.toNat / 8 % 64))) with | .store a => _ | _ => _) = _
  rw [ha]
  dsimp only
  rw [hbar, hnow]
  rfl

end

end Sys2Proof.Laws.Transfers


/-! # Exact reductions, peers and packets (spec 14): O56 -/

namespace Sys2Proof.Laws.Reductions
open Sys2Proof Sys2Proof.Machine Sys2Proof.Laws Sys2Proof.Laws.Transfers Sys2Proof.Laws.Traps

/-! ### Partials -/

theorem addPartial_sum (p q : BitVec 320) : (addPartial p q).setWidth 312 = p.setWidth 312 + q.setWidth 312 := by
  apply BitVec.eq_of_getLsbD_eq
  intro k hk
  simp [addPartial, hk, show k < 320 by omega, show ¬ 312 ≤ k by omega]

theorem addPartial_flag (p q : BitVec 320) {k : Nat} (h : 312 ≤ k) (h' : k < 316) : (addPartial p q).getLsbD k = (p.getLsbD k || q.getLsbD k) := by
  obtain rfl | rfl | rfl | rfl : k = 312 ∨ k = 313 ∨ k = 314 ∨ k = 315 := by omega
  all_goals simp [addPartial]

/-- The lanes of a row, each at its own register, leave every register they do not name. -/
theorem lanes_other (f : Nat → BitVec 320) (key : Nat → Nat) (k : Nat) (l : List Nat) (m : Map (BitVec 320)) (hk : ∀ e ∈ l, key e ≠ k) :
    mget 0 (l.foldl (fun m e => mset 0 m (key e) (addPartial (mget 0 m (key e)) (f e))) m) k = mget 0 m k := by
  induction l generalizing m with
  | nil => rfl
  | cons a l ih =>
    rw [List.foldl_cons, ih _ fun e he => hk e (List.mem_cons_of_mem a he), mget_mset_other]
    exact hk a List.mem_cons_self

/-- The lanes of a row add each to its own register. -/
theorem lanes_add (f : Nat → BitVec 320) (key : Nat → Nat) {e : Nat} (l : List Nat) (m : Map (BitVec 320)) (hl : l.Nodup)
    (hinj : ∀ a ∈ l, key a = key e → a = e) (he : e ∈ l) :
    mget 0 (l.foldl (fun m e => mset 0 m (key e) (addPartial (mget 0 m (key e)) (f e))) m) (key e) = addPartial (mget 0 m (key e)) (f e) := by
  induction l generalizing m with
  | nil => exact absurd he List.not_mem_nil
  | cons a l ih =>
    obtain ⟨ha, hl⟩ := List.nodup_cons.1 hl
    rw [List.foldl_cons]
    obtain rfl | he' := List.mem_cons.1 he
    · rw [lanes_other f key _ l _ fun b hb heq => ha (hinj b (List.mem_cons_of_mem _ hb) heq ▸ hb), mget_mset_same]
    · have hne : key a ≠ key e := fun heq => ha (hinj a List.mem_cons_self heq ▸ he')
      rw [ih _ hl (fun b hb => hinj b (List.mem_cons_of_mem a hb)) he', mget_mset_other _ _ _ hne]

theorem addLanes_register (s : State) (g slot : Nat) (row : Image) {l : Nat} (hl : l < 128) :
    let r := g * 4096 + (slot + l) % 4096
    mget 0 (s.addLanes g slot row).partials r = addPartial (mget 0 s.partials r) (partialCode (row.extractLsb' (32 * l) 32)) := by
  intro r
  have hmem : l ∈ List.range 128 := List.mem_range.2 hl
  have hinj : ∀ a ∈ List.range 128, g * 4096 + (slot + a) % 4096 = g * 4096 + (slot + l) % 4096 → a = l := fun a ha heq => by
    have halt := List.mem_range.1 ha
    omega
  have hnodup : (List.range 128).Nodup := List.nodup_range
  unfold State.addLanes
  generalize List.range 128 = ls at *
  exact lanes_add (fun l => partialCode (row.extractLsb' (32 * l) 32)) (fun l => g * 4096 + (slot + l) % 4096) ls s.partials hnodup hinj hmem

section
variable {h : Hd} {b : XFR} {s : State} {i : Nat} {v : VReg} {d : Deck} {now : Int}

theorem x_taken {ns : List Nat} {vs : List VReg} (ht : s.dk.takeAll ns = .inr (vs, d)) (r : BitVec 6) : (s.setDk d).x r = s.x r := by
  obtain ⟨hd, -⟩ := Deck.takeAll_queues ht
  exact (congrArg (fun d : Deck => d.getX r) (State.dk_setDk s d)).trans (congrArg (fun d : Deck => d.getX r) hd :)

theorem xred_runs (r : s.Passed h [b.xa]) (ht : s.dk.takeAll [b.src.toNat] = .inr ([v], d)) (hnow : s.phaseCycle = some now) (htag : v.tag = 0)
    (hslot : (s.x b.xa).toNat < 4096) (hle : now ≤ (b.cycle.toNat : Int)) (hi : d.inst = some i) :
    exec (.xred h b) s = .next (((s.setDk d).modInst i fun x => { x with contribs := x.contribs ++ [⟨(s.x b.xa).toNat, s.dn, b.cycle.toNat, false⟩] }).addLanes
      (coreRouter s.cn) (s.x b.xa).toNat v.data) := by
  have hbits : bits (s.x b.xa).toNat 0 12 = (s.x b.xa).toNat := by rw [bits, Nat.pow_zero, Nat.div_one, Nat.mod_eq_of_lt (by omega)]
  have hhigh : bits (s.x b.xa).toNat 12 52 = 0 := by rw [bits, Nat.div_eq_of_lt (by omega), Nat.zero_mod]
  have hinst : (s.setDk d).dk.inst.getD 0 = i := by rw [State.dk_setDk, hi, Option.getD_some]
  change execXred h b s = _
  unfold execXred
  rw [State.irrevocable_passed _ r, State.operands_ready _ ht (fun q hq => absurd hq (Option.some_ne_none q).symm)]
  · dsimp only
    rw [hinst, show (s.setDk d).x b.xa = s.x b.xa from x_taken ht _, hbits]
    rfl
  · dsimp only
    rw [if_neg (by rw [List.headD_cons, htag]; decide), if_neg (not_not_intro hhigh), hnow]
    exact if_neg (by omega)

theorem xred_tag (r : s.Passed h [b.xa]) (ht : s.dk.takeAll [b.src.toNat] = .inr ([v], d)) (htag : v.tag ≠ 0) :
    exec (.xred h b) s = .next (s.raise h 0x03 v.tag.toNat 0) := by
  change execXred h b s = _
  unfold execXred
  rw [State.irrevocable_passed _ r, operands_fault ht (if_pos htag)]
  rfl

theorem xred_beyond (r : s.Passed h [b.xa]) (ht : s.dk.takeAll [b.src.toNat] = .inr ([v], d)) (htag : v.tag = 0) (hslot : 4096 ≤ (s.x b.xa).toNat) :
    exec (.xred h b) s = .next (s.raise h 0x06 0 0) := by
  have hhigh : bits (s.x b.xa).toNat 12 52 ≠ 0 := by
    have := (s.x b.xa).isLt
    rw [bits]
    omega
  change execXred h b s = _
  unfold execXred
  rw [State.irrevocable_passed _ r, operands_fault ht ((if_neg (by rw [List.headD_cons, htag]; decide)).trans (if_pos hhigh))]

end

/-! ### Results -/

theorem lanesImage_lane {ws : List Nat} (hlen : ws.length = 128) {l : Nat} (hl : l < 128) :
    bits (lanesImage ws).toNat (32 * l) 32 = ws[l] % 2 ^ 32 := by
  have hlt := packBytes_lt 4 ws
  have hat := getAt_packBytes 4 ws l (by omega)
  have hpow : ∀ n, 256 ^ n = 2 ^ (8 * n) := fun n => Nat.pow_mul 2 8 n ▸ rfl
  rw [hlen, hpow] at hlt
  rw [getAt, hpow, hpow, show 8 * (4 * l) = 32 * l by omega] at hat
  rw [lanesImage, BitVec.toNat_ofNat, Nat.mod_eq_of_lt hlt]
  exact hat

/-- The image of a result, from the parts of its registers. -/
abbrev resultImage (slot : Nat) (parts : Map (BitVec 320)) : Image := lanesImage ((slotRegs slot).map fun r => roundPartial (mget 0 parts r))

theorem resultImage_lane (slot : Nat) (parts : Map (BitVec 320)) {l : Nat} (hl : l < 128) :
    bits (resultImage slot parts).toNat (32 * l) 32 = roundPartial (mget 0 parts ((slot + l) % 4096)) % 2 ^ 32 := by
  have hlen : ((slotRegs slot).map fun r => roundPartial (mget 0 parts r)).length = 128 := by
    rw [List.length_map, slotRegs, List.length_map, List.length_range]
  refine (lanesImage_lane hlen hl).trans (congrArg (· % 2 ^ 32) ?_)
  rw [List.getElem_map]
  refine congrArg (fun r => roundPartial (mget 0 parts r)) ?_
  unfold slotRegs
  rw [List.getElem_map, List.getElem_range]

/-- A result for a deck whose rq6 has room, and for which none is held, enters rq6. -/
theorem roundSlot_delivers (s : State) (slot : Nat) (parts : Map (BitVec 320)) {n : Nat} (hroom : (mget [] (s.getDeck n).rq 6).length < 4)
    (hheld : ((s.getCore (n / 4)).engine 3).held = []) : s.roundSlot slot parts [n] = s.pushRq n 6 (resultImage slot parts) 0 := by
  refine if_pos ?_
  rw [hheld, List.any_nil, Bool.not_false, Bool.and_true]
  exact decide_eq_true hroom

theorem pushRq_deck (s : State) (n q : Nat) (data : Image) (tag : Tag) :
    mget [] ((s.pushRq n q data tag).getDeck n).rq q = mget [] (s.getDeck n).rq q ++ [⟨s.seq, data, tag, true, false⟩] := by
  have hdeck := State.getDeck_modDeck s n fun d => { d with rq := mset [] d.rq q (mget [] d.rq q ++ [⟨s.seq, data, tag, true, false⟩]) }
  exact (congrArg (fun d : Deck => mget [] d.rq q) hdeck).trans (mget_mset_same _ _ _ _)

theorem mget_map_mem {f : Nat → BitVec 320} {l : List Nat} {r : Nat} (hr : r ∈ l) : mget 0 (l.map fun r => (r, f r)) r = f r := by
  induction l with
  | nil => exact absurd hr List.not_mem_nil
  | cons a l ih =>
    rw [List.map_cons, mget]
    split
    next heq => rw [heq]
    next hne =>
      obtain rfl | hr := List.mem_cons.1 hr
      · exact absurd rfl hne
      · exact ih hr

theorem mem_slotRegs (slot : Nat) {l : Nat} (hl : l < 128) : (slot + l) % 4096 ∈ slotRegs slot := List.mem_map.2 ⟨l, List.mem_range.2 hl, rfl⟩

section
variable {s : State} {i slot n cycle : Nat}

theorem xredResultDelivery_round (hc : (s.getInst i).contribs = [⟨slot, n, cycle, false⟩]) (hg : s.boundGroups slot = [])
    (herr : LineError.sum i slot ∉ s.lineErrors) :
    exec (.xredResultDelivery i slot) s = .next ((s.setInst i { s.getInst i with contribs := [⟨slot, n, cycle, true⟩] }).roundSlot slot
      ((slotRegs slot).map fun r => (r, s.total (s.getInst i) r)) [n]) := by
  have hdue : (((s.getInst i).contribs.filter fun c => c.slot == slot && !c.done).map (·.deck)).eraseDups = [n] := by
    rw [hc, List.filter_cons_of_pos (by rw [beq_self_eq_true]; rfl)]
    rfl
  change execXredResultDelivery i slot s = _
  unfold execXredResultDelivery
  dsimp only
  have hdecks : ([n].filter fun m => !([(⟨slot, n, cycle, false⟩ : Contrib)].any fun c => c.slot == slot && c.done && c.deck == m)) = [n] := by
    simp
  rw [hdue, hc, List.map_cons, List.map_nil, if_pos rfl, hdecks, if_neg (by rw [List.isEmpty_cons]; decide)]
  refine (if_neg fun h => herr (List.contains_iff_mem.1 h)).trans ((if_pos ?_).trans rfl)
  exact List.isEmpty_iff.2 hg

theorem result_delivered (hc : (s.getInst i).contribs = [⟨slot, n, cycle, false⟩]) (hg : s.boundGroups slot = [])
    (hroom : (mget [] (s.getDeck n).rq 6).length < 4) (hheld : ((s.getCore (n / 4)).engine 3).held = []) (herr : LineError.sum i slot ∉ s.lineErrors) :
    ∃ t e, exec (.xredResultDelivery i slot) s = .next t ∧ (t.getInst i).contribs = [⟨slot, n, cycle, true⟩] ∧ t.mem = s.mem ∧
      mget [] (t.getDeck n).rq 6 = mget [] (s.getDeck n).rq 6 ++ [e] ∧ e.arrived = true ∧ e.tag = 0 ∧
      ∀ l, l < 128 → bits e.data.toNat (32 * l) 32 = roundPartial (s.total (s.getInst i) ((slot + l) % 4096)) % 2 ^ 32 := by
  have hrun := xredResultDelivery_round hc hg herr
  rw [roundSlot_delivers (s.setInst i { s.getInst i with contribs := [⟨slot, n, cycle, true⟩] }) slot _ hroom hheld] at hrun
  refine ⟨_, _, hrun, ?_, rfl, pushRq_deck _ n 6 _ 0, rfl, rfl, fun l hl => ?_⟩
  · exact congrArg Inst.contribs (mget_mput_same Inst.absent s.insts i { s.getInst i with contribs := [⟨slot, n, cycle, true⟩] })
  · rw [resultImage_lane slot _ hl, mget_map_mem (mem_slotRegs slot hl)]

end

/-! ### Peers' partials -/

theorem takePartials_none {x : Inst} {g dev : Nat} (ps : List (BitVec 320)) (h : ∀ b ∈ x.bound, (g, dev) ∉ b.missing) : x.takePartials g dev ps = none := by
  have hfind : (x.bound.find? fun b => b.missing.contains (g, dev)) = none :=
    List.find?_eq_none.2 fun b hb hc => h b hb (List.contains_iff_mem.1 hc)
  rw [Inst.takePartials, hfind]

theorem peerPartials_wait {s : State} {g dev : Nat} (ps : List (BitVec 320)) (h : ∀ p ∈ s.insts, ∀ b ∈ p.2.bound, (g, dev) ∉ b.missing) :
    exec (.peerPartialArrival (g, dev) ps) s = .next { s with peers := s.peers ++ [(g, dev, ps)] } := by
  have hnone : (s.insts.findSome? fun (p : Nat × Inst) => (p.2.takePartials g dev ps).map fun x => (p.1, x)) = none :=
    List.findSome?_eq_none_iff.2 fun p hp => by rw [takePartials_none ps (h p hp)]; rfl
  change execPeerPartialArrival (g, dev) ps s = _
  rw [execPeerPartialArrival, State.peerPartials, hnone]

/-- An `Inst` whose one result misses one message takes it. -/
theorem takePartials_last {x : Inst} {b : Bound} {g dev : Nat} (ps : List (BitVec 320)) (hb : x.bound = [b]) (hm : b.missing = [(g, dev)]) :
    ∃ x', x.takePartials g dev ps = some x' ∧ x'.bound = [{ b with parts := addGroup b.parts g ps, missing := [] }] := by
  have hc : b.missing.contains (g, dev) = true := by rw [hm]; simp
  have hfind : (x.bound.find? fun b => b.missing.contains (g, dev)) = some b := by
    rw [hb]
    exact List.find?_cons_of_pos hc
  have herase : b.missing.erase (g, dev) = [] := by rw [hm]; simp
  unfold Inst.takePartials
  rw [hfind, hb]
  dsimp only [List.foldl_cons, List.foldl_nil]
  rw [if_neg (by decide), if_pos hc, herase]
  exact ⟨_, rfl, rfl⟩

theorem peerPartials_complete {s : State} {g dev i n : Nat} {x : Inst} {b : Bound} (ps : List (BitVec 320)) (hi : s.insts = [(i, x)]) (hb : x.bound = [b])
    (hm : b.missing = [(g, dev)]) (hd : b.decks = [n]) (hroom : (mget [] (s.getDeck n).rq 6).length < 4)
    (hheld : ((s.getCore (n / 4)).engine 3).held = []) :
    ∃ t e, exec (.peerPartialArrival (g, dev) ps) s = .next t ∧ (t.getInst i).bound = [] ∧ t.peers = s.peers ∧ t.mem = s.mem ∧
      mget [] (t.getDeck n).rq 6 = mget [] (s.getDeck n).rq 6 ++ [e] ∧ e.arrived = true ∧ e.tag = 0 ∧
      ∀ l, l < 128 → bits e.data.toNat (32 * l) 32 = roundPartial (mget 0 (addGroup b.parts g ps) ((b.slot + l) % 4096)) % 2 ^ 32 := by
  obtain ⟨x', htake, hbound⟩ := takePartials_last ps hb hm
  have hget : (s.setInst i x').getInst i = x' := mget_mput_same _ _ _ _
  have hrun : exec (.peerPartialArrival (g, dev) ps) s = .next (((s.setInst i x').setInst i { x' with bound := [] }).roundSlot b.slot (addGroup b.parts g ps) [n]) := by
    change execPeerPartialArrival (g, dev) ps s = _
    rw [execPeerPartialArrival, State.peerPartials, hi, List.findSome?_cons]
    dsimp only
    rw [htake]
    dsimp only [Option.map_some]
    rw [State.closeBound, State.modInst, hget, hbound, ← hd]
    rfl
  rw [roundSlot_delivers ((s.setInst i x').setInst i { x' with bound := [] }) b.slot _ hroom hheld] at hrun
  refine ⟨_, _, hrun, ?_, rfl, rfl, pushRq_deck _ n 6 _ 0, rfl, rfl, fun l hl => resultImage_lane b.slot _ hl⟩
  exact congrArg Inst.bound (mget_mput_same Inst.absent (s.setInst i x').insts i { x' with bound := [] })

/-! ### Packets and what peers send -/

section
variable {s : State}

theorem movePacket_held {p : Packet} {g out link : Nat} {rest : List (Nat × Nat × Nat)} (hp : p.left = (g, out, link) :: rest) (hstop : s.clock < p.stop)
    (hheld : s.outputHeld g out = true ∨ (s.getDie (g / 16)).power.cur = 2) : s.movePacket p = some p := by
  rw [State.movePacket, hp]
  exact (if_neg (by omega)).trans (if_pos (.inr hheld))

theorem movePacket_goes {p : Packet} {g out link : Nat} {rest : List (Nat × Nat × Nat)} (hp : p.left = (g, out, link) :: rest) (hstop : s.clock < p.stop)
    (hat : p.at_ ≤ s.clock) (hfree : s.outputHeld g out = false) (hon : (s.getDie (g / 16)).power.cur ≠ 2) :
    s.movePacket p = if rest = [] then none else some { p with left := rest, at_ := s.clock + link + 6 } := by
  have hgo : ¬ (s.clock < p.at_ ∨ s.outputHeld g out = true ∨ (s.getDie (g / 16)).power.cur = 2) := by
    rintro (h | h | h)
    · omega
    · rw [hfree] at h
      cases h
    · exact hon h
  rw [State.movePacket, hp]
  refine (if_neg (by omega)).trans ((if_neg hgo).trans ?_)
  cases rest <;> rfl

theorem peerHeld_iff (m : FromPeer) : s.peerHeld m = true ↔ s.outputHeld (coreRouter m.core) 0 = true ∨ (s.getCore m.core).power.cur = 2 := by
  rw [State.peerHeld, Bool.or_eq_true, beq_iff_eq]

theorem servePeers_held {m : FromPeer} (hin : s.inbound = [m]) (h : s.peerHeld m = true) : s.servePeers = s := by
  unfold State.servePeers
  rw [hin, List.foldl_cons, List.foldl_nil]
  dsimp only
  rw [h]
  exact congrArg (fun l => { s with inbound := l }) hin.symm

theorem peerHeld_of_free {m : FromPeer} (hout : s.outputHeld (coreRouter m.core) 0 = false) (hon : (s.getCore m.core).power.cur ≠ 2) : s.peerHeld m = false := by
  rw [State.peerHeld, hout, Bool.false_or]
  exact beq_false_of_ne hon

theorem servePeers_put {c row : Nat} {data : Image} {tag : Tag} (hin : s.inbound = [.put c row data tag]) (h : s.peerHeld (.put c row data tag) = false) :
    s.servePeers = { (if ((s.getCore c).tile (row / 32)).receivable then s.access s.clock c (4 * c) false remotePrio (.arrive row data tag)
      else s.send 9 (2 ^ 12) (c * Config.storeRows + row) 0x14) with inbound := [] } := by
  unfold State.servePeers
  rw [hin, List.foldl_cons, List.foldl_nil]
  dsimp only
  rw [h, List.any_nil, Bool.or_false, if_neg Bool.false_ne_true]
  split <;> rfl

theorem servePeers_signal {c n : Nat} (hin : s.inbound = [.signal c n]) (h : s.peerHeld (.signal c n) = false) (hmicro : s.micro = []) :
    s.servePeers = { s.semAdd c n 1 with inbound := [] } := by
  unfold State.servePeers
  rw [hin, List.foldl_cons, List.foldl_nil]
  dsimp only
  rw [h, hmicro]
  rfl

end

/-- Settles O56: sums by their registers, a result by the image it is rounded into, and what peers send by whether their core's output is held. -/
theorem fabricTransfers : Obligations.FabricTransfers := by
  unfold Obligations.FabricTransfers
  refine ⟨squareComplete_next, transferPhaseEnd_next, fun h b s r => ⟨fun now hnow => xsel_runs r hnow, xsel_outside r⟩, fun h b s => ?_, ?_,
    fun p q => ⟨?_, fun k hk hk' => addPartial_flag p q hk hk'⟩, fun s i slot n cycle hc hg hroom hheld herr => result_delivered hc hg hroom hheld herr,
    fun s g dev ps h => peerPartials_wait ps h, fun s g dev i n x b ps hi hb hm hd hroom hheld => peerPartials_complete ps hi hb hm hd hroom hheld,
    fun s p g out link rest hp hstop hat => ⟨movePacket_held hp hstop, movePacket_goes hp hstop hat⟩,
    fun s m hin hheld => servePeers_held hin ((peerHeld_iff m).2 hheld), fun s c row data tag hin hout hon => ?_, fun s c n hin hout hon hmicro => ?_⟩
  · refine ⟨fun v d now hk r ht hnow => ⟨fun hle => ?_, xmit_register_late hk r ht hnow⟩, fun a now hk r ha hbar hnow => ⟨fun hle => ?_, fun hlt => ?_⟩⟩
    · exact ⟨_, _, xmit_register hk r ht hnow hle, rfl, rfl, rfl, rfl, rfl, rfl, rfl, rfl⟩
    · exact ⟨_, _, _, (xmit_store hk r ha hbar hnow).trans (congrArg _ (if_neg (by omega))), rfl, rfl, rfl, rfl, rfl, rfl, rfl, rfl, rfl⟩
    · exact (xmit_store hk r ha hbar hnow).trans (congrArg _ (if_pos (by omega)))
  · intro h b s i v d now r _ ht hnow
    refine ⟨fun htag hslot hle hi => ⟨_, xred_runs r ht hnow htag hslot hle hi, rfl, ?_, fun l hl => ?_⟩, xred_tag r ht, xred_beyond r ht⟩
    · exact congrArg Inst.contribs (mget_mput_same Inst.absent s.insts i _)
    · exact addLanes_register _ _ _ _ hl
  · rw [BitVec.setWidth_add _ _ (by decide), ← addPartial_sum]
    rfl
  · have hrun := servePeers_put hin (peerHeld_of_free hout hon)
    refine ⟨fun hrec => ?_, fun hrec => ?_⟩
    · rw [hrun, if_pos hrec]
      exact ⟨_, rfl, rfl, rfl, rfl, rfl, rfl⟩
    · rw [hrun, if_neg (by rw [hrec]; decide)]
      exact ⟨rfl, rfl, rfl⟩
  · exact servePeers_signal hin (peerHeld_of_free hout hon) hmicro

end Sys2Proof.Laws.Reductions


/-! # What stores, messages, questions for pages and nodes leave unchanged (spec 13) -/

namespace Sys2Proof.Laws.NodeFrames
open Sys2Proof Sys2Proof.Machine Sys2Proof.Laws

/-! ### Stores -/

/-- `s` with the parts of `t` that a store may change. -/
def takeStoreParts (s t : State) : State :=
  { s with mem := t.mem, hbm := t.hbm, corrected := t.corrected, free := t.free, agenda := t.agenda }

/-- A store changes memory, what the stacks count of it, and the error counts. -/
def StoreFrame (s t : State) : Prop := t = takeStoreParts s t

theorem StoreFrame.refl (s : State) : StoreFrame s s := rfl

theorem StoreFrame.trans {s t u : State} (h : StoreFrame s t) (h' : StoreFrame t u) : StoreFrame s u :=
  Eq.trans h' (congrArg (fun r => takeStoreParts r u) h :)

theorem storeFrame_countErrors (s : State) (die n : Nat) : StoreFrame s (s.countErrors die n) := by
  unfold State.countErrors
  split <;> rfl

theorem storeFrame_countSymbol (s : State) (h : HbmPlace) : StoreFrame s (s.countSymbol h) := by
  refine (storeFrame_countErrors s (h.stack / 2) 1).trans ?_
  unfold State.countSymbol
  dsimp only
  (repeat' split) <;> rfl

theorem storeFrame_countSymbols (s : State) (f : Nat → Nat) (gs : List Nat) : StoreFrame s (gs.foldl (fun s g => s.countSymbol (s.hbmPlace (f g))) s) :=
  List.foldlRecOn (motive := StoreFrame s) _ _ (.refl s) fun _ h _ _ => h.trans (storeFrame_countSymbol _ _)

theorem storeFrame_store (s : State) (a n w : Nat) : StoreFrame s (s.store a n w) := by
  unfold State.store
  dsimp only
  split
  · rfl
  · let u := ({ s with mem := Memory.write s.mem a n w } : State).useBank a
    exact StoreFrame.trans (t := u) rfl ((storeFrame_countSymbols u (fun g => 64 * g - 2 ^ 41) _).trans rfl)

theorem storeFrame_writeVA (s : State) (node ctx v va n w : Nat) : StoreFrame s (s.writeVA node ctx v va n w) := by
  unfold State.writeVA
  refine List.foldlRecOn (motive := fun q : State × Nat => StoreFrame s q.1) _ _ (.refl s) fun q h p _ => ?_
  dsimp only
  split
  · exact h.trans (storeFrame_store _ _ _ _)
  · exact h

/-! ### Questions for pages -/

/-- `s` with the questions of `t`. -/
def takeAskParts (s t : State) : State := { s with atsReq := t.atsReq }

/-- A question changes nothing but the list of questions. -/
def AskFrame (s t : State) : Prop := t = takeAskParts s t

theorem askFrame_askPage (s : State) (ctx page : Nat) : AskFrame s (s.askPage ctx page) := by
  unfold State.askPage
  dsimp only
  split <;> rfl

theorem AskFrame.trans {s t u : State} (h : AskFrame s t) (h' : AskFrame t u) : AskFrame s u :=
  Eq.trans h' (congrArg (fun r => takeAskParts r u) h :)

theorem askFrame_askFor (s : State) (ctx va n : Nat) : AskFrame s (s.askFor ctx va n) := by
  refine List.foldlRecOn (motive := AskFrame s) _ _ rfl fun t h p _ => ?_
  split
  · exact h
  · exact h.trans (askFrame_askPage t ctx p)

/-! ### Nodes -/

/-- `s` with the parts of `t` that may change while nodes become ready, complete and send their tokens. -/
def takeNodeParts (s t : State) : State := { s with
  agenda := t.agenda, seq := t.seq, free := t.free, packets := t.packets, unacked := t.unacked, msgs := t.msgs, mem := t.mem, insts := t.insts
  nextInst := t.nextInst, launches := t.launches, atsReq := t.atsReq, hbm := t.hbm }

/-- What may change while nodes become ready, complete and send their tokens. -/
def NodeFrame (s t : State) : Prop := t = takeNodeParts s t

theorem NodeFrame.refl (s : State) : NodeFrame s s := rfl

theorem NodeFrame.trans {s t u : State} (h : NodeFrame s t) (h' : NodeFrame t u) : NodeFrame s u :=
  Eq.trans h' (congrArg (fun r => takeNodeParts r u) h :)

theorem nodeFrame_foldl {α : Type} (f : State → α → State) (hf : ∀ s a, NodeFrame s (f s a)) (l : List α) (s : State) : NodeFrame s (l.foldl f s) :=
  List.foldlRecOn (motive := NodeFrame s) _ _ (.refl s) fun _ h a _ => h.trans (hf _ a)

theorem nodeFrame_of_ask {s t : State} (h : AskFrame s t) : NodeFrame s t := by
  unfold AskFrame at h
  rw [h]
  rfl

theorem nodeFrame_carry (s : State) (routes : List (List (Nat × Nat × Nat))) (floor stop : Nat) (ev : Instr) : NodeFrame s (s.carry routes floor stop ev) := by
  unfold State.carry State.delay State.post
  dsimp only
  split <;> rfl

theorem nodeFrame_path (s : State) (g g' : Nat) : NodeFrame s (s.path g g').2 := by
  unfold State.path
  dsimp only
  split <;> rfl

theorem nodeFrame_messageOut (s : State) (a b stop : Nat) (ev : Instr) : NodeFrame s (s.messageOut a b stop ev) :=
  (nodeFrame_path s (dieRouter a) (dieRouter b)).trans (nodeFrame_carry _ _ _ _ _)

theorem nodeFrame_message (s : State) (a b cap : Nat) (ev : Instr) : NodeFrame s (s.message a b cap ev) := by
  unfold State.message
  split
  · rfl
  · let u := { s.delay.2 with seq := s.seq + 1, unacked := s.unacked ++ [(⟨s.seq, ev, s.clock, a, b⟩ : Unacked)] }
    exact NodeFrame.trans (t := u) rfl ((nodeFrame_messageOut u a b (s.clock + cap) ev).trans rfl)

theorem nodeFrame_waitFor (s : State) (ctx va n : Nat) (ev : Instr) : NodeFrame s (s.waitFor ctx va n ev) := by
  unfold State.waitFor
  split <;> rfl

theorem nodeFrame_sendTokens (s : State) (r : Nat) (skip : Bool) : NodeFrame s (s.sendTokens r skip) :=
  nodeFrame_foldl _ (fun _ _ => nodeFrame_message _ _ _ _ _) _ s

theorem nodeFrame_checkLaunchEnd (s : State) (g : Nat) : NodeFrame s (s.checkLaunchEnd g) := by
  unfold State.checkLaunchEnd
  split
  · rfl
  · split
    · rfl
    · dsimp only
      split <;> rfl

theorem nodeFrame_nodeFinished (s : State) (r : Nat) : NodeFrame s (s.nodeFinished r) := by
  unfold State.nodeFinished
  split
  · rfl
  · exact NodeFrame.trans (t := s.postNext _) rfl (nodeFrame_checkLaunchEnd _ _)

theorem nodeFrame_completePlain (s : State) (r : Nat) (skip : Bool) : NodeFrame s (s.completePlain r skip) :=
  (NodeFrame.trans (t := s.setNodeState r 2) rfl (nodeFrame_sendTokens _ r skip)).trans (nodeFrame_nodeFinished _ r)

theorem nodeFrame_runConditional (s : State) (r : Nat) : NodeFrame s (s.runConditional r) := by
  unfold State.runConditional
  dsimp only
  split
  · exact nodeFrame_completePlain s r false
  split
  · exact (nodeFrame_of_ask (askFrame_askFor s _ _ 8)).trans (nodeFrame_waitFor _ _ _ 8 _)
  · exact nodeFrame_completePlain s r _

theorem nodeFrame_listInsts (s : State) (o : Origin) : NodeFrame s (s.listInsts o) := by
  unfold State.listInsts
  dsimp only
  refine NodeFrame.trans (t := List.foldl _ s _) (List.foldlRecOn (motive := NodeFrame s) _ _ (.refl s) fun _ h _ _ => ?_) rfl
  exact h.trans rfl

theorem nodeFrame_nodeReady : ∀ (fuel : Nat) (s : State) (r : Nat), NodeFrame s (State.nodeReady fuel s r)
  | 0, s, _ => .refl s
  | fuel + 1, s, r => by
    have hstart : NodeFrame s (s.setNodeState r 1) := rfl
    rw [State.nodeReady]
    dsimp only
    generalize s.setNodeState r 1 = u at *
    split
    · exact hstart.trans (nodeFrame_listInsts _ _)
    split
    · exact hstart.trans (nodeFrame_runConditional _ r)
    split
    · have hbody := hstart.trans (NodeFrame.trans (t := u.setSlotWord r 1 (runtimeWord (u.nodeCount r) 1 (u.nodeIters r + 1))) rfl
        (nodeFrame_foldl (fun s b => s.setSlotWord b 1 (runtimeWord (field (s.nodeWords b) 0 40 16) 0 0)) (fun _ _ => rfl) (listed (s.nodeWords r)) _))
      generalize (listed (s.nodeWords r)).foldl (fun s b => s.setSlotWord b 1 (runtimeWord (field (s.nodeWords b) 0 40 16) 0 0))
        (u.setSlotWord r 1 (runtimeWord (u.nodeCount r) 1 (u.nodeIters r + 1))) = v at *
      have hskips : ∀ w, w = (match v.launchOf r with
          | some l => v.modLaunch l.graph fun l => { l with skips := l.skips.filter fun b => !(listed (s.nodeWords r)).contains b }
          | none => v) → NodeFrame s w := by
        rintro w rfl
        split
        · exact hbody.trans rfl
        · exact hbody
      have hw := hskips _ rfl
      split
      · exact hw.trans rfl
      · exact hw.trans (nodeFrame_foldl _ (fun s b => nodeFrame_nodeReady fuel s b) _ _)
    · exact hstart.trans (nodeFrame_completePlain _ r false)

end Sys2Proof.Laws.NodeFrames


/-! # Launches, tokens, loops, spawn sets and cancellation (spec 13): O57 -/

namespace Sys2Proof.Laws.Nodes
open Sys2Proof Sys2Proof.Machine Sys2Proof.Laws Sys2Proof.Laws.NodeFrames

/-! ### Launches and tokens (R298, R299) -/

theorem acknowledge_none (s : State) (ev : Instr) (h : s.unacked = []) : s.acknowledge ev = s := by
  unfold State.acknowledge
  rw [h]
  rfl

theorem launchQ_frame {s t : State} (h : NodeFrame s t) : t.launchQ = s.launchQ := (congrArg State.launchQ h :)

theorem ignored_frame {s t : State} (h : NodeFrame s t) : t.ignored = s.ignored := (congrArg State.ignored h :)

theorem nodeFrame_launch (s : State) (nodes first : List (Nat × List Word)) (count : Nat → Nat) (g : Nat) :
    NodeFrame s ((first.foldl (fun s p => State.nodeReady s.depth s p.1)
      (nodes.foldl (fun s p => s.setSlotWord p.1 1 (runtimeWord (count p.1) 0 0)) s)).checkLaunchEnd g) :=
  ((nodeFrame_foldl (fun s (p : Nat × List Word) => s.setSlotWord p.1 1 (runtimeWord (count p.1) 0 0)) (fun _ _ => by rfl) nodes s).trans
    (nodeFrame_foldl (fun s (p : Nat × List Word) => State.nodeReady s.depth s p.1) (fun t p => nodeFrame_nodeReady t.depth t p.1) first _)).trans
    (nodeFrame_checkLaunchEnd _ g)

theorem filter_and_rest {α : Type} (p : α → Bool) : ∀ l : List α, (l.filter p).length + (l.filter fun a => !p a).length = l.length
  | [] => rfl
  | a :: l => by
    have ih := filter_and_rest p l
    cases hp : p a <;> simp only [List.filter_cons, hp, List.length_cons, Bool.not_true, Bool.not_false, if_true, if_false, Bool.false_eq_true] <;> omega

/-- A launch takes its entry of the queue, and counts the patches it ignores. -/
theorem launch_takes (s : State) (g : Nat) (ps : List (Nat × Nat × Word)) (hq : s.launchQ = [(g, ps)]) (hl : ∀ l ∈ s.launches, l.graph ≠ g) :
    ∃ t, exec (.launchStart g) s = .next t ∧ t.launchQ = [] ∧ t.ignored = (ps.filter fun p => !s.patchOk g p).length := by
  have hany : (s.launches.any fun l => l.graph == g) = false := by
    rw [List.any_eq_false]
    intro l hm
    simpa using hl l hm
  have hcount : (ps.filter fun p => !s.patchOk g p).length = ps.length - (ps.filter (s.patchOk g)).length := by
    have hsplit := filter_and_rest (s.patchOk g) ps
    omega
  change ∃ t, execLaunchStart g s = .next t ∧ _
  unfold execLaunchStart
  rw [hq, List.find?_cons_of_pos (by simp)]
  dsimp only
  rw [hany, if_neg Bool.false_ne_true]
  generalize hu : ({ s with launchQ := List.erase _ _, ignored := _, launches := _ } : State) = u
  have herase : u.launchQ = [] := by rw [← hu]; exact List.erase_cons_head ..
  have hign : u.ignored = ps.length - (ps.filter (s.patchOk g)).length := by rw [← hu]
  refine ⟨_, rfl, ?_⟩
  rw [hcount, ← hign, ← herase]
  have e := fun nodes first => nodeFrame_launch u nodes first (fun r => bits (u.slotWord r 0).toNat 40 16) g
  exact ⟨launchQ_frame (e _ _), ignored_frame (e _ _)⟩

/-- A token that is not a skip, at a node that waits and is none of a template. -/
theorem token_lowers (s : State) (r : Nat) (l : Launch) (hu : s.unacked = []) (hl : s.launchOf r = some l) (hst : s.nodeState r = 0)
    (ht : isTemplate (s.nodeWords r) = false) (hs : r ∉ l.skips) :
    (s.nodeCount r = 0 → exec (.tokenArrival r false) s = .next s) ∧
    (1 < s.nodeCount r → exec (.tokenArrival r false) s = .next ((s.modLaunch l.graph id).setSlotWord r 1 (runtimeWord (s.nodeCount r - 1) 0 (s.nodeIters r)))) ∧
    (s.nodeCount r = 1 → exec (.tokenArrival r false) s =
      let t := (s.modLaunch l.graph id).setSlotWord r 1 (runtimeWord 0 0 (s.nodeIters r))
      .next (State.nodeReady t.depth t r)) := by
  have hskip : (false || l.skips.contains r) = false := by simpa using hs
  have hwait : ¬ (s.nodeState r = 1 ∧ nodeKind (s.nodeWords r) = 3) := by rw [hst]; omega
  have hstart : exec (.tokenArrival r false) s = .next (
      if s.nodeState r ≠ 0 ∨ isTemplate (s.nodeWords r) ∨ s.nodeCount r = 0 then s
      else
        let t := (s.modLaunch l.graph id).setSlotWord r 1 (runtimeWord (s.nodeCount r - 1) 0 (s.nodeIters r))
        if s.nodeCount r - 1 ≠ 0 then t else State.nodeReady t.depth t r) := by
    change execTokenArrival r false s = _
    unfold execTokenArrival
    rw [acknowledge_none s _ hu]
    dsimp only
    rw [hl]
    dsimp only
    rw [if_neg hwait, hskip]
    rfl
  rw [hstart]
  have hready (h : s.nodeCount r ≠ 0) : ¬ (s.nodeState r ≠ 0 ∨ isTemplate (s.nodeWords r) = true ∨ s.nodeCount r = 0) := by
    rw [hst, ht]
    simpa using h
  refine ⟨fun h => ?_, fun h => ?_, fun h => ?_⟩
  · rw [if_pos (Or.inr (Or.inr h))]
  · rw [if_neg (hready (by omega))]
    dsimp only
    rw [if_pos (by omega)]
  · rw [if_neg (hready (by omega)), h]
    rfl

/-! ### Loops and commits (R31, R306) -/

/-- The end of a loop's body, when every node of the body has ended and the predicate can be read. -/
theorem loop_turns (s : State) (r : Nat) (hl : (s.launchOf r).isSome = true) (hst : s.nodeState r = 1) (hk : nodeKind (s.nodeWords r) = 4)
    (hb : ∀ b ∈ listed (s.nodeWords r), 2 ≤ s.nodeState b) (ha : s.reachable (s.nodeCtx r) (field (s.nodeWords r) 2 0 57) 8 = true) :
    exec (.loopBodyEnd r) s = .next (
      if s.readCommitted (s.nodeCtx r) (field (s.nodeWords r) 2 0 57) 8 ≠ 0 ∧ s.nodeIters r < field (s.nodeWords r) 3 0 16 then State.nodeReady s.depth s r
      else s.completePlain r false) := by
  have hany : ((listed (s.nodeWords r)).any fun b => decide (s.nodeState b < 2)) = false := by
    rw [List.any_eq_false]
    intro b hm
    rw [decide_eq_true_eq, Nat.not_lt]
    exact hb b hm
  have hstart : ((s.launchOf r).isNone || s.nodeState r != 1 || nodeKind (s.nodeWords r) != 4 || (listed (s.nodeWords r)).any fun b => decide (s.nodeState b < 2)) = false := by
    rw [hany, Option.isNone_eq_false_iff.mpr hl, hst, hk]
    rfl
  change execLoopBodyEnd r s = _
  unfold execLoopBodyEnd
  dsimp only
  rw [hstart, ha, if_neg Bool.false_ne_true, if_neg (by decide)]

/-- A node that commits and writes nothing to the host. -/
theorem node_commits (s : State) (key i : Nat) (x : Inst) (rest : List (Nat × Inst)) (hc : s.nodeCommits key = true) (hi : s.nodeInsts key = (i, x) :: rest)
    (hw : bits (x.words.getD 20 0).toNat 0 57 = 0) (hlate : s.lateEntry (s.nodeInsts key) = none) :
    exec (.nodeComplete key) s = .next (
      let t := (s.commitNode key (s.nodeInsts key)).endInsts (s.nodeInsts key)
      if x.spawnSet.isSome then t else ((t.setNodeState key 2).sendTokens key false).nodeFinished key) := by
  have hhost : hostCompletion x.words false = none := if_pos hw
  change execNodeComplete key s = _
  unfold execNodeComplete
  dsimp only
  rw [hlate, hc, hi, Bool.not_true, Bool.false_and, if_neg Bool.false_ne_true]
  dsimp only [List.head?_cons]
  rw [if_pos rfl, hhost]
  dsimp only [Option.any_none, Option.bind_none]
  rw [if_neg Bool.false_ne_true, if_pos rfl, if_pos rfl]
  split <;> rfl

/-! ### Spawn sets and rings (R297, R311) -/

theorem waitsBefore_eq_false (d : Die) (key : Nat) (h : ∀ r ∈ d.rings ++ d.heldSets, r.key ≠ key) : d.waitsBefore key = false := by
  unfold Die.waitsBefore
  rw [Bool.or_eq_false_iff, List.any_eq_false, List.any_eq_false]
  exact ⟨fun r hr => by simpa using h r (List.mem_append_left _ hr), fun r hr => by simpa using h r (List.mem_append_right _ hr)⟩

/-- An entry with room in its ring, none held before it, and a reachable place. -/
theorem appendRing_room (s : State) (die : Nat) (q : SpawnSet) (hroom : s.ringRoom die q = true) (hr : s.reachable q.ctx (s.nextRing die q) 32 = true) :
    ∃ t, s.appendRing die q [] = some t ∧
      (t.getDie die).rings = (s.getDie die).rings ++ [{ q with slot := mget 0 (s.getDie die).tails q.key }] ∧
      mget 0 (t.getDie die).tails q.key = mget 0 (s.getDie die).tails q.key + 1 ∧ (t.getDie die).heldSets = (s.getDie die).heldSets ∧
      t.flying = s.flying ∧ t.insts = s.insts := by
  have hw := storeFrame_writeVA s (2 ^ 40) q.ctx s.clock (s.nextRing die q) 32 q.entry
  have hcond : (s.ringRoom die q && s.reachable q.ctx (s.nextRing die q) 32 && !([] : List SpawnSet).any fun h => h.key == q.key) = true := by
    rw [hroom, hr]
    rfl
  unfold State.appendRing
  dsimp only
  rw [if_pos hcond]
  generalize s.writeVA (2 ^ 40) q.ctx s.clock (s.nextRing die q) 32 q.entry = u at hw
  have hdie : u.getDie die = s.getDie die := (congrArg (State.getDie · die) hw :)
  have hget : ∀ f, (u.modDie die f).getDie die = f (s.getDie die) := fun f => by
    rw [← hdie]
    exact mget_mput_same ..
  refine ⟨_, rfl, ?_, ?_, ?_, (congrArg State.flying hw :), (congrArg State.insts hw :)⟩
  · rw [hget]
  · rw [hget]
    exact mget_mset_same (0 : Nat) (s.getDie die).tails q.key (mget 0 (s.getDie die).tails q.key + 1)
  · rw [hget]

theorem appendRing_full (s : State) (die : Nat) (q : SpawnSet) (ahead : List SpawnSet) (hroom : s.ringRoom die q = false) : s.appendRing die q ahead = none := by
  unfold State.appendRing
  dsimp only
  rw [hroom, Bool.false_and, Bool.false_and, if_neg Bool.false_ne_true]

/-- A set that arrives alone, at a queue whose header can be read. -/
theorem set_arrives (s : State) (q : SpawnSet) (hu : s.unacked = []) (hf : s.flying = [q]) (ha : s.reachable q.ctx (s.queueAddr q.ctx q.queue) 32 = true) :
    exec (.spawnSetArrival q.id) s = .next (
      let t := { s with flying := [] }
      let die := q.queue % 12
      if !s.queueLive q.ctx q.queue q.gen then
        { t with log := s.log ++ [(⟨0x10, die, 0x7F, 0, 0, (s.clock - s.readyClock) / Config.tickClocks, BitVec.ofNat 64 (q.queue * 4096 + q.gen)⟩ : LogEntry)],
                 logCount := s.logCount + 1 }
      else if (s.getDie die).resident.contains q.key && !(s.getDie die).waitsBefore q.key then t.listSet q q.ready
      else match t.appendRing die q (s.getDie die).heldSets with
        | some t => t
        | none => (t.askFor q.ctx (t.nextRing die q) 32).modDie die fun d => { d with heldSets := d.heldSets ++ [q] }) := by
  have herase : [q].erase q = [] := List.erase_cons_head ..
  change execSpawnSetArrival q.id s = _
  unfold execSpawnSetArrival
  rw [acknowledge_none s _ hu]
  dsimp only
  rw [hf, List.find?_cons_of_pos (by simp)]
  dsimp only
  rw [List.find?_cons_of_pos (by simp), if_neg (by simp), ha, if_neg (by decide), herase]
  rfl

/-- One held entry: it goes into its ring, or stays and asks for its place. -/
theorem ring_retries (s : State) (die : Nat) (q : SpawnSet) (hh : (s.getDie die).heldSets = [q]) :
    (∀ t, s.appendRing die q [] = some t → exec (.mewsRingRetry die) s = .next (t.modDie die fun d => { d with heldSets := d.heldSets.erase q })) ∧
    (s.appendRing die q [] = none → exec (.mewsRingRetry die) s = .next (s.askFor q.ctx (s.nextRing die q) 32)) := by
  have hstart : exec (.mewsRingRetry die) s = .next (
      match s.appendRing die q [] with
      | some t => (t.modDie die fun d => { d with heldSets := d.heldSets.erase q }, ([] : List SpawnSet))
      | none => (s.askFor q.ctx (s.nextRing die q) 32, [] ++ [q])).1 := by
    change execMewsRingRetry die s = _
    unfold execMewsRingRetry
    rw [hh]
    rfl
  rw [hstart]
  exact ⟨fun t ht => by rw [ht], fun hn => by rw [hn]⟩

/-- The ring's only entry is drained: its queue is resident or there is a free slot for it. -/
theorem ring_drains (s : State) (die : Nat) (q : SpawnSet) (hr : (s.getDie die).rings = [q]) (hl : (s.getDie die).resident.length < 4096)
    (ha : s.reachable q.ctx (s.queueAddr q.ctx q.queue) 32 = true) (he : s.reachable q.ctx (s.ringAddr q.ctx (s.queueAddr q.ctx q.queue) q.slot) 32 = true) :
    exec (.queueRingDrain die) s = .next ((s.modDie die fun d => { d with
        resident := if q.key ∈ d.resident then d.resident else d.resident ++ [q.key], rings := [] }).listSet
      (q.ofEntry (s.readCommitted q.ctx (s.ringAddr q.ctx (s.queueAddr q.ctx q.queue) q.slot) 32)) s.clock) := by
  have hres : s.residentSlot die = some (s.getDie die).resident := if_pos hl
  have hnext : s.drainNext die = some (q, if q.key ∈ (s.getDie die).resident then (s.getDie die).resident else (s.getDie die).resident ++ [q.key]) := by
    unfold State.drainNext
    dsimp only
    rw [hr, hres]
    by_cases h : q.key ∈ (s.getDie die).resident
    · rw [List.find?_cons_of_pos (by simpa using h), if_pos h]
    · rw [List.find?_cons_of_neg (by simpa using h), if_neg h]
      rfl
  have hmine : ([q].filter fun r => r.key == q.key) = [q] := List.filter_cons_of_pos (by simp)
  have hrest : ([q].filter fun r => r.key != q.key) = [] := List.filter_cons_of_neg (by simp)
  change execQueueRingDrain die s = _
  unfold execQueueRingDrain
  dsimp only
  rw [hnext, hr]
  dsimp only
  rw [hmine, hrest, ha, if_neg (by decide), List.any_cons, he, if_neg (by simp)]
  rfl

/-! ### Cancellation (R312) -/

/-- A cancellation marks decks, stops instances and asks for pages; the rest stands. -/
def takeCancelParts (s t : State) : State := { s with decks := t.decks, insts := t.insts, pageReq := t.pageReq, atsReq := t.atsReq }

/-- Marks cause 21 on the decks that are not halted. -/
def markDecks (s : State) (ds : List Nat) : State :=
  ds.foldl (fun s n => if (s.getDeck n).halted then s else s.modDeck n fun d => { d with pend21 := 2 }) s

theorem markDecks_cons (s : State) (n : Nat) (ds : List Nat) : markDecks s (n :: ds) =
    markDecks (if (s.getDeck n).halted then s else s.modDeck n fun d => { d with pend21 := 2 }) ds := rfl

theorem markDecks_frame (s : State) (ds : List Nat) : markDecks s ds = { s with decks := (markDecks s ds).decks } := by
  refine List.foldlRecOn (motive := fun t : State => t = { s with decks := t.decks }) _ _ rfl fun t h n _ => ?_
  split
  · exact h
  · exact (congrArg (fun u : State => u.modDeck n fun d => { d with pend21 := 2 }) h :)

/-- A mark changes nothing of a deck but `pend21`. -/
theorem mark_deck (s : State) (n m : Nat) : ((if (s.getDeck n).halted then s else s.modDeck n fun d => { d with pend21 := 2 }).getDeck m) =
    if (s.getDeck n).halted = false ∧ n = m then { s.getDeck m with pend21 := 2 } else s.getDeck m := by
  by_cases hh : (s.getDeck n).halted = true
  · rw [if_pos hh, if_neg (by simp [hh])]
  · rw [if_neg hh]
    by_cases hm : n = m
    · subst hm
      rw [if_pos ⟨by simpa using hh, rfl⟩]
      exact State.getDeck_modDeck ..
    · rw [if_neg (by simp [hm])]
      exact Traps.getDeck_setDeck_other s _ (Ne.symm hm)

theorem markDecks_marked (ds : List Nat) (s : State) (n : Nat) (hp : (s.getDeck n).pend21 = 2) : ((markDecks s ds).getDeck n).pend21 = 2 := by
  induction ds generalizing s with
  | nil => exact hp
  | cons m ds ih =>
    rw [markDecks_cons]
    apply ih
    rw [mark_deck]
    split
    · rfl
    · exact hp

theorem markDecks_marks (ds : List Nat) (s : State) (n : Nat) (hn : n ∈ ds) (hh : (s.getDeck n).halted = false) : ((markDecks s ds).getDeck n).pend21 = 2 := by
  induction ds generalizing s with
  | nil => exact absurd hn List.not_mem_nil
  | cons m ds ih =>
    rw [markDecks_cons]
    by_cases hm : m = n
    · subst hm
      exact markDecks_marked ds _ m (by rw [mark_deck, if_pos ⟨hh, rfl⟩])
    · have hrest := (List.mem_cons.mp hn).resolve_left (Ne.symm hm)
      exact ih _ hrest (by rw [mark_deck, if_neg (by simp [hm])]; exact hh)

theorem abandonPages_frame (s : State) (i : Nat) :
    s.abandonPages i = { s with pageReq := (s.abandonPages i).pageReq, atsReq := (s.abandonPages i).atsReq } := by
  unfold State.abandonPages
  dsimp only
  refine List.foldlRecOn (motive := fun t : State => t = { s with pageReq := t.pageReq, atsReq := t.atsReq }) _ _ rfl fun t h p _ => ?_
  split
  · obtain ⟨asked, ha⟩ : ∃ asked, t.askPage p.1 p.2.1 = { t with atsReq := asked } := ⟨_, askFrame_askPage t p.1 p.2.1⟩
    rw [ha]
    exact (congrArg (fun u : State => { u with atsReq := asked }) h :)
  · exact h

/-- What the cancellation of a running `Inst` changes. -/
theorem cancelOne_running (s : State) (i : Nat) (hst : (s.getInst i).st = .running) (hs : (s.getInst i).stopAt = none) :
    s.cancelOne i = takeCancelParts s (s.cancelOne i) ∧
      (s.cancelOne i).insts = mput s.insts i { s.getInst i with stopAt := some (s.clock + (s.getInst i).iterMax * 2500), preemptFor := none } ∧
      ∀ n ∈ (s.getInst i).decks, (s.getDeck n).halted = false → ((s.cancelOne i).getDeck n).pend21 = 2 := by
  have hone : s.cancelOne i = markDecks ((s.setInst i { s.getInst i with
      stopAt := some (s.clock + (s.getInst i).iterMax * 2500), preemptFor := none }).abandonPages i) (s.getInst i).decks := by
    unfold State.cancelOne
    dsimp only
    rw [hst, hs]
    rfl
  rw [hone]
  generalize hv : s.setInst i _ = v
  have hp := abandonPages_frame v i
  generalize v.abandonPages i = u at hp ⊢
  have hm := markDecks_frame u (s.getInst i).decks
  have hdeck : u.getDeck = s.getDeck := by rw [hp, ← hv]; rfl
  refine ⟨?_, ?_, fun n hn hh => markDecks_marks _ u n hn (by rw [hdeck]; exact hh)⟩
  · rw [hm, hp, ← hv]
    rfl
  · rw [hm, hp, ← hv]
    rfl

/-- A running `Inst` keeps its node from committing. -/
theorem nodeCommits_running (s : State) (i : Nat) (x : Inst) (hi : s.insts = [(i, x)]) (hst : x.st = .running) : s.nodeCommits x.shadowNode = false := by
  have hmine : s.nodeInsts x.shadowNode = [(i, x)] := by
    unfold State.nodeInsts
    rw [hi]
    exact List.filter_cons_of_pos (by simp [hst])
  unfold State.nodeCommits
  dsimp only
  rw [hmine, List.all_cons, hst]
  rfl

theorem cancelSets_frame (s : State) (keep : SpawnSet → Bool) (sets : List SpawnSet) :
    sets.foldl (fun s q => if keep q then s else s.cancelSet q) s =
      { s with hostWrites := (sets.foldl (fun s q => if keep q then s else s.cancelSet q) s).hostWrites } := by
  refine List.foldlRecOn (motive := fun t : State => t = { s with hostWrites := t.hostWrites }) _ _ rfl fun t h q _ => ?_
  split
  · exact h
  · unfold State.cancelSet
    dsimp only
    split
    · next w _ => exact (congrArg (fun u : State => { u with hostWrites := u.hostWrites ++ [(q.ctx, w.1, w.2)] }) h :).trans rfl
    · exact h

theorem mget_one {α : Type} {d : α} (k : Nat) (v : α) : mget d [(k, v)] k = v := if_pos rfl

theorem mput_one {α : Type} (k : Nat) (v w : α) : mput [(k, v)] k w = [(k, w)] := by
  simp [mput]

theorem mapInsts_one {s : State} {i : Nat} {x : Inst} (h : s.insts = [(i, x)]) (f : Nat → Inst → Inst) : mget Inst.absent (s.mapInsts f).insts i = f i x := by
  unfold State.mapInsts
  rw [h]
  exact mget_one i (f i x)

/-- A group is cancelled whose only `Inst` runs on the die. -/
theorem group_cancelled (s : State) (die group i : Nat) (x : Inst) (hu : s.unacked = []) (hl : s.launches = []) (hi : s.insts = [(i, x)]) (hd : x.die = die)
    (hg : group ∈ x.groups) (hst : x.st = .running) (hs : x.stopAt = none) :
    ∃ t, exec (.cancelMessage die group) s = .next t ∧ (t.getInst i).stopAt = some (s.clock + x.iterMax * 2500) ∧ t.mem = s.mem ∧
      ∀ n ∈ x.decks, (s.getDeck n).halted = false → (t.getDeck n).pend21 = 2 := by
  change ∃ t, execCancelMessage die group s = .next t ∧ _
  unfold execCancelMessage
  rw [acknowledge_none s _ hu]
  dsimp only
  generalize hc : ({ s with cancels := reached group die s.cancels } : State) = c
  have hci : c.insts = [(i, x)] := by rw [← hc]; exact hi
  have hget : c.getInst i = x := by
    unfold State.getInst
    rw [hci]
    exact mget_one i x
  have hlisted : ((s.insts.filter fun p => p.2.die == die && p.2.groups.contains group && p.2.st != .ended).filter fun p => !c.nodeCommits p.2.shadowNode) = [(i, x)] := by
    rw [hi, List.filter_cons_of_pos (by simp [hd, hg, hst]), List.filter_nil, List.filter_cons_of_pos (by simp [nodeCommits_running c i x hci hst]), List.filter_nil]
  obtain ⟨hframe, hinsts, hmarks⟩ := cancelOne_running c i (by rw [hget]; exact hst) (by rw [hget]; exact hs)
  rw [hlisted, List.foldl_cons, List.foldl_nil]
  generalize c.cancelOne i = u at hframe hinsts hmarks ⊢
  have hul : u.launches = [] := by
    have hlaunches : u.launches = c.launches := (congrArg State.launches hframe :)
    rw [hlaunches, ← hc]
    exact hl
  have hmem : u.mem = s.mem := by
    have hkept : u.mem = c.mem := (congrArg State.mem hframe :)
    rw [hkept, ← hc]
  rw [hget, hci] at hinsts
  rw [hget] at hmarks
  rw [hul, List.flatMap_nil, List.foldl_nil]
  have hui : ∃ y : Inst, u.insts = [(i, y)] ∧ y.stopAt = some (s.clock + x.iterMax * 2500) := by
    refine ⟨_, hinsts.trans (mput_one i x _), ?_⟩
    rw [← hc]
  obtain ⟨y, hui, hy⟩ := hui
  have hsets := cancelSets_frame u fun q => !q.groups.contains group
  generalize (u.getDie die).rings ++ (u.getDie die).heldSets ++ u.flying ++ _ = sets
  specialize hsets sets
  generalize List.foldl _ u sets = v at hsets ⊢
  have hvi : v.insts = [(i, y)] := (congrArg State.insts hsets :).trans hui
  have hvm : v.mem = s.mem := (congrArg State.mem hsets :).trans hmem
  have hvd : v.decks = u.decks := (congrArg State.decks hsets :)
  refine ⟨_, rfl, ?_, hvm, fun n hn hh => ?_⟩
  · change (mget Inst.absent (v.mapInsts fun _ x =>
      if x.die = die then { x with staged := x.staged.filter fun q => !q.groups.contains group } else x).insts i).stopAt = _
    rw [mapInsts_one hvi]
    split <;> exact hy
  · change (mget Deck.reset v.decks n).pend21 = 2
    rw [hvd]
    exact hmarks n hn (by rw [← hc]; exact hh)

/-- Settles O57: each clause by the lemma of its event. -/
theorem nodesAndSets : Obligations.NodesAndSets := by
  unfold Obligations.NodesAndSets
  refine ⟨launch_takes, fun s r l hu hl hst ht hs => token_lowers s r l hu hl hst ht hs, fun s r => ?_, fun s key i x rest hc hi hw hlate => ?_,
    fun s q hu hf ha => ?_, fun s die q => ⟨fun hh hroom hr => ?_, fun hh hroom => ?_, fun hr hl ha he => ring_drains s die q hr hl ha he⟩, group_cancelled⟩
  · dsimp only
    intro hl hst hk hb ha
    rw [loop_turns s r hl hst hk hb ha]
    refine ⟨fun hp hn => by rw [if_pos ⟨hp, hn⟩], fun h => ?_⟩
    rw [if_neg fun ⟨hp, hn⟩ => h.elim hp fun h => by omega]
  · rw [node_commits s key i x rest hc hi hw hlate]
    refine ⟨fun h => ?_, fun h => ?_⟩
    · dsimp only
      rw [if_pos h]
    · dsimp only
      rw [h, if_neg (by decide)]
  · rw [set_arrives s q hu hf ha]
    refine ⟨fun hlive => ?_, fun hlive hres hr => ?_, fun hlive hres hroom hheld hnext => ?_⟩
    · dsimp only
      rw [hlive, if_pos (by decide)]
      exact ⟨_, _, rfl, rfl, rfl, rfl, rfl, rfl, rfl⟩
    · dsimp only
      rw [hlive, if_neg (by decide), waitsBefore_eq_false _ _ hr, if_pos (by simpa using hres)]
    · have hring : ((s.getDie (q.queue % 12)).resident.contains q.key && !(s.getDie (q.queue % 12)).waitsBefore q.key) = false := by
        rcases hres with h | ⟨r, hr, hk⟩
        · rw [(by simpa using h : (s.getDie (q.queue % 12)).resident.contains q.key = false), Bool.false_and]
        · have hb : (s.getDie (q.queue % 12)).waitsBefore q.key = true := by
            unfold Die.waitsBefore
            rw [List.any_eq_true.mpr ⟨r, hr, by simpa using hk⟩, Bool.true_or]
          rw [hb, Bool.not_true, Bool.and_false]
      obtain ⟨t, ht, hrings, htails, -, hflying, hinsts⟩ := appendRing_room { s with flying := [] } (q.queue % 12) q hroom hnext
      refine ⟨t, ?_, hrings, htails, hflying, hinsts⟩
      dsimp only
      rw [hlive, if_neg (by decide), hring, if_neg Bool.false_ne_true, hheld, ht]
  · obtain ⟨t, ht, hrings, -, hkept, -, -⟩ := appendRing_room s die q hroom hr
    have hget : ∀ f, (t.modDie die f).getDie die = f (t.getDie die) := fun f => mget_mput_same ..
    refine ⟨_, (ring_retries s die q hh).1 t ht, ?_, ?_⟩
    · rw [hget, hkept, hh]
      exact List.erase_cons_head ..
    · rw [hget]
      exact hrings
  · have hask := askFrame_askFor s q.ctx (s.nextRing die q) 32
    refine ⟨_, (ring_retries s die q hh).2 (appendRing_full s die q [] hroom), ?_, ?_, (congrArg State.mem hask :)⟩
    · exact (congrArg (fun t : State => (t.getDie die).heldSets) hask :).trans hh
    · exact (congrArg (fun t : State => (t.getDie die).rings) hask :)

end Sys2Proof.Laws.Nodes


/-! # What the end of an `Inst` leaves unchanged (spec 02, spec 13) -/

namespace Sys2Proof.Laws.InstanceFrames
open Sys2Proof Sys2Proof.Machine Sys2Proof.Laws Sys2Proof.Laws.NodeFrames

/-- Memory, the instances and the clock stand. -/
structure Still (s t : State) : Prop where
  mem : t.mem = s.mem
  insts : t.insts = s.insts
  clock : t.clock = s.clock

theorem Still.refl (s : State) : Still s s := ⟨rfl, rfl, rfl⟩

theorem Still.trans {s t u : State} (h : Still s t) (h' : Still t u) : Still s u := ⟨h'.mem.trans h.mem, h'.insts.trans h.insts, h'.clock.trans h.clock⟩

theorem Still.getInst {s t : State} (h : Still s t) (i : Nat) : t.getInst i = s.getInst i := by
  unfold State.getInst
  rw [h.insts]

theorem still_foldl {α : Type} (f : State → α → State) (hf : ∀ s a, Still s (f s a)) (l : List α) (s : State) : Still s (l.foldl f s) :=
  List.foldlRecOn (motive := Still s) _ _ (.refl s) fun _ h a _ => h.trans (hf _ a)

theorem still_askSelections (s : State) : Still s s.askSelections :=
  still_foldl _ (fun t d => by split <;> exact ⟨rfl, rfl, rfl⟩) _ s

theorem askSelections_decks (s : State) : s.askSelections.decks = s.decks :=
  List.foldlRecOn (motive := fun t : State => t.decks = s.decks) _ _ rfl fun t h d _ => by split <;> exact h

theorem still_endCommand (s : State) (c e : Nat) : Still s (s.endCommand c e) := by
  unfold State.endCommand
  dsimp only
  split <;> exact ⟨rfl, rfl, rfl⟩

theorem still_engineFaultTaken (s : State) (n : Nat) (p : Pending) : Still s (s.engineFaultTaken n p) := by
  unfold State.engineFaultTaken
  dsimp only
  split
  · exact ⟨rfl, rfl, rfl⟩
  · exact Still.trans (t := s.modDeck n _) ⟨rfl, rfl, rfl⟩ (still_endCommand _ _ _)

theorem still_endCommands (s : State) (c i : Nat) : Still s (s.endCommands c i) := by
  refine still_foldl _ (fun t e => ?_) _ s
  dsimp only
  split
  · split
    · exact Still.trans (t := t.modCore c _) ⟨rfl, rfl, rfl⟩ (still_endCommand _ _ _)
    · exact ⟨rfl, rfl, rfl⟩
  · exact ⟨rfl, rfl, rfl⟩

theorem still_abandonPages (s : State) (i : Nat) : Still s (s.abandonPages i) :=
  have h := Nodes.abandonPages_frame s i
  ⟨(congrArg State.mem h :), (congrArg State.insts h :), (congrArg State.clock h :)⟩

theorem still_freeShadows (s : State) (hs : List Shadow) : Still s (s.freeShadows hs) := by
  refine still_foldl _ (fun t h => ?_) _ s
  split
  · exact .refl t
  · unfold State.givePage
    dsimp only
    split <;> exact ⟨rfl, rfl, rfl⟩

theorem still_leaveTrams (s : State) (i : Nat) (rows : List (Nat × Nat × Nat)) : Still s (s.leaveTrams i rows) :=
  still_foldl _ (fun t c => by split <;> exact ⟨rfl, rfl, rfl⟩) _ s

theorem still_releaseReservation (s : State) (x : Inst) : Still s (s.releaseReservation x) := by
  unfold State.releaseReservation
  split
  · exact .refl s
  · exact still_foldl _ (fun _ _ => by exact ⟨rfl, rfl, rfl⟩) _ s

theorem still_leaveDecks (s : State) (i : Nat) : Still s (s.leaveDecks i) :=
  still_foldl _ (fun t n => by split <;> exact ⟨rfl, rfl, rfl⟩) _ s

theorem still_copyRows (s : State) (i : Nat) (rows : List (Nat × Nat × Nat)) (out : Bool) : Still s (s.copyRows i rows out) := by
  refine still_foldl _ (fun t r => ?_) _ s
  dsimp only
  split
  · exact ⟨rfl, rfl, rfl⟩
  split
  · have h := askFrame_askFor (t.enterTram r.1 i) (s.getInst i).ctx ((t.enterTram r.1 i).saveAddr (s.getInst i).ctx ((t.enterTram r.1 i).slotFor (s.getInst i)) (spillOffset + 512 * r.2.2)) 512
    exact ⟨(congrArg State.mem h :), (congrArg State.insts h :), (congrArg State.clock h :)⟩
  · exact ⟨rfl, rfl, rfl⟩

/-! ### The end of an `Inst` -/

/-- The deck's faults are dropped, its sequencers stop, and its fetches are called off. -/
def stopOne (i : Nat) (s : State) (n : Nat) : State :=
  if (s.getDeck n).inst = some i then
    let s := ((s.dropFaults n i).stopDeck n).dropFetches n
    { s with remotes := s.remotes.filter fun r => r.deck != n }
  else s

/-- The clock stands, and of each `Inst` what `f` reads. -/
structure Kept {α : Type} (f : Inst → α) (s t : State) : Prop where
  clock : t.clock = s.clock
  inst : ∀ j, f (t.getInst j) = f (s.getInst j)

section
variable {α : Type} {f : Inst → α} {s t u : State}

theorem Kept.refl : Kept f s s := ⟨rfl, fun _ => rfl⟩

theorem Kept.trans (h : Kept f s t) (h' : Kept f t u) : Kept f s u := ⟨h'.clock.trans h.clock, fun j => (h'.inst j).trans (h.inst j)⟩

theorem Still.kept (h : Still s t) : Kept f s t := ⟨h.clock, fun j => by rw [h.getInst]⟩

theorem kept_foldl {β : Type} (g : State → β → State) (hg : ∀ s b, Kept f s (g s b)) (l : List β) (s : State) : Kept f s (l.foldl g s) :=
  List.foldlRecOn (motive := Kept f s) _ _ .refl fun _ h b _ => h.trans (hg _ b)

theorem kept_modInst (s : State) (i : Nat) (g : Inst → Inst) (hg : ∀ x, f (g x) = f x) : Kept f s (s.modInst i g) := by
  refine ⟨rfl, fun j => ?_⟩
  by_cases h : i = j
  · subst h
    exact (congrArg f (mget_mput_same ..)).trans (hg _)
  · exact congrArg f (mget_mput_other _ s.insts _ h)

end

/-- What a change of each entry leaves alone is what stood there. -/
theorem mget_map_kept {α β : Type} (f : α → β) (g : Nat × α → Nat × α) (hk : ∀ p, (g p).1 = p.1) (hf : ∀ p, f (g p).2 = f p.2) (d : α) (m : Map α) (k : Nat) :
    f (mget d (m.map g) k) = f (mget d m k) := by
  induction m with
  | nil => rfl
  | cons p m ih =>
    obtain ⟨a, v⟩ := p
    have e : g (a, v) = (a, (g (a, v)).2) := Prod.ext (hk (a, v)) rfl
    rw [List.map_cons, e]
    unfold mget
    split
    · exact hf (a, v)
    · exact ih

theorem kept_endNode {α : Type} {f : Inst → α} (hf : ∀ (x : Inst) t, f { x with stopAt := t, preemptFor := none } = f x) (s : State) (i : Nat) : Kept f s (s.endNode i) := by
  refine ⟨rfl, mget_map_kept f _ (fun p => ?_) (fun p => ?_) _ _⟩
  · dsimp only
    split <;> rfl
  · dsimp only
    split
    · exact hf _ _
    · rfl

theorem still_faults (s : State) (n : Nat) :
    Still s ((s.getDeck n).engFaults.foldl (fun s p => s.engineFaultTaken n p) (s.setDeck n { s.getDeck n with engFaults := [], arrFaults := [] })) :=
  Still.trans (t := s.setDeck n _) ⟨rfl, rfl, rfl⟩ (still_foldl _ (fun _ _ => still_engineFaultTaken _ _ _) _ _)

theorem dropFaults_kept {α : Type} {f : Inst → α} (hf : ∀ (x : Inst) t, f { x with stopAt := t, preemptFor := none } = f x) (s : State) (n i : Nat) :
    (s.dropFaults n i).mem = s.mem ∧ Kept f s (s.dropFaults n i) := by
  unfold State.dropFaults
  dsimp only
  split
  · exact ⟨(still_faults s n).mem, (still_faults s n).kept.trans (kept_endNode hf _ i)⟩
  · exact ⟨(still_faults s n).mem, (still_faults s n).kept⟩

theorem still_dropFaults (s : State) (n i : Nat) (he : (s.getDeck n).engFaults = []) (ha : (s.getDeck n).arrFaults = []) : Still s (s.dropFaults n i) := by
  unfold State.dropFaults
  dsimp only
  rw [he, ha, if_neg (by simp)]
  exact ⟨rfl, rfl, rfl⟩

theorem stopOne_kept {α : Type} {f : Inst → α} (hf : ∀ (x : Inst) t, f { x with stopAt := t, preemptFor := none } = f x) (i : Nat) (s : State) (n : Nat) :
    (stopOne i s n).mem = s.mem ∧ Kept f s (stopOne i s n) := by
  unfold stopOne
  split
  · have h := dropFaults_kept hf s n i
    generalize s.dropFaults n i = u at h
    exact ⟨h.1, h.2.trans (Still.kept ⟨rfl, rfl, rfl⟩)⟩
  · exact ⟨rfl, .refl⟩

theorem stopDecks_kept {α : Type} {f : Inst → α} (hf : ∀ (x : Inst) t, f { x with stopAt := t, preemptFor := none } = f x) (i : Nat) (ds : List Nat) (s : State) :
    (ds.foldl (stopOne i) s).mem = s.mem ∧ Kept f s (ds.foldl (stopOne i) s) :=
  List.foldlRecOn (motive := fun t => t.mem = s.mem ∧ Kept f s t) _ _ ⟨rfl, .refl⟩ fun t h n _ =>
    have hn := stopOne_kept hf i t n
    ⟨hn.1.trans h.1, h.2.trans hn.2⟩

/-- While the decks have no faults to drop, the instances stand. -/
theorem still_stopOne (i : Nat) (s : State) (n : Nat) (h : (s.getDeck n).engFaults = [] ∧ (s.getDeck n).arrFaults = []) : Still s (stopOne i s n) := by
  unfold stopOne
  split
  · have hd := still_dropFaults s n i h.1 h.2
    generalize s.dropFaults n i = u at hd
    exact hd.trans ⟨rfl, rfl, rfl⟩
  · exact .refl s

theorem closeTransfer_kept {α : Type} {f : Inst → α} (hf : ∀ x : Inst, f { x with xfer := none } = f x) (s : State) (i : Nat) :
    (s.closeTransfer i).mem = s.mem ∧ Kept f s (s.closeTransfer i) := by
  unfold State.closeTransfer
  dsimp only
  split
  · exact ⟨rfl, .refl⟩
  · have h : Still s ((s.getInst i).coresOf.foldl (fun s c => s.modCore c fun k => { k with sched := [] }) s) :=
      still_foldl _ (fun _ _ => by exact ⟨rfl, rfl, rfl⟩) _ s
    generalize (s.getInst i).coresOf.foldl (fun s c => s.modCore c fun k => { k with sched := [] }) s = u at h
    have hm := kept_modInst u i (fun x => { x with xfer := none }) hf
    exact ⟨h.mem, h.kept.trans ⟨hm.clock, hm.inst⟩⟩

theorem kept_checkInst {α : Type} {f : Inst → α} (hf : ∀ x : Inst, f { x with doomed := true } = f x) (s : State) (i : Nat) : Kept f s (s.checkInst i) := by
  unfold State.checkInst
  dsimp only
  split
  · refine (kept_modInst s i _ hf).trans (still_foldl _ (fun t n => ?_) _ _).kept
    (repeat' split) <;> exact ⟨rfl, rfl, rfl⟩
  · exact .refl

theorem kept_of_store {α : Type} {f : Inst → α} {s t : State} (h : StoreFrame s t) : Kept f s t :=
  ⟨(congrArg State.clock h :), fun j => congrArg f (congrArg (State.getInst · j) h :)⟩

theorem storeFrame_correctAt (s : State) (a n : Nat) : StoreFrame s (s.correctAt a n) := by
  unfold State.correctAt
  split
  · exact StoreFrame.trans (t := s.useBank a) rfl (storeFrame_countSymbols _ (fun g => 64 * g - 2 ^ 41) _)
  · rfl

theorem kept_copyPage {α : Type} {f : Inst → α} (hf : ∀ x : Inst, f { x with doomed := true } = f x) (s : State) (i : Nat) (c : PageCopy) : Kept f s (s.copyPage i c) := by
  unfold State.copyPage
  dsimp only
  have hread : Kept f s (if c.free then s else s.correctAt c.src pageBytes) := by
    split
    · exact .refl
    · exact kept_of_store (storeFrame_correctAt s _ _)
  generalize (if c.free then s else s.correctAt c.src pageBytes) = u at hread ⊢
  have hfill : ∀ old : Nat × State, Kept f u old.2 → Kept f s (old.2.store c.dst pageBytes old.1) := fun old h =>
    hread.trans (h.trans (kept_of_store (storeFrame_store _ _ _ _)))
  have hdata : Kept f u (if c.undef.isEmpty then (Memory.read u.mem c.src pageBytes, u) else
      (c.undef.foldl (fun w q => pageWith w (Config.freePage u.free).toNat q.1 q.2) (Memory.read u.mem c.src pageBytes), { u with free := u.free + 1 })).2 := by
    split
    · exact .refl
    · exact ⟨rfl, fun _ => rfl⟩
  have hstored := hfill _ hdata
  generalize State.store _ c.dst pageBytes _ = v at hstored ⊢
  split
  · exact hstored
  · refine Kept.trans (t := State.logError _ _ _ _ _ _) ?_ (kept_checkInst hf _ _)
    exact ⟨hstored.clock, hstored.inst⟩

/-- The parts of an `Inst` that its end clears. -/
def clearStaged (x : Inst) : Inst :=
  { x with staged := [], shares := [], exts := [], saved := [], spills := [], spilled := [], copies := [], slot := none, budget := none }

/-- Another `Inst` of the node that maps a page still to be copied finds it copied. -/
def copyFor (i : Nat) (s : State) (c : PageCopy) : State :=
  match s.shadows.find? fun h => h.place == c.dst with
  | some h => s.copyPage (h.owners.headD i) c
  | none => s

theorem kept_copyFor {α : Type} {f : Inst → α} (hf : ∀ x : Inst, f { x with doomed := true } = f x) (i : Nat) (s : State) (c : PageCopy) : Kept f s (copyFor i s c) := by
  unfold copyFor
  split
  · exact kept_copyPage hf _ _ _
  · exact .refl

/-- The shadow pages that have no owner left, the shares and the copies that stand in the banks' lists are dropped. -/
def dropPages (s : State) (i : Nat) : State :=
  let x := s.getInst i
  let shadows := s.shadows.map fun (h : Shadow) => { h with owners := h.owners.filter (· != i) }
  let gone := shadows.filter fun h => h.owners.isEmpty
  let s := ({ s with shadows := shadows.filter fun h => !h.owners.isEmpty }).freeShadows gone
  { s with shares := s.shares.filter fun h => h.formed || !x.shares.any fun q => q.1 == h.id,
           micro := s.micro.filter fun m => match m.act with | .copyOut j _ _ => j != i | .copyIn j _ _ => j != i | _ => true }

theorem still_dropPages (s : State) (i : Nat) : Still s (dropPages s i) := by
  unfold dropPages
  dsimp only
  have h := still_freeShadows { s with shadows := (s.shadows.map fun (h : Shadow) => { h with owners := h.owners.filter (· != i) }).filter fun h => !h.owners.isEmpty }
    ((s.shadows.map fun (h : Shadow) => { h with owners := h.owners.filter (· != i) }).filter fun h => h.owners.isEmpty)
  generalize State.freeShadows _ _ = u at h ⊢
  exact ⟨h.mem, h.insts, h.clock⟩

theorem dropStaged_eq (s : State) (i : Nat) : s.dropStaged i =
    ((((s.getInst i).decks.map (· / 4)).eraseDups.foldl (fun s c => s.leaveTram c i) (((s.getInst i).copies.foldl (copyFor i) (dropPages s i)).dropRefs i)).modInst i
      clearStaged) := rfl

theorem dropRefs_kept {α : Type} {f : Inst → α} (hf : ∀ x : Inst, f { x with refs := [] } = f x) (s : State) (i : Nat) :
    (s.dropRefs i).mem = s.mem ∧ Kept f s (s.dropRefs i) := by
  have h : Still s ((s.getInst i).refs.foldl (fun s id => s.countShare id false) s) := still_foldl _ (fun _ _ => by exact ⟨rfl, rfl, rfl⟩) _ s
  unfold State.dropRefs
  generalize (s.getInst i).refs.foldl (fun s id => s.countShare id false) s = u at h
  exact ⟨h.mem, h.kept.trans (kept_modInst u i _ hf)⟩

theorem still_leaveTramsOf (cs : List Nat) (i : Nat) (s : State) : Still s (cs.foldl (fun s c => s.leaveTram c i) s) :=
  still_foldl _ (fun _ _ => by exact ⟨rfl, rfl, rfl⟩) _ s

theorem kept_dropStaged {α : Type} {f : Inst → α} (hd : ∀ x : Inst, f { x with doomed := true } = f x) (hr : ∀ x : Inst, f { x with refs := [] } = f x)
    (hc : ∀ x, f (clearStaged x) = f x) (s : State) (i : Nat) : Kept f s (s.dropStaged i) := by
  rw [dropStaged_eq]
  exact ((((still_dropPages s i).kept.trans (kept_foldl _ (kept_copyFor hd i) _ _)).trans (dropRefs_kept hr _ i).2).trans
    (still_leaveTramsOf _ i _).kept).trans (kept_modInst _ i _ hc)

theorem mem_dropStaged (s : State) (i : Nat) (h : (s.getInst i).copies = []) : (s.dropStaged i).mem = s.mem := by
  rw [dropStaged_eq, h]
  exact (still_leaveTramsOf _ i _).mem.trans ((dropRefs_kept (f := Inst.decks) (fun _ => rfl) (dropPages s i) i).1.trans (still_dropPages s i).mem)

/-! ### The end as a whole -/

/-- The decks are stopped, the commands, the transfer and the pages of the `Inst` are given up. -/
def giveUp (s : State) (i : Nat) : State :=
  (((s.getInst i).coresOf.foldl (fun s c => s.endCommands c i) ((s.getInst i).decks.foldl (stopOne i) s)).closeTransfer i).abandonPages i

/-- The decks are free, and acknowledgements and invalidations wait for the `Inst` no more. -/
def forgetInst (s : State) (x : Inst) (i : Nat) : State :=
  let s := ((s.releaseReservation x).leaveDecks i).forgetAcks i
  { s with invals := s.invals.map fun (v : Inval) => { v with waiting := v.waiting.filter fun w => w.1 != i } }

theorem killInst_eq (s : State) (i : Nat) (st : InstSt) : s.killInst i st =
    ((forgetInst ((giveUp s i).dropStaged i) (s.getInst i) i).modInst i fun x => { x with st := st, holds := [], preemptFor := none, doomed := false, due := false }).askSelections := rfl

theorem still_forgetInst (s : State) (x : Inst) (i : Nat) : Still s (forgetInst s x i) := by
  unfold forgetInst
  dsimp only
  have h := (still_releaseReservation s x).trans (still_leaveDecks _ i)
  generalize State.leaveDecks _ i = u at h
  exact h.trans ⟨rfl, rfl, rfl⟩

theorem still_endAll (cs : List Nat) (i : Nat) (s : State) : Still s (cs.foldl (fun s c => s.endCommands c i) s) :=
  still_foldl _ (fun _ _ => still_endCommands _ _ _) _ s

theorem giveUp_kept {α : Type} {f : Inst → α} (hf : ∀ (x : Inst) t, f { x with stopAt := t, preemptFor := none } = f x) (hx : ∀ x : Inst, f { x with xfer := none } = f x)
    (s : State) (i : Nat) : (giveUp s i).mem = s.mem ∧ Kept f s (giveUp s i) := by
  have hs := stopDecks_kept hf i (s.getInst i).decks s
  have he := still_endAll (s.getInst i).coresOf i ((s.getInst i).decks.foldl (stopOne i) s)
  have ht := closeTransfer_kept hx ((s.getInst i).coresOf.foldl (fun s c => s.endCommands c i) ((s.getInst i).decks.foldl (stopOne i) s)) i
  have ha := still_abandonPages (((s.getInst i).coresOf.foldl (fun s c => s.endCommands c i) ((s.getInst i).decks.foldl (stopOne i) s)).closeTransfer i) i
  exact ⟨ha.mem.trans (ht.1.trans (he.mem.trans hs.1)), hs.2.trans (he.kept.trans (ht.2.trans ha.kept))⟩

section
variable (s : State) (i : Nat) (st : InstSt)

/-- Instance `i` as the end leaves it. -/
theorem killInst_inst : ∃ y : Inst, (s.killInst i st).getInst i = { y with st := st, holds := [], preemptFor := none, doomed := false, due := false } := by
  refine ⟨(forgetInst ((giveUp s i).dropStaged i) (s.getInst i) i).getInst i, ?_⟩
  rw [killInst_eq, (still_askSelections _).getInst]
  exact mget_mput_same ..

theorem killInst_st : ((s.killInst i st).getInst i).st = st := by
  obtain ⟨y, hy⟩ := killInst_inst s i st
  rw [hy]

theorem killInst_kept {α : Type} {f : Inst → α} (hg : Kept f s (giveUp s i)) (hd : ∀ x : Inst, f { x with doomed := true } = f x)
    (hr : ∀ x : Inst, f { x with refs := [] } = f x) (hc : ∀ x, f (clearStaged x) = f x)
    (he : ∀ x : Inst, f { x with st := st, holds := [], preemptFor := none, doomed := false, due := false } = f x) : Kept f s (s.killInst i st) := by
  rw [killInst_eq]
  exact hg.trans ((kept_dropStaged hd hr hc _ i).trans ((still_forgetInst _ _ i).kept.trans ((kept_modInst _ i _ he).trans (still_askSelections _).kept)))

theorem killInst_clock : (s.killInst i st).clock = s.clock :=
  (killInst_kept (f := Inst.decks) s i st (giveUp_kept (fun _ _ => rfl) (fun _ => rfl) s i).2 (fun _ => rfl) (fun _ => rfl) (fun _ => rfl) fun _ => rfl).clock

theorem killInst_mem (h : (s.getInst i).copies = []) : (s.killInst i st).mem = s.mem := by
  have hg := giveUp_kept (f := Inst.copies) (fun _ _ => rfl) (fun _ => rfl) s i
  have hd := mem_dropStaged (giveUp s i) i ((hg.2.inst i).trans h)
  rw [killInst_eq]
  generalize (giveUp s i).dropStaged i = u at hd ⊢
  have hf := still_forgetInst u (s.getInst i) i
  generalize forgetInst u (s.getInst i) i = v at hf ⊢
  exact (still_askSelections _).mem.trans (hf.mem.trans (hd.trans hg.1))

end

/-! ### The decks are free -/

/-- The `Inst` leaves one deck. -/
def leaveOne (i : Nat) (s : State) (n : Nat) : State :=
  if (s.getDeck n).inst = some i then ((s.modDeck n fun d => { d with inst := none }).dropFetches n).dropHeld n else s

theorem leaveOne_inst (i : Nat) (s : State) (n m : Nat) :
    ((leaveOne i s n).getDeck m).inst = if n = m ∧ (s.getDeck m).inst = some i then none else (s.getDeck m).inst := by
  unfold leaveOne
  by_cases hd : (s.getDeck n).inst = some i
  · rw [if_pos hd]
    by_cases hm : n = m
    · subst hm
      rw [if_pos ⟨rfl, hd⟩]
      exact congrArg Deck.inst (State.getDeck_modDeck s n fun d => { d with inst := none })
    · rw [if_neg fun c => hm c.1]
      exact congrArg Deck.inst (Traps.getDeck_setDeck_other s _ (Ne.symm hm))
  · rw [if_neg hd, if_neg]
    rintro ⟨rfl, h⟩
    exact hd h

theorem leave_free (ds : List Nat) (i : Nat) (s : State) (n : Nat) (h : n ∈ ds ∨ (s.getDeck n).inst ≠ some i) : ((ds.foldl (leaveOne i) s).getDeck n).inst ≠ some i := by
  induction ds generalizing s with
  | nil => exact h.resolve_left List.not_mem_nil
  | cons m ds ih =>
    rw [List.foldl_cons]
    apply ih
    rw [leaveOne_inst]
    by_cases hd : (s.getDeck n).inst = some i
    · rcases List.mem_cons.mp (h.resolve_right (not_not_intro hd)) with rfl | hr
      · right
        rw [if_pos ⟨rfl, hd⟩]
        exact nofun
      · exact .inl hr
    · right
      rw [if_neg fun c => hd c.2]
      exact hd

theorem killInst_free (s : State) (i : Nat) (st : InstSt) (n : Nat) (h : n ∈ (s.getInst i).decks) : ((s.killInst i st).getDeck n).inst ≠ some i := by
  have hg := (giveUp_kept (f := Inst.decks) (fun _ _ => rfl) (fun _ => rfl) s i).2.trans (kept_dropStaged (fun _ => rfl) (fun _ => rfl) (fun _ => rfl) _ i)
  rw [killInst_eq]
  generalize (giveUp s i).dropStaged i = u at hg ⊢
  have hr := still_releaseReservation u (s.getInst i)
  have hl := leave_free ((u.releaseReservation (s.getInst i)).getInst i).decks i (u.releaseReservation (s.getInst i)) n
    (.inl (by rw [hr.getInst, hg.inst]; exact h))
  have ha := askSelections_decks ((forgetInst u (s.getInst i) i).modInst i fun x => { x with st := st, holds := [], preemptFor := none, doomed := false, due := false })
  unfold State.getDeck
  rw [ha]
  exact hl

/-! ### A deck without faults -/

/-- No fault of an engine or of the array waits at the deck. -/
def Faultless (s : State) (n : Nat) : Prop := (s.getDeck n).engFaults = [] ∧ (s.getDeck n).arrFaults = []

theorem faultless_modDeck (s : State) (n m : Nat) (f : Deck → Deck) (hf : ∀ d, (f d).engFaults = d.engFaults ∧ (f d).arrFaults = d.arrFaults) (h : Faultless s m) :
    Faultless (s.modDeck n f) m := by
  unfold Faultless
  by_cases hm : n = m
  · subst hm
    rw [State.getDeck_modDeck, (hf _).1, (hf _).2]
    exact h
  · unfold State.modDeck
    rw [Traps.getDeck_setDeck_other s _ (Ne.symm hm)]
    exact h

theorem faultless_stopOne (i : Nat) (s : State) (n m : Nat) (hn : Faultless s n) (h : Faultless s m) : Faultless (stopOne i s n) m := by
  have hdrop : s.dropFaults n i = s.setDeck n { s.getDeck n with engFaults := [], arrFaults := [] } := by
    unfold State.dropFaults
    dsimp only
    rw [hn.1, hn.2, if_neg (by simp)]
    rfl
  have hset : Faultless (s.setDeck n { s.getDeck n with engFaults := [], arrFaults := [] }) m := by
    unfold Faultless
    by_cases hm : n = m
    · subst hm
      rw [State.getDeck_setDeck]
      exact ⟨rfl, rfl⟩
    · rw [Traps.getDeck_setDeck_other s _ (Ne.symm hm)]
      exact h
  unfold stopOne
  split
  · rw [hdrop]
    generalize s.setDeck n _ = u at hset
    have hlease : Faultless (u.dropLease n) m :=
      faultless_modDeck (u.modCore (n / 4) _) n m (fun d => { d with chain := none }) (fun _ => ⟨rfl, rfl⟩) hset
    exact faultless_modDeck (u.dropLease n) n m (fun d =>
      { d with halted := true, latches := [], revoc := [], ldsWait := [], trapWait := none, hold := false, wire := none, again := [],
               sup := false, pend20 := false, pend21 := 0, pend23 := false, atSq := none, frozen := none, checkedAt := none, pendTrap := none })
      (fun _ => ⟨rfl, rfl⟩) hlease
  · exact h

theorem still_stopDecks (i : Nat) (ds : List Nat) (s : State) (h : ∀ n ∈ ds, Faultless s n) : Still s (ds.foldl (stopOne i) s) := by
  induction ds generalizing s with
  | nil => exact .refl s
  | cons n ds ih =>
    have hn := h n List.mem_cons_self
    exact (still_stopOne i s n hn).trans (ih _ fun m hm => faultless_stopOne i s n m hn (h m (List.mem_cons_of_mem n hm)))

/-- When no fault waits at its decks, the end of an `Inst` stops no other and sets no stop time. -/
theorem killInst_stopAt (s : State) (i : Nat) (st : InstSt) (h : ∀ n ∈ (s.getInst i).decks, Faultless s n) : ((s.killInst i st).getInst i).stopAt = (s.getInst i).stopAt := by
  have hs := still_stopDecks i (s.getInst i).decks s h
  have he := still_endAll (s.getInst i).coresOf i ((s.getInst i).decks.foldl (stopOne i) s)
  have ht := closeTransfer_kept (f := Inst.stopAt) (fun _ => rfl) ((s.getInst i).coresOf.foldl (fun s c => s.endCommands c i) ((s.getInst i).decks.foldl (stopOne i) s)) i
  have ha := still_abandonPages (((s.getInst i).coresOf.foldl (fun s c => s.endCommands c i) ((s.getInst i).decks.foldl (stopOne i) s)).closeTransfer i) i
  exact (killInst_kept s i st (hs.kept.trans (he.kept.trans (ht.2.trans ha.kept))) (fun _ => rfl) (fun _ => rfl) (fun _ => rfl) fun _ => rfl).inst i

end Sys2Proof.Laws.InstanceFrames


/-! # Selection, dispatch, aging, pre-emption and the ends of instances (spec 02, spec 13): O58 -/

namespace Sys2Proof.Laws.Instances
open Sys2Proof Sys2Proof.Machine Sys2Proof.Laws Sys2Proof.Laws.InstanceFrames

/-! ### Selection (R301) -/

theorem getInst_one {s : State} {i : Nat} {x : Inst} (h : s.insts = [(i, x)]) : s.getInst i = x := by
  unfold State.getInst
  rw [h]
  exact Nodes.mget_one i x

/-- The deck is taken for the `Inst`, and waits for its dispatch. -/
def takeDeck (i : Nat) (s : State) (n : Nat) : State := s.modDeck n fun d => { d with inst := some i, halted := true }

theorem takeDeck_getDeck (i : Nat) (s : State) (n m : Nat) :
    (takeDeck i s n).getDeck m = if n = m then { s.getDeck m with inst := some i, halted := true } else s.getDeck m := by
  unfold takeDeck
  split
  · next h =>
    subst h
    exact State.getDeck_modDeck ..
  · next h => exact Traps.getDeck_setDeck_other s _ (Ne.symm h)

theorem takeDecks_frame (i : Nat) (ds : List Nat) (s : State) : ds.foldl (takeDeck i) s = { s with decks := (ds.foldl (takeDeck i) s).decks } :=
  List.foldlRecOn (motive := fun t : State => t = { s with decks := t.decks }) _ _ rfl fun _ h n _ => (congrArg (takeDeck i · n) h :)

theorem takeDecks_getDeck (i : Nat) (ds : List Nat) (s : State) (m : Nat) :
    (ds.foldl (takeDeck i) s).getDeck m = if m ∈ ds then { s.getDeck m with inst := some i, halted := true } else s.getDeck m := by
  induction ds generalizing s with
  | nil => rfl
  | cons n ds ih =>
    rw [List.foldl_cons, ih, takeDeck_getDeck]
    by_cases hn : n = m
    · subst hn
      rw [if_pos rfl, if_pos List.mem_cons_self]
      split <;> rfl
    · simp only [if_neg hn, List.mem_cons, Ne.symm hn, false_or]

/-- A core that holds the `Inst`'s code loads nothing. -/
theorem loadCode_held (s : State) (x : Inst) (c : Nat) (h : s.holdsCode x c = true) : s.loadCode x c = s := by
  unfold State.holdsCode at h
  unfold State.loadCode
  split
  · rfl
  · next g m hg =>
    rw [hg] at h
    rw [if_pos h]

theorem loadCodes_held (x : Inst) (cs : List Nat) (s : State) (h : ∀ c ∈ cs, s.holdsCode x c = true) : cs.foldl (fun s c => s.loadCode x c) s = s := by
  induction cs with
  | nil => rfl
  | cons c cs ih =>
    rw [List.foldl_cons, loadCode_held s x c (h c List.mem_cons_self)]
    exact ih fun d hd => h d (List.mem_cons_of_mem c hd)

/-- The only `Inst`, ready, is placed on decks whose cores hold its code. -/
theorem place_ready (s : State) (i : Nat) (x : Inst) (ds : List Nat) (hi : s.insts = [(i, x)]) (hst : x.st = .ready) (hcode : ∀ n ∈ ds, s.holdsCode x (n / 4) = true) :
    ∃ y, (s.place i ds).insts = [(i, y)] ∧ y.st = .preparing ∧ y.decks = ds ∧ (s.clock, Instr.dispatch i) ∈ (s.place i ds).agenda ∧
      (∀ n, (s.place i ds).getDeck n = if n ∈ ds then { s.getDeck n with inst := some i, halted := true } else s.getDeck n) ∧ (s.place i ds).mem = s.mem := by
  have hget : s.getInst i = x := getInst_one hi
  generalize hp : s.place i ds = t
  unfold State.place at hp
  dsimp only at hp
  rw [hget, if_neg (by rw [hst]; decide), loadCodes_held] at hp
  · generalize hu : State.mapInsts (State.setInst s i _) _ = u at hp
    have hset : ∀ z, mput s.insts i z = [(i, z)] := fun z => by
      rw [hi]
      exact Nodes.mput_one i x z
    have hinsts : ∃ y, u.insts = [(i, y)] ∧ y.st = .preparing ∧ y.decks = ds := by
      rw [← hu]
      refine ⟨_, (congrArg (List.map _) (hset _) :), ?_, ?_⟩ <;> dsimp only <;> split <;> rfl
    have hframe := takeDecks_frame i ds u
    have hdecks := takeDecks_getDeck i ds u
    change (State.postNext (ds.foldl (takeDeck i) u) _).post (ds.foldl (takeDeck i) u).clock (.dispatch i) = t at hp
    generalize ds.foldl (takeDeck i) u = v at hframe hdecks hp
    obtain ⟨y, hy, hyst, hyds⟩ := hinsts
    have hvi : v.insts = u.insts := (congrArg State.insts hframe :)
    have hvm : v.mem = u.mem := (congrArg State.mem hframe :)
    refine ⟨y, ?_, hyst, hyds, ?_, fun n => ?_, ?_⟩
    · rw [← hp]
      exact hvi.trans hy
    · have hvc : v.clock = s.clock := (congrArg State.clock hframe :).trans (by rw [← hu]; rfl)
      rw [← hp, ← hvc]
      exact Lifetimes.mem_insertEvent ..
    · rw [← hp]
      refine (hdecks n).trans ?_
      rw [← hu]
      rfl
    · rw [← hp]
      refine hvm.trans ?_
      rw [← hu]
      rfl
  · intro c hc
    obtain ⟨n, hn, rfl⟩ := List.mem_map.mp (List.mem_eraseDups.mp hc)
    exact hcode n hn

/-- The only `Inst` of the die that waits is selected. -/
theorem selection_places (s : State) (die i : Nat) (x : Inst) (ds : List Nat) (hi : s.insts = [(i, x)]) (hd : x.die = die) (hst : x.st = .ready)
    (hstop : x.stopAt = none) (hdoom : x.doomed = false) (hf : (s.places x).find? (s.mayPlace i x) = some ds) (hcode : ∀ n ∈ ds, s.holdsCode x (n / 4) = true) :
    ∃ t, exec (.roundaboutSelection die) s = .next t ∧ (t.getInst i).st = .preparing ∧ (t.getInst i).decks = ds ∧ (s.clock, Instr.dispatch i) ∈ t.agenda ∧
      (∀ n ∈ ds, (t.getDeck n).inst = some i ∧ (t.getDeck n).halted = true) ∧ (∀ n, n ∉ ds → t.getDeck n = s.getDeck n) ∧ t.mem = s.mem := by
  have hget : s.getInst i = x := getInst_one hi
  have hw : x.waits = true := by
    unfold Inst.waits
    rw [hst]
    rfl
  have hlist : s.readyList die = [(i, x)] := by
    unfold State.readyList
    rw [hi, List.filter_cons_of_pos (by simp [hd, hw, hstop, hdoom])]
    rfl
  have hone : s.selectOne i = s.place i ds := by
    unfold State.selectOne
    dsimp only
    rw [hget, hf]
  obtain ⟨y, hy, hyst, hyds, hev, hdecks, hmem⟩ := place_ready s i x ds hi hst hcode
  have hrest : (s.place i ds).readyList die = [] := by
    have hyw : y.waits = false := by
      unfold Inst.waits
      rw [hyst]
      rfl
    unfold State.readyList
    rw [hy, List.filter_cons_of_neg (by simp [hyw])]
    rfl
  have hexec : exec (.roundaboutSelection die) s = .next (s.place i ds) := by
    change execRoundaboutSelection die s = _
    unfold execRoundaboutSelection
    dsimp only
    rw [hlist, List.foldl_cons, List.foldl_nil, hget, if_pos hw, hone, hrest]
    rfl
  have hgot := getInst_one hy
  refine ⟨_, hexec, ?_, ?_, hev, fun n hn => ?_, fun n hn => ?_, hmem⟩
  · rw [hgot, hyst]
  · rw [hgot, hyds]
  · rw [hdecks, if_pos hn]
    exact ⟨rfl, rfl⟩
  · rw [hdecks, if_neg hn]

/-! ### Dispatch and aging (R29, R302) -/

/-- The `Inst` as it starts at its clock, with its trip count. -/
def started (s : State) (x : Inst) : Inst :=
  let w := s.ctxWord x.ctx 3
  { x with
    st := .running, trip := match x.tripAddr with | some a => s.readCommitted x.ctx a 4 | none => field x.words 5 0 32, dispatchedAt := s.clock, views := []
    debug := bits w 63 1 == 1, invalUs := if bits w 32 16 = 0 then 100 else bits w 32 16, pool := bits w 0 32, squareAt := none, xfer := none, contribs := []
    bound := [], sentParts := [], peerParts := [] }

/-- A deck of an `Inst` that starts. -/
def startOne (i : Nat) (x : Inst) (s : State) (n : Nat) : State := (s.dropHeld n).setDeck n (startDeck i n s.clock x)

theorem startDecks_getDeck (i : Nat) (x : Inst) (ds : List Nat) (s : State) (m : Nat) :
    (ds.foldl (startOne i x) s).getDeck m = if m ∈ ds then startDeck i m s.clock x else s.getDeck m := by
  induction ds generalizing s with
  | nil => rfl
  | cons n ds ih =>
    rw [List.foldl_cons, ih]
    by_cases hm : m ∈ ds
    · rw [if_pos hm, if_pos (List.mem_cons_of_mem n hm)]
      rfl
    · rw [if_neg hm]
      by_cases hn : m = n
      · subst hn
        rw [if_pos List.mem_cons_self]
        exact State.getDeck_setDeck ..
      · rw [if_neg fun h => (List.mem_cons.mp h).elim hn hm]
        exact Traps.getDeck_setDeck_other (s.dropHeld n) _ hn

theorem still_startDecks (i : Nat) (x : Inst) (ds : List Nat) (s : State) : Still s (ds.foldl (startOne i x) s) :=
  still_foldl _ (fun _ _ => by exact ⟨rfl, rfl, rfl⟩) _ s

/-- The cores of an `Inst` that starts. -/
def startCores (x : Inst) (s : State) : State :=
  x.coresOf.foldl (fun s c => s.modCore c fun k => (if x.kind = 0 then k else k.gangDispatch).phaseBoundary) s

theorem startCores_facts (x : Inst) (s : State) : Still s (startCores x s) ∧ (startCores x s).decks = s.decks :=
  List.foldlRecOn (motive := fun t => Still s t ∧ t.decks = s.decks) _ _ ⟨.refl s, rfl⟩ fun _ h _ _ =>
    ⟨h.1.trans ⟨rfl, rfl, rfl⟩, h.2⟩

/-- The `Inst` starts on its decks, and only there. -/
theorem startInst_facts (s : State) (i : Nat) :
    let x := s.getInst i
    let t := s.startInst i
    t.getInst i = started s x ∧ t.mem = s.mem ∧ ∀ n, t.getDeck n = if n ∈ x.decks then startDeck i n s.clock (started s x) else s.getDeck n := by
  dsimp only
  generalize hy : started s (s.getInst i) = y
  have hs : s.startInst i = (s.getInst i).decks.foldl (startOne i y) (startCores y (s.setInst i y).forgetVersions) := by
    rw [← hy]
    rfl
  have hc := startCores_facts y (s.setInst i y).forgetVersions
  rw [hs]
  generalize startCores y (s.setInst i y).forgetVersions = u at hc ⊢
  obtain ⟨hcs, hcd⟩ := hc
  have hd := still_startDecks i y (s.getInst i).decks u
  refine ⟨?_, hd.mem.trans hcs.mem, fun n => ?_⟩
  · rw [hd.getInst, hcs.getInst]
    exact mget_mput_same ..
  · rw [startDecks_getDeck, hcs.clock]
    unfold State.getDeck
    rw [hcd]
    rfl

/-- An `Inst` that is prepared, and whose trip count can be read, is dispatched. -/
theorem dispatch_starts (s : State) (i : Nat) (hst : (s.getInst i).st = .preparing) (hp : (s.getInst i).prepared = true)
    (ht : ∀ a, (s.getInst i).tripAddr = some a → s.reachable (s.getInst i).ctx a 4 = true) : exec (.dispatch i) s = .next (s.startInst i) := by
  change execDispatch i s = _
  unfold execDispatch
  dsimp only
  rw [if_neg (not_not_intro hst), if_pos hp]
  split
  · next a ha => rw [if_pos (ht a ha)]
  · rfl

/-- One tick of aging on a die whose limit is `us` microseconds. -/
def aged (die us clock : Nat) (x : Inst) : Inst :=
  if x.die != die || !x.waits then x
  else
    let x := { x with budget := if x.st == .preempted then x.budget.map (· - 1) else x.budget }
    if clock < x.waitFrom + us * 2500 then x
    else if x.level = 0 then { x with due := true }
    else { x with level := x.level - 1, waitFrom := clock }

/-- Aging of the only `Inst`, which is ready. -/
theorem aging_ready (s : State) (die i : Nat) (x : Inst) (hi : s.insts = [(i, x)]) (hd : x.die = die) (hst : x.st = .ready) :
    ∃ t, exec (.agingTick die) s = .next t ∧ t.mem = s.mem ∧ t.getInst i =
      if s.clock < x.waitFrom + (s.getDie die).rbcfg.toNat * 2500 then x else if x.level = 0 then { x with due := true }
      else { x with level := x.level - 1, waitFrom := s.clock } := by
  have hw : (x.die != die || !x.waits) = false := by
    unfold Inst.waits
    rw [hd, hst]
    simp
  have hb : (x.st == .preempted) = false := by rw [hst]; rfl
  refine ⟨_, rfl, rfl, ?_⟩
  change (s.mapInsts fun _ x => aged die (s.getDie die).rbcfg.toNat s.clock x).getInst i = _
  refine (Nodes.mapInsts_one hi _).trans ?_
  unfold aged
  dsimp only
  rw [hw, if_neg Bool.false_ne_true, hb]
  rfl

/-! ### Pre-emption (R317, R318) -/

/-- The deck stops at the end of the bundle it issues. -/
def freezeDeck (s : State) (n : Nat) : State := s.modDeck n fun d => { d with frozen := some (max s.clock d.nextE) }

theorem still_freezeDecks (ds : List Nat) (s : State) : Still s (ds.foldl freezeDeck s) :=
  still_foldl _ (fun _ _ => by exact ⟨rfl, rfl, rfl⟩) _ s

theorem freezeDecks_frozen (ds : List Nat) (s : State) (n : Nat) : ((ds.foldl freezeDeck s).getDeck n).nextE = (s.getDeck n).nextE ∧
    (n ∈ ds ∨ (s.getDeck n).frozen = some (max s.clock (s.getDeck n).nextE) →
      ((ds.foldl freezeDeck s).getDeck n).frozen = some (max s.clock (s.getDeck n).nextE)) := by
  induction ds generalizing s with
  | nil => exact ⟨rfl, fun h => h.resolve_left List.not_mem_nil⟩
  | cons m ds ih =>
    rw [List.foldl_cons]
    have hclock : (freezeDeck s m).clock = s.clock := rfl
    by_cases hm : m = n
    · subst hm
      have hd : (freezeDeck s m).getDeck m = { s.getDeck m with frozen := some (max s.clock (s.getDeck m).nextE) } := State.getDeck_modDeck ..
      have h := ih (freezeDeck s m)
      rw [hclock, hd] at h
      exact ⟨h.1, fun _ => h.2 (.inr rfl)⟩
    · have hd : (freezeDeck s m).getDeck n = s.getDeck n := Traps.getDeck_setDeck_other s _ (Ne.symm hm)
      have h := ih (freezeDeck s m)
      rw [hclock, hd] at h
      exact ⟨h.1, fun hn => h.2 (hn.imp_left fun hn => (List.mem_cons.mp hn).resolve_left (Ne.symm hm))⟩

/-- A running `Inst` that is to be pre-empted and stands at a boundary begins to save. -/
theorem save_begins (s : State) (i : Nat) (hst : (s.getInst i).st = .running) (hp : (s.getInst i).preemptFor.isSome = true) (hd : (s.getInst i).doomed = false)
    (hs : (s.getInst i).stopAt = none) (hb : s.boundaryFree i = true) :
    ∃ t, exec (.preemptSave i) s = .next t ∧ (t.getInst i).st = .saving ∧ t.mem = s.mem ∧
      ∀ n ∈ (s.getInst i).decks, (t.getDeck n).frozen = some (max s.clock (s.getDeck n).nextE) := by
  have hgo : (s.getInst i).st = .running ∧ (s.getInst i).preemptFor.isSome = true ∧ (!(s.getInst i).doomed) = true ∧ (s.getInst i).stopAt.isNone = true ∧ s.boundaryFree i = true :=
    ⟨hst, hp, by rw [hd]; rfl, by rw [hs]; rfl, hb⟩
  refine ⟨(s.getInst i).decks.foldl freezeDeck (s.setInst i { s.getInst i with st := .saving }), ?_, ?_, (still_freezeDecks _ _).mem, fun n hn => ?_⟩
  · change execPreemptSave i s = _
    unfold execPreemptSave
    dsimp only
    rw [if_pos hgo]
    rfl
  · rw [(still_freezeDecks _ _).getInst]
    exact congrArg Inst.st (mget_mput_same ..)
  · exact (freezeDecks_frozen (s.getInst i).decks (s.setInst i { s.getInst i with st := .saving }) n).2 (.inl hn)

/-- The deck is left as at reset. -/
def leaveDeck (s : State) (n : Nat) : State := ((s.dropHeld n).dropLease n).modDeck n fun _ => Deck.reset

theorem leaveDeck_inst (s : State) (n m : Nat) : ((leaveDeck s n).getDeck m).inst = if n = m then none else (s.getDeck m).inst := by
  unfold leaveDeck
  by_cases hm : n = m
  · subst hm
    rw [if_pos rfl, State.getDeck_modDeck]
    rfl
  · rw [if_neg hm]
    unfold State.modDeck
    rw [Traps.getDeck_setDeck_other _ _ (Ne.symm hm)]
    exact congrArg Deck.inst (Traps.getDeck_setDeck_other (s.dropHeld n) _ (Ne.symm hm))

theorem leaveDecks_none (ds : List Nat) (s : State) (n : Nat) (h : n ∈ ds ∨ (s.getDeck n).inst = none) : ((ds.foldl leaveDeck s).getDeck n).inst = none := by
  induction ds generalizing s with
  | nil => exact h.resolve_left List.not_mem_nil
  | cons m ds ih =>
    rw [List.foldl_cons]
    apply ih
    rw [leaveDeck_inst]
    rcases h with h | h
    · rcases List.mem_cons.mp h with rfl | h
      · exact .inr (if_pos rfl)
      · exact .inl h
    · right
      split
      · rfl
      · exact h

/-- The decks pass their quiescent point, and what is in flight lands. -/
def landed (s : State) (x : Inst) : State := x.decks.foldl (fun (s : State) n => (s.quiesce n).landDeck n ((s.getDeck n).frozen.getD s.clock)) s

/-- An `Inst` that may be saved, whose images all have reachable places, is saved. -/
theorem save_ends (s : State) (i : Nat) (hst : (s.getInst i).st = .saving) (hr : s.saveReady i = true)
    (hp : ∀ n ∈ (landed s (s.getInst i)).savedDecks i (s.getInst i),
      (landed s (s.getInst i)).rangeReady (s.getInst i).ctx ((landed s (s.getInst i)).imageAddr (s.getInst i) n)
        ((landed s (s.getInst i)).imageBytes (s.getInst i) ((landed s (s.getInst i)).saveDeck (s.getInst i) n).2) = true ∧
      (landed s (s.getInst i)).rangeBad (s.getInst i).ctx ((landed s (s.getInst i)).imageAddr (s.getInst i) n)
        ((landed s (s.getInst i)).imageBytes (s.getInst i) ((landed s (s.getInst i)).saveDeck (s.getInst i) n).2) = none) :
    ∃ t, exec (.preemptSave i) s = .next t ∧ (t.getInst i).st = .preempted ∧ (t.getInst i).preemptFor = none ∧ (t.getInst i).slot.isSome = true ∧
      (t.getInst i).saved.map (·.deck) = (landed s (s.getInst i)).savedDecks i (s.getInst i) ∧ ∀ n ∈ (s.getInst i).decks, (t.getDeck n).inst = none := by
  change ∃ t, execPreemptSave i s = .next t ∧ _
  unfold execPreemptSave
  dsimp only
  rw [if_neg (by rw [hst]; exact fun h => InstSt.noConfusion h.1), if_pos ⟨hst, hr⟩]
  unfold landed at hp ⊢
  generalize (s.getInst i).decks.foldl (fun (s : State) n => (s.quiesce n).landDeck n ((s.getDeck n).frozen.getD s.clock)) s = u at hp ⊢
  generalize s.getInst i = x at hp ⊢
  have hrange : ∀ r ∈ ((u.savedDecks i x).map (u.saveDeck x)).map fun q => (u.imageAddr x q.2.deck, u.imageBytes x q.2),
      u.rangeReady x.ctx r.1 r.2 = true ∧ u.rangeBad x.ctx r.1 r.2 = none := by
    intro r hr
    obtain ⟨q, hq, rfl⟩ := List.mem_map.mp hr
    obtain ⟨n, hn, rfl⟩ := List.mem_map.mp hq
    exact hp n hn
  have hready : ((((u.savedDecks i x).map (u.saveDeck x)).map fun q => (u.imageAddr x q.2.deck, u.imageBytes x q.2)).any fun r => !u.rangeReady x.ctx r.1 r.2) = false := by
    rw [List.any_eq_false]
    intro r hr
    rw [(hrange r hr).1]
    decide
  have hgood : ((((u.savedDecks i x).map (u.saveDeck x)).map fun q => (u.imageAddr x q.2.deck, u.imageBytes x q.2)).findSome? fun r => u.rangeBad x.ctx r.1 r.2) = none :=
    List.findSome?_eq_none_iff.mpr fun r hr => (hrange r hr).2
  rw [hready, if_neg Bool.false_ne_true, hgood]
  dsimp only
  generalize List.foldl _ u ((u.savedDecks i x).map (u.saveDeck x)) = v
  generalize hw : x.decks.foldl (fun (s : State) n => ((s.dropHeld n).dropLease n).modDeck n fun _ => Deck.reset) v = w
  have hfree : ∀ n ∈ x.decks, (w.getDeck n).inst = none := fun n hn => by
    rw [← hw]
    exact leaveDecks_none x.decks v n (.inl hn)
  refine ⟨_, rfl, ?_⟩
  rw [(still_askSelections _).getInst]
  generalize hy : ({ x with st := _, saved := _, slot := _, readyAt := _, waitFrom := _, due := _, preemptFor := _, budget := _ } : Inst) = y
  have hget : (w.setInst i y).getInst i = y := mget_mput_same ..
  have hdecks : (w.setInst i y).askSelections.decks = w.decks := askSelections_decks _
  rw [hget]
  refine ⟨?_, ?_, ?_, ?_, fun n hn => ?_⟩
  · rw [← hy]
  · rw [← hy]
  · rw [← hy]
    rfl
  · rw [← hy]
    dsimp only
    rw [List.map_map, List.map_map]
    exact List.map_id' _
  · unfold State.getDeck
    rw [hdecks]
    exact hfree n hn

theorem leaveTrams_frame (s : State) (i : Nat) (rows : List (Nat × Nat × Nat)) : s.leaveTrams i rows = { s with cores := (s.leaveTrams i rows).cores } :=
  List.foldlRecOn (motive := fun t : State => t = { s with cores := t.cores }) _ _ rfl fun t h c _ => by
    split
    · exact h
    · exact (congrArg (State.leaveTram · c i) h :)

/-- An `Inst` with one saved deck, whose image can be read and whose rows stand in its tiles, resumes. -/
theorem resume_ends (s : State) (i : Nat) (v : Saved) (hst : (s.getInst i).st = .preparing) (hsv : (s.getInst i).saved = [v]) (hsp : (s.getInst i).spills = [])
    (hsd : (s.getInst i).spilled = []) (hc : s.copiesAhead i (s.getInst i) = false)
    (hr : s.rangeReady (s.getInst i).ctx (s.imageAddr (s.getInst i) v.deck) (s.imageBytes (s.getInst i) v) = true) :
    ∃ t, exec (.preemptResume i) s = .next t ∧ (t.getInst i).st = .running ∧ (t.getInst i).saved = [] ∧ (t.getInst i).dispatchedAt = s.clock ∧
      t.getDeck v.deck = v.deckAt (s.readRange (s.getInst i).ctx (s.imageAddr (s.getInst i) v.deck) v.len) i s.clock s.seq ∧ t.mem = s.mem := by
  have hready : ([v].any fun v => !s.rangeReady (s.getInst i).ctx (s.imageAddr (s.getInst i) v.deck) (s.imageBytes (s.getInst i) v)) = false := by
    rw [List.any_cons, hr]
    rfl
  change ∃ t, execPreemptResume i s = .next t ∧ _
  unfold execPreemptResume
  dsimp only
  rw [hsv, hsp, hsd, hc, hst, if_neg (by simp), if_neg (by simp), if_neg (by simp), hready, if_neg Bool.false_ne_true, leaveTrams_frame s i []]
  generalize (s.leaveTrams i []).cores = cores
  dsimp only [List.foldl_cons, List.foldl_nil]
  generalize hx : s.getInst i = x
  refine ⟨_, rfl, ?_, ?_, ?_, ?_, ?_⟩
  · exact congrArg Inst.st (mget_mput_same ..)
  · exact congrArg Inst.saved (mget_mput_same ..)
  · exact congrArg Inst.dispatchedAt (mget_mput_same ..)
  · exact mget_mput_same ..
  · rfl

/-- A saved `Inst` whose rows run out of life begins to spill them. -/
theorem spill_begins (s : State) (i : Nat) (hst : (s.getInst i).st = .preempted) (hb : (s.getInst i).budget.isSome = true) :
    ∃ t, exec (.spillStart i) s = .next t ∧ (t.getInst i).budget = none ∧ t.mem = s.mem ∧
      (t.getInst i).spills = (s.spillRows (s.getInst i)).zipIdx.map fun p => (p.1.1, p.1.2, p.2) := by
  generalize hy : ({ s.getInst i with budget := none, spills := (s.spillRows (s.getInst i)).zipIdx.map fun p => (p.1.1, p.1.2, p.2) } : Inst) = y
  have hget : (s.setInst i y).getInst i = y := mget_mput_same ..
  have hstill : ∀ t, Still (s.setInst i y) t → (t.getInst i).budget = none ∧ t.mem = s.mem ∧
      (t.getInst i).spills = (s.spillRows (s.getInst i)).zipIdx.map fun p => (p.1.1, p.1.2, p.2) := fun t h => by
    rw [h.getInst, hget, ← hy]
    exact ⟨rfl, h.mem, rfl⟩
  change ∃ t, execSpillStart i s = .next t ∧ _
  unfold execSpillStart
  dsimp only
  rw [if_pos (c := (s.getInst i).st = .preempted ∧ (s.getInst i).budget.isSome = true) ⟨hst, hb⟩, hy]
  refine ⟨_, rfl, hstill _ ?_⟩
  split
  · exact still_leaveTrams _ i []
  · have h := (still_leaveTrams (s.setInst i y) i ((s.setInst i y).getInst i).spills).trans (still_copyRows _ i ((s.setInst i y).getInst i).spills true)
    exact h.trans ⟨rfl, rfl, rfl⟩

/-- A whole row performs, and the `Inst`'s list loses its entry. -/
theorem rowIn_facts (u : State) (data : Image) (c i row k : Nat) :
    let t := (u.performWrite c row wholeMask data none).modInst i fun x => { x with spilled := x.spilled.filter fun r => r != (c, row, k) }
    ((t.getCore c).row row).st = .valid ∧ (t.getCore c).age row = 0 ∧ (c, row, k) ∉ (t.getInst i).spilled := by
  dsimp only
  obtain ⟨q, -, -, hwhole, -⟩ := MemoryReads.performFrom_core u c c row wholeMask data
  have hcore : (u.performWrite c row wholeMask data none).getCore c = q.wholeWrite row := hwhole rfl
  have hage : (q.wholeWrite row).age row = min 0xFFFF (q.ticks - q.ticks) := by
    unfold Core.age
    rw [MemoryReads.row_wholeWrite]
    rfl
  generalize u.performWrite c row wholeMask data none = w at hcore
  have hget : (w.modInst i fun x => { x with spilled := x.spilled.filter fun r => r != (c, row, k) }).getInst i =
    { w.getInst i with spilled := (w.getInst i).spilled.filter fun r => r != (c, row, k) } := mget_mput_same ..
  have hsame : (w.modInst i fun x => { x with spilled := x.spilled.filter fun r => r != (c, row, k) }).getCore c = w.getCore c := rfl
  rw [hget, hsame, hcore, hage, MemoryReads.row_wholeWrite, Nat.sub_self]
  exact ⟨rfl, rfl, by simp⟩

/-- A row copied in is valid with Age 0, and is no longer to be copied. -/
theorem copyIn_row (s : State) (c i row k : Nat) : (((s.copyIn c i row k).getCore c).row row).st = .valid ∧ ((s.copyIn c i row k).getCore c).age row = 0 ∧
    (c, row, k) ∉ ((s.copyIn c i row k).getInst i).spilled := by
  unfold State.copyIn
  exact rowIn_facts _ _ c i row k

/-! ### The ends of instances (R308, R313, R398, R430) -/

/-- An `Inst` whose stop is due is cancelled. -/
theorem stop_cancels (s : State) (i : Nat) (h : s.stopDue i = true) :
    ∃ t, exec (.cancelForcedStop i) s = .next t ∧ (t.getInst i).st = .cancelled ∧ ((s.getInst i).copies = [] → t.mem = s.mem) ∧
      (s.clock, Instr.nodeComplete (s.getInst i).shadowNode) ∈ t.agenda ∧ ∀ n ∈ (s.getInst i).decks, (t.getDeck n).inst ≠ some i := by
  have hexec : exec (.cancelForcedStop i) s = .next ((s.killInst i .cancelled).postNext [.nodeComplete (s.getInst i).shadowNode]) := by
    change execCancelForcedStop i s = _
    unfold execCancelForcedStop
    rw [if_pos h]
  have hst := killInst_st s i .cancelled
  have hmem := killInst_mem s i .cancelled
  have hclock := killInst_clock s i .cancelled
  have hfree := killInst_free s i .cancelled
  generalize s.killInst i .cancelled = t at *
  refine ⟨_, hexec, hst, hmem, ?_, hfree⟩
  rw [← hclock]
  exact List.mem_append_left _ (List.mem_singleton_self _)

/-- An `Inst` one of whose decks has run over twice its iteration's time is cancelled. -/
theorem overrun_cancels (s : State) (i n : Nat) (hst : (s.getInst i).st = .running) (hn : n ∈ (s.getInst i).decks) (hi : (s.getDeck n).inst = some i)
    (hh : (s.getDeck n).halted = false) (ht : 2 * (s.getInst i).iterMax * 2500 ≤ (s.getDeck n).timer) :
    ∃ t, exec (.iterOverrunEnd i) s = .next t ∧ (t.getInst i).st = .cancelled ∧ ((s.getInst i).copies = [] → t.mem = s.mem) := by
  have hover : decide (2 * (s.getInst i).iterMax * Config.clocksPerUs ≤ (s.getDeck n).timer) = true := decide_eq_true ht
  have hany : ((s.getInst i).decks.any fun n => (s.getDeck n).inst == some i && !(s.getDeck n).halted &&
      decide (2 * (s.getInst i).iterMax * Config.clocksPerUs ≤ (s.getDeck n).timer)) = true :=
    List.any_eq_true.mpr ⟨n, hn, by rw [hi, hh, hover]; simp⟩
  have hkept : Kept Inst.copies s (s.endNode i) := kept_endNode (fun _ _ => rfl) s i
  have hexec : exec (.iterOverrunEnd i) s = .next (((s.endNode i).killInst i .cancelled).postNext [.nodeComplete (s.getInst i).shadowNode]) := by
    change execIterOverrunEnd i s = _
    unfold execIterOverrunEnd
    dsimp only
    rw [if_pos ⟨hst, hany⟩]
  have hend := killInst_st (s.endNode i) i .cancelled
  have hmem : (s.getInst i).copies = [] → ((s.endNode i).killInst i .cancelled).mem = s.mem := fun hc => killInst_mem (s.endNode i) i .cancelled ((hkept.inst i).trans hc)
  generalize (s.endNode i).killInst i .cancelled = t at *
  exact ⟨_, hexec, hend, hmem⟩

/-- The launch counts a roll-back of the `Inst`, when it comes from a graph. -/
def countRoll (s : State) (x : Inst) : State :=
  match x.graph with
  | some g => s.modLaunch g fun l => { l with rolls := l.rolls ++ [(x.node, x.wid)] }
  | none => s

theorem countRoll_frame (s : State) (x : Inst) : (countRoll s x).mem = s.mem ∧ (countRoll s x).decks = s.decks := by
  unfold countRoll
  split <;> exact ⟨rfl, rfl⟩

theorem rollBack_eq (s : State) (i : Nat) (hst : (s.getInst i).st = .running) (hs : ((s.killInst i .cancelled).getInst i).stopAt = none) (hr : (s.getInst i).rollbacks < 3) :
    s.rollBack i = ((countRoll (s.killInst i .cancelled) (s.getInst i)).setInst i { (s.killInst i .cancelled).getInst i with
      st := .ready, rollbacks := (s.getInst i).rollbacks + 1, level := (s.getInst i).prio, readyAt := (s.killInst i .cancelled).clock
      waitFrom := (s.killInst i .cancelled).clock, decks := [], placed := false, prepared := false }).askSelection (s.getInst i).die := by
  unfold State.rollBack
  dsimp only
  rw [if_neg (by rw [hst]; decide), hs, if_neg (by decide), if_neg (by omega)]
  unfold countRoll
  generalize s.killInst i .cancelled = t
  generalize s.getInst i = x
  rfl

/-- A running `Inst` without faults that may still be rolled back is ready again. -/
theorem rollback_readies (s : State) (i : Nat) (hst : (s.getInst i).st = .running) (hs : (s.getInst i).stopAt = none) (hr : (s.getInst i).rollbacks < 3)
    (hf : ∀ n ∈ (s.getInst i).decks, (s.getDeck n).engFaults = [] ∧ (s.getDeck n).arrFaults = []) :
    ∃ t, exec (.rollback i) s = .next t ∧ (t.getInst i).st = .ready ∧ ((s.getInst i).copies = [] → t.mem = s.mem) ∧
      (t.getInst i).rollbacks = (s.getInst i).rollbacks + 1 ∧ (t.getInst i).decks = [] ∧ ∀ n ∈ (s.getInst i).decks, (t.getDeck n).inst ≠ some i := by
  have hstop : ((s.killInst i .cancelled).getInst i).stopAt = none := (killInst_stopAt s i .cancelled hf).trans hs
  have hmem := killInst_mem s i .cancelled
  have hfree := killInst_free s i .cancelled
  refine ⟨s.rollBack i, rfl, ?_⟩
  rw [rollBack_eq s i hst hstop hr]
  generalize s.killInst i .cancelled = t at *
  have hl := countRoll_frame t (s.getInst i)
  generalize countRoll t (s.getInst i) = u at hl ⊢
  refine ⟨?_, fun hc => hl.1.trans (hmem hc), ?_, ?_, fun n hn => ?_⟩
  · exact congrArg Inst.st (mget_mput_same ..)
  · exact congrArg Inst.rollbacks (mget_mput_same ..)
  · exact congrArg Inst.decks (mget_mput_same ..)
  · change (mget Deck.reset u.decks n).inst ≠ some i
    rw [hl.2]
    exact hfree n hn

/-- Settles O58: each clause by the lemma of its event. -/
theorem instancesOnDecks : Obligations.InstancesOnDecks := by
  unfold Obligations.InstancesOnDecks
  refine ⟨fun s die i x ds hi hd hst hstop hdoom _ hf _ hcode => selection_places s die i x ds hi hd hst hstop hdoom hf hcode, fun s i hst hp ht => ?_,
    fun s die i x hi hd hst => ?_, fun s i => ⟨?_, save_begins s i, fun v hst hsv hsp hsd hc hr => resume_ends s i v hst hsv hsp hsd hc hr, spill_begins s i,
      fun c row k _ => copyIn_row s c i row k, stop_cancels s i, fun n hst hn hi hh ht => overrun_cancels s i n hst hn hi hh ht, rollback_readies s i⟩⟩
  · obtain ⟨hinst, hmem, hdecks⟩ := startInst_facts s i
    refine ⟨_, dispatch_starts s i hst hp ht, ?_, ?_, hmem, fun n hn => ?_, fun n hn => ?_⟩
    · rw [hinst]
      rfl
    · rw [hinst]
      rfl
    · rw [hdecks, if_pos hn, hinst]
    · rw [hdecks, if_neg hn]
  · obtain ⟨t, ht, hmem, hinst⟩ := aging_ready s die i x hi hd hst
    refine ⟨t, ht, hmem, fun h => ?_, fun h h0 => ?_, fun h h0 => ?_⟩
    · rw [hinst, if_pos h]
    · rw [hinst, if_neg (by omega), if_pos h0]
    · rw [hinst, if_neg (by omega), if_neg h0]
  · exact save_ends s i

end Sys2Proof.Laws.Instances


/-! # What the host writes (spec 13, spec 14, spec 15) -/

namespace Sys2Proof.Laws.HostWrites
open Sys2Proof Sys2Proof.Machine Sys2Proof.Laws

/-! ### The trigger, the upload window, the masks and the temperature table -/

/-- What a trigger that names `n` patches of graph `g` puts into the queue. -/
theorem trigger_queue (s : State) (v : Word) :
    let g := bits v.toNat 56 8
    let n := bits v.toNat 0 7
    let pairs := (List.range n).map fun k => (bits (mget 0 s.patchWin (2 * k)).toNat 32 32, bits (mget 0 s.patchWin (2 * k)).toNat 0 32, mget 0 s.patchWin (2 * k + 1))
    exec (.triggerWrite v) s = .next (
      if n > 64 then s
      else if s.launches.any (fun l => l.graph == g) || s.launchQ.any (fun q => q.1 == g) then
        if s.launchQ.length ≥ 8 then s else { s with launchQ := s.launchQ ++ [(g, pairs)] }
      else { s with launchQ := s.launchQ ++ [(g, pairs)] }.postNext [.launchStart g]) := rfl

theorem running_iff (s : State) (g : Nat) : s.launches.any (fun l => l.graph == g) = true ↔ ∃ l ∈ s.launches, l.graph = g := by
  simp

theorem trigger_cases (s : State) (v : Word) :
    let g := bits v.toNat 56 8
    let n := bits v.toNat 0 7
    let pairs := (List.range n).map fun k => (bits (mget 0 s.patchWin (2 * k)).toNat 32 32, bits (mget 0 s.patchWin (2 * k)).toNat 0 32, mget 0 s.patchWin (2 * k + 1))
    (n ≤ 64 → (∀ l ∈ s.launches, l.graph ≠ g) → (∀ q ∈ s.launchQ, q.1 ≠ g) → ∃ t, exec (.triggerWrite v) s = .next t ∧ t.launchQ = s.launchQ ++ [(g, pairs)] ∧
      (s.clock, Instr.launchStart g) ∈ t.agenda ∧ t.mem = s.mem) ∧
    (n ≤ 64 → (∃ l ∈ s.launches, l.graph = g) → s.launchQ.length < 8 → exec (.triggerWrite v) s = .next { s with launchQ := s.launchQ ++ [(g, pairs)] }) ∧
    ((∃ l ∈ s.launches, l.graph = g) → 8 ≤ s.launchQ.length → exec (.triggerWrite v) s = .next s) ∧
    (64 < n → exec (.triggerWrite v) s = .next s) := by
  dsimp only
  rw [trigger_queue]
  generalize bits v.toNat 56 8 = g
  generalize bits v.toNat 0 7 = n
  refine ⟨fun hn hl hq => ?_, fun hn hl hlen => ?_, fun hl hlen => ?_, fun hn => by rw [if_pos hn]⟩
  · have hany : (s.launches.any (fun l => l.graph == g) || s.launchQ.any fun q => q.1 == g) = false := by
      rw [Bool.or_eq_false_iff, List.any_eq_false, List.any_eq_false]
      exact ⟨fun l hm => by simpa using hl l hm, fun q hm => by simpa using hq q hm⟩
    rw [if_neg (by omega), hany, if_neg Bool.false_ne_true]
    exact ⟨_, rfl, rfl, List.mem_append_left _ (List.mem_singleton_self _), rfl⟩
  · rw [if_neg (by omega), (running_iff s g).mpr hl, Bool.true_or, if_pos rfl, if_neg (by omega)]
  · rw [(running_iff s g).mpr hl, Bool.true_or, if_pos rfl, if_pos hlen]
    split <;> rfl

/-- Where a word of a node's slot stands in the model's memory (log 1). -/
theorem slotAddr_refOf (die sel w : Nat) (hd : die < 12) : slotAddr (refOf die (bits sel 0 15)) w = 2 ^ 34 + die * 2 ^ 23 + 256 * bits sel 0 15 + 8 * w := by
  have hb : bits sel 0 15 < 2 ^ 15 := Nat.mod_lt _ (by decide)
  generalize bits sel 0 15 = k at hb
  unfold slotAddr refOf graphBase refDie refSlot bits
  omega

/-- A write of the upload window while no graph runs (R293, R297). -/
theorem upload_cases (s : State) (die w : Nat) (v : Word) (hd : die < 12) (hw : w < 32) :
    let sel := (s.getDie die).select.toNat
    (bits sel 31 1 = 0 → s.launches = [] → exec (.uploadWindowWrite die (8 * w) v) s =
      .next { s with uploaded := true, mem := Memory.write s.mem (2 ^ 34 + die * 2 ^ 23 + 256 * bits sel 0 15 + 8 * w) 8 v.toNat }) ∧
    (bits sel 31 1 = 1 → die = 0 → w < 4 → exec (.uploadWindowWrite die (8 * w) v) s =
      .next { s with mem := Memory.write s.mem (2 ^ 35 + 32 * bits sel 0 8 + 8 * w) 8 v.toNat }) := by
  dsimp only
  have hin : die < Config.numDies ∧ 8 * w < 256 := ⟨hd, by omega⟩
  have hword : 8 * w / 8 = w := by omega
  have hexec : exec (.uploadWindowWrite die (8 * w) v) s = .next (s.uploadWrite die (8 * w) v) := by
    change execUploadWindowWrite die (8 * w) v s = _
    unfold execUploadWindowWrite
    rw [if_pos hin]
  rw [hexec]
  unfold State.uploadWrite
  dsimp only
  rw [hword]
  refine ⟨fun hb hl => ?_, fun hb hd0 hw4 => ?_⟩
  · rw [if_neg (by omega), if_neg (by rw [hl]; simp), ← slotAddr_refOf die _ w hd]
    rw [hl]
    rfl
  · rw [if_pos hb, if_pos ⟨hd0, hw4⟩]
    rfl

/-- A host-mask entry is set before the upload, and only to a mask whose low bits are its own (R295). -/
theorem mask_cases (s : State) (k : Nat) (v : Word) (hk : k < 13) :
    (s.uploaded = false → bits v.toNat 0 (k + 1) = 2 ^ k →
      exec (.hmaskWrite k v) s = .next { s with hmask := mput s.hmask k (BitVec.ofNat 64 (v.toNat % 2 ^ 30)) }) ∧
    (s.uploaded = true ∨ bits (v.toNat % 2 ^ 30) 0 (k + 1) ≠ 2 ^ k → exec (.hmaskWrite k v) s = .next s) := by
  have hm : bits v.toNat 0 30 = v.toNat % 2 ^ 30 := by
    unfold bits
    rw [Nat.pow_zero, Nat.div_one]
  have hlow : bits (v.toNat % 2 ^ 30) 0 (k + 1) = bits v.toNat 0 (k + 1) := by
    unfold bits
    rw [Nat.pow_zero, Nat.div_one, Nat.div_one]
    exact Nat.mod_mod_of_dvd _ (Nat.pow_dvd_pow 2 (by omega))
  have hexec : exec (.hmaskWrite k v) s = .next (
      if s.uploaded ∨ 13 ≤ k ∨ bits (v.toNat % 2 ^ 30) 0 (k + 1) ≠ 2 ^ k then s
      else { s with hmask := mput s.hmask k (BitVec.ofNat 64 (v.toNat % 2 ^ 30)) }) := by
    change execHmaskWrite k v s = _
    unfold execHmaskWrite State.maskWrite
    dsimp only
    rw [hm]
  rw [hexec]
  refine ⟨fun hu hb => ?_, fun h => ?_⟩
  · rw [if_neg]
    rw [hu, hlow]
    simp [hb]
    omega
  · rw [if_pos (h.imp_right .inr)]

/-- An entry of the temperature table waits while a core runs; else it is limited to its band's range (R337). -/
theorem table_cases (s : State) (e : Nat) (v : Lane) : ((∃ c ∈ s.cores, c.2.power.cur = 0) → exec (.tempTableWrite e v) s = .next { s with winErr := true }) ∧
    ((∀ c ∈ s.cores, c.2.power.cur ≠ 0) → e < 64 → e % 8 < 6 → exec (.tempTableWrite e v) s =
      .next { s with tempPending := s.tempPending ++ [(e, BitVec.ofNat 16 (max 16 (min (v.toNat % 65536) (ceiling (e / 8)))))] }) ∧
    ((∀ c ∈ s.cores, c.2.power.cur ≠ 0) → 64 ≤ e ∨ 6 ≤ e % 8 → exec (.tempTableWrite e v) s = .next s) := by
  have hopen : s.windowOpen = true ↔ ∀ c ∈ s.cores, c.2.power.cur ≠ 0 := by
    unfold State.windowOpen
    simp
  change (_ → execTempTableWrite e v s = _) ∧ (_ → _ → _ → execTempTableWrite e v s = _) ∧ (_ → _ → execTempTableWrite e v s = _)
  unfold execTempTableWrite State.tableWrite
  refine ⟨fun ⟨c, hc, h0⟩ => ?_, fun hc he hb => ?_, fun hc he => ?_⟩
  · have hshut : s.windowOpen = false := Bool.eq_false_iff.mpr fun h => hopen.mp h c hc h0
    rw [hshut, if_pos (by decide)]
  · rw [hopen.mpr hc, if_neg (by decide), if_neg (by omega)]
    have hlow : bits v.toNat 0 16 = v.toNat % 65536 := by
      exact congrArg (· % 65536) (Nat.div_one v.toNat)
    rw [hlow]
  · rw [hopen.mpr hc, if_neg (by decide), if_pos he]

/-! ### The registers of the host's window (R293, R350) -/

section
variable (s : State) (v : Word)

theorem bar_trigger : s.barWrite 0x1000 v = s.trigger v := by
  unfold State.barWrite
  rw [if_neg (by decide), if_pos rfl]

theorem bar_patch {k : Nat} (hk : k < 128) : s.barWrite (0x1400 + 8 * k) v = { s with patchWin := mset 0 s.patchWin k v } := by
  unfold State.barWrite
  rw [if_neg (by omega), if_neg (by omega), if_pos (by omega), (by omega : (0x1400 + 8 * k - 0x1400) / 8 = k)]

theorem bar_die {d o : Nat} (hd : d < 12) (ho : o < 0x1000) : s.barWrite (0x10000 + 0x1000 * d + o) v =
    if o < 256 then s.uploadWrite d o v else if o = 0x100 then s.modDie d fun x => { x with select := v.setWidth 32 } else s := by
  have hin : 0x10000 ≤ 0x10000 + 0x1000 * d + o ∧ 0x10000 + 0x1000 * d + o < 0x10000 + 0x1000 * Config.numDies := by
    unfold Config.numDies
    omega
  unfold State.barWrite
  rw [if_neg (by omega), if_neg (by omega), if_neg (by omega), if_pos hin]
  dsimp only
  rw [(by omega : (0x10000 + 0x1000 * d + o - 0x10000) / 0x1000 = d), (by omega : (0x10000 + 0x1000 * d + o) % 0x1000 = o)]

theorem past_dies {off : Nat} (h : 0x20000 ≤ off) : ¬ (0x10000 ≤ off ∧ off < 0x10000 + 0x1000 * Config.numDies) := by
  unfold Config.numDies
  omega

theorem past_bands {off : Nat} (h : 0x40000 ≤ off) : ¬ (0x30000 ≤ off ∧ off < 0x30000 + 0x100 * Config.numDies) := by
  unfold Config.numDies
  omega

theorem past_cores {off : Nat} (h : 0x41400 ≤ off) : ¬ (0x41000 ≤ off ∧ off < 0x41000 + 8 * Config.numCores) := by
  unfold Config.numCores
  omega

theorem past_diePower {off : Nat} (h : 0x42000 ≤ off) : ¬ (0x41400 ≤ off ∧ off < 0x41400 + 8 * Config.numDies) := by
  unfold Config.numDies
  omega

theorem bar_graphTable {k : Nat} (hk : k < 128) :
    s.barWrite (0x20000 + 8 * k) v = { s with graphTable := mset 0 s.graphTable k (BitVec.ofNat 64 (bits v.toNat 0 40)) } := by
  unfold State.barWrite
  rw [if_neg (by omega), if_neg (by omega), if_neg (by omega), if_neg (past_dies (by omega)), if_pos (by omega), (by omega : (0x20000 + 8 * k - 0x20000) / 8 = k)]

theorem bar_limit {d : Nat} (hd : d < 12) :
    s.barWrite (0x30000 + 0x100 * d) v = s.modDie d fun x => { x with rbcfg := if v.setWidth 16 = 0 then 1 else v.setWidth 16 } := by
  have hin : 0x30000 ≤ 0x30000 + 0x100 * d ∧ 0x30000 + 0x100 * d < 0x30000 + 0x100 * Config.numDies := by
    unfold Config.numDies
    omega
  unfold State.barWrite
  rw [if_neg (by omega), if_neg (by omega), if_neg (by omega), if_neg (past_dies (by omega)), if_neg (by omega), if_pos hin, if_pos (by omega),
    (by omega : (0x30000 + 0x100 * d - 0x30000) / 0x100 = d)]

theorem bar_viaduct {k : Nat} (hk : k < 128) : s.barWrite (0x50000 + 8 * k) v = { s with viaduct := mset 0 s.viaduct (8 * k) v } := by
  unfold State.barWrite
  rw [if_neg (by omega), if_neg (by omega), if_neg (by omega), if_neg (past_dies (by omega)), if_neg (by omega), if_neg (past_bands (by omega)), if_neg (by omega),
    if_neg (past_cores (by omega)), if_neg (past_diePower (by omega)), if_neg (by omega), if_pos (by omega), (by omega : (0x50000 + 8 * k - 0x50000) / 8 * 8 = 8 * k)]

theorem bar_mask {k : Nat} (hk : k < 13) : s.barWrite (0x42000 + 8 * k) v = s.maskWrite k v := by
  unfold State.barWrite
  rw [if_neg (by omega), if_neg (by omega), if_neg (by omega), if_neg (past_dies (by omega)), if_neg (by omega), if_neg (past_bands (by omega)), if_neg (by omega),
    if_neg (past_cores (by omega)), if_neg (past_diePower (by omega)), if_pos (by omega), (by omega : (0x42000 + 8 * k - 0x42000) / 8 = k)]

theorem bar_corePower {c : Nat} (hc : c < 96) : s.barWrite (0x41000 + 8 * c) v = s.powerWrite false c v := by
  have hin : 0x41000 ≤ 0x41000 + 8 * c ∧ 0x41000 + 8 * c < 0x41000 + 8 * Config.numCores := by
    unfold Config.numCores
    omega
  unfold State.barWrite
  rw [if_neg (by omega), if_neg (by omega), if_neg (by omega), if_neg (past_dies (by omega)), if_neg (by omega), if_neg (past_bands (by omega)), if_neg (by omega),
    if_pos hin, (by omega : (0x41000 + 8 * c - 0x41000) / 8 = c)]

theorem bar_diePower {d : Nat} (hd : d < 12) : s.barWrite (0x41400 + 8 * d) v = s.powerWrite true d v := by
  have hin : 0x41400 ≤ 0x41400 + 8 * d ∧ 0x41400 + 8 * d < 0x41400 + 8 * Config.numDies := by
    unfold Config.numDies
    omega
  unfold State.barWrite
  rw [if_neg (by omega), if_neg (by omega), if_neg (by omega), if_neg (past_dies (by omega)), if_neg (by omega), if_neg (past_bands (by omega)), if_neg (by omega),
    if_neg (past_cores (by omega)), if_pos hin, (by omega : (0x41400 + 8 * d - 0x41400) / 8 = d)]

theorem powerWrite_request (isDie : Bool) (n : Nat) (h : v.getLsbD 11 = false) : s.powerWrite isDie n v = s.powerRequest isDie n (bits v.toNat 0 2) := by
  unfold State.powerWrite
  rw [h, if_neg Bool.false_ne_true]

end

theorem limit_field (v : Word) : (if v.setWidth 16 = 0 then (1 : BitVec 16) else v.setWidth 16) = if v.toNat % 65536 = 0 then 1 else BitVec.ofNat 16 v.toNat := by
  have hnat : v.setWidth 16 = BitVec.ofNat 16 v.toNat := by
    apply BitVec.eq_of_toNat_eq
    simp
  have hzero : v.setWidth 16 = 0 ↔ v.toNat % 65536 = 0 := by
    rw [hnat, ← BitVec.toNat_inj]
    simp
  rw [hnat] at *
  split <;> rename_i h
  · rw [if_pos (hzero.mp h)]
  · rw [if_neg fun c => h (hzero.mpr c)]

/-- What each register of the host's window does with a word. -/
theorem register_cases (s : State) (v : Word) (k d : Nat) (hk : k < 128) (hd : d < 12) :
    exec (.registerWrite (0x1400 + 8 * k) v) s = .next { s with patchWin := mset 0 s.patchWin k v } ∧
    exec (.registerWrite (0x10100 + 0x1000 * d) v) s = .next (s.modDie d fun x => { x with select := BitVec.ofNat 32 v.toNat }) ∧
    exec (.registerWrite (0x20000 + 8 * k) v) s = .next { s with graphTable := mset 0 s.graphTable k (BitVec.ofNat 64 (v.toNat % 2 ^ 40)) } ∧
    exec (.registerWrite (0x30000 + 0x100 * d) v) s =
      .next (s.modDie d fun x => { x with rbcfg := if v.toNat % 65536 = 0 then 1 else BitVec.ofNat 16 v.toNat }) ∧
    exec (.registerWrite (0x50000 + 8 * k) v) s = .next { s with viaduct := mset 0 s.viaduct (8 * k) v } ∧
    exec (.registerWrite (0x42000 + 8 * (k % 13)) v) s = exec (.hmaskWrite (k % 13) v) s ∧
    (v.getLsbD 11 = false → ∀ r i, (r, i) ∈ [(0, Instr.coreReqRun (k % 96)), (1, .coreReqGate (k % 96)), (2, .coreReqOff (k % 96))] → bits v.toNat 0 2 = r →
      exec (.registerWrite (0x41000 + 8 * (k % 96)) v) s = exec i s) ∧
    (v.getLsbD 11 = false → ∀ r i, (r, i) ∈ [(0, Instr.dieReqActive d), (1, .dieReqRetain d), (2, .dieReqOff d)] → bits v.toNat 0 2 = r →
      exec (.registerWrite (0x41400 + 8 * d) v) s = exec i s) ∧
    exec (.registerWrite 0x1000 v) s = exec (.triggerWrite v) s ∧
    exec (.registerWrite (0x10000 + 0x1000 * d + 8 * (k % 32)) v) s = exec (.uploadWindowWrite d (8 * (k % 32)) v) s := by
  have hword : v.setWidth 32 = BitVec.ofNat 32 v.toNat := by
    apply BitVec.eq_of_toNat_eq
    simp
  have hlow : bits v.toNat 0 40 = v.toNat % 2 ^ 40 := congrArg (· % 2 ^ 40) (Nat.div_one v.toNat)
  have hbar : ∀ off, exec (.registerWrite off v) s = .next (s.barWrite off v) := fun _ => rfl
  simp only [hbar]
  refine ⟨?_, ?_, ?_, ?_, ?_, ?_, fun h11 r i hi hr => ?_, fun h11 r i hi hr => ?_, ?_, ?_⟩
  · rw [bar_patch s v hk]
  · rw [(by omega : 0x10100 + 0x1000 * d = 0x10000 + 0x1000 * d + 0x100), bar_die s v hd (by decide), if_neg (by decide), if_pos rfl, hword]
  · rw [bar_graphTable s v hk, hlow]
  · rw [bar_limit s v hd, limit_field]
  · rw [bar_viaduct s v hk]
  · rw [bar_mask s v (Nat.mod_lt k (by decide))]
    rfl
  · rw [bar_corePower s v (Nat.mod_lt k (by decide)), powerWrite_request s v false _ h11, hr]
    simp only [List.mem_cons, Prod.mk.injEq, List.not_mem_nil, or_false] at hi
    rcases hi with ⟨rfl, rfl⟩ | ⟨rfl, rfl⟩ | ⟨rfl, rfl⟩ <;> rfl
  · rw [bar_diePower s v hd, powerWrite_request s v true _ h11, hr]
    simp only [List.mem_cons, Prod.mk.injEq, List.not_mem_nil, or_false] at hi
    rcases hi with ⟨rfl, rfl⟩ | ⟨rfl, rfl⟩ | ⟨rfl, rfl⟩ <;> rfl
  · rw [bar_trigger]
    rfl
  · rw [bar_die s v hd (by omega), if_pos (by omega)]
    change _ = execUploadWindowWrite d (8 * (k % 32)) v s
    unfold execUploadWindowWrite
    rw [if_pos ⟨hd, by omega⟩]

end Sys2Proof.Laws.HostWrites


/-! # Power, bring-up, translations and invalidations (spec 14, spec 15): O59 -/

namespace Sys2Proof.Laws.HostPower
open Sys2Proof Sys2Proof.Machine Sys2Proof.Laws

/-! ### Power requests (R342, R344) -/

theorem mem_addStart (n : Nat) (ns : List Nat) : n ∈ addStart n ns := by
  induction ns with
  | nil => exact List.mem_cons_self
  | cons m ms ih =>
    unfold addStart
    split
    · exact List.mem_cons_self
    split
    · next h => exact h ▸ List.mem_cons_self
    · exact List.mem_cons_of_mem m ih

theorem mem_addStart_of_mem {k : Nat} (n : Nat) {ns : List Nat} (h : k ∈ ns) : k ∈ addStart n ns := by
  induction ns with
  | nil => exact absurd h List.not_mem_nil
  | cons m ms ih =>
    unfold addStart
    split
    · exact List.mem_cons_of_mem n h
    split
    · exact h
    · rcases List.mem_cons.mp h with rfl | h
      · exact List.mem_cons_self
      · exact List.mem_cons_of_mem m (ih h)

theorem power_setPower (s : State) (c : Nat) (p : Power) : ((s.setPower false c p).getCore c).power = p :=
  congrArg Core.power (State.getCore_modCore s c fun k => { k with power := p })

/-- A request for a core that is granted. -/
theorem coreRequest_granted (s : State) (c r : Nat) (hc : c < 96) (hr : r < 3)
    (hg : (!false && r == 0 && ((s.getDie (c / 8)).power.cur != 0 || (s.getDie (c / 8)).tripped)) = false) :
    let p := (s.getCore c).power
    let t := s.powerRequest false c r
    (t.getCore c).power = { p with req := r } ∧ (p.cur = 2 → r ≠ 2 → c ∈ t.starting) ∧ (r = 2 → c ∉ t.starting) ∧ t.mem = s.mem := by
  have hin : ¬ (r ≥ 3 ∨ (false = true ∧ Config.numDies ≤ c) ∨ ((!false) = true ∧ Config.numCores ≤ c)) := by
    rintro (h | ⟨h, -⟩ | ⟨-, h⟩)
    · omega
    · exact Bool.false_ne_true h
    · exact absurd (Nat.lt_of_lt_of_le hc h) (Nat.lt_irrefl c)
  dsimp only
  unfold State.powerRequest
  dsimp only
  rw [if_neg hin, hg, if_neg Bool.false_ne_true, if_neg Bool.false_ne_true]
  split
  · next h => exact ⟨power_setPower s c _, fun _ _ => mem_addStart c _, fun h2 => absurd h2 h.2, rfl⟩
  · next h => exact ⟨power_setPower s c _, fun h0 h2 => absurd ⟨h0, h2⟩ h, fun _ => by simp, rfl⟩

/-- A request to run a core of a die that is not Active is an error. -/
theorem coreRequest_error (s : State) (c : Nat) (hc : c < 96) (h : ¬((s.getDie (c / 8)).power.cur = 0 ∧ (s.getDie (c / 8)).tripped = false)) :
    s.powerRequest false c 0 = s.modCore c fun k => { k with power := { (s.getCore c).power with req := (s.getCore c).power.cur, err := true } } := by
  have hin : ¬ (0 ≥ 3 ∨ (false = true ∧ Config.numDies ≤ c) ∨ ((!false) = true ∧ Config.numCores ≤ c)) := by
    rintro (h | ⟨h, -⟩ | ⟨-, h⟩)
    · omega
    · exact Bool.false_ne_true h
    · exact absurd (Nat.lt_of_lt_of_le hc h) (Nat.lt_irrefl c)
  have hbad : ((s.getDie (c / 8)).power.cur != 0 || (s.getDie (c / 8)).tripped) = true := by
    rw [Bool.or_eq_true, bne_iff_ne]
    by_cases h0 : (s.getDie (c / 8)).power.cur = 0
    · exact .inr (by simpa using fun hf => h ⟨h0, hf⟩)
    · exact .inl h0
  unfold State.powerRequest
  dsimp only
  rw [if_neg hin, hbad, if_pos (by decide)]
  rfl

theorem core_requests (s : State) (c : Nat) (hc : c < 96) :
    let p := (s.getCore c).power
    let err := { p with req := p.cur, err := true }
    let ok := (s.getDie (c / 8)).power.cur = 0 ∧ (s.getDie (c / 8)).tripped = false
    (¬ok → exec (.coreReqRun c) s = .next (s.modCore c fun k => { k with power := err })) ∧
    (ok → ∃ t, exec (.coreReqRun c) s = .next t ∧ (t.getCore c).power = { p with req := 0 } ∧ (p.cur = 2 → c ∈ t.starting) ∧ t.mem = s.mem) ∧
    (∃ t, exec (.coreReqGate c) s = .next t ∧ (t.getCore c).power = { p with req := 1 } ∧ (p.cur = 2 → c ∈ t.starting) ∧ t.mem = s.mem) ∧
    (∃ t, exec (.coreReqOff c) s = .next t ∧ (t.getCore c).power = { p with req := 2 } ∧ c ∉ t.starting ∧ t.mem = s.mem) := by
  dsimp only
  refine ⟨fun h => congrArg Host.Outcome.next (coreRequest_error s c hc h), fun h => ?_, ?_, ?_⟩
  · obtain ⟨hp, hs, -, hm⟩ := coreRequest_granted s c 0 hc (by decide) (by rw [h.1, h.2]; rfl)
    exact ⟨_, rfl, hp, fun h2 => hs h2 (by decide), hm⟩
  · obtain ⟨hp, hs, -, hm⟩ := coreRequest_granted s c 1 hc (by decide) rfl
    exact ⟨_, rfl, hp, fun h2 => hs h2 (by decide), hm⟩
  · obtain ⟨hp, -, hs, hm⟩ := coreRequest_granted s c 2 hc (by decide) rfl
    exact ⟨_, rfl, hp, hs rfl, hm⟩

theorem die_request (s : State) (d r : Nat) (hd : d < 12) (hr : r < 3) :
    s.powerRequest true d r = s.modDie d fun x => { x with power := { x.power with req := r } } := by
  have hin : ¬ (r ≥ 3 ∨ (true = true ∧ Config.numDies ≤ d) ∨ ((!true) = true ∧ Config.numCores ≤ d)) := by
    unfold Config.numDies
    simp
    omega
  unfold State.powerRequest
  dsimp only
  rw [if_neg hin, Bool.not_true, Bool.false_and, Bool.false_and, if_neg Bool.false_ne_true, if_pos rfl]
  rfl

theorem die_requests (s : State) (d r : Nat) (i : Instr) (hd : d < 12) (hi : (i, r) ∈ [(Instr.dieReqActive d, 0), (.dieReqRetain d, 1), (.dieReqOff d, 2)]) :
    exec i s = .next (s.modDie d fun x => { x with power := { x.power with req := r } }) := by
  simp only [List.mem_cons, Prod.mk.injEq, List.not_mem_nil, or_false] at hi
  rcases hi with ⟨rfl, rfl⟩ | ⟨rfl, rfl⟩ | ⟨rfl, rfl⟩ <;> exact congrArg Host.Outcome.next (die_request s d _ hd (by decide))

/-! ### Changes of state (R343-R348) -/

section
variable (s : State) (n : Nat)

/-- An idle core that runs and is asked for another state. -/
theorem core_due (hc : (s.getCore n).power.cur = 0) (hr : (s.getCore n).power.req ≠ 0) (hi : s.coreIdle n = true) : s.powerDue false n = true := by
  have h : (s.powerOf false n).req != (s.powerOf false n).cur := by
    change ((s.getCore n).power.req != (s.getCore n).power.cur) = true
    rw [hc]
    simpa using hr
  unfold State.powerDue
  dsimp only
  rw [h, hi, if_neg Bool.false_ne_true, Bool.or_true, Bool.and_true]
  change (true && (s.getCore n).power.cur != 2) = true
  rw [hc]
  rfl

theorem core_gated (hc : (s.getCore n).power.cur = 0) (hr : (s.getCore n).power.req = 1) (hi : s.coreIdle n = true) :
    exec (.powerStateChange false n) s = .next (s.modCore n fun k => { k with power := { (s.getCore n).power with cur := 1 } }) := by
  change execPowerStateChange false n s = _
  unfold execPowerStateChange
  dsimp only
  rw [core_due s n hc (by omega) hi, if_neg (by decide)]
  change Host.Outcome.next (if false = true then _ else if (s.getCore n).power.req = 2 then _ else if (s.getCore n).power.req = 0 then _ else
    s.modCore n fun k => { k with power := { (s.getCore n).power with cur := (s.getCore n).power.req } }) = _
  rw [hr, if_neg Bool.false_ne_true, if_neg (by decide), if_neg (by decide)]
  dsimp only
  rw [hr]

/-- The deck is as at reset. -/
theorem frame_resetDecks (ds : List Nat) (t : State) : ds.foldl (fun s n => s.setDeck n Deck.reset) t = { t with decks := (ds.foldl (fun s n => s.setDeck n Deck.reset) t).decks } :=
  List.foldlRecOn (motive := fun u : State => u = { t with decks := u.decks }) _ _ rfl fun _ h m _ => (congrArg (State.setDeck · m Deck.reset) h :)

/-- What the loss of a core's storage leaves. -/
theorem loseCore_facts : (s.loseCore n).getCore n = { Core.reset with power := (s.getCore n).power } ∧
    ∀ a, storeBase n ≤ a ∧ a < storeBase n + 2 ^ 26 → (s.loseCore n).mem.byte a = 0 := by
  have hd := frame_resetDecks (coreDecks n) (s.setCore n { Core.reset with power := (s.getCore n).power })
  unfold State.loseCore
  dsimp only
  generalize (coreDecks n).foldl (fun s n => s.setDeck n Deck.reset) (s.setCore n { Core.reset with power := (s.getCore n).power }) = u at hd ⊢
  have hcores : u.getCore n = { Core.reset with power := (s.getCore n).power } :=
    (congrArg (State.getCore · n) hd :).trans (mget_mput_same ..)
  refine ⟨hcores, fun a ha => ?_⟩
  exact Transfers.mget_filter_gone (0 : Byte) u.mem a
    (fun a => !(decide (storeBase n ≤ a ∧ a < storeBase n + 2 ^ 26) || decide (istoreBase n ≤ a ∧ a < istoreBase n + 2 ^ 19)))
    (by rw [decide_eq_true ha, Bool.true_or, Bool.not_true])

theorem core_off (hc : (s.getCore n).power.cur = 0) (hr : (s.getCore n).power.req = 2) (hi : s.coreIdle n = true) :
    ∃ t, exec (.powerStateChange false n) s = .next t ∧ (t.getCore n).power.cur = 2 ∧
      (∀ r, ((t.getCore n).row r).st = .released) ∧ ∀ a, (storeBase n ≤ a ∧ a < storeBase n + 2 ^ 26) → t.mem.byte a = 0 := by
  have hexec : exec (.powerStateChange false n) s = .next ((s.modCore n fun k => { k with power := { (s.getCore n).power with cur := 2 } }).loseCore n) := by
    change execPowerStateChange false n s = _
    unfold execPowerStateChange
    dsimp only
    rw [core_due s n hc (by omega) hi, if_neg (by decide)]
    change Host.Outcome.next (if false = true then _ else if (s.getCore n).power.req = 2 then
      (s.modCore n fun k => { k with power := { (s.getCore n).power with cur := (s.getCore n).power.req } }).loseCore n else _) = _
    rw [hr, if_neg Bool.false_ne_true, if_pos rfl]
    dsimp only
    rw [hr]
  have hf := loseCore_facts (s.modCore n fun k => { k with power := { (s.getCore n).power with cur := 2 } }) n
  rw [State.getCore_modCore] at hf
  refine ⟨_, hexec, ?_, fun r => ?_, hf.2⟩
  · rw [hf.1]
  · rw [hf.1]
    rfl

/-- A die whose request may take effect. -/
theorem die_due (hr : (s.getDie n).power.req ≠ (s.getDie n).power.cur) (h2 : (s.getDie n).power.req < 2)
    (hc : ∀ c, c < 8 → (s.getCore (8 * n + c)).power.cur ≠ 0) : s.powerDue true n = true := by
  have hall : ((dieCores n).all fun c => (s.getCore c).power.cur != 0) = true := by
    rw [List.all_eq_true]
    intro c hm
    obtain ⟨k, hk, rfl⟩ := List.mem_map.mp hm
    simpa using hc k (List.mem_range.mp hk)
  unfold State.powerDue
  dsimp only
  rw [if_pos rfl, hall]
  change ((s.getDie n).power.req != (s.getDie n).power.cur && if (s.getDie n).power.req = 1 then true else if (s.getDie n).power.req = 2 then _ else true) = true
  rw [bne_iff_ne.mpr hr, if_neg (c := (s.getDie n).power.req = 2) (by omega)]
  split <;> rfl

/-- What a change of a die's state does. -/
theorem die_changes (hr : (s.getDie n).power.req ≠ (s.getDie n).power.cur) (h2 : (s.getDie n).power.req < 2)
    (hc : ∀ c, c < 8 → (s.getCore (8 * n + c)).power.cur ≠ 0) :
    exec (.powerStateChange true n) s = .next (
      let t := s.modDie n fun d => { d with power := { (s.getDie n).power with cur := (s.getDie n).power.req } }
      if (s.getDie n).power.cur = 2 then t.startStacks n else t) := by
  change execPowerStateChange true n s = _
  unfold execPowerStateChange
  dsimp only
  rw [die_due s n hr h2 hc, if_neg (by decide), if_pos rfl]
  change Host.Outcome.next (if (s.getDie n).power.req = 2 then _ else _) = _
  rw [if_neg (by omega)]
  rfl

theorem die_retained (hp : (s.getDie n).power = ⟨0, 1, false⟩) (hc : ∀ c, c < 8 → (s.getCore (8 * n + c)).power.cur ≠ 0) :
    exec (.powerStateChange true n) s = .next (s.modDie n fun d => { d with power := ⟨1, 1, false⟩ }) := by
  rw [die_changes s n (by rw [hp]; decide) (by rw [hp]; decide) hc, hp]
  rfl

theorem die_started (r : Nat) (hp : (s.getDie n).power = ⟨2, r, false⟩) (hr : r < 2) (hc : ∀ c, c < 8 → (s.getCore (8 * n + c)).power.cur ≠ 0) :
    ∃ t, exec (.powerStateChange true n) s = .next t ∧ (t.getDie n).power = ⟨r, r, false⟩ ∧ 2 * n ∈ t.hbm.starting ∧ 2 * n + 1 ∈ t.hbm.starting ∧ t.mem = s.mem := by
  refine ⟨_, die_changes s n (by rw [hp]; exact fun h => by dsimp only at h; omega) (by rw [hp]; exact hr) hc, ?_⟩
  rw [hp]
  dsimp only
  rw [if_pos rfl]
  exact ⟨congrArg Die.power (mget_mput_same ..), mem_addStart _ _, mem_addStart_of_mem _ (mem_addStart _ _), rfl⟩

theorem askSelections_agenda (s : State) : ∃ es, s.askSelections = { s with agenda := es } :=
  List.foldlRecOn (motive := fun t : State => ∃ es, t = { s with agenda := es }) _ _ ⟨_, rfl⟩ fun t ⟨es, h⟩ d _ => by
    rw [h]
    split <;> exact ⟨_, rfl⟩

/-- The next core in turn starts. -/
theorem core_starts (rest : List Nat) (hs : s.starting = n :: rest) (ht : s.nextStart ≤ s.clock) (hd : (s.getDie (n / 8)).power.cur = 0) :
    ∃ t, exec (.coreStart n) s = .next t ∧ (t.getCore n).power.cur = (s.getCore n).power.req ∧ (t.getCore n).clkBase = s.clock ∧ n ∉ t.starting ∧
      t.nextStart = s.clock + 5000 ∧ t.mem = s.mem := by
  have hdue : s.startDue = some n := by
    unfold State.startDue
    rw [if_neg (by omega), hs]
    rfl
  change ∃ t, execCoreStart n s = .next t ∧ _
  unfold execCoreStart
  dsimp only
  rw [if_neg (not_not_intro hdue), if_neg fun h => h.1 hd]
  generalize hu : ({ State.modCore _ n _ with nextStart := _ } : State) = u
  have hcore : u.getCore n = { s.getCore n with power := { (s.getCore n).power with cur := (s.getCore n).power.req }, clkBase := s.clock } := by
    rw [← hu]
    exact State.getCore_modCore ({ s with starting := s.starting.filter (· != n) } : State) n fun k =>
      { k with power := { (s.getCore n).power with cur := (s.getCore n).power.req }, clkBase := s.clock }
  have hstart : u.starting = s.starting.filter (· != n) := by rw [← hu]; rfl
  have hnext : u.nextStart = s.clock + 5000 := by rw [← hu]; rfl
  have hmem : u.mem = s.mem := by rw [← hu]; rfl
  clear hu
  obtain ⟨es, he⟩ := askSelections_agenda u
  refine ⟨_, rfl, ?_⟩
  rw [he]
  refine ⟨?_, ?_, ?_, hnext, hmem⟩
  · exact congrArg (fun k : Core => k.power.cur) hcore
  · exact congrArg Core.clkBase hcore
  · change n ∉ u.starting
    rw [hstart]
    simp

theorem stack_steps (k : Nat) (rest : List Nat) (h : s.hbm.starting = k :: rest) :
    (s.hbm.nextStack ≤ s.clock → s.stackStep.hbm.starting = rest ∧ s.stackStep.hbm.nextStack = s.clock + 125000) ∧ (s.clock < s.hbm.nextStack → s.stackStep = s) := by
  unfold State.stackStep
  rw [h]
  dsimp only
  refine ⟨fun ht => ?_, fun ht => by rw [if_pos ht]⟩
  rw [if_neg (by omega)]
  exact ⟨rfl, rfl⟩

end

/-! ### Bring-up (R346, R347) -/

theorem mget_ofFn_range {α : Type} (d v : α) (n k : Nat) (h : k < n) : mget d ((List.range n).map fun j => (j, v)) k = v := by
  have hk : k ∈ List.range n := List.mem_range.mpr h
  generalize List.range n = ks at hk
  induction ks with
  | nil => exact absurd hk List.not_mem_nil
  | cons j ks ih =>
    rw [List.map_cons]
    unfold mget
    split
    · rfl
    · next hj => exact ih ((List.mem_cons.mp hk).resolve_left (Ne.symm hj))

/-- When reset ends, the dies start one after another, and ready comes after all of them. -/
theorem reset_deasserts (s : State) : ∃ t b, exec .resetDeassert s = .next t ∧ t.clock = s.clock ∧ t.ready = false ∧ t.boot = some b ∧ b.readyAt ≤ s.clock + 250000000 ∧
    (∀ d, d < 12 → (t.getDie d).power = ⟨2, 2, false⟩ ∧ s.clock ≤ b.dies.getD d 0 ∧ b.dies.getD d 0 ≤ s.clock + 2875000 ∧ b.dies.getD d 0 ≤ b.readyAt) ∧
    (∀ c, (t.getCore c).power = ⟨2, 2, false⟩) ∧ t.decks = [] ∧ t.launches = [] ∧ t.log = [] ∧ ∀ a, a < 2 ^ 60 → t.mem.byte a = Memory.byte [] a := by
  refine ⟨_, _, rfl, rfl, rfl, rfl, ?_, fun d hd => ?_, fun _ => rfl, rfl, rfl, rfl, fun a ha => ?_⟩
  · change s.clock + max 2875000 (min (Config.freeDelay (s.free + Config.numDies)) 250000000) ≤ _
    omega
  · have hdie : ((List.range Config.numDies).map fun d => s.clock + min (Config.freeDelay (s.free + d)) (100 * Config.clocksPerUs * d)).getD d 0 =
        s.clock + min (Config.freeDelay (s.free + d)) (250000 * d) := by
      rw [List.getD_eq_getElem?_getD, List.getElem?_map, List.getElem?_range (show d < Config.numDies from hd)]
      rfl
    refine ⟨congrArg Die.power (mget_ofFn_range Die.reset _ 12 d hd), ?_⟩
    dsimp only
    rw [hdie]
    generalize Config.freeDelay (s.free + d) = f
    omega
  · exact Transfers.mget_filter_gone (0 : Byte) s.mem a (fun a => decide (2 ^ 60 ≤ a)) (decide_eq_false (by omega))

/-- A die whose time has come becomes Active. -/
def bootDie (b : Boot) (s : State) (d : Nat) : State :=
  if (s.getDie d).power.cur == 2 && decide (b.dies.getD d 0 ≤ s.clock) then (s.setPower true d ⟨0, 0, false⟩).startStacks d else s

theorem bootDie_frame (b : Boot) (s : State) (d : Nat) : bootDie b s d = { s with dies := (bootDie b s d).dies, hbm := (bootDie b s d).hbm } := by
  unfold bootDie
  split <;> rfl

theorem bootDies_frame (b : Boot) (ds : List Nat) (s : State) : ∃ dies hbm, ds.foldl (bootDie b) s = { s with dies := dies, hbm := hbm } :=
  List.foldlRecOn (motive := fun t : State => ∃ dies hbm, t = { s with dies := dies, hbm := hbm }) _ _ ⟨_, _, rfl⟩ fun t ⟨_, _, h⟩ d _ =>
    ⟨_, _, (bootDie_frame b t d).trans (congrArg (fun u : State => { u with dies := (bootDie b t d).dies, hbm := (bootDie b t d).hbm }) h)⟩

theorem bootDie_other (b : Boot) (s : State) (d e : Nat) (h : e ≠ d) : (bootDie b s d).getDie e = s.getDie e := by
  unfold bootDie
  split
  · exact mget_mput_other Die.reset s.dies _ h.symm
  · rfl

theorem bootDie_same (b : Boot) (s : State) (d : Nat) : ((bootDie b s d).getDie d).power =
    if (s.getDie d).power.cur = 2 ∧ b.dies.getD d 0 ≤ s.clock then ⟨0, 0, false⟩ else (s.getDie d).power := by
  unfold bootDie
  by_cases h : (s.getDie d).power.cur = 2 ∧ b.dies.getD d 0 ≤ s.clock
  · rw [if_pos (by simpa using h), if_pos h]
    exact congrArg Die.power (mget_mput_same ..)
  · rw [if_neg (by simpa using h), if_neg h]

theorem bootDies_done (b : Boot) (ds : List Nat) (s : State) (d : Nat) (ht : b.dies.getD d 0 ≤ s.clock)
    (h : d ∈ ds ∧ (s.getDie d).power.cur = 2 ∨ (s.getDie d).power = ⟨0, 0, false⟩) : ((ds.foldl (bootDie b) s).getDie d).power = ⟨0, 0, false⟩ := by
  induction ds generalizing s with
  | nil => exact h.resolve_left fun c => List.not_mem_nil c.1
  | cons e ds ih =>
    rw [List.foldl_cons]
    have hclock : (bootDie b s e).clock = s.clock := (congrArg State.clock (bootDie_frame b s e) :)
    refine ih _ (hclock ▸ ht) ?_
    by_cases he : d = e
    · subst he
      right
      rw [bootDie_same]
      rcases h with ⟨-, h⟩ | h
      · exact if_pos ⟨h, ht⟩
      · rw [h]
        exact if_neg fun c => absurd c.1 (by decide)
    · rw [bootDie_other b s e d he]
      exact h.imp_left fun c => ⟨(List.mem_cons.mp c.1).resolve_left he, c.2⟩

theorem boot_steps (s : State) (b : Boot) (hb : s.boot = some b) :
    (∀ d, d < 12 → (s.getDie d).power.cur = 2 → b.dies.getD d 0 ≤ s.clock → (s.bootStep.getDie d).power = ⟨0, 0, false⟩) ∧
    (b.readyAt ≤ s.clock → s.bootStep.ready = true ∧ s.bootStep.readyClock = s.clock ∧ s.bootStep.boot = none) ∧
    (s.clock < b.readyAt → s.bootStep.ready = s.ready ∧ s.bootStep.boot = some b) := by
  have hstep : s.bootStep = if ((List.range 12).foldl (bootDie b) s).clock < b.readyAt then (List.range 12).foldl (bootDie b) s else
      { (List.range 12).foldl (bootDie b) s with boot := none, ready := true, readyClock := ((List.range 12).foldl (bootDie b) s).clock } := by
    unfold State.bootStep
    rw [hb]
    rfl
  have hdone : ∀ d, d < 12 → (s.getDie d).power.cur = 2 → b.dies.getD d 0 ≤ s.clock → (((List.range 12).foldl (bootDie b) s).getDie d).power = ⟨0, 0, false⟩ :=
    fun d hd h2 ht => bootDies_done b _ s d ht (.inl ⟨List.mem_range.mpr hd, h2⟩)
  obtain ⟨dies, hbm, hf⟩ := bootDies_frame b (List.range 12) s
  rw [hstep]
  rw [hf] at hdone ⊢
  refine ⟨fun d hd h2 ht => ?_, fun ht => ?_, fun ht => ?_⟩
  · split
    · exact hdone d hd h2 ht
    · exact hdone d hd h2 ht
  · rw [if_neg (Nat.not_lt.mpr ht)]
    exact ⟨rfl, rfl, rfl⟩
  · rw [if_pos ht]
    exact ⟨rfl, hb⟩

theorem tap_cases (s : State) (codes : List Nat) :
    (codes = [] ∨ (∀ d, d < 12 → (s.getDie d).power.cur = 2) → exec (.tapInstruction codes) s = .next { s with tap := codes.take 12 }) ∧
    (codes ≠ [] → (∃ d, d < 12 ∧ (s.getDie d).power.cur ≠ 2) → exec (.tapInstruction codes) s = .next s) := by
  have hopen : (codes.isEmpty || (List.range Config.numDies).all fun d => (s.getDie d).power.cur == 2) = true ↔ codes = [] ∨ ∀ d, d < 12 → (s.getDie d).power.cur = 2 := by
    simp [Config.numDies]
  change (_ → execTapInstruction codes s = _) ∧ (_ → _ → execTapInstruction codes s = _)
  unfold execTapInstruction
  refine ⟨fun h => ?_, fun hc ⟨d, hd, h2⟩ => ?_⟩
  · rw [if_pos (hopen.mpr h)]
    rfl
  · rw [if_neg fun h => (hopen.mp h).elim hc fun h => h2 (h d hd)]

/-! ### Translations and page answers (R424-R427) -/

section
variable (s : State) (ctx page pa : Nat) (host : Bool)

/-- An answer of one page, when no load waits for it. -/
theorem installPage_one (t : State) (h : t.extWait = []) :
    ∃ ts : List Trans, t.installPage ctx page (pa, host, false) = { t with trans := ts ++ [⟨ctx, page, host, pa / 65536 * 65536, false, none⟩] } := by
  have hnew : pagesOfAnswer ctx page (pa, host, false) = [⟨ctx, page, host, pa / 65536 * 65536, false, none⟩] := if_neg Bool.false_ne_true
  have hwake : ∀ ts, ({ t with trans := ts } : State).wakeHld ctx page = { t with trans := ts } := fun ts => by
    unfold State.wakeHld
    dsimp only
    rw [h]
    rfl
  unfold State.installPage
  dsimp only
  rw [hnew, List.map_cons, List.map_nil, List.foldl_cons, List.foldl_nil, hwake]
  exact ⟨_, rfl⟩

theorem translation_comes (hq : s.atsReq = [(ctx, page)]) (he : s.extWait = []) :
    ∃ t, exec (.atsTranslationCompletion ctx page (some (pa, host, false))) s = .next t ∧ t.atsReq = [] ∧
      (⟨ctx, page, host, pa / 65536 * 65536, false, none⟩ : Trans) ∈ t.trans ∧ t.mem = s.mem := by
  obtain ⟨ts, hi⟩ := installPage_one ctx page pa host { s with atsReq := s.atsReq.erase (ctx, page) } he
  have hexec : exec (.atsTranslationCompletion ctx page (some (pa, host, false))) s =
      .next (({ s with atsReq := s.atsReq.erase (ctx, page) } : State).installPage ctx page (pa, host, false)) := by
    change execAtsTranslationCompletion ctx page (some (pa, host, false)) s = _
    unfold execAtsTranslationCompletion
    rw [if_neg (by rw [hq]; simp)]
  rw [hi] at hexec
  refine ⟨_, hexec, ?_, List.mem_append_right ts (List.mem_singleton_self _), rfl⟩
  change s.atsReq.erase (ctx, page) = []
  rw [hq]
  exact List.erase_cons_head ..

theorem translation_fails (hq : s.atsReq = [(ctx, page)]) (he : s.extWait = []) (hc : s.cores = []) :
    ∃ t m, exec (.atsTranslationCompletion ctx page none) s = .next t ∧ t.pageReq = s.pageReq ++ [(ctx, page, none)] ∧ t.msgs = s.msgs ++ [m] ∧ t.mem = s.mem := by
  have hnone : ({ s with atsReq := s.atsReq.erase (ctx, page) } : State).pageWaiters ctx page = [] := by
    unfold State.pageWaiters
    dsimp only
    rw [he, hc]
    rfl
  change ∃ t m, execAtsTranslationCompletion ctx page none s = .next t ∧ _
  unfold execAtsTranslationCompletion
  rw [if_neg (by rw [hq]; simp)]
  dsimp only
  rw [hnone, List.foldl_nil]
  exact ⟨_, _, rfl, rfl, rfl, rfl⟩

theorem page_answered (i : Option Nat) (hq : s.pageReq = [(ctx, page, i)]) (he : s.extWait = []) :
    ∃ t, exec (.pageRequestResponse ctx page (some (pa, host, false))) s = .next t ∧ t.pageReq = [] ∧
      (⟨ctx, page, host, pa / 65536 * 65536, false, none⟩ : Trans) ∈ t.trans ∧ t.mem = s.mem := by
  have hf : s.pageReq.find? (fun p => p.1 == ctx && p.2.1 == page) = some (ctx, page, i) := by
    rw [hq]
    exact List.find?_cons_of_pos (by simp)
  have herase : s.pageReq.erase (ctx, page, i) = [] := by
    rw [hq]
    exact List.erase_cons_head ..
  change ∃ t, execPageRequestResponse ctx page (some (pa, host, false)) s = .next t ∧ _
  unfold execPageRequestResponse
  rw [hf]
  dsimp only
  rw [herase]
  obtain ⟨ts, hi⟩ := installPage_one ctx page pa host { s with pageReq := [], answered := s.answered ++ i.toList } he
  rw [hi]
  exact ⟨_, rfl, rfl, List.mem_append_right ts (List.mem_singleton_self _), rfl⟩

end

/-! ### Invalidations (R428, R429) -/

/-- The page of a translation lies in the range of an invalidation. -/
theorem inRange_iff (base len page : Nat) : inRange base len page = true ↔ base < (page + 1) * 65536 ∧ page * 65536 < base + len := by
  unfold inRange
  exact decide_eq_true_iff

theorem invalidate_begins (s : State) (ctx base len : Nat) : ∃ t v, exec (.atsInvalidateRequest ctx base len) s = .next t ∧ t.invals = s.invals ++ [v] ∧ v.id = s.seq ∧ v.ctx = ctx ∧
    v.base = base ∧ v.len = len ∧ v.at_ = s.clock ∧ t.mem = s.mem ∧ ∀ x ∈ t.trans, x.ctx = ctx → base < (x.page + 1) * 65536 → x.page * 65536 < base + len → x.till.isSome = true := by
  refine ⟨_, _, rfl, rfl, rfl, rfl, rfl, rfl, rfl, rfl, fun x hx hc hlo hhi => ?_⟩
  obtain ⟨y, -, rfl⟩ := List.mem_map.mp hx
  by_cases h : y.ctx = ctx ∧ inRange base len y.page = true ∧ y.till.isNone = true
  · rw [if_pos h]
    rfl
  · rw [if_neg h] at hc hlo hhi ⊢
    have hn : ¬ y.till.isNone = true := fun hn => h ⟨hc, (inRange_iff _ _ _).mpr ⟨hlo, hhi⟩, hn⟩
    rw [← Option.not_isNone, Bool.eq_false_iff.mpr hn]
    rfl

theorem find_inval (s : State) (v : Inval) (h : s.invals = [v]) : s.invals.find? (fun w => w.id == v.id) = some v := by
  rw [h]
  exact List.find?_cons_of_pos (by simp)

theorem invalidate_ends (s : State) (v : Inval) (h : s.invals = [v]) (hw : v.waiting = []) :
    ∃ t m, exec (.invalidationComplete v.id) s = .next t ∧ t.invals = [] ∧ t.msgs = s.msgs ++ [m] ∧ t.mem = s.mem ∧
      ∀ x ∈ t.trans, ¬(x.ctx = v.ctx ∧ v.base < (x.page + 1) * 65536 ∧ x.page * 65536 < v.base + v.len ∧ x.till = some v.at_) := by
  have hrest : s.invals.filter (fun w => w.id != v.id) = [] := by
    rw [h]
    exact List.filter_cons_of_neg (by simp)
  change ∃ t m, execInvalidationComplete v.id s = .next t ∧ _
  unfold execInvalidationComplete
  rw [find_inval s v h]
  dsimp only
  rw [hw, if_neg (by decide)]
  refine ⟨_, _, rfl, hrest, rfl, rfl, fun x hx ⟨hc, hlo, hhi, ht⟩ => ?_⟩
  have hkeep := (List.mem_filter.mp hx).2
  rw [hc, (inRange_iff _ _ _).mpr ⟨hlo, hhi⟩, ht] at hkeep
  simp at hkeep

theorem watchdog_rolls (s : State) (v : Inval) (i n : Nat) (h : s.invals = [v]) (hw : v.waiting = [(i, n)]) (ht : v.at_ + (s.getInst i).invalUs * 2500 ≤ s.clock) :
    exec (.invalidationWatchdog v.id) s = .next (s.rollBack i) := by
  have hlate : s.lateInsts v = [i] := by
    unfold State.lateInsts
    rw [hw]
    exact List.filter_cons_of_pos (decide_eq_true ht)
  change execInvalidationWatchdog v.id s = _
  unfold execInvalidationWatchdog
  rw [find_inval s v h]
  dsimp only
  rw [hlate]
  rfl

/-- Settles O59: each clause by the lemma of its write, request or event. -/
theorem hostAndPower : Obligations.HostAndPower :=
  ⟨HostWrites.trigger_cases, fun s die w v hd hw => HostWrites.upload_cases s die w v hd hw, fun s k v hk => HostWrites.mask_cases s k v hk, HostWrites.table_cases,
    fun s v k d hk hd => HostWrites.register_cases s v k d hk hd, core_requests, die_requests,
    fun s n => ⟨core_gated s n, core_off s n, die_retained s n, core_starts s n⟩, fun s n r hp hr hc => die_started s n r hp hr hc, stack_steps, reset_deasserts, boot_steps, tap_cases,
    fun s ctx page pa host hq he => translation_comes s ctx page pa host hq he, fun s ctx page hq he hc => translation_fails s ctx page hq he hc,
    fun s ctx page pa host i hq he => page_answered s ctx page pa host i hq he, invalidate_begins,
    fun s v h => ⟨fun hw => invalidate_ends s v h hw, fun i n hw ht => watchdog_rolls s v i n h hw ht⟩⟩

end Sys2Proof.Laws.HostPower


/-! # Machine checks and the decks they reach (spec 23) -/

namespace Sys2Proof.Laws.MachineChecks
open Sys2Proof Sys2Proof.Machine Sys2Proof.Laws

/-- What a machine check of `Inst` `i` does to one deck (R440). -/
def checkOne (i : Nat) (s : State) (n : Nat) : State :=
  if (s.getDeck n).halted || (s.getDeck n).inst != some i then s
  else if (s.getDeck n).sup || (s.getDeck n).trapWait.isSome && (s.getDeck n).sup then s.stopDeck n
  else s.modDeck n fun d => { d with pend23 := true }

theorem checkInst_live (s : State) (i : Nat) (h : (s.getInst i).st = .running) :
    s.checkInst i = (s.getInst i).decks.foldl (checkOne i) (s.modInst i fun x => { x with doomed := true }) := by
  unfold State.checkInst
  dsimp only
  rw [if_pos (.inl h)]
  rfl

theorem stopDeck_other (s : State) {n m : Nat} (h : n ≠ m) : (s.stopDeck n).getDeck m = s.getDeck m :=
  (Traps.getDeck_setDeck_other (s.dropLease n) _ h.symm).trans (Traps.getDeck_setDeck_other s _ h.symm)

theorem stopDeck_halted (s : State) (n : Nat) : ((s.stopDeck n).getDeck n).halted = true := congrArg Deck.halted (State.getDeck_modDeck (s.dropLease n) n fun d =>
  { d with halted := true, latches := [], revoc := [], ldsWait := [], trapWait := none, hold := false, wire := none, again := [],
           sup := false, pend20 := false, pend21 := 0, pend23 := false, atSq := none, frozen := none, checkedAt := none, pendTrap := none })

theorem checkOne_other (i : Nat) (s : State) {n m : Nat} (h : n ≠ m) : (checkOne i s n).getDeck m = s.getDeck m := by
  unfold checkOne
  split
  · rfl
  split
  · exact stopDeck_other s h
  · exact Traps.getDeck_setDeck_other s _ h.symm

theorem checkOne_halted (i : Nat) (s : State) (n m : Nat) (h : (s.getDeck m).halted = true) : ((checkOne i s n).getDeck m).halted = true := by
  by_cases hm : n = m
  · subst hm
    unfold checkOne
    rw [h, Bool.true_or, if_pos rfl]
    exact h
  · rw [checkOne_other i s hm]
    exact h

theorem checkOne_user (i : Nat) (s : State) (n : Nat) (hu : (s.getDeck n).sup = false) (hh : (s.getDeck n).halted = false) (hi : (s.getDeck n).inst = some i) :
    (checkOne i s n).getDeck n = { s.getDeck n with pend23 := true } := by
  unfold checkOne
  rw [hu, hh, hi, if_neg (by simp), if_neg (by simp)]
  exact State.getDeck_modDeck ..

theorem checkOne_supervisor (i : Nat) (s : State) (n : Nat) (hs : (s.getDeck n).sup = true) (hh : (s.getDeck n).halted = false) (hi : (s.getDeck n).inst = some i) :
    ((checkOne i s n).getDeck n).halted = true := by
  unfold checkOne
  rw [hs, hh, hi, if_neg (by simp), Bool.true_or, if_pos rfl]
  exact stopDeck_halted s n

/-- A deck in supervisor mode that runs the `Inst` stops. -/
theorem checks_supervisor (i : Nat) (ds : List Nat) (s : State) (n : Nat)
    (h : (s.getDeck n).halted = true ∨ n ∈ ds ∧ (s.getDeck n).sup = true ∧ (s.getDeck n).halted = false ∧ (s.getDeck n).inst = some i) :
    ((ds.foldl (checkOne i) s).getDeck n).halted = true := by
  induction ds generalizing s with
  | nil => exact h.resolve_right fun c => List.not_mem_nil c.1
  | cons m ds ih =>
    rw [List.foldl_cons]
    apply ih
    rcases h with h | ⟨hn, hs, hh, hi⟩
    · exact .inl (checkOne_halted i s m n h)
    · by_cases hm : m = n
      · subst hm
        exact .inl (checkOne_supervisor i s m hs hh hi)
      · rw [checkOne_other i s hm]
        exact .inr ⟨(List.mem_cons.mp hn).resolve_left (Ne.symm hm), hs, hh, hi⟩

/-- A deck in user mode that runs the `Inst` has cause 23 pending. -/
theorem checks_user (i : Nat) (ds : List Nat) (s : State) (n : Nat) (hu : (s.getDeck n).sup = false) (hh : (s.getDeck n).halted = false) (hi : (s.getDeck n).inst = some i)
    (h : n ∈ ds ∨ (s.getDeck n).pend23 = true) : ((ds.foldl (checkOne i) s).getDeck n).pend23 = true := by
  induction ds generalizing s with
  | nil => exact h.resolve_left List.not_mem_nil
  | cons m ds ih =>
    rw [List.foldl_cons]
    by_cases hm : m = n
    · subst hm
      have hd := checkOne_user i s m hu hh hi
      exact ih _ (by rw [hd]; exact hu) (by rw [hd]; exact hh) (by rw [hd]; exact hi) (.inr (by rw [hd]))
    · have hd := checkOne_other i s hm
      exact ih _ (by rw [hd]; exact hu) (by rw [hd]; exact hh) (by rw [hd]; exact hi)
        (h.imp (fun c => (List.mem_cons.mp c).resolve_left (Ne.symm hm)) fun c => by rw [hd]; exact c)

/-- What the decks that run an `Inst` take from a check does not touch logs or instances. -/
theorem checkOnes_frame (i : Nat) (ds : List Nat) (s : State) :
    (ds.foldl (checkOne i) s).log = s.log ∧ (ds.foldl (checkOne i) s).logCount = s.logCount ∧ (ds.foldl (checkOne i) s).insts = s.insts :=
  List.foldlRecOn (motive := fun t : State => t.log = s.log ∧ t.logCount = s.logCount ∧ t.insts = s.insts) _ _ ⟨rfl, rfl, rfl⟩ fun t h n _ => by
    unfold checkOne
    (repeat' split) <;> exact h

/-- A check of a running `Inst` dooms it and reaches its decks. -/
theorem checkInst_checks (s : State) (i : Nat) (h : (s.getInst i).st = .running) : s.Checks (s.checkInst i) i ∧ (s.checkInst i).log = s.log := by
  rw [checkInst_live s i h]
  obtain ⟨hlog, -, hinsts⟩ := checkOnes_frame i (s.getInst i).decks (s.modInst i fun x => { x with doomed := true })
  refine ⟨⟨?_, fun n hn hi hh => ⟨fun hu => ?_, fun hs => ?_⟩⟩, hlog⟩
  · unfold State.getInst at *
    rw [hinsts]
    exact congrArg Inst.doomed (mget_mput_same ..)
  · exact checks_user i _ (s.modInst i fun x => { x with doomed := true }) n hu hh hi (.inl hn)
  · exact checks_supervisor i _ (s.modInst i fun x => { x with doomed := true }) n (.inr ⟨hn, hs, hh, hi⟩)

/-! ### What a check of a deck logs -/

/-- A deck without an `Inst`: its check is logged only. -/
theorem checkDeck_idle (s : State) (kind n : Nat) (v : Word) (h : (s.getDeck n).inst = none) : s.checkDeck kind n v = s.logError kind (n / 4) n 0 v := by
  unfold State.checkDeck
  dsimp only
  rw [h]

theorem checkDeck_runs (s : State) (kind n i : Nat) (v : Word) (h : (s.getDeck n).inst = some i) :
    s.checkDeck kind n v = (s.logError kind (n / 4) n (s.getInst i).node v).checkInst i := by
  unfold State.checkDeck
  dsimp only
  rw [h]

/-- Faulty lanes change the data in flight of their deck alone. -/
theorem faultyLanes_facts (s : State) (n : Nat) (v : Word) : (s.faultyLanes n v).log = s.log ∧ (s.faultyLanes n v).logCount = s.logCount ∧ (s.faultyLanes n v).insts = s.insts ∧
    (s.faultyLanes n v).mem = s.mem ∧ ∀ m, ((s.faultyLanes n v).getDeck m).inst = (s.getDeck m).inst ∧ ((s.faultyLanes n v).getDeck m).halted = (s.getDeck m).halted ∧
      ((s.faultyLanes n v).getDeck m).sup = (s.getDeck m).sup := by
  unfold State.faultyLanes
  split
  · exact ⟨rfl, rfl, rfl, rfl, fun _ => ⟨rfl, rfl, rfl⟩⟩
  · refine ⟨rfl, rfl, rfl, rfl, fun m => ?_⟩
    by_cases hm : n = m
    · subst hm
      rw [State.getDeck_modDeck]
      exact ⟨rfl, rfl, rfl⟩
    · unfold State.modDeck
      rw [Traps.getDeck_setDeck_other _ _ (Ne.symm hm)]
      exact ⟨rfl, rfl, rfl⟩

end Sys2Proof.Laws.MachineChecks


/-! # Errors, memory stacks, links, acknowledgements and trips (spec 14, spec 23): O60 -/

namespace Sys2Proof.Laws.Errors
open Sys2Proof Sys2Proof.Machine Sys2Proof.Laws Sys2Proof.Laws.MachineChecks

/-! ### Machine checks (R432-R442) -/

/-- The three kinds that reach the deck they name. -/
def OfDeck (kind : Nat) (v : Word) : Prop := kind = 0x02 ∧ v.getLsbD 63 = false ∨ kind = 0x03 ∨ kind = 0x05

/-- A check of a deck, after a residue mismatch has spoilt its lanes. -/
def faulty (kind : Nat) (s : State) (n : Nat) (v : Word) : State := if kind = 0x03 then s.faultyLanes n v else s

theorem machineCheck_ofDeck (s : State) (kind core deck : Nat) (v : Word) (hd : deck < 4) (hk : OfDeck kind v) :
    exec (.machineCheck kind core deck v) s = .next ((faulty kind s (4 * core + deck) v).checkDeck kind (4 * core + deck) v) := by
  have hn : deck % 4 = deck := Nat.mod_eq_of_lt hd
  change execMachineCheck kind core deck v s = _
  unfold execMachineCheck
  dsimp only
  rw [hn]
  rcases hk with ⟨rfl, h63⟩ | rfl | rfl
  · rw [h63, Bool.false_and, if_neg Bool.false_ne_true]
    rfl
  · rw [if_neg (by simp)]
    change Host.Outcome.next (s.checkResidue core deck v) = _
    unfold State.checkResidue
    rw [if_pos hd]
    rfl
  · rw [if_neg (by simp)]
    rfl

theorem faulty_facts (kind : Nat) (s : State) (n : Nat) (v : Word) : (faulty kind s n v).log = s.log ∧ (faulty kind s n v).logCount = s.logCount ∧ (faulty kind s n v).insts = s.insts ∧
    (faulty kind s n v).mem = s.mem ∧ ∀ m, ((faulty kind s n v).getDeck m).inst = (s.getDeck m).inst ∧ ((faulty kind s n v).getDeck m).halted = (s.getDeck m).halted ∧
      ((faulty kind s n v).getDeck m).sup = (s.getDeck m).sup := by
  unfold faulty
  split
  · exact faultyLanes_facts s n v
  · exact ⟨rfl, rfl, rfl, rfl, fun _ => ⟨rfl, rfl, rfl⟩⟩

theorem machineCheck_idle (s : State) (kind core deck : Nat) (v : Word) (hd : deck < 4) (hk : OfDeck kind v) (hi : (s.getDeck (4 * core + deck)).inst = none) :
    ∃ t e, exec (.machineCheck kind core deck v) s = .next t ∧ t.log = s.log ++ [e] ∧ e.kind = kind ∧ e.core = core ∧ e.deck = deck ∧ e.detail = v ∧
      t.logCount = s.logCount + 1 ∧ t.insts = s.insts ∧ t.mem = s.mem := by
  have hexec := machineCheck_ofDeck s kind core deck v hd hk
  obtain ⟨hlog, hcount, hinsts, hmem, hdeck⟩ := faulty_facts kind s (4 * core + deck) v
  generalize faulty kind s (4 * core + deck) v = u at *
  rw [checkDeck_idle u kind _ v ((hdeck _).1.trans hi)] at hexec
  exact ⟨_, _, hexec, congrArg (· ++ _) hlog, rfl, by dsimp only; omega, by dsimp only; omega, rfl, congrArg (· + 1) hcount, hinsts, hmem⟩

theorem machineCheck_runs (s : State) (kind core deck : Nat) (v : Word) (hd : deck < 4) (hk : OfDeck kind v) (i : Nat) (hi : (s.getDeck (4 * core + deck)).inst = some i)
    (hst : (s.getInst i).st = .running) :
    ∃ t e, exec (.machineCheck kind core deck v) s = .next t ∧ t.log = s.log ++ [e] ∧ e.kind = kind ∧ e.core = core ∧ e.deck = deck ∧ e.detail = v ∧
      t.mem = s.mem ∧ s.Checks t i := by
  have hexec := machineCheck_ofDeck s kind core deck v hd hk
  obtain ⟨hlog, -, hinsts, hmem, hdeck⟩ := faulty_facts kind s (4 * core + deck) v
  generalize faulty kind s (4 * core + deck) v = u at *
  have hget : u.getInst i = s.getInst i := by
    unfold State.getInst
    rw [hinsts]
  rw [checkDeck_runs u kind _ i v ((hdeck _).1.trans hi)] at hexec
  generalize hw : u.logError kind ((4 * core + deck) / 4) (4 * core + deck) (u.getInst i).node v = w at hexec
  have hwi : w.getInst i = s.getInst i := by
    rw [← hget, ← hw]
    rfl
  have hwd : ∀ m, w.getDeck m = u.getDeck m := fun m => by
    rw [← hw]
    rfl
  obtain ⟨⟨hdoom, hreach⟩, hwlog⟩ := checkInst_checks w i (by rw [hwi]; exact hst)
  refine ⟨_, ⟨kind, (4 * core + deck) / 4 / 8, (4 * core + deck) / 4, (4 * core + deck) % 4, (u.getInst i).node, (u.clock - u.readyClock) / Config.tickClocks, v⟩, hexec, ?_, rfl,
    by dsimp only; omega, by dsimp only; omega, rfl, ?_, hdoom, fun n hn hni hnh => ?_⟩
  · rw [hwlog, ← hw, ← hlog]
    rfl
  · rw [State.mem_checkInst, ← hw]
    exact hmem
  · obtain ⟨hinst, hhalt, hsup⟩ := hdeck n
    have h := hreach n (by rw [hwi]; exact hn) (by rw [hwd, hinst]; exact hni) (by rw [hwd, hhalt]; exact hnh)
    rw [hwd, hsup] at h
    exact h

/-- A replay that has succeeded is logged only. -/
theorem machineCheck_replay (s : State) (core deck : Nat) (v : Word) :
    ∃ t e, exec (.machineCheck 0x04 core deck v) s = .next t ∧ t.log = s.log ++ [e] ∧ e.kind = 0x04 ∧ e.detail = v ∧ t.insts = s.insts ∧ t.decks = s.decks ∧ t.mem = s.mem := by
  change ∃ t e, execMachineCheck 0x04 core deck v s = .next t ∧ _
  unfold execMachineCheck
  dsimp only
  rw [if_neg (by simp)]
  exact ⟨_, _, rfl, rfl, rfl, rfl, rfl, rfl, rfl⟩

/-- A repair of a stack is logged only. -/
theorem machineCheck_repair (s : State) (core deck : Nat) (v : Word) (k : Nat) (hk : k = 0x0B ∨ k = 0x0C) :
    ∃ t e, exec (.machineCheck k core deck v) s = .next t ∧ t.log = s.log ++ [e] ∧ e.kind = k ∧ e.core = 0x7F ∧ e.detail = v ∧ t.insts = s.insts ∧ t.decks = s.decks ∧ t.mem = s.mem := by
  change ∃ t e, execMachineCheck k core deck v s = .next t ∧ _
  unfold execMachineCheck
  dsimp only
  rcases hk with rfl | rfl
  · rw [if_neg (by simp)]
    exact ⟨_, _, rfl, rfl, rfl, rfl, rfl, rfl, rfl, rfl⟩
  · rw [if_neg (by simp)]
    exact ⟨_, _, rfl, rfl, rfl, rfl, rfl, rfl, rfl, rfl⟩

/-- A deck whose handler has not ended 2,048 clocks after a check stops. -/
theorem handler_late (s : State) (n c : Nat) (hc : (s.getDeck n).checkedAt = some c) (hh : (s.getDeck n).halted = false) (ht : c + 2048 ≤ s.clock) :
    ∃ t, exec (.machineCheckHandlerTimeout n) s = .next t ∧ (t.getDeck n).halted = true ∧ t.mem = s.mem ∧ s.OtherDecks t n := by
  have hlate : s.handlerLate n = true := by
    unfold State.handlerLate
    dsimp only
    rw [hh, hc]
    simpa using ht
  have hexec : exec (.machineCheckHandlerTimeout n) s = .next (s.stopDeck n) := by
    change execMachineCheckHandlerTimeout n s = _
    unfold execMachineCheckHandlerTimeout
    rw [if_pos hlate]
  exact ⟨_, hexec, stopDeck_halted s n, rfl, fun m hm => stopDeck_other s hm.symm⟩

/-! ### Refresh, scrub and repair of the stacks (R333, R443-R447) -/

theorem nextClass_cases (old deg : Nat) : (95 < deg → nextClass old deg = 2) ∧ (deg ≤ 83 → nextClass old deg = 0) ∧ (85 < deg → deg ≤ 93 → nextClass old deg = 1) ∧
    (83 < deg → deg ≤ 85 → nextClass old deg = if 1 ≤ old then 1 else 0) ∧ (93 < deg → deg ≤ 95 → nextClass old deg = if old = 2 then 2 else 1) := by
  unfold nextClass
  refine ⟨fun h => ?_, fun h => ?_, fun h h' => ?_, fun h h' => ?_, fun h h' => ?_⟩
  · rw [if_pos (.inl h)]
  · rw [if_neg (by omega), if_neg (by omega)]
  · rw [if_neg (by omega), if_pos (.inl h)]
  · rw [if_neg (by omega)]
    exact MemoryReads.if_iff ⟨fun c => by omega, fun c => .inr ⟨c, h⟩⟩ _ _
  · rw [if_pos (c := deg > 85 ∨ _) (.inl (by omega))]
    exact MemoryReads.if_iff ⟨fun c => by omega, fun c => .inr ⟨c, h⟩⟩ _ _

theorem refresh_holds (s : State) (st ch pc bank : Nat) (h : (s.getDie (st / 2)).power.cur = 0) : ∃ t, exec (.hbmRefresh st ch pc bank) s = .next t ∧
    mget 0 t.hbm.hold ((st * 32 + ch) * 32 + pc * 16 + bank) = s.clock + 700 ∧ t.mem = s.mem ∧ t.decks = s.decks := by
  change ∃ t, execHbmRefresh st ch pc bank s = .next t ∧ _
  unfold execHbmRefresh
  rw [if_neg (not_not_intro h)]
  exact ⟨_, rfl, mget_mput_same .., rfl, rfl⟩

theorem interval_changes (s : State) (st layer deg : Nat) :
    let old := mget 0 s.hbm.interval (16 * st + layer)
    ∃ t, exec (.hbmRefreshIntervalChange st layer deg) s = .next t ∧ t.mem = s.mem ∧
      (95 < deg → mget 0 t.hbm.interval (16 * st + layer) = 2) ∧ (deg ≤ 83 → mget 0 t.hbm.interval (16 * st + layer) = 0) ∧
      (85 < deg → deg ≤ 93 → mget 0 t.hbm.interval (16 * st + layer) = 1) ∧
      (83 < deg → deg ≤ 85 → mget 0 t.hbm.interval (16 * st + layer) = if 1 ≤ old then 1 else 0) ∧
      (93 < deg → deg ≤ 95 → mget 0 t.hbm.interval (16 * st + layer) = if old = 2 then 2 else 1) := by
  dsimp only
  refine ⟨_, rfl, rfl, ?_⟩
  dsimp only
  rw [mget_mset_same]
  exact nextClass_cases _ deg

theorem spoilHbm_nil (s : State) : s.spoilHbm [] = s := by
  unfold State.spoilHbm State.spoilBytes
  dsimp only
  rw [List.filter_nil, List.foldl_nil, List.append_nil]

/-- A granule that a read of a block takes lies in the block. -/
theorem reads_block (h : Hbm) (block g : Nat) (hr : h.reads (512 * block) 512 g = true) : g / 8 = block := by
  unfold Hbm.reads at hr
  split at hr
  · have := of_decide_eq_true hr
    omega
  · have := of_decide_eq_true hr
    omega

theorem reads_first (h : Hbm) (block : Nat) : h.reads (512 * block) 512 (8 * block) = true := by
  unfold Hbm.reads
  split
  · exact decide_eq_true (by omega)
  · exact decide_eq_true (by omega)

section
variable (s : State) (block : Nat)

/-- Nothing of the block is past correction. -/
def Correctable : Prop := (∀ g ∈ s.hbm.badGran, g / 8 ≠ block) ∧ s.hbm.lostBlock block = false

/-- A scrub's read of a block that is not past correction. -/
theorem scrub_reads (c : Bool) (h : Correctable s block) : exec (.hbmScrubRead block c []) s = .next (
    let ws := s.hbm.weak.filter (s.hbm.reads (512 * block) 512)
    if c || !ws.isEmpty then
      let h := s.hbmPlace (512 * block - 2 ^ 41)
      let t := ws.foldl (fun s _ => s.countSymbol h) (if c then s.countSymbol h else s)
      (({ t.delay.2 with hbm := { t.hbm with scrubs := t.hbm.scrubs.filter (· != block) ++ [block] } } : State).post (t.clock + 1 + t.delay.1) (.hbmScrubWriteback block))
    else s) := by
  have hgood : (s.hbm.badGran.any (s.hbm.reads (512 * block) 512) || s.hbm.lostBlock block) = false := by
    rw [h.2, Bool.or_false, List.any_eq_false]
    exact fun g hg hr => h.1 g hg (reads_block s.hbm block g hr)
  change execHbmScrubRead block c [] s = _
  unfold execHbmScrubRead
  dsimp only
  rw [List.filter_nil, List.map_nil, spoilHbm_nil, hgood, if_neg Bool.false_ne_true]
  split <;> rfl

theorem scrub_clean (h : Correctable s block) (hw : ∀ g ∈ s.hbm.weak, s.hbm.reads (512 * block) 512 g = false) : exec (.hbmScrubRead block false []) s = .next s := by
  have hnone : s.hbm.weak.filter (s.hbm.reads (512 * block) 512) = [] := by
    rw [List.filter_eq_nil_iff]
    exact fun g hg => by simp [hw g hg]
  rw [scrub_reads s block false h]
  dsimp only
  rw [hnone, if_neg (by decide)]

theorem countSymbol_facts (s : State) (h : HbmPlace) : (s.countSymbol h).mem = s.mem ∧ (s.countSymbol h).clock = s.clock :=
  ⟨State.mem_countSymbol s h, (congrArg State.clock (NodeFrames.storeFrame_countSymbol s h) :)⟩

theorem countSymbols_facts (h : HbmPlace) (ws : List Nat) (s : State) : (ws.foldl (fun s _ => s.countSymbol h) s).mem = s.mem ∧ (ws.foldl (fun s _ => s.countSymbol h) s).clock = s.clock :=
  List.foldlRecOn (motive := fun u : State => u.mem = s.mem ∧ u.clock = s.clock) _ _ ⟨rfl, rfl⟩ fun u hu _ _ =>
    ⟨(countSymbol_facts u h).1.trans hu.1, (countSymbol_facts u h).2.trans hu.2⟩

theorem scrub_corrects (h : Correctable s block) (c : Bool) (hc : c = true ∨ ∃ g ∈ s.hbm.weak, s.hbm.reads (512 * block) 512 g = true) :
    ∃ t, exec (.hbmScrubRead block c []) s = .next t ∧ block ∈ t.hbm.scrubs ∧ t.mem = s.mem ∧ ∃ c, s.clock < c ∧ (c, Instr.hbmScrubWriteback block) ∈ t.agenda := by
  have hsome : (c || !(s.hbm.weak.filter (s.hbm.reads (512 * block) 512)).isEmpty) = true := by
    rcases hc with rfl | ⟨g, hg, hr⟩
    · rfl
    · have hm : g ∈ s.hbm.weak.filter (s.hbm.reads (512 * block) 512) := List.mem_filter.mpr ⟨hg, hr⟩
      rw [Bool.or_eq_true, Bool.not_eq_true', List.isEmpty_eq_false_iff]
      exact .inr (List.ne_nil_of_mem hm)
  rw [scrub_reads s block c h]
  dsimp only
  rw [if_pos hsome]
  have hbase : (if c then s.countSymbol (s.hbmPlace (512 * block - 2 ^ 41)) else s).mem = s.mem ∧ (if c then s.countSymbol (s.hbmPlace (512 * block - 2 ^ 41)) else s).clock = s.clock := by
    split
    · exact countSymbol_facts s _
    · exact ⟨rfl, rfl⟩
  generalize (if c then s.countSymbol (s.hbmPlace (512 * block - 2 ^ 41)) else s) = u at hbase ⊢
  have hcounted := countSymbols_facts (s.hbmPlace (512 * block - 2 ^ 41)) (s.hbm.weak.filter (s.hbm.reads (512 * block) 512)) u
  generalize List.foldl _ u _ = v at hcounted ⊢
  refine ⟨_, rfl, List.mem_append_right _ (List.mem_singleton_self _), hcounted.1.trans hbase.1, v.clock + 1 + v.delay.1, ?_, Lifetimes.mem_insertEvent ..⟩
  have hclock : v.clock = s.clock := hcounted.2.trans hbase.2
  omega

/-- A scrub's read finds a granule past correction: it is logged. -/
theorem scrub_loses : ∃ t e, exec (.hbmScrubRead block true [0]) s = .next t ∧ t.log = s.log ++ [e] ∧ e.kind = 0x0A ∧ 8 * block ∈ t.hbm.badGran := by
  have hspoilt : 8 * block ∈ (s.spoilHbm [8 * block]).hbm.badGran ∧ (s.spoilHbm [8 * block]).log = s.log := by
    unfold State.spoilHbm State.spoilBytes
    by_cases hb : 8 * block ∈ s.hbm.badGran
    · rw [List.filter_cons_of_neg (by simpa using hb)]
      exact ⟨List.mem_append_left _ hb, rfl⟩
    · rw [List.filter_cons_of_pos (by simpa using hb)]
      exact ⟨List.mem_append_right _ List.mem_cons_self, rfl⟩
  change ∃ t e, execHbmScrubRead block true [0] s = .next t ∧ _
  unfold execHbmScrubRead
  dsimp only
  rw [List.filter_cons_of_pos (by decide), List.filter_nil, List.map_cons, List.map_nil, Nat.add_zero]
  generalize s.spoilHbm [8 * block] = u at hspoilt ⊢
  have hbad : (u.hbm.badGran.any (u.hbm.reads (512 * block) 512) || u.hbm.lostBlock block) = true := by
    rw [List.any_eq_true.mpr ⟨8 * block, hspoilt.1, reads_first u.hbm block⟩, Bool.true_or]
  rw [hbad, if_pos rfl]
  exact ⟨_, _, rfl, congrArg (· ++ _) hspoilt.2, rfl, hspoilt.1⟩

/-- What a scrub's write-back does, when the block was to be written, and when its stack does not take it yet. -/
theorem scrub_writes : (block ∉ s.hbm.scrubs → exec (.hbmScrubWriteback block) s = .next s) ∧
    (block ∈ s.hbm.scrubs → s.mustQueue [block - 2 ^ 32] = true → ∃ t, exec (.hbmScrubWriteback block) s = .next t ∧ t.mem = s.mem ∧ t.hbm.weak = s.hbm.weak ∧
      t.hbm.queue = s.hbm.queue ++ [([block - 2 ^ 32], .hbmScrubWriteback block)]) ∧
    (block ∈ s.hbm.scrubs → s.mustQueue [block - 2 ^ 32] = false → ∃ t, exec (.hbmScrubWriteback block) s = .next t ∧ block ∉ t.hbm.scrubs ∧ t.mem = s.mem ∧
      t.decks = s.decks ∧ ∀ g, g ∈ t.hbm.weak ↔ g ∈ s.hbm.weak ∧ s.hbm.reads (512 * block) 512 g = false) := by
  have hexec : exec (.hbmScrubWriteback block) s = execHbmScrubWriteback block s := rfl
  rw [hexec]
  unfold execHbmScrubWriteback
  refine ⟨fun h => ?_, fun h hq => ?_, fun h hq => ?_⟩
  · rw [if_pos (by simpa using h)]
  · rw [if_neg (by simpa using h), if_pos hq]
    exact ⟨_, rfl, rfl, rfl, rfl⟩
  · rw [if_neg (by simpa using h), hq, if_neg Bool.false_ne_true]
    refine ⟨_, rfl, ?_, rfl, rfl, fun g => ?_⟩
    · dsimp only
      simp
    · dsimp only
      rw [List.mem_filter, Bool.not_eq_true']

end

/-- A repair of a pin, and its end. -/
theorem pin_repairs (s : State) (st ch pin : Nat) :
    let key := 32 * st + ch
    (s.stackPaused st = false → mget 0 s.hbm.lanesUsed key < Config.redundantLanes →
      ∃ t e stop, exec (.pinRepair st ch pin) s = .next t ∧ t.log = s.log ++ [e] ∧ e.kind = 0x0B ∧ mget 0 t.hbm.lanesUsed key = mget 0 s.hbm.lanesUsed key + 1 ∧
        mget 0 t.hbm.pause key = stop ∧ s.clock < stop ∧ stop ≤ s.clock + 150000 ∧ (stop, Instr.pinRepairEnd st ch) ∈ t.agenda ∧ t.mem = s.mem) ∧
    (s.stackPaused st = false → Config.redundantLanes ≤ mget 0 s.hbm.lanesUsed key → ∃ t e, exec (.pinRepair st ch pin) s = .next t ∧ t.log = s.log ++ [e] ∧
      e.kind = 0x0C ∧ t.hbm = s.hbm ∧ t.mem = s.mem) ∧
    (s.stackPaused st = true → exec (.pinRepair st ch pin) s = .next (s.post (s.clock + 1) (.pinRepair st ch pin))) ∧
    (mget 0 s.hbm.pause key ≤ s.clock → ∃ t, exec (.pinRepairEnd st ch) s = .next t ∧ (∀ c ∈ t.hbm.pause, c.1 ≠ key) ∧ t.mem = s.mem) := by
  have hexec : exec (.pinRepair st ch pin) s = execPinRepair st ch pin s := rfl
  have hend : exec (.pinRepairEnd st ch) s = execPinRepairEnd st ch s := rfl
  dsimp only
  rw [hexec, hend]
  unfold execPinRepair execPinRepairEnd
  dsimp only
  refine ⟨fun hp hl => ?_, fun hp hl => ?_, fun hp => by rw [if_pos hp], fun ht => ?_⟩
  · rw [hp, if_neg Bool.false_ne_true, if_neg (Nat.not_le.mpr hl)]
    have hstop : min (s.delay.1 + 1) (60 * Config.clocksPerUs) = min (s.delay.1 + 1) 150000 := rfl
    refine ⟨_, _, _, rfl, rfl, rfl, mget_mput_same .., mget_mput_same .., ?_, ?_, Lifetimes.mem_insertEvent .., rfl⟩
    · rw [hstop]
      change s.clock < s.clock + _
      omega
    · rw [hstop]
      change s.clock + _ ≤ _
      omega
  · rw [hp, if_neg Bool.false_ne_true, if_pos hl]
    exact ⟨_, _, rfl, rfl, rfl, rfl, rfl⟩
  · rw [if_neg (Nat.not_lt.mpr ht)]
    refine ⟨_, rfl, fun c hc => ?_, rfl⟩
    have hkeep := (List.mem_filter.mp hc).2
    simpa using hkeep

/-! ### Links and acknowledgements (R448-R450) -/

theorem link_down (s : State) (link : Nat) (h : link ∉ s.linksDown) : ∃ t e, exec (.linkDown link) s = .next t ∧ t.linksDown = s.linksDown ++ [link] ∧ t.log = s.log ++ [e] ∧
    e.kind = 0x0F ∧ e.detail = BitVec.ofNat 64 link ∧ t.mem = s.mem :=
  ⟨_, _, rfl, if_neg (by simpa using h), rfl, rfl, rfl, rfl⟩

section
variable (s : State) (i dest : Nat)

/-- An acknowledgement that is late is an error of its `Inst`. -/
theorem ack_late (h : dest ∈ s.lateAcks i) (hst : (s.getInst i).st = .running) : ∃ t e, exec (.e2eTimeout i dest) s = .next t ∧ t.log = s.log ++ [e] ∧ e.kind = 0x0E ∧
    e.detail = BitVec.ofNat 64 dest ∧ t.mem = s.mem ∧ s.Checks t i := by
  have hexec : exec (.e2eTimeout i dest) s = .next ((s.logError 0x0E ((s.getInst i).decks.headD 0 / 4) ((s.getInst i).decks.headD 0) (s.getInst i).node (BitVec.ofNat 64 dest)).checkInst i) := by
    change execE2eTimeout i dest s = _
    unfold execE2eTimeout
    dsimp only
    rw [if_pos (by simpa using h)]
  have hc := checkInst_checks (s.logError 0x0E ((s.getInst i).decks.headD 0 / 4) ((s.getInst i).decks.headD 0) (s.getInst i).node (BitVec.ofNat 64 dest)) i hst
  exact ⟨_, _, hexec, hc.2, rfl, rfl, State.mem_checkInst .., hc.1⟩

theorem ack_in_time (h : dest ∉ s.lateAcks i) : exec (.e2eTimeout i dest) s = .next s := by
  change execE2eTimeout i dest s = _
  unfold execE2eTimeout
  dsimp only
  rw [if_neg (by simpa using h)]

theorem remote_late (r : Remote) (hr : r ∈ s.remotes) (hi : (s.getDeck r.deck).inst = some i) (hd : r.core = dest) (ht : r.issued + 65536 ≤ s.clock) : dest ∈ s.lateAcks i := by
  unfold State.lateAcks
  dsimp only
  refine List.mem_append_left _ (List.mem_append_left _ (List.mem_map.mpr ⟨r, List.mem_filter.mpr ⟨hr, ?_⟩, hd⟩))
  rw [hi, decide_eq_true ht]
  simp

theorem signal_late (g : Signal) (hg : g ∈ s.signals) (hi : g.inst = i) (hd : g.core = dest) (hin : dest < 96) (ht : g.sentAt + 65536 ≤ s.clock) : dest ∈ s.lateAcks i := by
  unfold State.lateAcks
  dsimp only
  refine List.mem_append_left _ (List.mem_append_right _ (List.mem_map.mpr ⟨g, List.mem_filter.mpr ⟨hg, ?_⟩, ?_⟩))
  · rw [hi, decide_eq_true ht]
    simp
  · rw [hd]
    exact Nat.mod_eq_of_lt hin

end

/-! ### Messages sent again (R451) -/

theorem path_rest (s : State) (a b : Nat) : (s.path a b).2.packets = s.packets ∧ (s.path a b).2.unacked = s.unacked ∧ (s.path a b).2.clock = s.clock := by
  unfold State.path
  dsimp only
  split <;> exact ⟨rfl, rfl, rfl⟩

theorem carry_clock (s : State) (routes : List (List (Nat × Nat × Nat))) (floor stop : Nat) (ev : Instr) :
    (s.carry routes floor stop ev).unacked = s.unacked ∧ (s.carry routes floor stop ev).clock = s.clock := by
  unfold State.carry State.delay State.post
  dsimp only
  split <;> exact ⟨rfl, rfl⟩

/-- A message that goes out is a packet more. -/
theorem messageOut_facts (s : State) (a b stop : Nat) (ev : Instr) : ∃ p, (s.messageOut a b stop ev).packets = s.packets ++ [p] ∧ p.ev = ev ∧
    (s.messageOut a b stop ev).unacked = s.unacked ∧ (s.messageOut a b stop ev).clock = s.clock := by
  obtain ⟨hp, hu, hc⟩ := path_rest s (dieRouter a) (dieRouter b)
  unfold State.messageOut
  generalize s.path (dieRouter a) (dieRouter b) = q at *
  obtain ⟨r, t⟩ := q
  dsimp only at *
  obtain ⟨p, hpk, hev, -, -⟩ := QueueLoads.carry_packet t (route := r ++ [(dieRouter b, 16, 10), (dieRouter b, 16, 0)]) (by simp) t.clock stop ev
  obtain ⟨hcu, hcc⟩ := carry_clock t [r ++ [(dieRouter b, 16, 10), (dieRouter b, 16, 0)]] t.clock stop ev
  rw [hp] at hpk
  exact ⟨p, hpk, hev, hcu.trans hu, hcc.trans hc⟩

theorem message_again (s : State) (u : Unacked) (hu : s.unacked = [u]) :
    (s.awaits u.ev = true → ∃ t d, exec (.messageResend u.seq) s = .next t ∧ s.clock < d ∧ (d, Instr.messageResend u.seq) ∈ t.agenda ∧ t.packets = s.packets ∧
      t.unacked = s.unacked ∧ t.mem = s.mem) ∧
    (s.awaits u.ev = false → ∃ t p d, exec (.messageResend u.seq) s = .next t ∧ t.packets = s.packets ++ [p] ∧ p.ev = u.ev ∧ s.clock < d ∧
      (d, Instr.messageResend u.seq) ∈ t.agenda ∧ t.unacked = s.unacked ∧ t.mem = s.mem) := by
  have hexec : exec (.messageResend u.seq) s = .next (
      let t := if s.awaits u.ev then s else s.messageOut u.src u.dst farOff u.ev
      t.delay.2.post (t.clock + 1 + t.delay.1) (.messageResend u.seq)) := by
    change execMessageResend u.seq s = _
    unfold execMessageResend
    rw [hu, List.find?_cons_of_pos (by simp)]
    rfl
  rw [hexec]
  dsimp only
  refine ⟨fun h => ?_, fun h => ?_⟩
  · rw [if_pos h]
    exact ⟨_, s.clock + 1 + s.delay.1, rfl, by omega, Lifetimes.mem_insertEvent .., rfl, rfl, rfl⟩
  · rw [h, if_neg Bool.false_ne_true]
    obtain ⟨p, hp, hev, hun, hclock⟩ := messageOut_facts s u.src u.dst farOff u.ev
    have hmem := State.mem_messageOut s u.src u.dst farOff u.ev
    generalize s.messageOut u.src u.dst farOff u.ev = t at *
    exact ⟨_, p, t.clock + 1 + t.delay.1, rfl, hp, hev, by omega, Lifetimes.mem_insertEvent .., hun, hmem⟩

/-! ### Trips (R452) -/

theorem loseCore_rest (s : State) (c : Nat) : (s.loseCore c).log = s.log ∧ (∀ d, (s.loseCore c).getDie d = s.getDie d) ∧ ∀ d, d ≠ c → (s.loseCore c).getCore d = s.getCore d := by
  have hd := HostPower.frame_resetDecks (coreDecks c) (s.setCore c { Core.reset with power := (s.getCore c).power })
  unfold State.loseCore
  dsimp only
  generalize (coreDecks c).foldl (fun s n => s.setDeck n Deck.reset) (s.setCore c { Core.reset with power := (s.getCore c).power }) = u at hd ⊢
  refine ⟨(congrArg State.log hd :), fun d => (congrArg (State.getDie · d) hd :), fun d h => ?_⟩
  have hcore : u.getCore d = (s.setCore c { Core.reset with power := (s.getCore c).power }).getCore d := (congrArg (State.getCore · d) hd :)
  exact hcore.trans (mget_mput_other Core.reset s.cores _ h.symm)

theorem tripCore_facts (s : State) (c : Nat) : (s.tripCore c).log = s.log ∧ (∀ n, (s.tripCore c).getDie n = s.getDie n) ∧
    ∀ d, ((s.tripCore c).getCore d).power.cur = if c = d then 2 else (s.getCore d).power.cur := by
  have hpower := HostPower.power_setPower s c { (s.getCore c).power with cur := 2, req := 2 }
  have hother : ∀ d, d ≠ c → (s.setPower false c { (s.getCore c).power with cur := 2, req := 2 }).getCore d = s.getCore d :=
    fun d h => mget_mput_other Core.reset s.cores _ h.symm
  have hset : (s.setPower false c { (s.getCore c).power with cur := 2, req := 2 }).log = s.log ∧
      ∀ n, (s.setPower false c { (s.getCore c).power with cur := 2, req := 2 }).getDie n = s.getDie n := ⟨rfl, fun _ => rfl⟩
  unfold State.tripCore
  generalize s.setPower false c { (s.getCore c).power with cur := 2, req := 2 } = u at *
  obtain ⟨hlog, hdie, hcore⟩ := loseCore_rest u c
  refine ⟨hlog.trans hset.1, fun n => (hdie n).trans (hset.2 n), fun d => ?_⟩
  by_cases hd : c = d
  · subst hd
    rw [if_pos rfl, (HostPower.loseCore_facts u c).1]
    dsimp only
    rw [hpower]
  · rw [if_neg hd, hcore d (Ne.symm hd), hother d (Ne.symm hd)]

theorem tripCores_facts (cs : List Nat) (s : State) : (cs.foldl (fun s c => s.tripCore c) s).log = s.log ∧ (∀ n, (cs.foldl (fun s c => s.tripCore c) s).getDie n = s.getDie n) ∧
    ∀ d, d ∈ cs ∨ (s.getCore d).power.cur = 2 → ((cs.foldl (fun s c => s.tripCore c) s).getCore d).power.cur = 2 := by
  induction cs generalizing s with
  | nil => exact ⟨rfl, fun _ => rfl, fun d h => h.resolve_left List.not_mem_nil⟩
  | cons c cs ih =>
    rw [List.foldl_cons]
    obtain ⟨hlog, hdie, hcore⟩ := ih (s.tripCore c)
    obtain ⟨hlog', hdie', hcore'⟩ := tripCore_facts s c
    refine ⟨hlog.trans hlog', fun n => (hdie n).trans (hdie' n), fun d h => hcore d ?_⟩
    rw [hcore']
    by_cases hd : c = d
    · exact .inr (if_pos hd)
    · rw [if_neg hd]
      exact h.imp_left fun h => (List.mem_cons.mp h).resolve_left (Ne.symm hd)

/-- A die that trips, with no `Inst` on its cores. -/
theorem die_trips (s : State) (die deg : Nat) (hdeg : 125 ≤ deg) (hi : ∀ c, c < 8 → s.instsOn (8 * die + c) = []) :
    ∃ t e, exec (.thermalTrip die deg) s = .next t ∧ t.log = s.log ++ [e] ∧ e.kind = 0x12 ∧ (t.getDie die).tripped = true ∧
      (t.getDie die).power.cur = 1 ∧ ∀ c, c < 8 → (t.getCore (8 * die + c)).power.cur = 2 := by
  have hnone : ((dieCores die).flatMap s.instsOn).eraseDups = [] := by
    have hflat : (dieCores die).flatMap s.instsOn = [] := by
      rw [List.flatMap_eq_nil_iff]
      intro c hc
      obtain ⟨k, hk, rfl⟩ := List.mem_map.mp hc
      exact hi k (List.mem_range.mp hk)
    rw [hflat]
    rfl
  change ∃ t e, execThermalTrip die deg s = .next t ∧ _
  unfold execThermalTrip
  dsimp only
  rw [if_neg (by omega), hnone, List.foldl_nil]
  generalize hu : State.modDie _ die _ = u
  have hdie : u.getDie die = { s.getDie die with tripped := true, sensor := deg, power := { (s.getDie die).power with cur := 1, req := 1 } } := by
    rw [← hu]
    exact mget_mput_same ..
  have hlog : ∃ e : LogEntry, u.log = s.log ++ [e] ∧ e.kind = 0x12 := by
    rw [← hu]
    exact ⟨_, rfl, rfl⟩
  obtain ⟨e, he, hkind⟩ := hlog
  obtain ⟨htlog, htdie, htcore⟩ := tripCores_facts (dieCores die) u
  refine ⟨_, e, rfl, htlog.trans he, hkind, ?_, ?_, fun c hc => htcore _ (.inl (List.mem_map_of_mem (List.mem_range.mpr hc)))⟩
  · rw [htdie, hdie]
  · rw [htdie, hdie]

theorem trip_sensed (s : State) (die deg : Nat) : ∃ t, exec (.thermalTripClear die deg) s = .next t ∧
    t.getDie die = { s.getDie die with sensor := deg, tripped := (s.getDie die).tripped && decide (115 ≤ deg) } ∧ t.mem = s.mem :=
  ⟨_, rfl, mget_mput_same .., rfl⟩

/-- Settles O60: each clause by the lemma of its error, repair or trip. -/
theorem errorsAndTrips : Obligations.ErrorsAndTrips := by
  unfold Obligations.ErrorsAndTrips
  refine ⟨fun s kind core deck v hd => ⟨fun hk => ⟨machineCheck_idle s kind core deck v hd hk, machineCheck_runs s kind core deck v hd hk⟩, machineCheck_replay s core deck v,
      machineCheck_repair s core deck v⟩, handler_late, refresh_holds, interval_changes,
    fun s block hb hl => ⟨scrub_clean s block ⟨hb, hl⟩, scrub_corrects s block ⟨hb, hl⟩, scrub_loses s block⟩, scrub_writes, pin_repairs, link_down,
    fun s i dest => ⟨ack_late s i dest, ack_in_time s i dest, remote_late s i dest, signal_late s i dest⟩, message_again,
    fun s die deg _ hdeg hi => die_trips s die deg hdeg hi, fun s die deg h => ?_, fun s die deg h => ?_⟩
  · obtain ⟨t, ht, hdie, hmem⟩ := trip_sensed s die deg
    refine ⟨t, ht, ?_, by rw [hdie], hmem⟩
    rw [hdie]
    dsimp only
    rw [decide_eq_false (by omega), Bool.and_false]
  · obtain ⟨t, ht, hdie, -⟩ := trip_sensed s die deg
    refine ⟨t, ht, ?_⟩
    rw [hdie]
    dsimp only
    rw [decide_eq_true h, Bool.and_true]

end Sys2Proof.Laws.Errors
